-- ==== Sys2Proof/Word.lean ====
section
/-! DEFINITION. The word types of the model: four-state values (R11), the byte, and the one form in which sparse
tables and memories are held (a list of key and value pairs). Nothing here computes a rule of the spec. -/
namespace Sys2Proof

/-- A four-state design value (R11): 0, 1, Z, X. -/
inductive V4 where
  | zero | one | z | x
deriving DecidableEq, Repr, Inhabited

/-- One byte. -/
abbrev Byte := BitVec 8

/-- A sparse table: strictly rising keys, and no entry equal to what an unlisted key reads as. -/
abbrev SMap (α : Type) := List (Nat × α)

/-- A byte memory in the same canonical form (an unlisted byte reads 0). -/
abbrev Memory := List Host.Cell

/-- The 64-bit word of registers, counters and stamps. -/
abbrev Word := BitVec 64

end Sys2Proof
end

