-- ==== Sys2Proof/Syntax.lean ====
section
/-! DEFINITION. The commands the block takes: one constructor of `Instr` for each row of spec/opcode_table.json, and the
types of their operands. -/
namespace Sys2Proof

/-- A 64-byte command packet without its opcode, which is the row's (R378), and the part-wide number of the session
that submitted it (R368). `params` are bytes 20 to 63, byte 20 in the lowest eight bits. -/
structure Packet where
  session : Nat
  flow    : Nat
  flags   : BitVec 8
  tag     : BitVec 32
  buf     : BitVec 64
  len     : BitVec 32
  params  : BitVec 352
deriving DecidableEq, Repr, Inhabited

/-- Bank slot A or slot B of a port instruction (R75). -/
inductive Slot where
  | a | b
deriving DecidableEq, Repr, Inhabited

/-- A bank or HBM address operand of a port instruction: the address field and the index bit (R78). -/
structure PortAddr where
  addr : BitVec 16
  idx  : Bool
deriving DecidableEq, Repr, Inhabited

/-- The fields of a received Fjarlek codeword's header (R306), and its body (R307). `corr` is the number
of symbols the decoder corrected; `zero` is the header's zero field; `now` is the arrival time at the PMA. -/
structure Codeword where
  type    : Nat
  vc      : Nat
  hold    : Bool
  retx    : Bool
  stepTag : Nat
  cyc     : Nat
  pseq    : Nat
  ack     : Nat
  credit  : Nat
  zero    : Nat
  body    : BitVec 576
  corr    : Nat
  time    : BitVec 64
deriving DecidableEq, Repr, Inhabited

/-- A codeword received on a lane. -/
structure LaneRx where
  lane : Nat
  cw   : Codeword
deriving DecidableEq, Repr, Inhabited

/-- A test pattern checker's lane, with the symbols it has checked since it locked or last told, and those found in error (R322). -/
structure CheckerRx where
  lane : Nat
  syms : Nat
  errs : Nat
deriving DecidableEq, Repr, Inhabited

/-- What the host writes to BAR0, and the bytes of the access: 4 or 8. -/
structure BarValue where
  data : BitVec 64
  size : Nat := 8
deriving DecidableEq, Repr, Inhabited

/-- A stack that serves a request, with what the request's flits met on the way (R358): words and sidebands corrected, and whether its data
word came uncorrectable. -/
structure StackRequest where
  stack : Nat
  fixed : Nat := 0
  ue    : Bool := false
deriving DecidableEq, Repr, Inhabited

/-- A cluster whose stack returns data, whether the return is lost on the way to an uncorrectable sideband (R185, R358), and what its flits met
otherwise: words and sidebands corrected, and whether its data word came uncorrectable. -/
structure StackReturn where
  cl    : Nat
  lost  : Bool
  fixed : Nat := 0
  ue    : Bool := false
deriving DecidableEq, Repr, Inhabited

/-- A packet of the packet network: the head flit's sideband (R353) and its data bytes (at most 512). `ue`: bit `i` is set where data word
`i` came uncorrectable; `fixed`: words and sidebands corrected on the way; `badSide`: a sideband came uncorrectable (R358). -/
structure NetPacket where
  vc       : Nat
  prio     : Bool
  dst      : Nat
  src      : Nat
  type     : Nat
  tag      : Nat
  group    : Nat
  internal : Bool
  addr     : Nat
  data     : List Byte
  ue       : Nat
  fixed    : Nat
  badSide  : Bool
deriving DecidableEq, Repr, Inhabited

/-- An Ethernet frame of the real side without preamble, SFD and FCS (R333). -/
structure Frame where
  bytes : List Byte
  fcsOk : Bool
  stamp : BitVec 64
deriving DecidableEq, Repr, Inhabited

/-- A timed event that a datum time makes due (R281). -/
inductive TimedEvent where
  | runStart (g : Nat) | pauseBegin (g : Nat) | pauseEnd (g : Nat) | traceArm (g : Nat) | surveyAt (g : Nat)
deriving DecidableEq, Repr, Inhabited

/-- A power domain (R361). -/
inductive Domain where
  | parcel (i : Nat) | stack (i : Nat) | quad (i : Nat) | trace (i : Nat) | bridge (i : Nat)
deriving DecidableEq, Repr, Inhabited

/-- A bring-up stage that has a time bound (R441). -/
inductive StageName where
  | s1 | s2 | s3 | s4 | s5
deriving DecidableEq, Repr, Inhabited

/-- The commands of the block, in the order of spec/opcode_table.json. -/
inductive Instr where
  -- the schedule: steps, BP instructions, port operations
  | stepExecute (g : Nat)
  | nop (bp : Nat)
  | lut4x (bp : Nat) (tt : BitVec 16) (a b c d : BitVec 13)
  | lut4p (bp : Nat) (tt : BitVec 16) (a b c d : BitVec 13)
  | lut2s (bp : Nat) (tt : BitVec 16) (a b c d : BitVec 13)
  | resolve (bp : Nat) (tt : BitVec 16) (a b c d : BitVec 13)
  | caseq (bp : Nat) (tt : BitVec 16) (a b : BitVec 13)
  | mux2x (bp : Nat) (a b c : BitVec 13)
  | latch (bp : Nat) (tt : BitVec 16) (a b d : BitVec 13)
  | ffnext (bp : Nat) (tt : BitVec 16) (a b d : BitVec 13)
  | portrd (bp : Nat) (tt : BitVec 16)
  | portwr (bp : Nat) (tt : BitVec 16) (a : BitVec 13)
  | tap (bp : Nat) (tt : BitVec 16) (a : BitVec 13)
  | const (bp : Nat) (tt : BitVec 16)
  | assert (bp : Nat) (tt : BitVec 16) (a : BitVec 13)
  | stop (bp : Nat) (tt : BitVec 16) (a : BitVec 13)
  | reservedOpcode (bp : Nat) (w : BitVec 72)
  | bankRead (cl : Nat) (slot : Slot) (ad : PortAddr)
  | bankWrite (cl : Nat) (slot : Slot) (ad : PortAddr)
  | bankWriteIfEnable (cl : Nat) (slot : Slot) (ad : PortAddr)
  | hbmRead (cl : Nat) (ad : PortAddr)
  | hbmWrite (cl : Nat) (ad : PortAddr)
  | hbmWriteIfEnable (cl : Nat) (ad : PortAddr)
  | insetReceive (cl bridge : Nat)
  | insetSend (cl bridge : Nat)
  | insetStatus (cl bridge : Nat)
  | probeShip (cl : Nat)
  | portLoadLanding (cl : Nat)
  | receiveSlotArrival (cl slot : Nat)
  | cargoDelivery (quad slot : Nat)
  | stagingQueueDrain (cl : Nat)
  | hbmWriteAccept (cl : Nat)
  | hbmDataArrival (cl : Nat)
  | powerWindowEnd (parcel : Nat)
  | cycleBoundary (g : Nat)
  | autoTimeout (engine : Nat)
  | mirrorCompare (g : Nat)
  | surveyCapture (g : Nat)
  | tableCopyDone (g : Nat)
  | timedEventDue (e : TimedEvent)
  | traceSampleStore (engine : Nat)
  | assertionEventDrain (engine : Nat)
  | dynamicSlotGrant (cl : Nat) (slot : Slot)
  | eccWriteback (cl : Nat)
  | backdoorGrantTimeout (cl master : Nat)
  -- host commands
  | sessionNop (p : Packet)
  | cmdCancel (p : Packet)
  | sessionReset (p : Packet)
  | identRead (p : Packet)
  | identCert (p : Packet)
  | identAttest (p : Packet)
  | partNumberSet (p : Packet)
  | regRead (p : Packet)
  | datumNowRead
  | regWrite (p : Packet)
  | faultLatchedClear (lo hi : BitVec 64)
  | regCommit (p : Packet)
  | datumPairApply
  | imageLoad (p : Packet)
  | imageFrames (p : Packet)
  | imageStage (p : Packet)
  | imageUnstage (p : Packet)
  | imageUnload (p : Packet)
  | keyLoad (p : Packet)
  | keyClear (p : Packet)
  | kekAgree (p : Packet)
  | tableCommit (p : Packet)
  | tablePokeActive (p : Packet)
  | runAt (p : Packet)
  | runStop (p : Packet)
  | pauseAt (p : Packet)
  | resumeAt (p : Packet)
  | survey (p : Packet)
  | surveyRestore (p : Packet)
  | memRead (p : Packet)
  | memWrite (p : Packet)
  | memAtomic (p : Packet)
  | hbmPartition (p : Packet)
  | traceConfig (p : Packet)
  | traceArm (p : Packet)
  | traceForce (p : Packet)
  | traceRead (p : Packet)
  | traceRelease (p : Packet)
  | datumRole (p : Packet)
  | datumAdjust (p : Packet)
  | datumOrigin (p : Packet)
  | datumLinkCal (p : Packet)
  | trigBind (p : Packet)
  | trigPulse (p : Packet)
  | trigOutEdge (pin : Nat)
  | ppsOutEdge
  | trigInEdge (pin : Nat) (falling : Bool) (time : BitVec 64)
  | ppsInEdge (time : BitVec 64)
  | ppsTimeout
  | syncOriginate
  | sync (lane : Nat) (cw : Codeword)
  | syncTimeout
  | peerDelayExchange (quad : Nat)
  | pdelayReq (lane : Nat) (cw : Codeword)
  | pdelayResp (lane : Nat) (cw : Codeword)
  | laneConfig (p : Packet)
  | laneTrain (p : Packet)
  | laneIdle (p : Packet)
  | lanePattern (p : Packet)
  | laneInject (p : Packet)
  | fjJoin (p : Packet)
  | joinTimeout (g : Nat)
  | codewordTransmit (lane : Nat)
  | schedCodewordQueue (lane : Nat)
  | sched (lane : Nat) (cw : Codeword)
  | pkt (lane : Nat) (cw : Codeword)
  | idle (lane : Nat) (cw : Codeword)
  | train (lane : Nat) (cw : Codeword)
  | codewordUncorrectable (lane : Nat)
  | xoff (rx : LaneRx)
  | xon (rx : LaneRx)
  | resend (lane : Nat) (cw : Codeword) (word : Nat)
  | stopCodeword (lane : Nat) (cw : Codeword) (word : Nat)
  | nak (lane : Nat) (cw : Codeword)
  | join (lane : Nat) (cw : Codeword) (word : Nat)
  | sleep (rx : LaneRx)
  | resendRetry (lane : Nat)
  | replayTimeout (lane : Nat)
  | laneLockLoss (lane : Nat)
  | headerTimeout (lane : Nat)
  | laneRetry (lane : Nat)
  | laneTrainingDone (lane : Nat)
  | trainingTimeout (lane : Nat)
  | insetConfig (p : Packet)
  | insetFlush (p : Packet)
  | insetStamps (p : Packet)
  | insetFrameArrival (bridge length : Nat)
  | insetFrameReceived (bridge : Nat) (f : Frame)
  | pauseFrame (bridge : Nat) (pfc : Bool) (mask quanta : Nat)
  | pauseExpiry (bridge prio : Nat)
  | pauseRepeat (bridge : Nat)
  | insetFrameMove (bridge : Nat)
  | insetOutboundComplete (bridge : Nat)
  | insetFrameDepart (bridge : Nat)
  | insetLinkUp (bridge : Nat)
  | insetLinkDown (bridge : Nat)
  | insetTrainingRetry (bridge : Nat)
  | lockAcquire (p : Packet)
  | lockRelease (p : Packet)
  | lockQuery (p : Packet)
  | faultRead (p : Packet)
  | faultClear (p : Packet)
  | faultPinSet (p : Packet)
  | faultNPulseEnd
  | logRead (p : Packet)
  | logInfo (p : Packet)
  | logbookCommit
  | parcelAssign (p : Packet)
  | parcelRelease (p : Packet)
  | parcelCap (p : Packet)
  | parcelSleep (p : Packet)
  | parcelAutoSleep (parcel : Nat)
  | pairSet (p : Packet)
  | pairDivergeClear (p : Packet)
  | pairResponse (p : Packet)
  | powerSet (p : Packet)
  | domainPowerDown (d : Domain) (early : Bool)
  | powerDownRetry (d : Domain)
  | hbmSelfRefreshEntry (stack : Nat)
  | domainWakeDone (d : Domain)
  | parcelClearDone (parcel : Nat)
  | routerReconfiguration (router drain : Nat)
  | reconfigurationAbandon (router : Nat)
  | read (pk : NetPacket)
  | write (pk : NetPacket)
  | posted (pk : NetPacket)
  | atomic (pk : NetPacket)
  | message (pk : NetPacket)
  | hbmDesignRequest (req : StackRequest)
  | readResponse (pk : NetPacket)
  | ack (pk : NetPacket)
  | hbmDesignReturn (ret : StackReturn)
  | errorResponse (pk : NetPacket)
  | time (pk : NetPacket)
  | wake (pk : NetPacket)
  | tagTimeout (tag : Nat)
  | fwInfo (p : Packet)
  | fwWrite (p : Packet)
  | fwSwitch (p : Packet)
  | partReset (p : Packet)
  | partSensors (p : Packet)
  | hubReset (cause : Nat)
  | fwWatchdog (core : Nat)
  | sqTail (session : Nat) (value : BitVec 64)
  | cqHead (session : Nat) (value : BitVec 64)
  | sessCtlEnable (session : Nat) (value : BitVec 64)
  | sessCtlReset (session : Nat) (value : BitVec 64)
  | bar0RegisterWrite (function offset : Nat) (value : BarValue)
  | commandFetch
  | commandDispatch
  | coalescingTimer (session : Nat)
  | functionLevelReset (function : Nat)
  | vfEnableChange (enable : Bool) (numVfs : Nat)
  | resetN (level testMode : Bool)
  | perstN
  | vstbyApplied
  | mainRailsChange (rails : BitVec 8) (outOfOrder : Option Nat)
  | railExcursion (rail : Nat) (reading : BitVec 16)
  | referenceLoss
  | pllRelock
  | sensorSample (temps : List Int)
  | throttlePeriod (power : Nat)
  | s1Ready (ms : Nat)
  | bootFailure
  | s2Complete (good : BitVec 32) (ms : Nat)
  | s3Complete (trained : BitVec 4) (ms : Nat)
  | s4Complete (ms : Nat)
  | stageBoundExpiry (st : StageName)
  | mctpLogInfo
  | mctpLogRead (area : Nat) (first : Nat)
  | pldmFirmwareUpdate (image : List Byte)
  | pldmPlatformMonitoring
  | extest
  | idcode
  | samplePreload (values : List Bool)
  | clamp
  | highz
  | bypass (code : BitVec 8)
  | datumTick
  | perstNRelease
  | vstbyRemoved
  | hbmRefresh (stack : Nat)
  | checkerLock (rx : CheckerRx)
  | checkerLockLoss (rx : CheckerRx)
  | undefinedOpcode (opcode : BitVec 16) (p : Packet)
deriving DecidableEq, Repr

end Sys2Proof
end

