-- ==== Sys2Proof/Machine/Map.lean ====
section
/-! DEFINITION. Reading and writing sparse tables and byte memories. A table keeps strictly rising keys and lists
no entry equal to its default, so that equal tables are equal data. -/
namespace Sys2Proof.Machine

/-- The entry of key `k`, or the default. -/
def mget {α : Type} (d : α) (k : Nat) : SMap α → α
  | [] => d
  | (j, v) :: r => if j = k then v else if k < j then d else mget d k r

/-- The table with key `k` holding `v`; an entry equal to the default is removed. -/
def mset {α : Type} [DecidableEq α] (d : α) (k : Nat) (v : α) : SMap α → SMap α
  | [] => if v = d then [] else [(k, v)]
  | (j, w) :: r =>
    if j = k then (if v = d then r else (k, v) :: r)
    else if k < j then (if v = d then (j, w) :: r else (k, v) :: (j, w) :: r)
    else (j, w) :: mset d k v r

/-- The table with the entry of `k` replaced by its image under `f`. -/
def mupd {α : Type} [DecidableEq α] (d : α) (k : Nat) (f : α → α) (m : SMap α) : SMap α :=
  mset d k (f (mget d k m)) m

/-- The table without the entries whose keys satisfy `p`. -/
def mdrop {α : Type} (p : Nat → Bool) (m : SMap α) : SMap α := m.filter fun e => !p e.1

/-- Write the entries of a list in order. -/
def msetMany {α : Type} [DecidableEq α] (d : α) : List (Nat × α) → SMap α → SMap α
  | [], m => m
  | (k, v) :: r, m => msetMany d r (mset d k v m)

/-- The canonical form of a table with default `d`. -/
def mwf {α : Type} [DecidableEq α] (d : α) : SMap α → Bool
  | [] => true
  | [(_, v)] => decide (v ≠ d)
  | (j, v) :: (k, w) :: r => decide (v ≠ d) && decide (j < k) && mwf d ((k, w) :: r)

/-- What a byte that nothing has written reads as: 0 (R172 for banks; DESIGN CHOICE 2 for HBM and host memory). -/
def unlistedByte : Byte := 0

/-- Read one byte. -/
def memGet (a : Nat) (m : Memory) : Byte := mget unlistedByte a m

/-- Write one byte. -/
def memSet (a : Nat) (b : Byte) (m : Memory) : Memory := mset unlistedByte a b m

/-- The canonical form of a byte memory. -/
def memWf (m : Memory) : Bool := mwf unlistedByte m

/-- `n` bytes from address `a`, lowest address first. -/
def memBytes (m : Memory) (a : Nat) : Nat → List Byte
  | 0 => []
  | n + 1 => memGet a m :: memBytes m (a + 1) n

/-- Write a list of bytes from address `a` on. -/
def memSetBytes (a : Nat) : List Byte → Memory → Memory
  | [], m => m
  | b :: r, m => memSetBytes (a + 1) r (memSet a b m)

/-- The little-endian number of a list of bytes (R5). -/
def leNat : List Byte → Nat
  | [] => 0
  | b :: r => b.toNat + 256 * leNat r

/-- The `n` little-endian bytes of a number (R5). -/
def leBytes : Nat → Nat → List Byte
  | 0, _ => []
  | n + 1, v => BitVec.ofNat 8 v :: leBytes n (v / 256)

/-- The little-endian number in `n` bytes from address `a`. -/
def memNat (m : Memory) (a n : Nat) : Nat := leNat (memBytes m a n)

/-- The 64-bit word at byte address `a`. -/
def memWord (m : Memory) (a : Nat) : Word := BitVec.ofNat 64 (memNat m a 8)

/-- Write a 64-bit word at byte address `a`, little-endian. -/
def memSetWord (a : Nat) (w : Word) (m : Memory) : Memory := memSetBytes a (leBytes 8 w.toNat) m

/-- The listed cells of addresses `lo` to `lo + n - 1`, renumbered from 0: a sparse byte string. -/
def memSlice (m : Memory) (lo n : Nat) : Memory :=
  (m.filter fun c => decide (lo ≤ c.1) && decide (c.1 < lo + n)).map fun c => (c.1 - lo, c.2)

/-- Zero the bytes `lo` to `lo + n - 1`. -/
def memZero (lo n : Nat) (m : Memory) : Memory :=
  m.filter fun c => !(decide (lo ≤ c.1) && decide (c.1 < lo + n))

/-- Copy a sparse byte string of length `n` to `lo` on. -/
def memPaste (lo n : Nat) (b : Memory) (m : Memory) : Memory :=
  msetMany unlistedByte (b.map fun c => (lo + c.1, c.2)) (memZero lo n m)

/-- The code of a four-state value (R11). -/
def v4code : V4 → Nat
  | .zero => 0 | .one => 1 | .z => 2 | .x => 3

/-- The four-state value of a two-bit code (R11). -/
def v4of (n : Nat) : V4 :=
  match n % 4 with
  | 0 => .zero | 1 => .one | 2 => .z | _ => .x

/-- Bits `[lo + n - 1 : lo]` of a number. -/
def bitsOf (v lo n : Nat) : Nat := v / 2 ^ lo % 2 ^ n

/-- Bit `i` of a number. -/
def bitOf (v i : Nat) : Bool := v / 2 ^ i % 2 = 1

/-- A Bool as a bit. -/
def b2n (b : Bool) : Nat := if b then 1 else 0

/-- A counter that stops at `2 ^ w - 1` (every counter that the register tables call saturating). -/
def satAdd (w a n : Nat) : Nat := if a + n < 2 ^ w then a + n else 2 ^ w - 1

/-- The number of a list of bits, bit 0 first. -/
def bitsNat : List Bool → Nat
  | [] => 0
  | b :: r => b2n b + 2 * bitsNat r

/-- Insert the low `n` bits of `f` at bit `lo` of `v`. -/
def putBits (v lo n f : Nat) : Nat :=
  v - bitsOf v lo n * 2 ^ lo + f % 2 ^ n * 2 ^ lo

/-- A field of a register image: `f` at bit `lo`. -/
def fieldAt (lo f : Nat) : Nat := f * 2 ^ lo

/-- The signed reading of a 64-bit difference (R281). -/
def signed64 (a b : Word) : Int := (a - b).toInt

/-- `⌈a / b⌉`. -/
def ceilDiv (a b : Nat) : Nat := (a + b - 1) / b

/-- CRC step over one byte, reflected form: eight shifts by the polynomial. -/
def crcShift (poly : Nat) : Nat → Nat → Nat
  | 0, c => c
  | n + 1, c => crcShift poly n (if c % 2 = 1 then (c / 2) ^^^ poly else c / 2)

/-- CRC-32C over bytes from a running value (R194): polynomial 0x1EDC6F41 reflected is 0x82F63B78. -/
def crc32cRun : List Byte → Nat → Nat
  | [], c => c
  | b :: r, c => crc32cRun r (crcShift 0x82F63B78 8 (c ^^^ b.toNat))

/-- CRC-32C of a byte string (R194). -/
def crc32c (b : List Byte) : Nat := crc32cRun b 0xFFFFFFFF ^^^ 0xFFFFFFFF

/-- A linear map on 32 bits as the images of its 32 unit vectors, lowest first, applied to a value. -/
def gfApply : List Nat → Nat → Nat
  | [], _ => 0
  | m :: r, v => (if v % 2 = 1 then m else 0) ^^^ gfApply r (v / 2)

/-- The images of the unit vectors under one zero byte of the CRC. -/
def crcByteMap : List Nat := (List.range 32).map fun i => crcShift 0x82F63B78 8 (2 ^ i)

/-- The running CRC after `n` zero bytes, by repeated squaring of the map of one byte; `fuel` bounds the bits of `n`. -/
def crcZerosBy : Nat → Nat → List Nat → Nat → Nat
  | 0, _, _, c => c
  | fuel + 1, n, m, c =>
    if n = 0 then c
    else crcZerosBy fuel (n / 2) (m.map (gfApply m)) (if n % 2 = 1 then gfApply m c else c)

/-- The running CRC after `n` zero bytes one by one. -/
def crcZerosSlow : Nat → Nat → Nat
  | 0, c => c
  | n + 1, c => crcZerosSlow n (crcShift 0x82F63B78 8 c)

/-- The running CRC after `n` zero bytes. -/
def crcZeros (n c : Nat) : Nat := if n < 64 then crcZerosSlow n c else crcZerosBy 64 n crcByteMap c

/-- The running CRC over a sparse byte string of length `n`, from position `pos` on. -/
def crcCells : Memory → Nat → Nat → Nat → Nat
  | [], pos, n, c => crcZeros (n - pos) c
  | (a, b) :: r, pos, n, c => crcCells r (a + 1) n (crcShift 0x82F63B78 8 (crcZeros (a - pos) c ^^^ b.toNat))

/-- CRC-32C of a sparse byte string of length `n` (R194). -/
def crcSparse (m : Memory) (n : Nat) : Nat := crcCells m 0 n 0xFFFFFFFF ^^^ 0xFFFFFFFF

/-- The little-endian number of a sparse byte string. -/
def memToNat (m : Memory) : Nat := m.foldl (fun a c => a + c.2.toNat * 256 ^ c.1) 0

/-- The cells of a list of bytes placed at `base`; zero bytes are not listed. -/
def cellsAt (base : Nat) : List Byte → Memory
  | [] => []
  | b :: r => if b = 0 then cellsAt (base + 1) r else (base, b) :: cellsAt (base + 1) r

/-- CRC-8 of the Fjarlek header (R306): polynomial 0x07, not reflected, initial value 0. -/
def crc8Shift : Nat → Nat → Nat
  | 0, c => c
  | n + 1, c => crc8Shift n (if c / 128 % 2 = 1 then (c * 2 % 256) ^^^ 7 else c * 2 % 256)

def crc8Run : List Byte → Nat → Nat
  | [], c => c
  | b :: r, c => crc8Run r (crc8Shift 8 (c ^^^ b.toNat))

/-- CRC-8 of a byte string (R306). -/
def crc8 (b : List Byte) : Nat := crc8Run b 0

end Sys2Proof.Machine
end

