-- ==== Sys2Proof/Machine/Flags.lean ====
section
/-! DEFINITION. Four-state evaluation: every result table of the instruction set (R45, R46, R58 to R66). -/
namespace Sys2Proof.Machine

/-- Logic reading: Z counts as X (R12). -/
def lg : V4 → V4
  | .z => .x
  | v => v

/-- 0 or 1. -/
def known : V4 → Bool
  | .zero | .one => true
  | _ => false

/-- Two-state reading: Z and X read 0. -/
def two : V4 → Bool
  | .one => true
  | _ => false

/-- The value of "p or q", unknown which. -/
def merge (p q : V4) : V4 := if p = q then p else .x

/-- A Bool as a four-state value. -/
def v4b (b : Bool) : V4 := if b then .one else .zero

/-- The other known value; Z and X stay. -/
def v4not : V4 → V4
  | .zero => .one
  | .one => .zero
  | v => v

/-- Input `v` admits bit `b` in a completion (R46). -/
def fits (v : V4) (b : Bool) : Bool :=
  match v with
  | .zero => !b
  | .one => b
  | _ => true

/-- The table rows that complete the inputs (R46). -/
def completions (a b c d : V4) : List Nat :=
  (List.range 16).filter fun m => fits a (bitOf m 0) && fits b (bitOf m 1) && fits c (bitOf m 2) && fits d (bitOf m 3)

/-- LUT4X (R46). -/
def lut4x (tt : BitVec 16) (a b c d : V4) : V4 :=
  let rows := (completions a b c d).map tt.getLsbD
  if rows.any id then (if rows.all id then .one else .x) else .zero

/-- The table row of four bits, a in bit 0 (R54). -/
def ttIndex (a b c d : Bool) : Nat := b2n a + 2 * b2n b + 4 * b2n c + 8 * b2n d

/-- LUT4P (R58). -/
def lut4p (tt : BitVec 16) (a b c d : V4) : V4 :=
  if known a && known b && known c && known d then v4b (tt.getLsbD (ttIndex (two a) (two b) (two c) (two d))) else .x

/-- LUT2S (R58). -/
def lut2s (tt : BitVec 16) (a b c d : V4) : V4 := v4b (tt.getLsbD (ttIndex (two a) (two b) (two c) (two d)))

/-- MUX2X (R59). `exact` is false for a clash loser (R48). -/
def mux2x (exact : Bool) (a b c : V4) : V4 :=
  match c with
  | .one => lg b
  | .zero => lg a
  | _ => if exact then merge (lg a) (lg b) else .x

/-- CASEQ (R60). -/
def caseq (inv : Bool) (a b : V4) : V4 := v4b (decide (a = b) != inv)

/-- The fold of two drivers of kind wire (R62). -/
def wire2 : V4 → V4 → V4
  | .z, q => q
  | p, .z => p
  | .zero, .zero => .zero
  | .one, .one => .one
  | _, _ => .x

/-- Kind wand (R62). -/
def wand2 : V4 → V4 → V4
  | .z, q => q
  | p, .z => p
  | .zero, _ => .zero
  | _, .zero => .zero
  | .one, .one => .one
  | _, _ => .x

/-- Kind wor (R62). -/
def wor2 : V4 → V4 → V4
  | .z, q => q
  | p, .z => p
  | .zero, .zero => .zero
  | .one, _ => .one
  | _, .one => .one
  | _, _ => .x

/-- A driver formed from data and enable (R63). -/
def drv (data en : V4) : V4 :=
  match en with
  | .one => data
  | .zero => .z
  | _ => if data = .z then .z else .x

/-- The drivers that RESOLVE folds (R63). -/
def drivers (enMode : Bool) (a b c d : V4) : List V4 := if enMode then [drv a b, drv c d] else [a, b, c, d]

/-- RESOLVE (R64). Kinds 6 and 7 are reserved and do not reach here. -/
def resolve (kind : Nat) (enMode : Bool) (a b c d held : V4) : V4 :=
  let r := (drivers enMode a b c d).foldl (if kind = 1 then wand2 else if kind = 2 then wor2 else wire2) .z
  if r = .z then
    if kind = 3 then .zero else if kind = 4 then .one else if kind = 5 then lg held else r
  else r

/-- An enable after its polarity (R65, R66). -/
def enable (low : Bool) (b : V4) : V4 := if low then v4not (lg b) else lg b

/-- LATCH (R65): the value the current copy takes, or none where the latch does not update. -/
def latchNew (low : Bool) (a b cur : V4) : Option V4 :=
  match enable low b with
  | .one => some a
  | .x => if a = cur then none else some .x
  | _ => none

/-- FFNEXT (R66): the value staged, or none where nothing is staged. `base` is the value without this instruction. -/
def ffNew (useEn low : Bool) (a b base : V4) : Option V4 :=
  match (if useEn then enable low b else .one) with
  | .one => some a
  | .x => some (merge a base)
  | _ => none

end Sys2Proof.Machine
end

