-- ==== Sys2Proof/Config.lean ====
section
/-! DEFINITION. What an implementation fixes and the spec does not state: free values, which nothing in Lean can evaluate. A
claim about one of them holds whatever it is. -/
namespace Sys2Proof

/-- A fresh free value: applied to the counter `State.freeCtr`, which the step that uses it advances. -/
opaque Config.freeValue : Nat → (w : Nat) → BitVec w

/-- AES-256-GCM decryption (R194, R235): key, 12-byte nonce as a number, additional data and ciphertext with tag, each as a
number of little-endian bytes with its length. `none`: the tag does not verify. -/
opaque Config.gcmOpen : BitVec 256 → BitVec 96 → (aad aadLen text textLen : Nat) → Option Nat

/-- AES-256-GCM encryption (R235): the ciphertext followed by its 16-byte tag, as a number of little-endian bytes. -/
opaque Config.gcmSeal : BitVec 256 → BitVec 96 → (aad aadLen text textLen : Nat) → Nat

/-- The KEK that ECDH and HKDF give for a caller's public key (97 bytes) and the HKDF context (R196). `none`: the key is not a
point of the curve. -/
opaque Config.kekDerive : (publicKey context : Nat) → Option (BitVec 256)

/-- RFC 3394 key unwrap (R197): the KEK and the 40 wrapped bytes. `none`: the integrity check fails. -/
opaque Config.keyUnwrap : BitVec 256 → (wrapped : Nat) → Option (BitVec 256)

/-- SHA-384 of a byte string, given as a number of little-endian bytes and its length (R413). -/
opaque Config.sha384 : (text textLen : Nat) → BitVec 384

/-- Whether ECDSA P-384 with SHA-384 verifies under the Verarus signing key `keyId` (R412, R413); false where the identifier
names no key. -/
opaque Config.ecdsaVerify : (keyId text textLen r s : Nat) → Bool

/-- An ECDSA P-384 signature, r then s, 96 bytes, under the device key (R405). -/
opaque Config.deviceSign : (text textLen : Nat) → BitVec 768

/-- SSPRQ as IEEE 802.3 defines it (R322): the pair of bits of its symbol at a position below 65,535, the first one lowest. -/
opaque Config.ssprq : Nat → BitVec 2

/-- The Verarus vendor identifier of MCTP vendor-defined messages (R438). -/
opaque Config.mctpVendor : BitVec 32

/-- The unique identifier of the hub die (R404). -/
opaque Config.uid : Word

/-- The device's uncompressed P-384 public key (R196, R404). -/
opaque Config.devicePublic : BitVec 776

/-- The device certificate's length less one, which is below 1,920 (R404). -/
opaque Config.certLenPred : Fin 1920

/-- The device certificate in DER, as little-endian bytes (R404). -/
opaque Config.cert : Nat

end Sys2Proof
end

