-- ==== Sys2Proof/Machine/State.lean ====
section
/-! DEFINITION. The state of the block: every register, store, queue, counter, mode and pin that the spec gives the
part, as plain data, and the queue of waiting commands. Tables with many like entries are sparse (`SMap`): an unlisted
entry has the default of its type (`Parcel.init` and so on), which is its value after a hub reset. -/
namespace Sys2Proof.Machine

/-- What stops the block. -/
inductive Fault where
  /-- Raised by a command that names a unit the part does not have (a cluster above 511, a BP above 32,767, a lane above
  143, a run group above 31): the spec gives the part no such unit (R13, R18, R116). SAFE: the machine stops where the
  hardware has nothing that could act. -/
  | noSuchUnit
deriving DecidableEq, Repr

/-- Why a command is refused. -/
inductive Refusal where
  /-- Raised only by a dispatch arm whose command has no meaning yet. SAFE: nothing is claimed of it. -/
  | notModelled (mnemonic : String)
deriving DecidableEq, Repr

/-- Load states of a parcel (R199). -/
inductive LoadState where
  | unowned | blank | checking | loading | loaded | unloading
deriving DecidableEq, Repr, Inhabited

/-- run_state of a run group (R136). -/
inductive RunState where
  | idle | loaded | armed | running | stopped | faultHalted
deriving DecidableEq, Repr, Inhabited

/-- sv_state (R240). -/
inductive SurveyState where
  | idle | pending | capturing | restoring
deriving DecidableEq, Repr, Inhabited

/-- State of the port data latch (R68). -/
inductive LatchState where
  | unloaded | known | unknown
deriving DecidableEq, Repr, Inhabited

/-- The write side, latch and probe register of a cluster port (R68 to R71, R80). -/
structure Port where
  latch    : BitVec 72
  lstate   : LatchState
  staging  : BitVec 72
  x        : BitVec 16
  y        : BitVec 16
  xu       : BitVec 16
  yu       : BitVec 16
  bankWen  : V4
  hbmWen   : V4
  probe    : SMap V4
deriving DecidableEq, Repr

/-- The port as every cycle boundary leaves it (R80). -/
def Port.init : Port :=
  { latch := 0, lstate := .unloaded, staging := 0, x := 0, y := 0, xu := 0, yu := 0,
    bankWen := .zero, hbmWen := .zero, probe := [] }

/-- A load on its way to the port data latch (R79). `ready` is false while HBM data is missing (R185). -/
structure Landing where
  step  : Nat
  hbm   : Bool
  data  : BitVec 72
  known : Bool
  ready : Bool
deriving DecidableEq, Repr

/-- An entry of the port staging queue (R83): an HBM write (its request is matched by stamp) or an inset word. -/
inductive Staged where
  | hbm (cycle : Word) (step : Nat)
  | inset (bridge : Nat) (word : BitVec 72) (cycle : Word) (step : Nat)
deriving DecidableEq, Repr

/-- A request of a cluster in its share of the HBM request queue (R154, R184). `word` is none for an unknown address;
`wdata` is what a write stores, none for a read or a write that writes nothing. `sent`: handed to the network (a read is at
once); `applied`: the controller has applied it. -/
structure HbmReq where
  cycle   : Word
  step    : Nat
  isWrite : Bool
  stack   : Nat
  word    : Option Nat
  wdata   : Option Word
  sent    : Bool
  applied : Bool
  rdata   : Option Word     -- what a read returned; none for an unknown or uncorrectable one
  back    : Bool            -- the data has reached the cluster (R351)
deriving DecidableEq, Repr

/-- An assertion event (R72, R266). -/
structure AssertEvent where
  cycle : Word
  step  : Nat
  id    : Nat
  isX   : Bool
  bp    : Nat
deriving DecidableEq, Repr

/-- A pending access of a dynamic master to a bank word (R173). `id` ties it to the command that waits for it. -/
inductive BankAccess where
  | rd (word id : Nat) | wr (word : Nat) (data : Word) (id : Nat) | add (word : Nat) (v : Word) (id : Nat)
  | swap (word : Nat) (v : Word) (id : Nat)
deriving DecidableEq, Repr

/-- What the arbiter decided for one slot of an opportunity (R174): the granted master, whether an atomic was passed over, and
whether the slot has passed. -/
structure SlotGrant where
  master : Option Nat
  skips  : Bool
  past   : Bool
deriving DecidableEq, Repr

def SlotGrant.none : SlotGrant := { master := .none, skips := false, past := false }

/-- The arbiter of a bank (R174): the opportunity that it has decided last, the request lines at the start of that opportunity, and
the decisions for its slots A and B. -/
structure Arbiter where
  opp  : Nat
  seen : List Bool
  a    : SlotGrant
  b    : SlotGrant
deriving DecidableEq, Repr

def Arbiter.init : Arbiter := { opp := 0, seen := [], a := .none, b := .none }

/-- A scheduled bank read whose check is still to come (R168), in `wait` executed steps: the word, and how its code word read. -/
structure BankCheck where
  wait : Nat
  word : Nat
  mark : Nat
deriving DecidableEq, Repr

/-- One trace tap FIFO sample: the cycle and the probe register shipped (R259). -/
structure TapSample where
  cycle : Word
  nth   : Nat
  probe : SMap V4
deriving DecidableEq, Repr

/-- Everything a cluster holds besides its large stores. -/
structure Cluster where
  port      : Port
  compare   : SMap V4           -- the compare latch (R259)
  taps      : List TapSample    -- the trace tap FIFO (R83)
  landings  : List Landing
  staged    : List Staged
  drained   : Bool              -- an entry was handed over since the previous even step (R83)
  reqs      : List HbmReq
  asserts   : List AssertEvent
  matched   : SMap (Option Nat) -- assertion matchers set in this cycle: earliest step of a matching event (R266, R273)
  wb        : Option Nat        -- write-back register of the bank: the word's address (R170)
  owner     : Nat               -- last owner of the arbiter (R174)
  arb       : Arbiter
  checks    : List BankCheck
  second    : Option (Nat × Word) -- an atomic between its two slots: word and old value (R177)
  host      : List BankAccess
  atomics   : List BankAccess
  accessNo  : Nat               -- numbers the accesses of commands
  fence     : BitVec 32         -- four fence default bytes, N in the low byte (R225)
  winSide   : Nat               -- HBM window: 0 north, 1 south, 255 none (R183, R193)
  winLog    : Nat
  winBase   : Nat               -- relocated base, in words of the stack
  sig       : Nat               -- running signature of the cycle (R248)
  sigLast   : Nat               -- signature of the last closed cycle
deriving DecidableEq, Repr

/-- A cluster of a cleared parcel. DESIGN CHOICE 4: the arbiter's last owner is master 0. -/
def Cluster.init : Cluster :=
  { port := Port.init, compare := [], taps := [], landings := [], staged := [], drained := false, reqs := [],
    asserts := [], matched := [], wb := none, owner := 0, arb := Arbiter.init, checks := [], second := none,
    host := [], atomics := [], accessNo := 0, fence := 0, winSide := 255, winLog := 0, winBase := 0,
    sig := 0xFFFFFFFF, sigLast := 0 }

/-- A receive slot (R99): value and step tag {written, step}. -/
structure RSlot where
  val     : V4
  written : Bool
  step    : Nat
deriving DecidableEq, Repr

/-- A slot as GSR release leaves it (R101). -/
def RSlot.init : RSlot := { val := .x, written := false, step := 0 }

/-- A value in flight on scheduled wiring (R88 to R93). `route` is 0 N,
1 S, 2 E, 3 W for a global send and 0 N, 1 E, 2 S, 3 W for a mesh send; `dist` counts clusters. -/
structure Flight where
  group   : Nat      -- run group of the sender
  owner   : Nat      -- owner of the sender (function)
  cl      : Nat      -- source cluster
  mesh    : Bool
  route   : Nat
  chan    : Nat      -- mesh channel 0-3, or track 0-127
  age     : Nat      -- executed steps since the tap step
  dist    : Nat      -- positions to travel
  slot    : Nat
  val     : V4
deriving DecidableEq, Repr

/-- A parcel's registers and counts. -/
structure Parcel where
  owned       : Bool       -- ownership tag (R217)
  group       : Nat
  asleep      : Bool       -- R221
  clearing    : Bool       -- the post-wake clear is in progress (R229)
  load        : LoadState
  framesBusy  : Bool
  lastStatus  : Nat
  lastDetail  : Nat
  rg          : Option Nat -- its run group
  heavy       : Nat        -- weighted count of the window in progress (R145)
  peak        : Nat
  excess        : Nat
  msWindow    : Nat        -- largest window count of the 1 ms period (R480)
  conf        : List Nat   -- conflict counters of masters 0 to 3 (R178)
  capClass    : Nat
  capW        : Nat
  stgClass    : Nat
  stgW        : Nat
  svState     : SurveyState
  restoreBad  : Bool
  svLast      : Nat
  commitPend  : Bool
  copyBusy    : Bool
  lastCommit  : Nat
deriving DecidableEq, Repr

/-- A parcel after a hub reset (R444, R228). -/
def Parcel.init : Parcel :=
  { owned := false, group := 0, asleep := false, clearing := false, load := .unowned,
    framesBusy := false, lastStatus := 0, lastDetail := 0, rg := none, heavy := 0, peak := 0, excess := 0,
    msWindow := 0, conf := [0, 0, 0, 0], capClass := 4, capW := 145, stgClass := 4, stgW := 145, svState := .idle,
    restoreBad := false, svLast := 0, commitPend := false, copyBusy := false, lastCommit := 0 }

/-- A loaded image as the part keeps it (R191, R201, R205). -/
structure Image where
  hdrCrc    : Nat
  imageId   : Nat
  parcels   : List Nat        -- physical parcels, ascending
  spanning  : Bool
  sheet     : Nat
  dx        : Nat
  dy        : Nat
  footW     : Nat
  footE     : Nat
  hbmBudget : Nat
  cls       : Nat             -- budget class
  nVquads   : Nat
  nVbridges : Nat
  quadClass : Nat
  classMask : Nat
  keySlot   : Option Nat
  quadBind  : List Nat        -- byte q: physical quad of virtual quad q, 255 none
  bridgeBind : List Nat
  allots    : List (Nat × Nat × Nat)  -- stack, base unit, units
  compare   : List (BitVec 64)  -- compare map (R252)
  tracks    : SMap Nat := []    -- the track map under which it was relocated (R159), key of trackKey
deriving DecidableEq, Repr

/-- A pause (R131). `resumeTime` is that of its PAUSE_AT, `again` that of a RESUME_AT, which replaces it (DEDUCED 17). -/
structure Pause where
  pauseTime  : Word
  resumeTime : Option Word
  again      : Option Word
  raised     : Bool
deriving DecidableEq, Repr

/-- A stop that is due: its cause code (R136) and the cycle at whose end it takes effect. -/
structure StopReq where
  cause : Nat
  cycle : Word
deriving DecidableEq, Repr

/-- A SURVEY descriptor in force (R230). -/
structure SurveyReq where
  parcels : List Nat          -- of the image that is captured
  stamp   : Word              -- datum time of the capture boundary
  flags   : Nat
  atCycle : Word
  atTime  : Word
  dest    : Word
  length  : Nat
  taking  : Bool              -- its capture is under way: hold source 6 is raised (R232)
deriving DecidableEq, Repr

/-- A run group (R116). -/
structure RunGroup where
  parcels   : List Nat
  images    : List Image
  n         : Nat
  step      : Nat             -- index of the next step; n while the boundary is due
  cycle     : Word
  state     : RunState
  prior     : RunState        -- state before ARMED (R130)
  stopCause : Nat
  stopLate  : Bool
  stopLead  : Nat
  hops      : Nat
  joined    : Bool
  startTime : Option Word
  lastOpp   : Option Nat      -- the opportunity the group used last
  ranLast   : Bool            -- and it executed a step in it
  stamp     : Word
  stops     : List StopReq
  halting   : Option Nat      -- a fault halts the group at the end of its cycle: the fault code (R420)
  prev      : BitVec 9        -- asynchronous sources as they stood at the end of the opportunity before the current one (R119)
  prev2     : BitVec 9        -- and of the one before that
  holdCnt   : SMap Nat
  pauses    : List Pause
  surveys   : List SurveyReq  -- pending or under way, at most one of each image (R231)
  traceArm  : Option Word     -- at_time of a timed arm that waits; none when none waits
  armWaits  : Bool
  seenStops : List Word
  response  : Nat
  diverged  : Bool
  divHeld   : Bool            -- hold source 8 is raised (R249, R250)
  firstCl   : Nat
  firstEnt  : Nat
  divCount  : Nat
  divCycle  : Word
  westSig   : Nat
  eastSig   : Nat
  divN      : Nat
  faultSent : Bool            -- the fault stop codewords of a halt have gone out (R134)
  pulseDue  : Bool            -- a sequencer pulse starts with step 0 of the next cycle (R271)
  surrender : Bool            -- unload its images when it stops (R222)
  sigDue    : Bool            -- the signatures of the last cycle wait for their compare (R249)
  sigHold   : Bool            -- compare is off until the next cycle after a clear (R250)
  restores  : List (Nat × Word) -- sheet and cycle of restores since the loads (R252)
  flights   : List Flight
  moved     : Bool            -- the flights have moved for the next step already, in the row of another group (R486)
  fetchBad  : List Nat        -- code words of the next step that its fetch found uncorrectable (R37, R53, R98), as keys of `ecc`
deriving DecidableEq, Repr

/-- No run group. -/
def RunGroup.init : RunGroup :=
  { parcels := [], images := [], n := 0, step := 0, cycle := 0, state := .idle, prior := .idle, stopCause := 0,
    stopLate := false, stopLead := 0, hops := 0, joined := false, startTime := none, lastOpp := none,
    ranLast := false, stamp := 0, stops := [], halting := none, prev := 0, prev2 := 0, holdCnt := [], pauses := [],
    surveys := [], traceArm := none, armWaits := false, seenStops := [],
    response := 0, diverged := false, divHeld := false, firstCl := 0, firstEnt := 0, divCount := 0, divCycle := 0, westSig := 0,
    eastSig := 0, divN := 0, faultSent := false, pulseDue := false, surrender := false, sigDue := false, sigHold := false, restores := [], flights := [],
    moved := false, fetchBad := [] }

/-- An HBM stack (R182, R187, R189). -/
structure Stack where
  designEnd : Nat
  traceEnd  : Nat
  insetEnd  : Nat
  ce        : Nat
  ondieCe   : Nat
  ue        : Nat
  trained   : Bool
  s3Trained : Bool      -- trained in S3, published at full service (R446)
  asleep    : Bool
  temp      : Nat
  refresh   : Nat
deriving DecidableEq, Repr

/-- A stack after a hub reset (R187, R189, R361). -/
def Stack.init : Stack :=
  { designEnd := 384, traceEnd := 512, insetEnd := 576, ce := 0, ondieCe := 0, ue := 0, trained := false,
    s3Trained := false, asleep := false, temp := 0, refresh := 0 }

/-- A stage (R206). -/
structure Stage where
  handle : Nat
  stack  : Nat
  base   : Nat
  units  : Nat
  owner  : Nat
  length : Nat
deriving DecidableEq, Repr

/-- A key slot (R197, R235). -/
structure KeySlot where
  bound   : Option Nat
  key     : BitVec 256
  ivHi    : BitVec 32
  ivCount : Nat
deriving DecidableEq, Repr

def KeySlot.init : KeySlot := { bound := none, key := 0, ivHi := 0, ivCount := 0 }

/-- A pulse train on a TRIG_OUT (R297). Times are in units of 2 ps from `start`, a datum time. -/
structure Train where
  start  : Word
  count  : Nat
  width  : Nat
  period : Nat
  next   : Nat      -- edges driven so far: even is a rise
deriving DecidableEq, Repr

/-- A TRIG pin (R296 to R299). -/
structure TrigPin where
  parcels  : Nat            -- mask of the bound parcels; 0 when unbound
  owner    : Nat
  seqWidth : Nat
  train    : Option Train
  seqHigh  : Bool           -- a sequencer pulse is high (R298)
  trainHigh : Bool
  seqEnd   : Word           -- datum time at which the sequencer pulse ends
  newTrain : Option Train   -- replaces the train after the pulse in progress (R297)
  lastEdge : Option Word    -- last captured edge (R299)
deriving DecidableEq, Repr

def TrigPin.init : TrigPin :=
  { parcels := 0, owner := 0, seqWidth := 0, train := none, seqHigh := false, trainHigh := false, seqEnd := 0,
    newTrain := none, lastEdge := none }

/-- A change of the counter at the next FRAME edge (R283, R290, R300). Each change by an offset is a step of its own (R284); the flag
beside it says that it is the step of the first lock. -/
structure DatumApply where
  addend  : BitVec 60
  tag     : Nat
  changes : List (Int × Bool)
deriving DecidableEq, Repr

/-- The datum (R276 to R301). -/
structure Datum where
  now       : Word
  frac      : Nat           -- below one du, in 2^-32 du
  lastFine  : Nat           -- the counter of the frame before, in 2^-32 du, and its addend (R279)
  lastAddend : BitVec 60
  epoch     : BitVec 32
  lat       : BitVec 32
  addend    : BitVec 60
  tag       : Nat
  stgAddend : BitVec 60
  stgTag    : Nat
  offset    : BitVec 60
  offTag    : Nat
  apply     : Option DatumApply -- a change that waits for the FRAME edge
  originS   : Nat
  originNs  : Nat
  role      : Nat
  lock      : Nat
  firstLock : Bool
  ppsOk     : Bool
  gmPart    : Nat
  hops      : Nat
  offLast   : Word
  steps     : Nat
  unlocks   : Nat
  discarded : Nat
  ppsIn     : Word
  ppsGood   : Nat           -- consecutive good PPS edges (R291)
  good      : Nat           -- consecutive SYNCs within 100 ps (R290)
  bad       : Nat           -- consecutive SYNCs above 1 ns (R290)
  seqs      : SMap (List Nat) -- seqs of each grandmaster's SYNCs seen, the newest first, half a period back (R289)
  txSeq     : Nat
deriving DecidableEq, Repr

/-- The datum after a hub reset (R300, R444). -/
def Datum.init : Datum :=
  { now := 0, frac := 0, lastFine := 0, lastAddend := 0x3333333333333, epoch := 0, lat := 0, addend := 0x3333333333333, tag := 0, stgAddend := 0x3333333333333,
    stgTag := 0, offset := 0, offTag := 0, apply := none, originS := 0, originNs := 0, role := 0, lock := 0,
    firstLock := false, ppsOk := false, gmPart := 0, hops := 0, offLast := 0, steps := 0, unlocks := 0, discarded := 0,
    ppsIn := 0, ppsGood := 0, good := 0, bad := 0, seqs := [], txSeq := 0 }

/-- Per quad: delay measurement and binding (R288, R293, R327). -/
structure Quad where
  awake   : Bool
  rg      : Option Nat      -- run group it carries cargo for
  group   : Nat
  cls     : Nat
  bridge  : Option Nat      -- inset bridge it is bound to
  joined  : Bool
  outCrc  : Nat
  inCrc   : Nat
  delays  : List Int        -- the last 16 exchanges, newest first: (t4 - t1) - (t3 - t2), in du
  asym    : Int             -- ps
  reqTime : Option Word     -- t1 of the exchange in progress
  reqSeq  : Nat
  joinMsg : Option (BitVec 72 × BitVec 72) -- the last far JOIN (R321)
deriving DecidableEq, Repr

def Quad.init : Quad :=
  { awake := true, rg := none, group := 0, cls := 0, bridge := none, joined := false, outCrc := 0, inCrc := 0,
    delays := [], asym := 0, reqTime := none, reqSeq := 0, joinMsg := none }

/-- Lane states of LANE_STAT (R326). -/
inductive LaneState where
  | off | idleUntrained | training | up | idleTrained | down | test
deriving DecidableEq, Repr, Inhabited

/-- A control message of a CTRL codeword (R310). -/
inductive CtrlMsg where
  | stop (faultStop : Bool) (cycle : Word)
  | resend (stepTag cyc : Nat)
  | xoff | xon
  | nak (pseq : Nat)
  | join (w0 w1 : BitVec 72)
  | sleep
deriving DecidableEq, Repr

/-- A SCHED codeword in a cargo queue, a retention buffer or a receive buffer (R308, R313). -/
structure SchedCw where
  stepTag : Nat
  cyc     : Nat
  cycle   : Word
  words   : List (BitVec 72)
deriving DecidableEq, Repr

/-- A request of the receiver for a missing SCHED codeword (R127, R313). -/
structure ResendReq where
  stepTag : Nat
  cyc     : Nat
  count   : Nat
deriving DecidableEq, Repr

/-- A lane (R302 to R326). -/
structure Lane where
  rate     : Nat
  fec      : Nat
  preTx    : Bool
  preRx    : Bool
  stgRate  : Nat
  stgFec   : Nat
  stgPreTx : Bool
  stgPreRx : Bool
  held     : Bool            -- an inconsistent pair holds the lane idle (R325)
  state    : LaneState
  drift    : Bool
  crossed  : Bool
  holdIn   : Bool
  holdOut  : Bool
  farPart  : Nat
  farValid : Bool
  farQuad  : Nat
  farLane  : Nat
  trained  : Nat
  live     : Nat
  d0       : Option Int      -- first mean delay after training (R318)
  cls      : Nat
  clsValid : Bool
  eqPre    : BitVec 8
  eqMain   : BitVec 8
  eqPost   : BitVec 8
  stored   : Bool
  cwCorr   : Nat
  cwUncorr : Nat
  symCorr  : Nat
  cwBad    : Nat
  reqOut   : Nat
  reqIn    : Nat
  xWords   : Nat
  replays  : Nat
  naks     : Nat
  gen      : Nat
  chk      : Nat
  chkLock  : Bool
  user     : BitVec 80
  errCnt   : Nat
  testSym  : Nat
  injKind  : Nat
  injBurst : Nat
  injRate  : Nat
  build    : SMap (Option (BitVec 72)) -- words of the codeword in the making, by word index (R308)
  complete : List SchedCw    -- complete codewords that wait for the FRAME edge (R308)
  cargoQ   : List SchedCw    -- the cargo queue (R308)
  retained : List (Nat × SchedCw) -- sent, with the frame of sending, kept for re-send (R127)
  reTx     : List SchedCw    -- retransmissions to send
  ctrl     : List CtrlMsg
  rxBuf    : List SchedCw    -- receive buffer (R126)
  wanted   : List ResendReq  -- outstanding requests, the one that was sent longest ago first
  flits    : List (Nat × BitVec 576) -- flits waiting for transmission: VC and body
  unacked  : List (Nat × Nat × BitVec 576) -- pseq, VC, body
  replayAt : Option Nat      -- position of a replay in progress
  replayN  : Nat             -- consecutive replays without ack advance
  txSeq    : Nat
  rxSeq    : Nat
  gap      : Option Nat      -- the present gap: the frame in which its last NAK was sent (R312)
  relink   : Bool            -- UP again after a failure: the next RESEND takes all that follows too (R320)
  credits  : List Nat        -- per VC
  freed    : List Nat        -- flit buffers freed per VC since the last codeword
  timeQ    : List (BitVec 576) -- TIME codewords that are due
  trainDue : Bool
  phase    : Nat             -- training phase 1 to 4 (R315)
  farDone  : Nat             -- the phase that the far end reports done (R315)
  echoes   : List Nat        -- one-way delays measured (R316)
  burst    : Nat             -- TRAIN codewords left of an exit from idle (R319)
  echoTag  : Option (Nat × Nat) -- a far echo to answer: its tag, and the opportunity it came in (R316)
  farSleep : Bool            -- the far transmitter is in electrical idle (R319)
  scram    : Nat             -- the last 31 bits of the scrambler (R304)
  preLast  : Nat             -- last precoded index sent (R303)
  patt     : Nat             -- test pattern: the generator's last bits, or the position in SSPRQ and a user pattern (R322)
  injLeft  : Nat             -- symbols left of a single or burst injection (R323)
  injAt    : Nat             -- symbols since the last one injected at a rate
  rxFlits  : SMap (List (BitVec 576)) -- flits of a packet in arrival, per VC (R359)
  uncorr64 : List Bool       -- the last 64 codewords, true when uncorrectable (R320)
deriving DecidableEq, Repr

/-- A lane after a hub reset, before S4 (R326, R444). DESIGN CHOICE 5: the equaliser taps, which the table gives reset 0. -/
def Lane.init : Lane :=
  { rate := 0, fec := 0, preTx := false, preRx := false, stgRate := 0, stgFec := 0, stgPreTx := false,
    stgPreRx := false, held := false, state := .idleUntrained, drift := false, crossed := false, holdIn := false,
    holdOut := false, farPart := 0, farValid := false, farQuad := 0, farLane := 0, trained := 0, live := 0, d0 := none,
    cls := 0, clsValid := false, eqPre := 0, eqMain := 0, eqPost := 0, stored := false, cwCorr := 0, cwUncorr := 0,
    symCorr := 0, cwBad := 0, reqOut := 0, reqIn := 0, xWords := 0, replays := 0, naks := 0, gen := 0, chk := 0,
    chkLock := false, user := 0, errCnt := 0, testSym := 0, injKind := 0, injBurst := 0, injRate := 0, build := [], complete := [], cargoQ := [],
    retained := [], reTx := [], ctrl := [], rxBuf := [], wanted := [], flits := [], unacked := [], replayAt := none,
    replayN := 0, txSeq := 0, rxSeq := 0, gap := none, relink := false, credits := [16, 16, 16], freed := [0, 0, 0], timeQ := [],
    trainDue := false, phase := 0, farDone := 0, echoes := [], burst := 0,
    echoTag := none, farSleep := false, scram := 0, preLast := 0, patt := 0, injLeft := 0, injAt := 0, rxFlits := [], uncorr64 := [] }

/-- A frame in a bridge: its bytes, error bit and stamp (R335, R344). -/
structure BFrame where
  bytes  : List Byte
  error  : Bool
  stamp  : Word
  cycle  : Word
  step   : Nat
  place  : Nat := 0         -- its first byte in the buffer in HBM (R334)
deriving DecidableEq, Repr

/-- A stamp log entry (R344). -/
structure StampEntry where
  seq    : Nat
  length : Nat
  error  : Bool
  stamp  : Word
  cycle  : Word
  step   : Nat
deriving DecidableEq, Repr

/-- Link states of a bridge (R347). -/
inductive BridgeLink where
  | unconfigured | held | training | up | down
deriving DecidableEq, Repr, Inhabited

/-- An inset bridge (R328 to R347). -/
structure Bridge where
  pmd       : Nat
  quad      : Nat
  stgPmd    : Nat
  stgQuad   : Nat
  bad       : Bool            -- an inconsistent pair was committed (R330)
  awake     : Bool
  fc        : Nat
  pfcMask   : Nat
  deliverBad : Bool
  side      : Nat
  maxLen    : Nat
  rxBase    : Nat
  rxUnits   : Nat
  txBase    : Nat
  txUnits   : Nat
  hiWm      : Nat
  loWm      : Nat
  link      : BridgeLink
  rg        : Option Nat      -- run group of the image it is bound to
  group     : Nat
  overRx    : Bool
  overTx    : Bool
  overLive  : Bool            -- INSET_OVERRUN episode of the inbound direction is live (R337)
  overLiveTx : Bool
  paused    : List Nat        -- priorities whose egress is paused
  pauseSent : Bool
  rxBuf     : List BFrame     -- inbound buffer in HBM, oldest first
  arriving  : Option (Nat × Nat) -- a frame being received: its length, and 1 when it will be buffered
  rxQ       : List BFrame     -- inbound inset stream queue
  rxPos     : Nat             -- bytes of the head frame already received by the design
  txQ       : List BFrame     -- complete frames in the outbound inset stream queue
  txOpen    : Option BFrame   -- the open frame
  txLong    : Bool            -- the open frame has grown past max_len
  txAbort   : Bool
  txBuf     : List BFrame     -- outbound buffer in HBM
  rxNext    : Nat             -- where the next frame of each buffer goes
  txNext    : Nat
  rxSeq     : Nat
  txSeq     : Nat
  cnt       : SMap Nat        -- counters in the order of R347
  rxLog     : List StampEntry
  txLog     : List StampEntry
  lost      : Nat
deriving DecidableEq, Repr

/-- A bridge after a hub reset (R347, R361). -/
def Bridge.init : Bridge :=
  { pmd := 0, quad := 0, stgPmd := 0, stgQuad := 0, bad := false, awake := true, fc := 0, pfcMask := 0,
    deliverBad := false, side := 0, maxLen := 1514, rxBase := 0, rxUnits := 0, txBase := 0, txUnits := 0, hiWm := 230,
    loWm := 128, link := .unconfigured, rg := none, group := 0, overRx := false, overTx := false, overLive := false,
    overLiveTx := false, paused := [], pauseSent := false, rxBuf := [], arriving := none, rxQ := [],
    rxPos := 0, txQ := [], txOpen := none, txLong := false, txAbort := false, txBuf := [], rxNext := 0, txNext := 0, rxSeq := 0, txSeq := 0,
    cnt := [], rxLog := [], txLog := [], lost := 0 }

/-- States of a trace engine (R262). -/
inductive EngineState where
  | unbound | bound | armed | filling | done
deriving DecidableEq, Repr, Inhabited

/-- A comparator (R265). -/
structure Comparator where
  word   : Nat
  range  : Bool
  invert : Bool
  lo     : Nat
  hi     : Nat
  care   : Nat      -- value mode: lane mask; range mode: the minimum
  value  : Nat      -- value mode: 36 codes; range mode: the maximum
deriving DecidableEq, Repr

/-- An assertion matcher (R266). -/
structure AMatcher where
  id   : Nat
  mask : Nat
  val  : Nat
deriving DecidableEq, Repr

/-- A contour mask (R268): the allowed sets, one list of nibbles per phase. -/
structure Contour where
  first  : Nat
  count  : Nat
  phases : List (List Nat)
deriving DecidableEq, Repr

/-- A stored sample (R260). -/
structure Sample where
  cycle : Word
  nth   : Nat                 -- its place among the cycles since the arm, as its entries in the tap FIFOs have it
  post  : Bool                -- a post-trigger sample
  stamp : Word
  flags : Nat
  words : List (BitVec 72)
deriving DecidableEq, Repr

/-- The first edge of a TRIG_IN pin in a cycle, where R267 places it. -/
structure PinEdge where
  pin   : Nat
  time  : Word
  cycle : Word
  step  : Nat
  frac  : Nat
  held  : Bool
deriving DecidableEq, Repr

/-- An event log entry (R266). -/
structure LogEvent where
  ev : AssertEvent
  cl : Nat
deriving DecidableEq, Repr

/-- A trigger record (R273). -/
structure TrigRec where
  cycle   : Word
  step    : Nat
  trans   : Nat
  seq     : Bool
  contour : Bool
  div     : Bool
  auto    : Bool
  force   : Bool
  partner : Bool
  pre     : Nat
  stamp   : Word
  cmp     : Nat
  masks   : Nat
  amatch  : Nat
  trigIn  : Nat
  divIn   : Bool
  autoIn  : Bool
  forceIn : Bool
  extTime : Word
  extCycle : Word
  extStep : Nat
  extFrac : Nat
  extPin  : Nat
  extHeld : Bool
  extValid : Bool
deriving DecidableEq, Repr

def TrigRec.init : TrigRec :=
  { cycle := 0, step := 0, trans := 0, seq := false, contour := false, div := false, auto := false, force := false,
    partner := false, pre := 0, stamp := 0, cmp := 0, masks := 0, amatch := 0, trigIn := 0, divIn := false,
    autoIn := false, forceIn := false, extTime := 0, extCycle := 0, extStep := 0, extFrac := 0, extPin := 0,
    extHeld := false, extValid := false }

/-- A trace engine (R254 to R275). -/
structure Engine where
  state    : EngineState
  rg       : Option Nat
  group    : Nat
  awake    : Bool
  side     : Nat
  units    : Nat
  base     : Nat
  onDie    : Bool
  clusters : List Nat          -- physical cluster indices of the list
  comps    : List Comparator
  matchers : List AMatcher
  targets  : List Nat
  trans    : List (BitVec 64)  -- 64 transitions
  contours : List Contour
  trigUse  : Nat
  inPol    : Nat
  seqState : Nat
  counters : SMap Nat
  hits     : SMap Nat
  viols    : SMap Nat
  extra    : Nat
  capacity : Nat
  postCnt  : Nat
  postLeft : Nat
  autoCnt  : Nat               -- auto_timeout in force
  armedFor : Nat               -- samples since the arm
  autoHit  : Bool
  force    : Bool
  wrapped  : Bool
  stored   : Nat               -- samples in the buffer (R274)
  queue    : List Sample       -- closed samples that wait for TRACE_SAMPLE_STORE
  buffer   : List Sample       -- stored samples, oldest first
  ringAt   : Nat               -- record of the buffer that holds the oldest (R261)
  cycles   : Nat               -- cycles that the engine has closed since the arm
  edges    : List PinEdge      -- TRIG_IN edges that wait for the boundary of their cycle (R267)
  lastCyc  : Option Word
  events   : List LogEvent
  lost     : Nat
  record   : TrigRec
deriving DecidableEq, Repr

/-- An engine after a hub reset (R274, R361). -/
def Engine.init : Engine :=
  { state := .unbound, rg := none, group := 0, awake := true, side := 0, units := 0, base := 0, onDie := false,
    clusters := [], comps := [], matchers := [], targets := [], trans := [], contours := [], trigUse := 0, inPol := 0,
    seqState := 0, counters := [], hits := [], viols := [], extra := 0, capacity := 0, postCnt := 0, postLeft := 0,
    autoCnt := 0, armedFor := 0, autoHit := false, force := false, wrapped := false, stored := 0, queue := [], buffer := [],
    ringAt := 0, cycles := 0, edges := [], lastCyc := none, events := [], lost := 0, record := TrigRec.init }

/-- Session states (R372). -/
inductive SessState where
  | disabled | enabled | error | resetting
deriving DecidableEq, Repr, Inhabited

/-- A session block (R372). -/
structure Session where
  sqBase   : Word
  cqBase   : Word
  sqLog    : Nat
  cqLog    : Nat
  wbAddr   : Word
  enable   : Bool
  prio     : Nat
  vector   : Nat
  coalCnt  : Nat
  coalUs   : Nat
  wbEn     : Bool
  state    : SessState
  sqHead   : Nat
  sqTail   : Nat
  cqHead   : Nat
  cqTail   : Nat
  errCause : Nat
  unsig    : Nat             -- released replies not yet signalled (R377)
deriving DecidableEq, Repr

def Session.init : Session :=
  { sqBase := 0, cqBase := 0, sqLog := 0, cqLog := 0, wbAddr := 0, enable := false, prio := 0, vector := 0,
    coalCnt := 0, coalUs := 0, wbEn := false, state := .disabled, sqHead := 0, sqTail := 0, cqHead := 0, cqTail := 0,
    errCause := 0, unsig := 0 }

/-- A reply (R380). `results` are bytes 16 to 31, byte 16 in the low eight bits. -/
structure Reply where
  tag     : BitVec 32
  status  : Nat
  detail  : Nat
  time    : Word
  results : BitVec 128
deriving DecidableEq, Repr

/-- What a parked command waits for (R387, R400). -/
inductive Wait where
  | runStart (g : Nat)
  | runStop (g : Nat) (cycle : Word)
  | pauseRaise (g : Nat) (pauseTime : Word)
  | pauseRelease (g : Nat)
  | commit (g : Nat) (atCycle : Option Word)
  | arm (g : Nat) (result : Nat)
  | survey (g mask : Nat)
  | join (g : Nat)
  | train (quad mask : Nat)
  | assign (mask group : Nat)
  | sleep (mask : Nat) (ok : Bool)                 -- parcels that still power down; none cancelled so far
  | power (kind mask : Nat) (wake ok : Bool)       -- domains that still change
  | bank (cl : Nat) (write : Bool) (done total addr id : Nat)
  | atomicOp (cl word id : Nat)
  | sessReset (session : Nat)
  | traceWake (g : Nat)
  | pairWake
  | datumEdge
  | domains (ds : List Domain)                     -- domains that its packets have called, until each is awake (R362)
  | drain (routers : List Nat)                     -- routers that have still to drain for its change (R360)
  | pulse (pin : Nat)                              -- a pulse train that is not armed yet (R297, R400)
deriving DecidableEq, Repr

/-- What a command that its worker executes, but has not finished, is doing (R202, R208, R212 to R214, R237, R390, R413). -/
inductive WorkPhase where
  | check | write      -- IMAGE_LOAD: its check pass, its write pass
  | frames | unload | restore
  | transfer           -- a transfer over many words or records
  | firmware           -- FW_WRITE, its copy in WRITING
deriving DecidableEq, Repr, Inhabited

/-- A load descriptor (R201). -/
structure Desc where
  source  : Nat
  slot    : Nat
  named   : Bool
  sheet   : Nat
  dx      : Nat
  dy      : Nat
  image   : Nat
  length  : Nat
  quads   : List Nat
  bridges : List Nat
deriving DecidableEq, Repr

/-- What such a command holds for itself (R202, R209): parcels, and for a load its quads, bridges, HBM allotments (stack, base, units),
trace engines and their buffers; its descriptor with the placement found and its image's hdr_crc; and the code of a DEVICE-class fault
raised meanwhile (R208). `moved`: the words or records of a transfer so far (R390). -/
structure Claim where
  phase   : WorkPhase
  parcels : List Nat
  quads   : List Nat
  bridges : List Nat
  allots  : List (Nat × Nat × Nat)
  engines : List Nat
  buffers : List (Nat × Nat × Nat)
  desc    : Option Desc
  hdrCrc  : Nat
  fault   : Option Nat
  moved   : Nat
deriving DecidableEq, Repr

/-- Where a command of the ready lists stands (R385 to R388). -/
inductive EntryState where
  | queued                    -- fetched, in the ready list
  | prefetched (worker : Nat) -- dispatched into a prefetch slot
  | executing (worker : Nat) (c : Claim) -- its worker has begun it (loads, frame batches, unloads, restores, transfers, firmware)
  | parked (w : Wait)
  | ready (drained : Bool)    -- its wait for domains or drains is over, and a worker takes it up again (R387)
  | done (r : Reply)          -- finished; the reply waits for its flow's order
deriving DecidableEq, Repr

/-- A ready-list entry (R385). -/
structure Entry where
  opcode : Nat
  pkt    : Packet
  state  : EntryState
deriving DecidableEq, Repr

/-- A lock (R394). Kinds: 0 parcel set, 1 bank range, 2 quad, 3 engine, 4 key slot. -/
structure Lock where
  handle  : Nat
  session : Nat
  kind    : Nat
  unit    : Nat
  cluster : Nat
  mask    : Nat
  first   : Nat
  count   : Nat
deriving DecidableEq, Repr

/-- Generation and orphan flag of a lockable unit (R393). -/
structure LockUnit where
  gen    : BitVec 32
  orphan : Bool
  held   : BitVec 32           -- the generation while the lock orphaned last held the unit (R394)
deriving DecidableEq, Repr

def LockUnit.init : LockUnit := { gen := 0, orphan := false, held := 0 }

/-- A first-error record (R425). -/
structure FaultRec where
  unit     : Nat
  cls      : Nat
  access   : Nat
  more     : Bool
  replaced : Bool
  code     : Nat
  master   : Nat
  address  : Word
  stamp    : Word
  epoch    : BitVec 32
  moreCnt  : Nat
  cycle    : Word
  maxCls   : Nat
  group    : Nat
deriving DecidableEq, Repr

/-- A logbook record (R433): kind, flags and its payload as a number of 208 little-endian bytes. -/
structure LogRec where
  seq     : Nat
  kind    : Nat
  flags   : Nat
  stamp   : Word
  epoch   : BitVec 32
  boots   : Nat
  stbyUs  : Word
  legend  : Word
  payload : BitVec 1664
deriving DecidableEq, Repr

/-- The logbook and its controller (R431 to R437). -/
structure Logbook where
  nextSeq  : Nat
  ring     : List LogRec     -- committed ring records, oldest first
  pinned   : List LogRec     -- pinned slot 0 first
  queue    : List LogRec     -- handed over, not yet committed
  dropped  : Nat
  dropFirst : Word
  dropLast : Word
  boots    : Nat
  usable   : Bool            -- the scan of R435 has been done
  torn     : Option LogRec   -- a slot left between the two phases of R435, its commit all ones
  retired  : SMap Nat        -- slots retired to a spare, and the spare (R431, R435): 32,768 to a bank
  control  : List Nat        -- the sequence of each bank's copy of the control block (R431)
deriving DecidableEq, Repr

/-- The collector of faults (R418 to R430). -/
structure Faults where
  recs   : SMap (Option FaultRec)
  live   : SMap Nat            -- per unit: bits of its live episodes, in the order of FAULT_CODE_LIVE
  cnt    : SMap Nat            -- per code, in the order of R421
  sel    : Nat
  pinLevel : Nat
  pulsing : Bool
  driven : Nat                 -- FAULT_N as the part drives it: 0 low, 1 released
  pulled : Bool                -- the board's own: another device on the board holds FAULT_N low (R427)
deriving DecidableEq, Repr

/-- A firmware copy (R411, R412). -/
structure FwCopy where
  state    : Nat               -- 0 EMPTY, 1 VALID, 2 WRITING
  major    : Nat
  minor    : Nat
  newFloor : Nat
  minSi    : Nat
  digest   : BitVec 384
deriving DecidableEq, Repr

/-- The boot flash (R411). -/
structure Flash where
  copy0   : FwCopy
  copy1   : FwCopy
  pending : Option Nat
  floor   : Nat
  lastBoot : Nat               -- the copy that last booted to the end of S1
deriving DecidableEq, Repr

/-- Stages of bring-up (R439). S3 and S4 run at the same time. -/
inductive BootStage where
  | s0 | s1 | s2 | s3s4 | s5 | full | failed
deriving DecidableEq, Repr, Inhabited

/-- Boot, reset and identity (R403, R439 to R450, R460). -/
structure Boot where
  stage    : BootStage
  s3Done   : Bool
  s4Done   : Bool
  s5Done   : Bool
  bootCopy : Nat
  fallTo   : Option Nat        -- the copy that a fallback boots once S1 may start (R440, R448)
  fellBack : Bool
  lanesUp  : Nat
  s3Stacks : Nat               -- the stacks that trained in S3 (R450)
  cause    : Nat
  s1Ms     : Nat
  s2Ms     : Nat
  fullMs   : Nat
  s5Ms     : Nat
  fwMajor  : Nat
  fwMinor  : Nat
  part     : Option Nat        -- part number (R406)
  lastHandle : Nat
  lastStatus : Nat
  mismatches : Nat
  rails    : BitVec 8          -- main rails within tolerance (R474)
  vstby    : Bool
  railHold : Bool              -- the supervisor holds the part in S0 (R475)
  resetN   : Bool
  perstN   : Bool
  testMode : Bool              -- TEST_MODE was sampled high (R472)
  pllLock  : Bool
  sheetsHeld : Bool            -- THERM_TRIP or RAIL_FAULT holds sheets, HBM and lanes in reset (R423)
  tripDue  : Bool              -- THERM_TRIP: they are held once every run group has halted (R423)
  resetDue : Option Nat        -- a hub reset follows in 10 ms: its cause (R416, R423)
  afterVstby : Bool            -- no hub reset since VSTBY was applied (R450)
  pairMode : Nat
deriving DecidableEq, Repr

/-- Sensors and the throttle controller (R479, R480, R417). -/
structure Thermal where
  temps   : List Int           -- 40 sensors, 0.1 °C
  power   : Nat                -- 0.1 W over the last period
  lt      : Nat
  lp      : Nat
  coolT   : Nat
  coolP   : Nat
  hotSeen : Bool               -- a sample of the period reached a throttle threshold
  hotAt   : Option (Nat × Int) -- the first sensor of the period that reached it, and its reading (R434)
  warmSeen : Bool              -- a sample of the period was above a release threshold
  capLim  : Bool
  demand  : Nat
  applied : Nat                -- level in force, taken at a FRAME edge (R121)
  crossed : List Bool          -- sensors above their operating maximum (R479)
deriving DecidableEq, Repr

/-- The packet network's registers and tags (R357, R366). -/
structure Net where
  tags     : List (Nat × NetPacket) -- outstanding requests: tag and request
  waiting  : List NetPacket     -- requests whose holder has no free tag, oldest first (R357)
  route    : List (Nat × Bool)  -- routers the last packet passes, each with its dateline class (R352)
  peak     : Nat
  waits    : Nat
  ce       : Nat
  ueData   : Nat
  ueSide   : Nat
  badDst   : Nat
  badType  : Nat
  timeouts : Nat
  remote   : Nat
  router   : Nat
  lastAband : Bool
  abandoned : Nat
  drainMax : Nat
  wakes    : Nat
  cancelled : Nat
  down     : List Domain        -- domains whose power-down is under way
  draining : List (Domain × Nat) -- a domain among them, and a router that has still to drain for it (R360)
  isolated : List Domain        -- those among them whose outputs are isolated
  called   : List Domain        -- those that a packet has called since (R363)
  retry    : List Domain        -- abandoned automatic power-downs
  waking   : List Domain        -- domains whose wake is under way
  held     : List NetPacket     -- packets held at a sleeping domain (R362)
  mail     : List NetPacket     -- packets delivered to the Surveyor
  sheetDatum : List Bool        -- datum copies loaded (R276)
deriving DecidableEq, Repr

/-- The test access port (R483, R484). -/
structure Tap where
  ir      : BitVec 8
  preload : List Bool
  taken   : Bool               -- EXTEST, CLAMP or HIGHZ holds the pins
  cells   : List Bool          -- what the boundary cells captured last (R483)
deriving DecidableEq, Repr

/-- Ready lists and dispatcher (R385 to R388). -/
structure Hub where
  entries  : List Entry        -- oldest first
  fetchAt  : Nat               -- round-robin position of the fetch engine
  turn     : Nat               -- position in the pattern of 15 turns
  rr       : List Nat          -- round-robin position of each priority level
  locks    : List Lock
  nextLock : Nat
  units    : SMap LockUnit
  numVfs   : Nat
  vfEnable : Bool
  msixTab  : SMap Word         -- MSI-X tables, keyed by function * 64 + quadword
  msixPend : SMap Nat          -- pending bits per function
  reset    : Bool              -- PART_RESET has replied: nothing more is fetched (R416)
deriving DecidableEq, Repr

/-- What the part has sent out, oldest first (the model's own record of its outputs; no reset clears it). -/
structure Sent where
  replies : List (Nat × Reply)          -- part-wide session and reply
  irqs    : List (Nat × Nat)            -- function and MSI-X vector
  cws     : List (Nat × Nat × BitVec 640 × BitVec 680) -- lane, type, payload, and symbols on the line (R303)
  frames  : List (Nat × List Byte)      -- bridge and frame, FCS included (R333)
  flow    : List (Nat × Option Nat × Nat) -- bridge, priorities of a PFC frame (none: PAUSE), and quanta
  packets : List NetPacket
  pins    : List (Nat × Bool)           -- TRIG_OUT 0-3, PPS_OUT 4, FAULT_N 5: level driven
  mctp    : List (List Byte)
deriving DecidableEq, Repr

/-- The state of the block. -/
structure State where
  pending  : List Instr
  -- large stores of the sheets
  istore   : SMap (BitVec 72)    -- instruction stores, key BP * 4096 + entry
  values   : SMap V4             -- value stores, key BP * 4096 + entry
  cur      : SMap V4             -- state stores, current copy, key BP * 1024 + entry
  stg      : SMap V4             -- staged copies
  pend     : SMap Bool           -- pending flags
  result   : SMap V4             -- result registers, key BP
  slots    : SMap RSlot          -- receive slots, key cluster * 256 + slot
  ptable   : SMap (BitVec 72)    -- port instruction tables, key cluster * 4096 + entry
  busyMap  : SMap Bool           -- free maps: true where slot B is scheduled (R175)
  sendAct  : SMap (BitVec 512)   -- send tables, active pages
  sendShd  : SMap (BitVec 512)   -- shadow pages
  quadAct  : SMap (BitVec 40)    -- quad schedules, key quad * 32768 + entry
  quadShd  : SMap (BitVec 40)
  fetchSnd : SMap (Option (BitVec 512))   -- send entries that a poke came too late for in this cycle, as fetched (R114)
  fetchQd  : SMap (Option (BitVec 40))   -- quad schedule entries, the same
  ecc      : SMap Nat            -- code words in error (R51, R98, R170, R182): 1 correctable, 2 not; key of eccKey
  fences   : SMap V4             -- held value of each fence cell (R226)
  confOpp  : SMap Nat            -- opportunity after the last conflict counted, key parcel * 4 + master (R178)
  arrOpp   : Nat                 -- opportunity of the next two lists
  arrSlots : List Nat            -- receive slots written in it (R110, R486)
  arrDrops : List Nat            -- clusters that took a drop in it (R110)
  clusters : SMap Cluster
  bank     : Memory              -- byte address ((cluster * 65536 + word) * 8)
  hbm      : Memory              -- byte address (stack * 2^36 + byte)
  hostMem  : Memory              -- the host's memory, reached by DMA
  hostBad  : List Nat            -- its 4 KiB pages whose transfers complete with an error or poison (R375, R376)
  -- registers
  opp      : Nat                 -- free-running opportunity counter (R121)
  groups   : SMap RunGroup
  parcels  : SMap Parcel
  hbmStacks   : SMap Stack
  stages   : List Stage
  nextStage : Nat
  keys     : SMap KeySlot
  keks     : SMap (Option (BitVec 256))
  datum    : Datum
  trigIn   : SMap TrigPin
  trigOut  : SMap TrigPin
  ppsHigh  : Bool
  quads    : SMap Quad
  lanes    : SMap Lane
  bridges  : SMap Bridge
  engines  : SMap Engine
  sessions : SMap Session
  hub      : Hub
  faults   : Faults
  log      : Logbook
  flash    : Flash
  boot     : Boot
  thermal  : Thermal
  net      : Net
  tap      : Tap
  grade    : Nat                 -- good parcels of the grade: 24, 28 or 32 (R2)
  factory  : List Nat            -- parcels that failed factory test (R3)
  s2Failed : List Nat            -- parcels that failed S2 of this boot (R442)
  trackMap : SMap Nat            -- the tracks that stand in for retired ones (R159), key of trackKey; identity where unlisted
  freeCtr  : Nat                 -- the model's own: free values used so far
  sent     : Sent
deriving DecidableEq, Repr

/-- A record that the logbook controller or the boot ROM writes on its own before the hub runs (R433, R434): no datum time. -/
def LogRec.early (kind flags : Nat) (stby legend : Word) (payload : BitVec 1664) : LogRec :=
  { seq := 0, kind := kind, flags := flags, stamp := 0, epoch := 0, boots := 1, stbyUs := stby, legend := legend,
    payload := payload }

/-- The logbook of a new part at the start of its first S1 (R434): the records of VSTBY and of the main rails, and the
first power-on record, wait to be committed. DESIGN CHOICE 7: State.reset is this first power-on of a part of grade 32. -/
def Logbook.init : Logbook :=
  { nextSeq := 0, ring := [], pinned := [],
    queue := [LogRec.early 2 2 (Config.freeValue 0 64) 0 0,
              LogRec.early 2 2 (Config.freeValue 1 64) 0 0xFF01,
              LogRec.early 1 1 (Config.freeValue 2 64) 0x5C92018002010000
                (Config.uid.setWidth 1664 ||| (0xFFFFFFFF0000000000000000 : BitVec 1664))],
    dropped := 0, dropFirst := 0, dropLast := 0, boots := 1, usable := true, torn := none
    retired := [], control := [0, 0] }

def Faults.init : Faults :=
  { recs := [], live := [], cnt := [], sel := 0, pinLevel := 1, pulsing := false, driven := 1, pulled := false }

/-- DESIGN CHOICE 6: both firmware copies are VALID at version 3.0, with minimum silicon 2 and floor 3. -/
def FwCopy.init : FwCopy :=
  { state := 1, major := 3, minor := 0, newFloor := 3, minSi := 2, digest := 0 }

def Flash.init : Flash :=
  { copy0 := FwCopy.init, copy1 := FwCopy.init, pending := none, floor := 3, lastBoot := 0 }

/-- Right after a hub reset: S1 has started (R439, R444, R450). -/
def Boot.init : Boot :=
  { stage := .s1, s3Done := false, s4Done := false, s5Done := false, bootCopy := 0, fallTo := none, fellBack := false, lanesUp := 0, s3Stacks := 0,
    cause := 6, s1Ms := 0, s2Ms := 0xFFFF, fullMs := 0xFFFF, s5Ms := 0xFFFF, fwMajor := 0, fwMinor := 0,
    part := none, lastHandle := 0, lastStatus := 0, mismatches := 0, rails := 0xFF, vstby := true, railHold := false,
    resetN := true, perstN := true, testMode := false, pllLock := true, sheetsHeld := false, tripDue := false, resetDue := none,
    afterVstby := true, pairMode := 0 }

def Thermal.init : Thermal :=
  { temps := List.replicate 40 0, power := 0, lt := 0, lp := 0, coolT := 0, coolP := 0, hotSeen := false, hotAt := none,
    warmSeen := false, capLim := false, demand := 0, applied := 0, crossed := List.replicate 40 false }

def Net.init : Net :=
  { tags := [], waiting := [], route := [], peak := 0, waits := 0, ce := 0, ueData := 0, ueSide := 0, badDst := 0, badType := 0, timeouts := 0,
    remote := 0, router := 0, lastAband := false, abandoned := 0, drainMax := 0, wakes := 0,
    cancelled := 0, down := [], draining := [], isolated := [], called := [], retry := [], waking := [], held := [], mail := [], sheetDatum := [false, false] }

/-- The TAP after Test-Logic-Reset (R483): IDCODE is selected. -/
def Tap.init : Tap := { ir := 1, preload := [], taken := false, cells := [] }

def Hub.init : Hub :=
  { entries := [], fetchAt := 0, turn := 0, rr := [0, 0, 0, 0], locks := [], nextLock := 1, units := [], numVfs := 0,
    vfEnable := false, msixTab := [], msixPend := [], reset := false }

def Sent.init : Sent :=
  { replies := [], irqs := [], cws := [], frames := [], flow := [], packets := [], pins := [], mctp := [] }

/-- The block right after reset: R444, with S1 of R439 started and no command waiting. -/
def State.reset : State :=
  { pending := [], istore := [], values := [], cur := [], stg := [], pend := [], result := [], slots := [], ptable := [],
    busyMap := [], sendAct := [], sendShd := [], quadAct := [], quadShd := [], fetchSnd := [], fetchQd := [],
    ecc := [], fences := [], confOpp := [], arrOpp := 0, arrSlots := [], arrDrops := [], clusters := [], bank := [], hbm := [], hostMem := [], hostBad := [],
    opp := 0, groups := [], parcels := [], hbmStacks := [], stages := [], nextStage := 1, keys := [], keks := [],
    datum := Datum.init, trigIn := [], trigOut := [], ppsHigh := false, quads := [], lanes := [], bridges := [],
    engines := [], sessions := [], hub := Hub.init, faults := Faults.init, log := Logbook.init, flash := Flash.init,
    boot := Boot.init, thermal := Thermal.init, net := Net.init, tap := Tap.init, grade := 32, factory := [],
    s2Failed := [], trackMap := [], freeCtr := 3, sent := Sent.init }

end Sys2Proof.Machine
end

