-- ==== Sys2Proof/Machine/Ops.lean ====
section
/-! DEFINITION. Named operations over the state: the one reader and the one writer of every table, the geometry of the
part (R13, R18), free values, ownership, interrupts, logbook hand-over, raising a fault (R418 to R430). -/
namespace Sys2Proof.Machine

-- tables of State

def State.parcel (s : State) (i : Nat) : Parcel := mget Parcel.init i s.parcels
def State.setParcel (s : State) (i : Nat) (p : Parcel) : State := { s with parcels := mset Parcel.init i p s.parcels }
def State.updParcel (s : State) (i : Nat) (f : Parcel → Parcel) : State := s.setParcel i (f (s.parcel i))
def State.cluster (s : State) (c : Nat) : Cluster := mget Cluster.init c s.clusters
def State.setCluster (s : State) (c : Nat) (v : Cluster) : State := { s with clusters := mset Cluster.init c v s.clusters }
def State.updCluster (s : State) (c : Nat) (f : Cluster → Cluster) : State := s.setCluster c (f (s.cluster c))
def State.group (s : State) (g : Nat) : RunGroup := mget RunGroup.init g s.groups
def State.setGroup (s : State) (g : Nat) (r : RunGroup) : State := { s with groups := mset RunGroup.init g r s.groups }
def State.updGroup (s : State) (g : Nat) (f : RunGroup → RunGroup) : State := s.setGroup g (f (s.group g))
def State.stack (s : State) (k : Nat) : Stack := mget Stack.init k s.hbmStacks
def State.setStack (s : State) (k : Nat) (v : Stack) : State := { s with hbmStacks := mset Stack.init k v s.hbmStacks }
def State.updStack (s : State) (k : Nat) (f : Stack → Stack) : State := s.setStack k (f (s.stack k))
def State.key (s : State) (k : Nat) : KeySlot := mget KeySlot.init k s.keys
def State.setKey (s : State) (k : Nat) (v : KeySlot) : State := { s with keys := mset KeySlot.init k v s.keys }
def State.quad (s : State) (q : Nat) : Quad := mget Quad.init q s.quads
def State.setQuad (s : State) (q : Nat) (v : Quad) : State := { s with quads := mset Quad.init q v s.quads }
def State.updQuad (s : State) (q : Nat) (f : Quad → Quad) : State := s.setQuad q (f (s.quad q))
def State.lane (s : State) (l : Nat) : Lane := mget Lane.init l s.lanes
def State.setLane (s : State) (l : Nat) (v : Lane) : State := { s with lanes := mset Lane.init l v s.lanes }
def State.updLane (s : State) (l : Nat) (f : Lane → Lane) : State := s.setLane l (f (s.lane l))
def State.bridge (s : State) (b : Nat) : Bridge := mget Bridge.init b s.bridges
def State.setBridge (s : State) (b : Nat) (v : Bridge) : State := { s with bridges := mset Bridge.init b v s.bridges }
def State.updBridge (s : State) (b : Nat) (f : Bridge → Bridge) : State := s.setBridge b (f (s.bridge b))
def State.engine (s : State) (e : Nat) : Engine := mget Engine.init e s.engines
def State.setEngine (s : State) (e : Nat) (v : Engine) : State := { s with engines := mset Engine.init e v s.engines }
def State.updEngine (s : State) (e : Nat) (f : Engine → Engine) : State := s.setEngine e (f (s.engine e))
def State.sess (s : State) (i : Nat) : Session := mget Session.init i s.sessions
def State.setSess (s : State) (i : Nat) (v : Session) : State := { s with sessions := mset Session.init i v s.sessions }
def State.updSess (s : State) (i : Nat) (f : Session → Session) : State := s.setSess i (f (s.sess i))
def State.trigInPin (s : State) (i : Nat) : TrigPin := mget TrigPin.init i s.trigIn
def State.setTrigIn (s : State) (i : Nat) (v : TrigPin) : State := { s with trigIn := mset TrigPin.init i v s.trigIn }
def State.trigOutPin (s : State) (i : Nat) : TrigPin := mget TrigPin.init i s.trigOut
def State.setTrigOut (s : State) (i : Nat) (v : TrigPin) : State := { s with trigOut := mset TrigPin.init i v s.trigOut }
def State.lockUnit (s : State) (u : Nat) : LockUnit := mget LockUnit.init u s.hub.units
def State.setLockUnit (s : State) (u : Nat) (v : LockUnit) : State :=
  { s with hub := { s.hub with units := mset LockUnit.init u v s.hub.units } }
def State.faultRec (s : State) (u : Nat) : Option FaultRec := mget none u s.faults.recs
def State.setFaultRec (s : State) (u : Nat) (r : Option FaultRec) : State :=
  { s with faults := { s.faults with recs := mset none u r s.faults.recs } }
def State.setHub (s : State) (h : Hub) : State := { s with hub := h }
def State.setDatum (s : State) (d : Datum) : State := { s with datum := d }
def State.setLog (s : State) (l : Logbook) : State := { s with log := l }
def State.setNet (s : State) (n : Net) : State := { s with net := n }
def State.setBoot (s : State) (b : Boot) : State := { s with boot := b }
def State.setThermal (s : State) (t : Thermal) : State := { s with thermal := t }
def State.setSent (s : State) (t : Sent) : State := { s with sent := t }

/-- Apply `f` for every number of a list, in order. -/
def forEach {σ : Type} (l : List Nat) (f : Nat → σ → σ) (s : σ) : σ := l.foldl (fun a i => f i a) s

/-- Change the first element that satisfies `p`. -/
def updFirst {α : Type} (p : α → Bool) (f : α → α) : List α → List α
  | [] => []
  | a :: l => if p a then f a :: l else a :: updFirst p f l

/-- A fresh free value of width `w`, and the state with the counter advanced. -/
def State.fresh (s : State) (w : Nat) : BitVec w × State :=
  (Config.freeValue s.freeCtr w, { s with freeCtr := s.freeCtr + 1 })

-- geometry (R13, R18)

/-- Sheet, row and column of a cluster. -/
def clSheet (c : Nat) : Nat := c / 256
def clRow (c : Nat) : Nat := c / 16 % 16
def clCol (c : Nat) : Nat := c % 16
def clAt (sheet row col : Nat) : Nat := sheet * 256 + row * 16 + col
/-- The physical parcel of a cluster, 0 to 31. -/
def clParcel (c : Nat) : Nat := 16 * clSheet c + 4 * (clRow c / 4) + clCol c / 4
/-- The cluster's number within its parcel. -/
def clIn (c : Nat) : Nat := 4 * (clRow c % 4) + clCol c % 4
/-- The cluster with a number within a parcel. -/
def clOf (parcel k : Nat) : Nat :=
  clAt (parcel / 16) (4 * (parcel % 16 / 4) + k / 4) (4 * (parcel % 4) + k % 4)
/-- The clusters of a parcel, and of several. -/
def parcelClusters (p : Nat) : List Nat := (List.range 16).map (clOf p)
def clustersOf (ps : List Nat) : List Nat := (ps.map parcelClusters).flatten
/-- The quads and the lanes of a sheet. -/
def quadSheet (q : Nat) : Nat := q / 18
def laneQuad (l : Nat) : Nat := l / 4
def quadLanes (q : Nat) : List Nat := (List.range 4).map (4 * q + ·)
/-- The numbers of the set bits of a mask of `w` bits. -/
def maskList (w m : Nat) : List Nat := (List.range w).filter fun i => bitOf m i
/-- The mask of a list of numbers. -/
def listMask (l : List Nat) : Nat := l.foldl (fun a i => a ||| 2 ^ i) 0
/-- The bank byte address of a word of a cluster (R166). -/
def bankAddr (c word : Nat) : Nat := (c * 65536 + word) * 8
/-- The HBM byte address of a 64-bit word of a stack (R182). -/
def hbmAddr (stack word : Nat) : Nat := stack * 2 ^ 36 + word * 8

/-- A parcel that failed factory test or the S2 test of this boot (R3, R442). -/
def State.failed (s : State) (p : Nat) : Bool := s.factory.contains p || s.s2Failed.contains p

/-- A parcel that no command may use: it failed, or its pair did in MIRRORED and DIFFERENTIAL pairing (R218, R244). -/
def State.unusable (s : State) (p : Nat) : Bool := s.failed p || (decide (2 ≤ s.boot.pairMode) && s.failed ((p + 16) % 32))

/-- Ownership of a parcel (R217). -/
def State.ownerOf (s : State) (p : Nat) : Option Nat :=
  if (s.parcel p).owned then some (s.parcel p).group else none

/-- The run groups that exist: those that hold a parcel (R116). -/
def State.runGroups (s : State) : List Nat := (s.groups.filter fun e => !e.2.parcels.isEmpty).map (·.1)

/-- The run group of a cluster, when its parcel is loaded. -/
def State.rgOfCluster (s : State) (c : Nat) : Option Nat := (s.parcel (clParcel c)).rg

/-- The physical clusters of a run group. -/
def RunGroup.clusters (r : RunGroup) : List Nat := clustersOf r.parcels

/-- The owner of a fault unit (R418). -/
def State.unitOwner (s : State) (u : Nat) : Option Nat :=
  if u < 32 then s.ownerOf u
  else if 36 ≤ u ∧ u < 72 then (if (s.quad (u - 36)).rg.isSome then some (s.quad (u - 36)).group else none)
  else if 72 ≤ u ∧ u < 80 then (if (s.bridge (u - 72)).rg.isSome then some (s.bridge (u - 72)).group else none)
  else none

/-- The service phase (R397): 0 BOOT, 1 PROVISIONAL, 2 FULL. -/
def State.phase (s : State) : Nat :=
  match s.boot.stage with
  | .s0 | .s1 | .s2 | .failed => 0
  | .s3s4 => 1
  | .s5 | .full => 2

/-- The hub runs its firmware: S1 has ended and the hub has not stopped (R397, R448, R416). -/
def State.hubUp (s : State) : Bool :=
  match s.boot.stage with
  | .s0 | .s1 | .failed => false
  | _ => !s.hub.reset

/-- The fault collector and the hub's routers run (R439): from the end of S1 on. -/
def State.running (s : State) : Bool :=
  match s.boot.stage with
  | .s0 | .s1 | .failed => false
  | _ => true

/-- The clocks run and the hub is not in reset: from S1 on (R24, R295, R440, R448). -/
def State.clocked (s : State) : Bool := decide (s.boot.stage ≠ .s0)

/-- LEGEND (R460). FW fields read 0 until S1 ends. -/
def State.legend (s : State) : Nat :=
  fieldAt 48 0x5C92 + fieldAt 40 1 + fieldAt 34 s.grade + fieldAt 24 2 + fieldAt 16 1
    + fieldAt 8 (s.boot.fwMajor % 256) + s.boot.fwMinor % 256

-- interrupts (R370, R377, R422)

/-- A quadword of a function's MSI-X table. PRESUMED 8: each vector's mask bit, bit 32 of the odd quadword, resets to 1. -/
def State.msixWord (s : State) (f q : Nat) : Word :=
  mget 0 (f * 64 + q) s.hub.msixTab ^^^ (if q % 2 = 1 then 0x100000000 else 0)

def State.setMsixWord (s : State) (f q : Nat) (v : Word) : State :=
  s.setHub { s.hub with
    msixTab := mset 0 (f * 64 + q) (v ^^^ (if q % 2 = 1 then 0x100000000 else 0)) s.hub.msixTab }

def State.msixPending (s : State) (f : Nat) : Nat := mget 0 f s.hub.msixPend

def State.setMsixPending (s : State) (f v : Nat) : State :=
  s.setHub { s.hub with msixPend := mset 0 f v s.hub.msixPend }

/-- Send vector `v` of function `f`; a masked vector becomes pending instead. -/
def State.irq (s : State) (f v : Nat) : State :=
  if bitOf (s.msixWord f (2 * v + 1)).toNat 32 then s.setMsixPending f (s.msixPending f ||| 2 ^ v)
  else s.setSent { s.sent with irqs := s.sent.irqs ++ [(f, v)] }

-- logbook hand-over (R433, R436)

/-- Hand a record to the logbook controller. A full queue of 64 drops it and counts the drop. -/
def State.logRaw (s : State) (kind flags : Nat) (stamp : Word) (epoch : BitVec 32) (payload : Nat) : State :=
  if s.log.queue.length < 64 then
    let r := s.fresh 64
    let record : LogRec :=
      { seq := 0, kind := kind, flags := flags, stamp := stamp, epoch := epoch, boots := s.log.boots, stbyUs := r.1,
        legend := if s.boot.stage = .s0 then 0 else BitVec.ofNat 64 s.legend
        payload := BitVec.ofNat 1664 payload }
    r.2.setLog { r.2.log with queue := r.2.log.queue ++ [record] }
  else s.setLog { s.log with
    dropped := satAdd 32 s.log.dropped 1, dropFirst := if s.log.dropped = 0 then stamp else s.log.dropFirst,
    dropLast := stamp }

/-- A record of the hub: it carries the datum time. -/
def State.logHub (s : State) (kind flags payload : Nat) : State :=
  s.logRaw kind flags s.datum.now s.datum.epoch payload

/-- A record that the controller writes on its own, with stamp 0 (R436). -/
def State.logCtl (s : State) (kind payload : Nat) : State := s.logRaw kind 2 0 0 payload

-- faults (R418 to R430)

/-- A fault at the moment it is raised. -/
structure FaultEv where
  code    : Nat
  unit    : Nat
  access  : Nat
  master  : Nat
  address : Nat
  cycle   : Word
deriving DecidableEq, Repr, Inhabited

/-- The class of a fault (R421). -/
def faultClass (code unit : Nat) : Nat :=
  if code = 0x2001 ∨ code = 0x2003 then 0
  else if code = 0x2004 then (if unit < 32 then 2 else 1)
  else if code = 0x1010 then 1
  else if code < 0x3000 then 2
  else if code = 0x5001 ∨ code = 0x6002 ∨ code = 0x6003 then 3
  else 1

/-- The codes in the order of R421. -/
def faultCodes : List Nat :=
  [0x1001, 0x1002, 0x1003, 0x1004, 0x1005, 0x1006, 0x1007, 0x1010, 0x2001, 0x2002, 0x2003, 0x2004, 0x3001, 0x3002,
   0x3003, 0x4001, 0x4002, 0x5001, 0x5002, 0x6001, 0x6002, 0x6003, 0x7001, 0x7002]

/-- The bit of FAULT_CODE_LIVE that tells an episode's live condition (R430); 7 for an event. -/
def liveBit (code : Nat) : Nat :=
  if code = 0x1010 then 0 else if code = 0x3002 then 1 else if code = 0x3003 then 2 else if code = 0x4001 then 3
  else if code = 0x6001 then 4 else if code = 0x7001 then 5 else if code = 0x7002 then 6 else 7

def State.liveBits (s : State) (u : Nat) : Nat := mget 0 u s.faults.live

/-- Whether the live condition of a code holds in a unit. -/
def State.isLive (s : State) (u code : Nat) : Bool := decide (liveBit code < 7) && bitOf (s.liveBits u) (liveBit code)

/-- The 64 bytes of a record as a little-endian number (R425). -/
def FaultRec.image (r : FaultRec) (live : Bool) : Nat :=
  r.unit + fieldAt 8 r.cls + fieldAt 16 r.access
    + fieldAt 24 (b2n live + 2 * b2n r.more + 4 * b2n r.replaced)
    + fieldAt 32 r.code + fieldAt 48 r.master + fieldAt 64 r.address.toNat + fieldAt 128 r.stamp.toNat
    + fieldAt 192 r.epoch.toNat + fieldAt 224 r.moreCnt + fieldAt 256 r.cycle.toNat + fieldAt 320 r.maxCls
    + fieldAt 328 r.group

/-- The record that an occurrence makes. -/
def FaultEv.record (e : FaultEv) (s : State) : FaultRec :=
  { unit := e.unit, cls := faultClass e.code e.unit, access := e.access, more := false, replaced := false,
    code := e.code, master := e.master, address := BitVec.ofNat 64 e.address, stamp := s.datum.now,
    epoch := s.datum.epoch, moreCnt := 0, cycle := e.cycle, maxCls := faultClass e.code e.unit,
    group := (s.unitOwner e.unit).getD 0xFF }

/-- The unit's record after an occurrence (R424), and whether it latched or its max_class rose. -/
def latchRec (old : Option FaultRec) (new : FaultRec) : FaultRec × Bool :=
  match old with
  | none => (new, true)
  | some r =>
    if r.cls = 0 ∧ 0 < new.cls then ({ new with replaced := true }, true)
    else ({ r with more := true, moreCnt := satAdd 32 r.moreCnt 1, maxCls := max r.maxCls new.cls },
          decide (r.maxCls < new.cls))

-- ready-list entries (R385 to R391)

/-- The status an ending command carries in the phase in force (R384, R397). -/
def State.okStatus (s : State) (status : Nat) : Nat :=
  if s.phase = 1 ∧ (status = 0 ∨ status = 2) then 4 else status

/-- The reply of a command that ends now. -/
def State.mkReply (s : State) (p : Packet) (status detail : Nat) (results : Nat) : Reply :=
  { tag := p.tag, status := s.okStatus status, detail := detail, time := s.datum.now,
    results := BitVec.ofNat 128 results }

/-- Whether an entry still runs or waits to run. -/
def Entry.open (e : Entry) : Bool :=
  match e.state with
  | .done _ => false
  | _ => true

/-- Whether an entry was fetched and does not yet execute. -/
def Entry.waiting (e : Entry) : Bool :=
  match e.state with
  | .queued | .prefetched _ => true
  | _ => false

/-- What an entry that its worker executes claims. -/
def Entry.claim? (e : Entry) : Option Claim :=
  match e.state with
  | .executing _ c => some c
  | _ => none

/-- Whether a worker may take an entry up: it is open, and does not wait for an event. -/
def Entry.live (e : Entry) : Bool :=
  match e.state with
  | .parked _ | .done _ => false
  | _ => true

/-- What the commands under way claim (R202, R209). -/
def State.claims (s : State) : List Claim := s.hub.entries.filterMap Entry.claim?

/-- A quad, a bridge or a trace engine that a load holds (R202). -/
def State.quadHeld (s : State) (q : Nat) : Bool := s.claims.any fun c => c.quads.contains q
def State.bridgeHeld (s : State) (b : Nat) : Bool := s.claims.any fun c => c.bridges.contains b
def State.engineHeld (s : State) (e : Nat) : Bool := s.claims.any fun c => c.engines.contains e

/-- A parcel that a load or an unload is at work on: CHECKING, LOADING or UNLOADING (R199, R209). -/
def State.inWork (s : State) (p : Nat) : Bool :=
  match (s.parcel p).load with
  | .checking | .loading | .unloading => true
  | _ => false

/-- Set the state of the oldest live entry of a packet, or append a fresh entry where there is none. -/
def setEntry (opcode : Nat) (p : Packet) (st : EntryState) : List Entry → List Entry
  | [] => [{ opcode := opcode, pkt := p, state := st }]
  | e :: r =>
    if e.live && decide (e.opcode = opcode) && decide (e.pkt = p) then { e with state := st } :: r
    else e :: setEntry opcode p st r

def State.setEntries (s : State) (l : List Entry) : State := s.setHub { s.hub with entries := l }

/-- The wait of a parked entry. -/
def Entry.wait? (e : Entry) : Option Wait :=
  match e.state with
  | .parked w => some w
  | _ => none

/-- Finish every parked command whose wait satisfies `f`, in dispatch order: `f` gives status, detail and results. -/
def State.finishParked (s : State) (f : Entry → Wait → Option (Nat × Nat × Nat)) : State :=
  s.setEntries (s.hub.entries.map fun e =>
    match e.wait? with
    | none => e
    | some w =>
      match f e w with
      | none => e
      | some (st, d, r) => { e with state := .done (s.mkReply e.pkt st d r) })

/-- Whether some parked command's wait satisfies `f`. -/
def State.anyParked (s : State) (f : Wait → Bool) : Bool :=
  s.hub.entries.any fun e => match e.wait? with | none => false | some w => f w

/-- Source 7 (R131). -/
def RunGroup.paused (r : RunGroup) : Bool := r.pauses.any (·.raised)

/-- Quads bound to a run group for cargo. -/
def State.cargoQuads (s : State) (g : Nat) : List Nat :=
  (List.range 36).filter fun q => decide ((s.quad q).rg = some g)

/-- Lanes of those quads. -/
def State.cargoLanes (s : State) (g : Nat) : List Nat := ((s.cargoQuads g).map quadLanes).flatten

/-- In MIRRORED and DIFFERENTIAL pairing both sheets work on one run group (R116, R241). -/
def State.paired (s : State) : Bool := decide (2 ≤ s.boot.pairMode)

/-- A survey of the run group is being captured (R232). -/
def RunGroup.capturing (r : RunGroup) : Bool := r.surveys.any (·.taking)

/-- Queue a CTRL message on a lane (R310). -/
def State.queueCtrl (s : State) (l : Nat) (m : CtrlMsg) : State := s.updLane l fun v => { v with ctrl := v.ctrl ++ [m] }

/-- The lanes of a run group that reach other parts. In MIRRORED and DIFFERENTIAL pairing East sends nothing (R245). -/
def State.outLanes (s : State) (g : Nat) : List Nat :=
  (s.cargoLanes g).filter fun l => !(s.paired && decide (72 ≤ l))

/-- Send a stop codeword on every cargo link of the design (R133, R134), but not on the quad `except`. -/
def State.sendStop (s : State) (g : Nat) (faultStop : Bool) (cycle : Word) (except : Option Nat := none) : State :=
  forEach ((s.outLanes g).filter fun l => decide (some (laneQuad l) ≠ except))
    (fun l t => t.queueCtrl l (.stop faultStop cycle)) s

/-- Send the fault stop codewords of a halt, once (R134). -/
def State.sendFaultStop (s : State) (g : Nat) : State :=
  let r := s.group g
  if r.halting.isSome ∧ r.joined ∧ r.faultSent = false ∧ r.state = .running then
    (s.updGroup g fun v => { v with faultSent := true }).sendStop g true r.cycle
  else s

/-- A mirrored write that was accepted in a pause of a run group has not reached both copies yet (R251). -/
def State.mirrorWriting (s : State) (g : Nat) : Bool :=
  decide (s.boot.pairMode = 2) && s.anyParked fun w => match w with
    | .bank c true _ _ _ _ => decide (s.rgOfCluster c = some g)
    | .atomicOp c _ _ => decide (s.rgOfCluster c = some g)
    | _ => false

/-- A RUN_STOP or a fault halt releases hold source 7: the pauses of a run group held on it end, and the commands that wait on them
are cancelled (R131, R400). While a mirrored write is under way the pauses in force are due to end, and end with it (R251). -/
def State.releasePause (s : State) (g : Nat) : State :=
  if (s.group g).paused then
    (s.updGroup g fun v => { v with pauses := if s.mirrorWriting g then
        (v.pauses.filter (·.raised)).map fun q => { q with again := some s.datum.now } else [] }).finishParked fun _ w => match w with
      | .pauseRaise h _ | .pauseRelease h => if h = g then some (0x8006, 0, 0) else none
      | _ => none
  else s

/-- A running group that has to halt at the end of its cycle in progress (R420). -/
def haltMark (code : Nat) (r : RunGroup) : RunGroup :=
  if r.state = .running ∧ r.halting = none then { r with halting := some code } else r

/-- A fault halt begins: the group is marked, released from source 7, and its fault stop codewords go out (R131, R134, R420). -/
def State.haltBegin (s : State) (g code : Nat) : State :=
  let t := s.updGroup g (haltMark code)
  if (s.group g).state = .running then (t.releasePause g).sendFaultStop g else t

/-- The run groups that a fault of a class halts: those that hold a parcel of the unit's owner (class 2), every one (class 3). -/
def State.haltFor (s : State) (cls unit code : Nat) : State :=
  forEach s.runGroups (fun g t =>
    if cls = 3 ∨ (cls = 2 ∧ (t.group g).parcels.any fun p =>
        (t.ownerOf p).isSome && decide (t.ownerOf p = t.unitOwner unit)) then t.haltBegin g code else t) s

/-- Drive FAULT_N low for a DEVICE pulse (R427). -/
def State.faultPulse (s : State) : State :=
  { s with faults := { s.faults with pulsing := true, driven := 0 },
           sent := { s.sent with pins := s.sent.pins ++ [(5, false)] } }

/-- SMB_ALERT_N is asserted (R449): a record of the DEVICE class is latched, or both copies have failed (R448). -/
def State.alert (s : State) : Bool :=
  decide (s.boot.stage = .failed) || s.faults.recs.any fun e => match e.2 with | some r => decide (r.cls = 3) | none => false

/-- SMB_ALERT_N, pin 6, is low while it is asserted: a change against `was` is an output (R478). -/
def State.alertOut (s : State) (was : Bool) : State :=
  if s.alert = was then s else s.setSent { s.sent with pins := s.sent.pins ++ [(6, was)] }

/-- A DEVICE-class fault meets the commands under way: the loads among them end with its code (R208). -/
def State.faultClaims (s : State) (code : Nat) : State :=
  s.setEntries (s.hub.entries.map fun e => match e.state with
    | .executing w c => { e with state := .executing w { c with fault := some (c.fault.getD code) } }
    | _ => e)

/-- Raise a fault (R420 to R426): count it, latch the unit's record, write the logbook, report it, halt what its class
halts, pulse FAULT_N. `extra` is a function that vector 31 is also sent to (the function of a failed session, R422). -/
def State.raise (s : State) (e : FaultEv) (extra : Option Nat := none) : State :=
  let cls := faultClass e.code e.unit
  let new := e.record s
  let l := latchRec (s.faultRec e.unit) new
  let k := faultCodes.idxOf e.code
  let was := s.alert
  let s := s.setFaultRec e.unit (some l.1)
  let s := { s with faults := { s.faults with cnt := mset 0 k (satAdd 48 (mget 0 k s.faults.cnt) 1) s.faults.cnt } }
  if cls = 0 then s else
  let s := s.logHub 0x10 (b2n (cls = 3)) (new.image (s.isLive e.unit e.code))
  let s := if l.2 then
      let s := s.irq 0 31
      let s := match s.unitOwner e.unit with
        | some f => if f = 0 then s else s.irq f 31
        | none => s
      match extra with
        | some f => if f = 0 then s else s.irq f 31
        | none => s
    else s
  let s := s.haltFor cls e.unit e.code
  if cls = 3 then ((s.faultClaims e.code).faultPulse).alertOut was else s

/-- Begin an episode: its live bit is set, and the fault is raised once (R421). -/
def State.beginEpisode (s : State) (e : FaultEv) : State :=
  if s.isLive e.unit e.code then s else
  let b := s.liveBits e.unit ||| 2 ^ liveBit e.code
  State.raise { s with faults := { s.faults with live := mset 0 e.unit b s.faults.live } } e

/-- End an episode: its live status clears. -/
def State.endEpisode (s : State) (u code : Nat) : State :=
  if s.isLive u code then
    { s with faults := { s.faults with live := mset 0 u (s.liveBits u - 2 ^ liveBit code) s.faults.live } }
  else s

/-- Clear a unit's first-error record (R419, R428). -/
def State.clearRec (s : State) (u : Nat) : State := s.setFaultRec u none

/-- Clear the records of some units, as a command asks (R428, R459). -/
def State.clearRecs (s : State) (us : List Nat) : State := (forEach us (fun u t => t.clearRec u) s).alertOut s.alert

/-- The master field of a design access of a cluster (R425). -/
def designMaster (c : Nat) : Nat := 0x8000 + clParcel c * 256 + clIn c * 16
/-- The master field of a session. -/
def sessionMaster (i : Nat) : Nat := 0x2000 + i
/-- The master field of an internal node (R350). -/
def nodeMaster (n : Nat) : Nat := 0x6000 + n
/-- The node of the Surveyor's supervisor (R350): hub region 2, router 1, unit 0. -/
def surveyorNode : Nat := 6

/-- The address field of the 0x1xxx codes (R426). -/
def schedAddr (c bp step kind item : Nat) : Nat :=
  bp % 64 + fieldAt 6 (clIn c) + fieldAt 10 (clParcel c) + fieldAt 16 (step % 4096) + fieldAt 28 kind + fieldAt 32 item

/-- The address field of 0x2001 and 0x2002 (R426) for a store of a cluster. -/
def storeAddr (store c bp entry : Nat) : Nat :=
  store + fieldAt 4 (clParcel c) + fieldAt 10 (clIn c) + fieldAt 14 (bp % 64) + fieldAt 20 entry

/-- The address field of 0x2003 and 0x2004 (R426). -/
def hbmFaultAddr (stack word : Nat) : Nat := word * 8 + fieldAt 62 stack

-- commits of staged pairs (R465 to R468)

/-- The handle of register block `block`, number `i`, with offset 0 (R451). -/
def instHandle (block i : Nat) : Nat := block * 2 ^ 24 + i * 2 ^ 12

/-- HUB_COMMIT_STAT takes a commit of either path (R468). -/
def State.noteCommit (s : State) (block i status : Nat) : State :=
  s.setBoot { s.boot with
    lastHandle := instHandle block i, lastStatus := s.okStatus status
    mismatches := if status = 0x8009 then satAdd 16 s.boot.mismatches 1 else s.boot.mismatches }

-- the end of S5 (R439)

/-- S5 ends once the datum is locked, or at once in role STANDALONE: as it starts (R450), else at a time in ms that is a free value. -/
def State.endS5 (s : State) (starts : Bool := false) : State :=
  if starts ∧ s.boot.stage = .s5 ∧ s.datum.role = 0 then s.setBoot { s.boot with stage := .full, s5Done := true, s5Ms := s.boot.fullMs }
  else if s.boot.stage = .s5 ∧ (s.datum.role = 0 ∨ s.datum.lock = 2) then
    let r := s.fresh 16
    r.2.setBoot { r.2.boot with stage := .full, s5Done := true, s5Ms := r.1.toNat }
  else s

end Sys2Proof.Machine
end

