-- ==== Sys2Proof/Machine/Operands.lean ====
section
/-! DEFINITION. Operands: the selectors of a BP instruction (R34 to R36), the port data latch (R68), receive slots (R100),
the error checks of the stores (R51 to R53), and the parameter fields of a command packet (R378, R381). -/
namespace Sys2Proof.Machine

/-- A decoded operand selector (R34). -/
inductive Sel where
  | value (e : Nat)
  | state (j : Nat)
  | xbar (b : Nat)
  | slot (r : Nat) (prior : Bool)
  | const (v : V4)
  | latch (k : Nat)
  | phase (k : Nat)
  | reserved
deriving DecidableEq, Repr

/-- Decode a selector (R34). -/
def selOf (w : BitVec 13) : Sel :=
  let n := w.toNat
  if n < 4096 then .value n
  else if bitsOf n 10 2 = 0 then .state (bitsOf n 0 10)
  else if bitsOf n 10 2 = 1 then (if bitsOf n 6 4 = 0 then .xbar (bitsOf n 0 6) else .reserved)
  else if bitsOf n 10 2 = 2 then (if bitOf n 9 then .reserved else .slot (bitsOf n 0 8) (bitOf n 8))
  else if bitsOf n 7 3 = 0 then (if bitsOf n 2 5 = 0 then .const (v4of n) else .reserved)
  else if bitsOf n 7 3 = 1 then (if bitsOf n 0 7 < 72 then .latch (bitsOf n 0 7) else .reserved)
  else if bitsOf n 7 3 = 2 then (if bitsOf n 0 7 ≤ 0x40 then .phase (bitsOf n 0 7) else .reserved)
  else .reserved

/-- The BP's cluster. -/
def bpCluster (bp : Nat) : Nat := bp / 64
/-- The BP's parcel. -/
def bpParcel (bp : Nat) : Nat := clParcel (bpCluster bp)

/-- GSR of a parcel is released: its stores hold design state. -/
def State.live (s : State) (p : Nat) : Bool := decide ((s.parcel p).load = .loaded)

def State.valueAt (s : State) (bp e : Nat) : V4 :=
  if s.live (bpParcel bp) then mget .x (bp * 4096 + e) s.values else .zero
def State.setValue (s : State) (bp e : Nat) (v : V4) : State := { s with values := mset .x (bp * 4096 + e) v s.values }
/-- The current copy of a state entry; X until GSR releases (R49, R203). -/
def State.curAt (s : State) (bp j : Nat) : V4 :=
  if s.live (bpParcel bp) then mget .x (bp * 1024 + j) s.cur else .x
def State.setCur (s : State) (bp j : Nat) (v : V4) : State := { s with cur := mset .x (bp * 1024 + j) v s.cur }
def State.stgAt (s : State) (bp j : Nat) : V4 :=
  if s.live (bpParcel bp) then mget .x (bp * 1024 + j) s.stg else .zero
def State.pendAt (s : State) (bp j : Nat) : Bool := mget false (bp * 1024 + j) s.pend
/-- Stage a value and set the pending flag (R43). -/
def State.setStaged (s : State) (bp j : Nat) (v : V4) : State :=
  { s with stg := mset .x (bp * 1024 + j) v s.stg, pend := mset false (bp * 1024 + j) true s.pend }
def State.resultAt (s : State) (bp : Nat) : V4 := if s.live (bpParcel bp) then mget .x bp s.result else .zero
def State.setResult (s : State) (bp : Nat) (v : V4) : State := { s with result := mset .x bp v s.result }
/-- A receive slot; the cleared slots of a parcel that is not LOADED hold zero (R214, R229). -/
def State.slotAt (s : State) (c r : Nat) : RSlot :=
  if s.live (clParcel c) then mget RSlot.init (c * 256 + r) s.slots else { val := .zero, written := false, step := 0 }
def State.setSlot (s : State) (c r : Nat) (v : RSlot) : State := { s with slots := mset RSlot.init (c * 256 + r) v s.slots }

/-- The key of a code word in `ecc`: store 0 instruction, 1 value, 2 state current, 3 send table, 4 quad schedule, 5 port
table, 6 bank, 7 free map, 8 state staged, 9 HBM, 10 send table shadow page, 11 quad schedule shadow page. -/
def eccKey (store word : Nat) : Nat := store * 2 ^ 44 + word

/-- How a code word reads: 0 clean, 1 correctable, 2 uncorrectable. -/
def State.eccAt (s : State) (store word : Nat) : Nat := mget 0 (eccKey store word) s.ecc

/-- A write with new check bits, or a written-back correction, leaves the word clean. -/
def State.eccClean (s : State) (store word : Nat) : State := { s with ecc := mset 0 (eccKey store word) 0 s.ecc }

/-- A write of part of a configuration word: a correctable word becomes clean; one in uncorrectable error stays so until a reload
(R53, R216). -/
def State.eccMerge (s : State) (store word : Nat) : State := if s.eccAt store word = 1 then s.eccClean store word else s

/-- The code word of an instruction: entries 4k to 4k + 3 of its BP (R51). -/
def insWord (bp step : Nat) : Nat := bp * 1024 + step / 4

/-- What reading an operand met besides its value. -/
inductive ReadEv where
  | stale (slot : Nat)
  | ce (store entry : Nat)
  | ue (store entry : Nat)
deriving DecidableEq, Repr

/-- The event of reading an entry of a checked store (R52, R53). -/
def eccEv (state store entry : Nat) : List ReadEv :=
  if state = 0 then [] else if state = 1 then [.ce store entry] else [.ue store entry]

/-- A value read through its check: X where the code word is uncorrectable (R53). -/
def eccVal (state : Nat) (v : V4) : V4 := if state < 2 then v else .x

/-- A single-bit read of the port data latch (R68). -/
def latchBit (p : Port) (k : Nat) : V4 := if p.lstate = .known then v4b (p.latch.getLsbD k) else .x

/-- A pair read of the port data latch (R68). -/
def latchPair (p : Port) (k : Nat) : V4 := if p.lstate = .known then v4of (bitsOf p.latch.toNat (2 * k) 2) else .x

/-- A receive slot operand (R100). -/
def slotRead (t : RSlot) (prior : Bool) (r : Nat) : V4 × List ReadEv :=
  if t.written || prior then (t.val, []) else (.x, [.stale r])

/-- A cycle-phase bit (R36). -/
def phaseBit (cycle : Word) (k : Nat) : V4 :=
  if k = 0x40 then v4b (decide (cycle = 0)) else v4b (cycle.getLsbD k)

/-- Read an operand (R34, R39, R41). A reserved selector does not reach here (R35). -/
def State.operand (s : State) (bp : Nat) (cycle : Word) (w : BitVec 13) : V4 × List ReadEv :=
  match selOf w with
  | .value e => (eccVal (s.eccAt 1 (bp * 512 + e / 8)) (s.valueAt bp e), eccEv (s.eccAt 1 (bp * 512 + e / 8)) 1 e)
  | .state j => (eccVal (s.eccAt 2 (bp * 128 + j / 8)) (s.curAt bp j), eccEv (s.eccAt 2 (bp * 128 + j / 8)) 2 j)
  | .xbar b => (s.resultAt (bpCluster bp * 64 + b), [])
  | .slot r prior => slotRead (s.slotAt (bpCluster bp) r) prior r
  | .const v => (v, [])
  | .latch k => (latchBit (s.cluster (bpCluster bp)).port k, [])
  | .phase k => (phaseBit cycle k, [])
  | .reserved => (.x, [])

-- packet parameters

/-- The number in `n` bytes at packet offset `off`, 20 or above (R378). -/
def par (p : Packet) (off n : Nat) : Nat := bitsOf p.params.toNat ((off - 20) * 8) (n * 8)

/-- Every parameter byte outside the listed (offset, size) ranges is zero (R381, R9). -/
def onlyPar (p : Packet) (used : List (Nat × Nat)) : Bool :=
  decide (used.foldl (fun v f => putBits v ((f.1 - 20) * 8) (f.2 * 8) 0) p.params.toNat = 0)

/-- The function of the submitting session (R368). -/
def callerFn (p : Packet) : Nat := p.session / 16

/-- A session of the physical function. -/
def callerPf (p : Packet) : Bool := decide (callerFn p = 0)

/-- Result bytes: a number placed at reply offset `off`, 16 or above. -/
def resAt (off v : Nat) : Nat := v * 2 ^ ((off - 16) * 8)

end Sys2Proof.Machine
end

