-- ==== Sys2Proof/Machine/Group.lean ====
section
/-! DEFINITION. Shared operations on run groups: their quads and lanes, raising faults in the order of a step (R424), and
stops that become due (R132, R133). -/
namespace Sys2Proof.Machine

/-- Raise the faults of one step: ascending code, and for one code the order of the list (R424). -/
def State.raiseAll (s : State) (evs : List FaultEv) : State :=
  (faultCodes.flatMap fun c => evs.filter fun e => decide (e.code = c)).foldl (fun t e => t.raise e) s

/-- Declared delay limit in steps of a class (R151). -/
def classLimit (cls : Nat) : Nat := if cls = 0 then 48 else if cls = 1 then 96 else if cls = 2 then 192 else 768

/-- A stop of a cause that is due in cycle `n` (R132, R133): at the end of `n`, or of `n + K` in a joined design, which then
sends the stop codeword once for each stop cycle. -/
def State.stopDue (s : State) (g cause : Nat) (n : Word) : State :=
  let r := s.group g
  let c := if r.joined then n + BitVec.ofNat 64 r.stopLead else n
  let req : StopReq := { cause := cause, cycle := c }
  if r.stops.contains req then s else
  let t := s.setGroup g { r with stops := r.stops ++ [req] }
  if r.joined ∧ r.seenStops.contains c = false then
    (t.updGroup g fun v => { v with seenStops := v.seenStops ++ [c] }).sendStop g false c
  else t

/-- The generator and the checker of a lane that leaves TEST stop (R322). -/
def Lane.endTest (v : Lane) : Lane := if v.state = .test then { v with gen := 0, chk := 0, chkLock := false } else v

/-- Full training of a lane starts (R315). -/
def Lane.startTraining (v : Lane) : Lane :=
  { v.endTest with state := .training, phase := 1, farDone := 0, trainDue := true, burst := 0, echoes := [], echoTag := none, preLast := 0 }

/-- The first phase of a training from stored settings (R315): rates 1 and 2 skip phase 3. -/
def Lane.storedPhase (v : Lane) : Nat := if v.rate = 0 then 3 else 4

/-- A lane in electrical idle is asked to carry traffic again (R319): two TRAIN codewords from stored settings, or full training
where there are none. -/
def Lane.exitIdle (v : Lane) : Lane :=
  if v.fec ≠ 0 ∨ v.held then v
  else if v.state = .idleTrained then
    (if v.stored then { v with trainDue := true, burst := 2, phase := 4, preLast := 0 } else v.startTraining)
  else if v.state = .idleUntrained then v.startTraining
  else v

/-- A lane that may not leave electrical idle for Fjarlek: one of East in MIRRORED and DIFFERENTIAL pairing (R242), one of a quad that
a bridge binds (R329), and every one while the lanes are held in reset (R423). -/
def State.pairHeld (s : State) (l : Nat) : Bool :=
  (s.paired && decide (72 ≤ l)) || (s.quad (laneQuad l)).bridge.isSome || s.boot.sheetsHeld

/-- A trained lane that carries traffic is told to enter electrical idle (R319): its SLEEP message goes first. -/
def Lane.goIdle (v : Lane) : Lane :=
  if v.state = .up ∧ v.fec = 0 then { v with ctrl := v.ctrl ++ [.sleep] } else v

/-- A lane is made to stay in electrical idle (R242, R329): one that carries traffic announces its silence first, and any other is
quiet at once. -/
def Lane.toIdle (v : Lane) : Lane :=
  if v.state = .off ∨ (v.state = .up ∧ v.fec = 0) then v.goIdle
  else { v with state := if v.stored then .idleTrained else .idleUntrained, trainDue := false, phase := 0, burst := 0, gen := 0, chk := 0
                chkLock := false }

/-- A load holds the lane in electrical idle (R203): one that carries traffic announces its silence, training and test end, and a lane that
is DOWN stops its attempts. -/
def Lane.holdIdle (v : Lane) : Lane :=
  match v.state with
  | .training | .test => { v with state := .idleUntrained, trainDue := false, phase := 0, burst := 0, gen := 0, chk := 0, chkLock := false }
  | .down => { v with trainDue := false, burst := 0 }
  | _ => v.goIdle

/-- No lane of the quad is DOWN any more (R421). -/
def State.endDown (s : State) (q : Nat) : State :=
  if (quadLanes q).any fun l => decide ((s.lane l).state = .down) then s else s.endEpisode (36 + q) 0x3002

/-- Add to counter `k` of a bridge, in the order of R347. -/
def State.insetCount (s : State) (b k n : Nat) : State :=
  s.updBridge b fun v => { v with cnt := mset 0 k (satAdd 48 (mget 0 k v.cnt) n) v.cnt }

/-- The run group of a parcel. -/
def State.rgOf (s : State) (p : Nat) : Option Nat := (s.parcel p).rg

/-- The image of a run group that holds a parcel. -/
def RunGroup.imageOf (r : RunGroup) (p : Nat) : Option Image := r.images.find? fun i => i.parcels.contains p

/-- The weighted limit of a budget class in one window (R142). -/
def heavyLimit (cls : Nat) : Nat :=
  if cls = 1 then 3072 else if cls = 2 then 6144 else if cls = 3 then 12288 else 24576

/-- Count heavy units in a parcel's window (R141). -/
def State.countHeavy (s : State) (p w : Nat) : State :=
  if w = 0 then s else s.updParcel p fun v => { v with heavy := v.heavy + w }

/-- Count a conflict of a dynamic master in a parcel: once in an opportunity, whatever bank withheld the grant (R178). -/
def State.countConflict (s : State) (p m : Nat) : State :=
  if mget 0 (p * 4 + m) s.confOpp = s.opp + 1 then s
  else State.updParcel { s with confOpp := mset 0 (p * 4 + m) (s.opp + 1) s.confOpp } p fun v =>
    { v with conf := v.conf.modify m fun n => satAdd 32 n 1 }

/-- Add bytes to the running mirror signature of a cluster (R248). -/
def State.sign (s : State) (c : Nat) (bytes : List Byte) : State :=
  if s.boot.pairMode = 2 ∧ bytes ≠ [] then s.updCluster c fun v => { v with sig := crc32cRun bytes v.sig } else s

/-- Indicative power of a budget class in units of 0.1 W (R142). -/
def classPower (c : Nat) : Nat := if c = 1 then 95 else if c = 2 then 105 else if c = 3 then 125 else 145

/-- A cap pair is consistent (R228). -/
def capOk (cls w : Nat) : Bool := decide (1 ≤ cls) && decide (cls ≤ 4) && decide (classPower cls ≤ w)

end Sys2Proof.Machine
end

