-- ==== Sys2Proof/Machine/BP.lean ====
section
/-! DEFINITION. The BP instructions (R54 to R74): what one instruction yields from the state before its step, and how its
results are written (R37 to R44, R53). A step of a run group and the row of one instruction use the same two functions. -/
namespace Sys2Proof.Machine

/-- What an instruction does in its step. -/
structure BpOut where
  result  : Option V4            -- none for NOP
  cur     : Option (Nat × V4)    -- LATCH write
  stage   : Option (Nat × V4)    -- FFNEXT value staged
  port    : Option (Bool × Nat × V4)  -- PORTWR: pair mode, position, operand
  tap     : Option (Nat × V4)
  event   : Option (Nat × Bool)  -- ASSERT: id, X
  stop    : Bool
  illegal : Option Nat           -- ILLEGAL_OP and its access code
  heavy   : Bool
  reads   : List ReadEv
deriving DecidableEq, Repr

/-- An instruction that yields a result and nothing else. -/
def BpOut.plain (v : V4) (reads : List ReadEv) : BpOut :=
  { result := some v, cur := none, stage := none, port := none, tap := none, event := none, stop := false,
    illegal := none, heavy := false, reads := reads }

/-- The X of R35. -/
def BpOut.bad (access : Nat) : BpOut := { BpOut.plain .x [] with illegal := some access }

/-- The fields of an instruction word (R54). -/
structure InsWord where
  op : Nat
  tt : BitVec 16
  a  : BitVec 13
  b  : BitVec 13
  c  : BitVec 13
  d  : BitVec 13
deriving DecidableEq, Repr

def insOf (w : BitVec 72) : InsWord :=
  { op := (w.extractLsb' 68 4).toNat, tt := w.extractLsb' 52 16, a := w.extractLsb' 39 13, b := w.extractLsb' 26 13,
    c := w.extractLsb' 13 13, d := w.extractLsb' 0 13 }

/-- The operand fields that an opcode reads (R56). -/
def InsWord.reads (i : InsWord) : List (BitVec 13) :=
  match i.op with
  | 1 | 2 | 3 | 4 => [i.a, i.b, i.c, i.d]
  | 5 => [i.a, i.b]
  | 6 => [i.a, i.b, i.c]
  | 7 => [i.a, i.b, i.d]
  | 8 => if i.tt.getLsbD 0 then [i.a, i.b, i.d] else [i.a, i.d]
  | 10 | 11 | 13 | 14 => [i.a]
  | _ => []

/-- The state entry that opd_d names (R65, R66). -/
def stateTarget (d : BitVec 13) : Option Nat :=
  match selOf d with
  | .state j => some j
  | _ => none

/-- Bits [6:0] and [5:0] of a tt immediate. -/
def ttPos (tt : BitVec 16) : Nat := bitsOf tt.toNat 0 7
def ttPair (tt : BitVec 16) : Nat := bitsOf tt.toNat 0 6

/-- The access code with which a reserved encoding is raised, or none (R35, R74). DEDUCED 9: 4 (fetch) for a reserved opcode,
5 (scheduled) for a reserved field. -/
def InsWord.illegal (i : InsWord) : Option Nat :=
  if i.op = 15 then some 4
  else if i.reads.any fun w => decide (selOf w = .reserved) then some 5
  else if (i.op = 7 ∨ i.op = 8) ∧ stateTarget i.d = none then some 5
  else if i.op = 4 ∧ 6 ≤ bitsOf i.tt.toNat 0 3 then some 5
  else if i.op = 9 ∧ (if i.tt.getLsbD 7 then 36 ≤ ttPair i.tt else 72 ≤ ttPos i.tt) then some 5
  else if i.op = 10 ∧ (if i.tt.getLsbD 7 then 36 ≤ ttPair i.tt else 106 ≤ ttPos i.tt) then some 5
  else none

/-- An issue of LUT4X or MUX2X in the sense of R48. -/
def InsWord.exactIssue (i : InsWord) : Bool := (decide (i.op = 1) || decide (i.op = 6)) && i.illegal.isNone

/-- What instruction `i` of BP `bp` yields at step `step` of cycle `cycle` in state `s`. `exact` is false for a clash loser. A trireg
reads its held value through the check of the value store (R64, R51). DESIGN CHOICE 91: an FFNEXT whose entry is pending reads and
checks the staged copy alone. -/
def bpEval (s : State) (bp step : Nat) (cycle : Word) (exact : Bool) (i : InsWord) : BpOut :=
  match i.illegal with
  | some acc => BpOut.bad acc
  | none =>
    let rd := s.operand bp cycle
    let a := rd i.a
    let b := rd i.b
    let c := rd i.c
    let d := rd i.d
    let all := a.2 ++ b.2 ++ c.2 ++ d.2
    match i.op with
    | 0 => { BpOut.plain .x [] with result := none }
    | 1 => { BpOut.plain (if exact then lut4x i.tt a.1 b.1 c.1 d.1 else lut4p i.tt a.1 b.1 c.1 d.1) all with heavy := true }
    | 2 => BpOut.plain (lut4p i.tt a.1 b.1 c.1 d.1) all
    | 3 => BpOut.plain (lut2s i.tt a.1 b.1 c.1 d.1) all
    | 4 =>
      let kind := bitsOf i.tt.toNat 0 3
      let e := s.eccAt 1 (bp * 512 + step / 8)
      BpOut.plain (resolve kind (i.tt.getLsbD 3) a.1 b.1 c.1 d.1 (eccVal e (s.valueAt bp step)))
        (all ++ (if kind = 5 then eccEv e 1 step else []))
    | 5 => BpOut.plain (caseq (i.tt.getLsbD 0) a.1 b.1) (a.2 ++ b.2)
    | 6 => { BpOut.plain (mux2x exact a.1 b.1 c.1) (a.2 ++ b.2 ++ c.2) with heavy := true }
    | 7 =>
      let j := (stateTarget i.d).getD 0
      let n := latchNew (i.tt.getLsbD 0) a.1 b.1 d.1
      { BpOut.plain (n.getD d.1) (a.2 ++ b.2 ++ d.2) with cur := n.map fun v => (j, v) }
    | 8 =>
      let j := (stateTarget i.d).getD 0
      let e := s.eccAt 8 (bp * 128 + j / 8)
      let base := if s.pendAt bp j then (eccVal e (s.stgAt bp j), eccEv e 8 j) else d
      let useEn := i.tt.getLsbD 0
      let n := ffNew useEn (i.tt.getLsbD 1) a.1 b.1 base.1
      { BpOut.plain (n.getD base.1) (a.2 ++ (if useEn then b.2 else []) ++ base.2) with stage := n.map fun v => (j, v) }
    | 9 =>
      let p := (s.cluster (bpCluster bp)).port
      BpOut.plain (if i.tt.getLsbD 7 then latchPair p (ttPair i.tt) else latchBit p (ttPos i.tt)) []
    | 10 =>
      let pair := i.tt.getLsbD 7
      { BpOut.plain a.1 a.2 with port := some (pair, if pair then ttPair i.tt else ttPos i.tt, a.1) }
    | 11 => { BpOut.plain a.1 a.2 with tap := some (ttPair i.tt, a.1) }
    | 12 => BpOut.plain (v4of (bitsOf i.tt.toNat 0 2)) []
    | 13 =>
      { BpOut.plain (lg a.1) a.2 with
        event := if lg a.1 = .zero then none else some (bitsOf i.tt.toNat 0 10, decide (lg a.1 = .x)) }
    | 14 =>
      { BpOut.plain (lg a.1) a.2 with
        stop := decide (lg a.1 = .one) || (i.tt.getLsbD 0 && decide (lg a.1 = .x)) }
    | _ => BpOut.bad 4

/-- Set bit `k` of a word. -/
def setBit {w : Nat} (x : BitVec w) (k : Nat) (b : Bool) : BitVec w :=
  if b then x ||| BitVec.ofNat w (2 ^ k) else x &&& ~~~(BitVec.ofNat w (2 ^ k))

/-- PORTWR (R70). -/
def portWrite (p : Port) (pair : Bool) (pos : Nat) (v : V4) : Port :=
  if pair then
    { p with staging := setBit (setBit p.staging (2 * pos) (v4code v % 2 = 1)) (2 * pos + 1) (2 ≤ v4code v) }
  else if pos < 72 then { p with staging := setBit p.staging pos (two v) }
  else if pos < 88 then { p with x := setBit p.x (pos - 72) (two v), xu := setBit p.xu (pos - 72) (!known v) }
  else if pos < 104 then { p with y := setBit p.y (pos - 88) (two v), yu := setBit p.yu (pos - 88) (!known v) }
  else if pos = 104 then { p with bankWen := lg v }
  else { p with hbmWen := lg v }

/-- A fault of a BP in a step. -/
def bpFault (code access bp step : Nat) (cycle : Word) (address : Nat) : FaultEv :=
  { code := code, unit := bpParcel bp, access := access, master := designMaster (bpCluster bp),
    address := if 0x2000 ≤ code then address else schedAddr (bpCluster bp) bp step (bitsOf address 28 4) (bitsOf address 32 24),
    cycle := cycle }

/-- A write into a value or state word that is in error (R52, R53): a correctable word is corrected and counted; in an
uncorrectable one the other seven entries become X. The new entry is written by the caller. -/
def eccWrite (s : State) (store bp entry step : Nat) (cycle : Word) : State × List FaultEv :=
  let per := if store = 1 then 512 else 128
  let word := bp * per + entry / 8
  let e := s.eccAt store word
  if e = 0 then (s, []) else
  let fault := bpFault (if e = 1 then 0x2001 else 0x2002) 5 bp step cycle
    (storeAddr (if store = 8 then 2 else store) (bpCluster bp) bp entry)
  let s := s.eccClean store word
  if e = 1 then (s, [fault])
  else
    let idx := (List.range 8).map fun k => entry / 8 * 8 + k
    (forEach idx (fun k t =>
      if store = 1 then t.setValue bp k .x else if store = 2 then t.setCur bp k .x
      else { t with stg := mset .x (bp * 1024 + k) .x t.stg }) s, [fault])

/-- The consequences of what reading met: STALE_SLOT, and the error checks of the stores (R52, R53, R100). DESIGN CHOICE 91: two
operands in one correctable code word are two uses, and count SRAM_CE twice. -/
def readFaults (s : State) (bp step : Nat) (cycle : Word) : List ReadEv → State × List FaultEv
  | [] => (s, [])
  | .stale r :: l =>
    let t := readFaults s bp step cycle l
    (t.1, bpFault 0x1003 5 bp step cycle (fieldAt 28 1 + fieldAt 32 r) :: t.2)
  | .ce st e :: l =>
    let t := readFaults (s.eccClean st (bp * (if st = 1 then 512 else 128) + e / 8)) bp step cycle l
    (t.1, bpFault 0x2001 5 bp step cycle (storeAddr (if st = 8 then 2 else st) (bpCluster bp) bp e) :: t.2)
  | .ue st e :: l =>
    let t := readFaults s bp step cycle l
    (t.1, bpFault 0x2002 5 bp step cycle (storeAddr (if st = 8 then 2 else st) (bpCluster bp) bp e) :: t.2)

/-- Whether assertion matcher `m` matches an event (R266). -/
def amatch (m : AMatcher) (id : Nat) (isX : Bool) : Bool :=
  decide ((id &&& m.mask) = (m.id &&& m.mask)) && bitOf m.val (b2n isX)

/-- The matcher marks of a cluster after an event, compared as it is posted (R72, R266). -/
def markMatches (ms : List AMatcher) (id : Nat) (isX : Bool) (step : Nat) (m : SMap (Option Nat)) : SMap (Option Nat) :=
  (List.range ms.length).foldl (fun acc k =>
    if (ms[k]?.map fun x => amatch x id isX) = some true then
      mset none k (some (match mget none k acc with | none => step | some t => min t step)) acc
    else acc) m

/-- The engine that watches a cluster: that of its sheet, when it is bound to the cluster's run group and lists it (R258). -/
def State.watcher (s : State) (c : Nat) : Option Engine :=
  let e := s.engine (clSheet c)
  if e.rg.isSome ∧ e.rg = s.rgOfCluster c ∧ e.clusters.contains (c % 256) then some e else none

/-- ASSERT: compare, then enter the FIFO of 16 events (R72). -/
def postEvent (s : State) (bp step : Nat) (cycle : Word) (id : Nat) (isX : Bool) : State × List FaultEv :=
  let c := bpCluster bp
  let v := s.cluster c
  let ms := match s.watcher c with | some e => e.matchers | none => []
  let v := { v with matched := markMatches ms id isX step v.matched }
  if v.asserts.length < 16 then
    (s.setCluster c { v with asserts := v.asserts ++ [{ cycle := cycle, step := step, id := id, isX := isX, bp := bp % 64 }] }, [])
  else (s.setCluster c v, [bpFault 0x1004 5 bp step cycle (fieldAt 28 4 + fieldAt 32 4)])

/-- Write what an instruction yields (stage WB, R37). DEDUCED 9: the ILLEGAL_OP of a reserved field is raised here, in the step that
executes the instruction, though R35 makes the check in FE. -/
def bpApply (s : State) (g bp step : Nat) (cycle : Word) (o : BpOut) : State × List FaultEv :=
  let c := bpCluster bp
  let r := readFaults s bp step cycle o.reads
  let s := r.1
  let f := r.2 ++ (match o.illegal with | some acc => [bpFault 0x1007 acc bp step cycle 0] | none => [])
  let (s, f) := match o.cur with
    | some (j, v) => let e := eccWrite s 2 bp j step cycle; (e.1.setCur bp j v, f ++ e.2)
    | none => (s, f)
  let (s, f) := match o.stage with
    | some (j, v) => let e := eccWrite s 8 bp j step cycle; (e.1.setStaged bp j v, f ++ e.2)
    | none => (s, f)
  let (s, f) := match o.result with
    | some v => let e := eccWrite s 1 bp step step cycle; ((e.1.setValue bp step v).setResult bp v, f ++ e.2)
    | none => (s.setResult bp .x, f)
  let s := match o.port with
    | some (pair, pos, v) => s.updCluster c fun k => { k with port := portWrite k.port pair pos v }
    | none => s
  let s := match o.tap with
    | some (pos, v) => s.updCluster c fun k => { k with port := { k.port with probe := mset .x pos v k.port.probe } }
    | none => s
  let (s, f) := match o.event with
    | some (id, x) => let e := postEvent s bp step cycle id x; (e.1, f ++ e.2)
    | none => (s, f)
  let s := if o.stop then s.stopDue g 1 cycle else s
  (if o.heavy then s.countHeavy (bpParcel bp) 1 else s, f)

/-- The running run group of a BP's cluster whose next step is to execute, with that step (R118). -/
def State.runningAt (s : State) (c : Nat) : Option (Nat × RunGroup) :=
  match s.rgOfCluster c with
  | none => none
  | some g => if (s.group g).state = .running ∧ (s.group g).step < (s.group g).n then some (g, s.group g) else none

/-- Execute one instruction of one BP at the next step of its run group, alone: the evaluator of its group is its own. Where the
run group runs no step, nothing happens (R49). -/
def oneIns (s : State) (bp : Nat) (i : InsWord) : State :=
  match s.runningAt (bpCluster bp) with
  | none => s
  | some (g, r) =>
    let o := bpEval s bp r.step r.cycle true i
    let t := bpApply s g bp r.step r.cycle o
    t.1.raiseAll t.2

/-- The outcome of a row that names BP `bp`. -/
def bpRow (s : State) (bp : Nat) (i : InsWord) : Host.Outcome State Fault Refusal :=
  if bp < 32768 then .next (oneIns s bp i) else .fault .noSuchUnit

def execNop (bp : Nat) (s : State) : Host.Outcome State Fault Refusal := bpRow s bp { op := 0, tt := 0, a := 0, b := 0, c := 0, d := 0 }

def execLut4x (bp : Nat) (tt : BitVec 16) (a b c d : BitVec 13) (s : State) : Host.Outcome State Fault Refusal :=
  bpRow s bp { op := 1, tt := tt, a := a, b := b, c := c, d := d }

def execLut4p (bp : Nat) (tt : BitVec 16) (a b c d : BitVec 13) (s : State) : Host.Outcome State Fault Refusal :=
  bpRow s bp { op := 2, tt := tt, a := a, b := b, c := c, d := d }

def execLut2s (bp : Nat) (tt : BitVec 16) (a b c d : BitVec 13) (s : State) : Host.Outcome State Fault Refusal :=
  bpRow s bp { op := 3, tt := tt, a := a, b := b, c := c, d := d }

def execResolve (bp : Nat) (tt : BitVec 16) (a b c d : BitVec 13) (s : State) : Host.Outcome State Fault Refusal :=
  bpRow s bp { op := 4, tt := tt, a := a, b := b, c := c, d := d }

def execCaseq (bp : Nat) (tt : BitVec 16) (a b : BitVec 13) (s : State) : Host.Outcome State Fault Refusal :=
  bpRow s bp { op := 5, tt := tt, a := a, b := b, c := 0, d := 0 }

def execMux2x (bp : Nat) (a b c : BitVec 13) (s : State) : Host.Outcome State Fault Refusal :=
  bpRow s bp { op := 6, tt := 0, a := a, b := b, c := c, d := 0 }

def execLatch (bp : Nat) (tt : BitVec 16) (a b d : BitVec 13) (s : State) : Host.Outcome State Fault Refusal :=
  bpRow s bp { op := 7, tt := tt, a := a, b := b, c := 0, d := d }

def execFfnext (bp : Nat) (tt : BitVec 16) (a b d : BitVec 13) (s : State) : Host.Outcome State Fault Refusal :=
  bpRow s bp { op := 8, tt := tt, a := a, b := b, c := 0, d := d }

def execPortrd (bp : Nat) (tt : BitVec 16) (s : State) : Host.Outcome State Fault Refusal :=
  bpRow s bp { op := 9, tt := tt, a := 0, b := 0, c := 0, d := 0 }

def execPortwr (bp : Nat) (tt : BitVec 16) (a : BitVec 13) (s : State) : Host.Outcome State Fault Refusal :=
  bpRow s bp { op := 10, tt := tt, a := a, b := 0, c := 0, d := 0 }

def execTap (bp : Nat) (tt : BitVec 16) (a : BitVec 13) (s : State) : Host.Outcome State Fault Refusal :=
  bpRow s bp { op := 11, tt := tt, a := a, b := 0, c := 0, d := 0 }

def execConst (bp : Nat) (tt : BitVec 16) (s : State) : Host.Outcome State Fault Refusal :=
  bpRow s bp { op := 12, tt := tt, a := 0, b := 0, c := 0, d := 0 }

def execAssert (bp : Nat) (tt : BitVec 16) (a : BitVec 13) (s : State) : Host.Outcome State Fault Refusal :=
  bpRow s bp { op := 13, tt := tt, a := a, b := 0, c := 0, d := 0 }

def execStop (bp : Nat) (tt : BitVec 16) (a : BitVec 13) (s : State) : Host.Outcome State Fault Refusal :=
  bpRow s bp { op := 14, tt := tt, a := a, b := 0, c := 0, d := 0 }

/-- RESERVED_OPCODE: the whole word is given, and executes as it decodes; a reserved one writes X and raises ILLEGAL_OP. -/
def execReservedOpcode (bp : Nat) (w : BitVec 72) (s : State) : Host.Outcome State Fault Refusal := bpRow s bp (insOf w)

end Sys2Proof.Machine
end

