-- ==== Sys2Proof/Machine/Port.lean ====
section
/-! DEFINITION. The cluster port (R75 to R87): bank slots, HBM requests, inset words, ships, and the landing of loads. A
step of a run group and the row of one port operation use the same functions. -/
namespace Sys2Proof.Machine

/-- What a port action leaves: the state, the faults of the step, and bytes for the mirror signature (R248). -/
structure PortOut where
  s    : State
  f    : List FaultEv
  sig  : List Byte
deriving DecidableEq, Repr

/-- A fault of a cluster's port in a step. `kind` and `item` as R426. -/
def portFault (code access c step : Nat) (cycle : Word) (kind item : Nat) : FaultEv :=
  { code := code, unit := clParcel c, access := access, master := designMaster c,
    address := schedAddr c 0 step kind item, cycle := cycle }

/-- The data of a bank word. -/
def State.bankWord (s : State) (c w : Nat) : Word := memWord s.bank (bankAddr c w)

/-- Write a bank word: it becomes clean, and a write-back of it is cancelled (R170, R171). -/
def State.bankStore (s : State) (c w : Nat) (d : Word) : State :=
  let s := State.eccClean { s with bank := memSetWord (bankAddr c w) d s.bank } 6 (c * 65536 + w)
  if (s.cluster c).wb = some w then s.updCluster c fun v => { v with wb := none } else s

/-- Read a bank word through its check (R170, R171): none where it is uncorrectable. -/
def State.bankRead (s : State) (c w access master : Nat) (cycle : Word) : Option Word × State × List FaultEv :=
  let e := s.eccAt 6 (c * 65536 + w)
  let ev (code : Nat) : FaultEv :=
    { code := code, unit := clParcel c, access := access, master := master, address := storeAddr 6 c 0 w, cycle := cycle }
  if e = 0 then (some (s.bankWord c w), s, [])
  else if e = 1 then
    let s := if (s.cluster c).wb = none then s.updCluster c fun v => { v with wb := some w } else s
    (some (s.bankWord c w), s, [ev 0x2001])
  else (none, s, [ev 0x2002])

/-- The word address of a bank slot, none where it is unknown (R78). -/
def slotAddr (p : Port) (slot : Slot) (ad : PortAddr) : Option Nat :=
  match slot with
  | .a => if ad.idx && decide (p.xu ≠ 0) then none else some ((ad.addr.toNat + (if ad.idx then p.x.toNat else 0)) % 65536)
  | .b => if ad.idx && decide (p.yu ≠ 0) then none else some ((ad.addr.toNat + (if ad.idx then p.y.toNat else 0)) % 65536)

/-- The step in which a bank slot's load lands (R79). -/
def slotLanding (slot : Slot) (step : Nat) : Nat :=
  match slot with | .a => step + 6 | .b => step + 7

def State.addLanding (s : State) (c : Nat) (l : Landing) : State :=
  s.updCluster c fun v => { v with landings := v.landings ++ [l] }

/-- A load that loads the latch unknown. -/
def Landing.unknown (step : Nat) : Landing := { step := step, hbm := false, data := 0, known := false, ready := true }

/-- A scheduled bank read (R78, R79): the array access; its check comes one or two executed steps later (R168). `forced` loads the latch
unknown (R82), and so does an uncorrectable word (R171). -/
def bankSlotRead (s : State) (c : Nat) (slot : Slot) (addr : Option Nat) (forced : Bool) (step : Nat) : PortOut :=
  let land := slotLanding slot step
  match addr with
  | none => { s := s.addLanding c (.unknown land), f := [], sig := [] }
  | some w =>
    let e := s.eccAt 6 (c * 65536 + w)
    let l : Landing :=
      if 2 ≤ e then .unknown land
      else { step := land, hbm := false, data := (s.bankWord c w).setWidth 72, known := !forced, ready := true }
    let k : BankCheck := { wait := (match slot with | .a => 1 | .b => 2), word := w, mark := e }
    let t := s.addLanding c l
    { s := if e = 0 then t else t.updCluster c fun v => { v with checks := v.checks ++ [k] }, f := [], sig := [] }

/-- What the check of a scheduled read finds (R168, R170, R171): SRAM_CE and the write-back register, or SRAM_UE. A word that has been
written since needs no write-back. -/
def bankCheck (c : Nat) (cycle : Word) (s : State) (k : BankCheck) : State × List FaultEv :=
  let ev (code : Nat) : FaultEv :=
    { code := code, unit := clParcel c, access := 5, master := designMaster c, address := storeAddr 6 c 0 k.word, cycle := cycle }
  if k.mark = 1 then
    (if (s.cluster c).wb = none ∧ s.eccAt 6 (c * 65536 + k.word) = 1 then s.updCluster c fun v => { v with wb := some k.word } else s,
      [ev 0x2001])
  else (s, [ev 0x2002])

/-- The checks of scheduled reads that fall in this step. -/
def checkBanks (s : State) (c : Nat) (cycle : Word) : State × List FaultEv :=
  let l := (s.cluster c).checks
  if l = [] then (s, []) else
  let due := l.filter fun k => decide (k.wait ≤ 1)
  let s := s.updCluster c fun v =>
    { v with checks := (l.filter fun k => decide (1 < k.wait)).map fun k => { k with wait := k.wait - 1 } }
  due.foldl (fun a k => let r := bankCheck c cycle a.1 k; (r.1, a.2 ++ r.2)) (s, [])

/-- What a write under an enable stores (R78): nothing for 0, all ones for X. -/
def enabledData (en : V4) (d : Word) : Option Word :=
  match en with
  | .one => some d
  | .zero => none
  | _ => some (BitVec.allOnes 64)

/-- A scheduled slot A write of a word that an atomic holds between its slots abandons the atomic (R177). -/
def State.abandonAtomic (s : State) (c : Nat) (slot : Slot) (w : Nat) : State :=
  match slot, (s.cluster c).second with
  | .a, some (word, _) =>
    if word = w then (s.updCluster c fun v => { v with second := none }).countConflict (clParcel c) 3 else s
  | _, _ => s

/-- A scheduled bank write of the staging word, under an enable (R78). -/
def bankSlotWrite (s : State) (c : Nat) (slot : Slot) (addr : Option Nat) (en : V4) (d : Word) : PortOut :=
  match addr, enabledData en d with
  | some w, some v =>
    let tag : Byte := match slot with | .a => 0xA0 | .b => 0xB0
    { s := (s.bankStore c w v).abandonAtomic c slot w, f := [], sig := tag :: leBytes 2 w ++ leBytes 8 v.toNat }
  | _, _ => { s := s, f := [], sig := [] }

/-- One bank slot of a port instruction: operation 1 read, 2 write, 3 write if enabled (R76). -/
def bankSlot (s : State) (p : Port) (c : Nat) (slot : Slot) (op : Nat) (ad : PortAddr) (forced : Bool) (step : Nat) : PortOut :=
  match op with
  | 1 => bankSlotRead s c slot (slotAddr p slot ad) forced step
  | 2 => bankSlotWrite s c slot (slotAddr p slot ad) .one (p.staging.setWidth 64)
  | 3 => bankSlotWrite s c slot (slotAddr p slot ad) p.bankWen (p.staging.setWidth 64)
  | _ => { s := s, f := [], sig := [] }

/-- One slot reads and the other writes one word in one step (R82). -/
def collides (p : Port) (aop bop : Nat) (a b : PortAddr) : Bool :=
  (slotAddr p .a a).isSome && decide (slotAddr p .a a = slotAddr p .b b)
    && ((decide (aop = 1) && decide (2 ≤ bop)) || (decide (2 ≤ aop) && decide (bop = 1)))

/-- The HBM budget that the cluster's image declares (R148). -/
def State.budgetOf (s : State) (c : Nat) : Nat :=
  match s.rgOfCluster c with
  | none => 0
  | some g => (((s.group g).imageOf (clParcel c)).map (·.hbmBudget)).getD 0

/-- The 33-bit HBM offset, none where it is unknown (R78, R183). -/
def hbmOff (p : Port) (ad : PortAddr) : Option Nat :=
  if ad.idx then (if p.xu = 0 ∧ p.yu = 0 then some (ad.addr.toNat + p.y.toNat * 65536 + p.x.toNat) else none)
  else some ad.addr.toNat

/-- The offset within the cluster's window, and the word of the stack (R183). -/
def winOff (v : Cluster) (off : Nat) : Nat := off % 2 ^ v.winLog
def winWord (v : Cluster) (off : Nat) : Nat := v.winBase + winOff v off
/-- The stack of a cluster's window (R183, R16). -/
def winStack (c : Nat) (v : Cluster) : Nat := 2 * clSheet c + v.winSide

/-- The parcels of a cluster's image that its row-pair crosses: they share 16 entries of the HBM request queue each (R154). -/
def State.rowPairParcels (s : State) (c : Nat) : List Nat :=
  let p := clParcel c
  match s.rgOfCluster c with
  | none => [p]
  | some g => match (s.group g).imageOf p with
    | none => [p]
    | some i => i.parcels.filter fun q => decide (q / 16 = p / 16) && decide (q % 16 / 4 = p % 16 / 4)

/-- The entries of the HBM request queue that a cluster shares, and those in use (R154). -/
def State.rowPairShare (s : State) (c : Nat) : Nat := 16 * (s.rowPairParcels c).length
def State.rowPairUse (s : State) (c : Nat) : Nat :=
  ((((s.rowPairParcels c).flatMap parcelClusters).filter fun k => decide (clRow k / 2 = clRow c / 2)).map
    fun k => (s.cluster k).reqs.length).sum

/-- A port HBM operation: 1 read, 2 write, 3 write if enabled (R76, R78, R83, R154). DESIGN CHOICE 91: a write that finds one of its two
queues full enters neither, the request queue judged first; a cluster without a window finds the request queue full. -/
def hbmOp (s : State) (p : Port) (c op : Nat) (ad : PortAddr) (step : Nat) (cycle : Word) : PortOut :=
  let v := s.cluster c
  let off := hbmOff p ad
  let land := step + s.budgetOf c
  let full := decide (s.rowPairShare c ≤ s.rowPairUse c) || decide (2 ≤ v.winSide)
  let req : HbmReq :=
    { cycle := cycle, step := step, isWrite := decide (2 ≤ op), stack := winStack c v, word := off.map (winWord v),
      wdata := none, sent := decide (op = 1), applied := false, rdata := none, back := false }
  if op = 0 then { s := s, f := [], sig := [] }
  else if op = 1 then
    if full then { s := s.addLanding c (.unknown land), f := [portFault 0x1004 5 c step cycle 4 1], sig := [] }
    else
      let t := s.setCluster c { v with reqs := v.reqs ++ [req] }
      let l : Landing := { step := land, hbm := true, data := 0, known := false, ready := off.isNone }
      { s := t.addLanding c l, f := [], sig := [] }
  else
    let en := if op = 3 then p.hbmWen else .one
    let w := if off.isNone then none else enabledData en (p.staging.setWidth 64)
    let sig := match off, w with
      | some o, some d => (0xC0 : Byte) :: leBytes 5 (winOff v o) ++ leBytes 8 d.toNat
      | _, _ => []
    if full then { s := s, f := [portFault 0x1004 5 c step cycle 4 1], sig := sig }
    else if 8 ≤ v.staged.length then { s := s, f := [portFault 0x1004 5 c step cycle 4 0], sig := sig }
    else
      { s := s.setCluster c { v with reqs := v.reqs ++ [{ req with wdata := w }], staged := v.staged ++ [.hbm cycle step] },
        f := [], sig := sig }

/-- The bridge that a port of a sheet reaches: East ports of a paired part work on the replica (R245). -/
def State.portBridge (s : State) (c b : Nat) : Nat := if s.paired ∧ clSheet c = 1 then b % 4 + 4 else b

/-- Bit fields of the word that a receive loads (R84). -/
def insetWord (f : BFrame) (pos : Nat) : BitVec 72 :=
  let n := f.bytes.length
  let left := n - pos
  BitVec.ofNat 72 (leNat ((f.bytes.drop pos).take 8) + fieldAt 64 1 + fieldAt 65 (b2n (pos = 0))
    + fieldAt 66 (b2n (left ≤ 8)) + fieldAt 67 (if left < 8 then left else 0) + fieldAt 70 (b2n f.error))

/-- Append to a stamp log of 4,096 entries; the oldest gives way and is counted (R344, R347). -/
def stampLog (log : List StampEntry) (e : StampEntry) : List StampEntry × Nat :=
  if log.length < 4096 then (log ++ [e], 0) else (log.drop 1 ++ [e], 1)

/-- Pop the next word of the inbound inset stream queue (R83, R84, R340, R344). An empty queue gives a word with valid 0. -/
def insetPop (b : Bridge) (step : Nat) (cycle : Word) : BitVec 72 × Bridge :=
  match b.rxQ with
  | [] => (0, b)
  | f :: rest =>
    let w := insetWord f b.rxPos
    let b := if b.rxPos = 0 then
        let e : StampEntry :=
          { seq := b.rxSeq, length := f.bytes.length, error := f.error, stamp := f.stamp, cycle := cycle, step := step }
        let l := stampLog b.rxLog e
        { b with rxLog := l.1, rxSeq := b.rxSeq + 1, lost := satAdd 32 b.lost l.2 }
      else b
    if f.bytes.length ≤ b.rxPos + 8 then (w, { b with rxQ := rest, rxPos := 0 }) else (w, { b with rxPos := b.rxPos + 8 })

/-- Entries of the outbound inset stream queue in use; an open frame counts (R342). -/
def Bridge.txUse (b : Bridge) : Nat := b.txQ.length + (if b.txOpen.isSome then 1 else 0)

/-- The inset status word (R85). The link bit of a replica is that of the West bridge (R245). DESIGN CHOICE 91: a head frame of which
words have been received counts until its last word is popped. -/
def State.insetStatus (s : State) (b : Nat) : Nat :=
  let v := s.bridge b
  v.rxQ.length + fieldAt 8 (16 - v.txUse)
    + fieldAt 16 (b2n ((s.bridge (if s.paired then b % 4 else b)).link = .up))

/-- Inset operations of a port instruction: 1 receive, 2 send, 3 status (R76). -/
def insetOp (s : State) (p : Port) (c op bridge step : Nat) (cycle : Word) : PortOut :=
  let b := s.portBridge c bridge
  match op with
  | 1 =>
    let bound := (s.bridge b).rg.isSome && decide ((s.bridge b).rg = s.rgOfCluster c)
    let r := if bound then insetPop (s.bridge b) step cycle else (0, s.bridge b)
    let l : Landing := { step := step + 4, hbm := false, data := r.1, known := true, ready := true }
    { s := (s.setBridge b r.2).addLanding c l, f := [], sig := [] }
  | 2 =>
    let v := s.cluster c
    if p.staging.getLsbD 64 = false then { s := s, f := [], sig := [] }
    else
      let sig := (0xD0 : Byte) :: leBytes 9 p.staging.toNat
      if 8 ≤ v.staged.length then { s := s, f := [portFault 0x1004 5 c step cycle 4 0], sig := sig }
      else { s := s.setCluster c { v with staged := v.staged ++ [.inset b p.staging cycle step] }, f := [], sig := sig }
  | 3 =>
    let l : Landing :=
      { step := step + 1, hbm := false, data := BitVec.ofNat 72 (s.insetStatus b), known := true, ready := true }
    { s := s.addLanding c l, f := [], sig := [] }
  | _ => { s := s, f := [], sig := [] }

/-- Ship the probe register (R71, R83, R259): the compare latch always takes it; the FIFO of 32 samples when the engine listens.
Where no engine watches the cluster the ship is accepted and discarded (R254). -/
def ship (s : State) (p : Port) (c step : Nat) (cycle : Word) : PortOut :=
  let v := s.cluster c
  match s.watcher c with
  | none => { s := s, f := [], sig := [] }
  | some e =>
    let v := { v with compare := p.probe }
    if e.state ≠ .armed ∧ e.state ≠ .filling then { s := s.setCluster c v, f := [], sig := [] }
    else if v.taps.length < 32 then
      { s := s.setCluster c { v with taps := v.taps ++ [{ cycle := cycle, nth := e.cycles, probe := p.probe }] }, f := [], sig := [] }
    else { s := s.setCluster c v, f := [portFault 0x1004 5 c step cycle 4 3], sig := [] }

/-- Chain port actions. -/
def PortOut.andThen (o : PortOut) (f : State → PortOut) : PortOut :=
  let n := f o.s
  { s := n.s, f := o.f ++ n.f, sig := o.sig ++ n.sig }

/-- The fields of a port instruction word (R75). -/
structure PortIns where
  aop : Nat
  bop : Nat
  a   : PortAddr
  b   : PortAddr
  hop : Nat
  h   : PortAddr
  iop : Nat
  br  : Nat
  ship : Bool
  rsv : Nat
deriving DecidableEq, Repr

def portInsOf (w : BitVec 72) : PortIns :=
  { aop := (w.extractLsb' 70 2).toNat, bop := (w.extractLsb' 68 2).toNat,
    a := { addr := w.extractLsb' 50 16, idx := w.getLsbD 67 }, b := { addr := w.extractLsb' 34 16, idx := w.getLsbD 66 },
    hop := (w.extractLsb' 32 2).toNat, h := { addr := w.extractLsb' 15 16, idx := w.getLsbD 31 },
    iop := (w.extractLsb' 12 3).toNat, br := (w.extractLsb' 9 3).toNat, ship := w.getLsbD 8,
    rsv := (w.extractLsb' 0 8).toNat }

/-- A reserved port word (R86). -/
def PortIns.bad (i : PortIns) : Bool := decide (4 ≤ i.iop) || decide (i.rsv ≠ 0)

/-- The heavy units of a port word (R76, R141). -/
def PortIns.heavy (i : PortIns) : Nat :=
  (if i.aop = 0 then 0 else 2) + (if i.bop = 0 then 0 else 2) + (if i.hop = 0 then 0 else 4)

/-- The port's work in one step (R77, R82, R86). `p` is the write side as the step before left it. DESIGN CHOICE 91: a reserved port word
raises ILLEGAL_OP with access 4. -/
def portStep (s : State) (p : Port) (c step : Nat) (cycle : Word) (w : BitVec 72) : PortOut :=
  let i := portInsOf w
  let e := s.eccAt 5 (c * 4096 + step)
  let fe (code : Nat) : FaultEv :=
    { code := code, unit := clParcel c, access := 4, master := designMaster c, address := storeAddr 5 c 0 step, cycle := cycle }
  if e = 2 then { s := s, f := [fe 0x2002], sig := [] }
  else if i.bad then { s := s, f := [portFault 0x1007 4 c step cycle 0 0], sig := [] }
  else
    let ce : PortOut := if e = 1 then { s := s.eccClean 5 (c * 4096 + step), f := [fe 0x2001], sig := [] }
      else { s := s, f := [], sig := [] }
    let col := collides p i.aop i.bop i.a i.b
    let cf := if col then [portFault 0x1006 5 c step cycle 3 ((slotAddr p .a i.a).getD 0)] else []
    let o := ((((ce.andThen fun t => bankSlot t p c .a i.aop i.a (col && decide (i.aop = 1)) step).andThen
      fun t => bankSlot t p c .b i.bop i.b (col && decide (i.bop = 1)) step).andThen
      fun t => hbmOp t p c i.hop i.h step cycle).andThen
      fun t => insetOp t p c i.iop i.br step cycle).andThen
      fun t => if i.ship then ship t p c step cycle else { s := t, f := [], sig := [] }
    { o with s := o.s.countHeavy (clParcel c) i.heavy, f := cf ++ o.f }

/-- Land the loads of a step (R79): each replaces the latch and its state. -/
def landAt (step : Nat) (v : Cluster) : Cluster :=
  let due := v.landings.filter fun l => decide (l.step = step) && l.ready
  let port := due.foldl (fun p l => { p with latch := l.data, lstate := if l.known then .known else .unknown }) v.port
  { v with port := port, landings := v.landings.filter fun l => !(decide (l.step = step) && l.ready) }

/-- A landed HBM read frees its request queue entry (R154). -/
def freeLanded (budget : Nat) (cycle : Word) (step : Nat) (v : Cluster) : Cluster :=
  { v with reqs := v.reqs.filter fun q => !(!q.isWrite && decide (q.cycle = cycle) && decide (q.step + budget = step)) }

def landCluster (s : State) (c step : Nat) (cycle : Word) : State :=
  let b := s.budgetOf c
  s.updCluster c fun v => if v.landings = [] then v else freeLanded b cycle step (landAt step v)

/-- The outcome of a row that names a cluster: the action at the next step of its run group. Where the run group runs no step,
nothing happens. -/
def portRow (s : State) (c : Nat) (f : State → Port → Nat → Word → PortOut) : Host.Outcome State Fault Refusal :=
  if c < 512 then
    match s.runningAt c with
    | none => .next s
    | some (_, r) =>
      let o := f s (s.cluster c).port r.step r.cycle
      .next ((o.s.sign c o.sig).raiseAll o.f)
  else .fault .noSuchUnit

/-- A heavy port action of weight `w` on its own (R141). -/
def withHeavy (w c : Nat) (o : PortOut) : PortOut := { o with s := o.s.countHeavy (clParcel c) w }

def execBankRead (cl : Nat) (slot : Slot) (ad : PortAddr) (s : State) : Host.Outcome State Fault Refusal :=
  portRow s cl fun t p step _ => withHeavy 2 cl (bankSlot t p cl slot 1 ad false step)

def execBankWrite (cl : Nat) (slot : Slot) (ad : PortAddr) (s : State) : Host.Outcome State Fault Refusal :=
  portRow s cl fun t p step _ => withHeavy 2 cl (bankSlot t p cl slot 2 ad false step)

def execBankWriteIfEnable (cl : Nat) (slot : Slot) (ad : PortAddr) (s : State) : Host.Outcome State Fault Refusal :=
  portRow s cl fun t p step _ => withHeavy 2 cl (bankSlot t p cl slot 3 ad false step)

def execHbmRead (cl : Nat) (ad : PortAddr) (s : State) : Host.Outcome State Fault Refusal :=
  portRow s cl fun t p step cycle => withHeavy 4 cl (hbmOp t p cl 1 ad step cycle)

def execHbmWrite (cl : Nat) (ad : PortAddr) (s : State) : Host.Outcome State Fault Refusal :=
  portRow s cl fun t p step cycle => withHeavy 4 cl (hbmOp t p cl 2 ad step cycle)

def execHbmWriteIfEnable (cl : Nat) (ad : PortAddr) (s : State) : Host.Outcome State Fault Refusal :=
  portRow s cl fun t p step cycle => withHeavy 4 cl (hbmOp t p cl 3 ad step cycle)

def execInsetReceive (cl bridge : Nat) (s : State) : Host.Outcome State Fault Refusal :=
  if bridge < 8 then portRow s cl fun t p step cycle => insetOp t p cl 1 bridge step cycle else .fault .noSuchUnit

def execInsetSend (cl bridge : Nat) (s : State) : Host.Outcome State Fault Refusal :=
  if bridge < 8 then portRow s cl fun t p step cycle => insetOp t p cl 2 bridge step cycle else .fault .noSuchUnit

def execInsetStatus (cl bridge : Nat) (s : State) : Host.Outcome State Fault Refusal :=
  if bridge < 8 then portRow s cl fun t p step cycle => insetOp t p cl 3 bridge step cycle else .fault .noSuchUnit

def execProbeShip (cl : Nat) (s : State) : Host.Outcome State Fault Refusal :=
  portRow s cl fun t p step cycle => ship t p cl step cycle

/-- PORT_LOAD_LANDING: the loads whose landing step is the next step reach the latch (R79). -/
def execPortLoadLanding (cl : Nat) (s : State) : Host.Outcome State Fault Refusal :=
  portRow s cl fun t _ step cycle => { s := landCluster t cl step cycle, f := [], sig := [] }

end Sys2Proof.Machine
end

