-- ==== Sys2Proof/Machine/Wiring.lean ====
section
/-! DEFINITION. Scheduled wiring (R88 to R111, R485, R486) and the fences it passes (R223 to R227): sends, segments,
arrivals, Fjarlek cargo. -/
namespace Sys2Proof.Machine

-- send table fields (R95, R96)

/-- A valid field of a send table entry, decoded. `route` is that of `Flight`. -/
structure SendField where
  mesh  : Bool
  route : Nat
  chan  : Nat
  src   : Nat
  slot  : Nat
  dist  : Nat
  tag   : Nat      -- field number 0 to 23
deriving DecidableEq, Repr

/-- The cluster `k` clusters along a mesh direction: 0 N, 1 E, 2 S, 3 W (R91: none beyond the sheet edge). -/
def meshMove (c dir k : Nat) : Option Nat :=
  let r := clRow c
  let x := clCol c
  match dir with
  | 0 => if r + k < 16 then some (clAt (clSheet c) (r + k) x) else none
  | 1 => if x + k < 16 then some (clAt (clSheet c) r (x + k)) else none
  | 2 => if k ≤ r then some (clAt (clSheet c) (r - k) x) else none
  | _ => if k ≤ x then some (clAt (clSheet c) r (x - k)) else none

/-- Position along a track: the row on a meridian, the global column on a parallel (R92). -/
def trackPos (c route : Nat) : Nat := if route < 2 then clRow c else 16 * clSheet c + clCol c

/-- The cluster at a position of the track through `c`. -/
def trackAt (c route pos : Nat) : Nat :=
  if route < 2 then clAt (clSheet c) pos (clCol c) else clAt (pos / 16) (clRow c) (pos % 16)

/-- The cluster after `i` moves of a flight's path. -/
def pathCl (c : Nat) (mesh : Bool) (route i : Nat) : Nat :=
  if mesh then (meshMove c route i).getD c
  else trackAt c route (if route % 2 = 0 then trackPos c route + i else trackPos c route - i)

/-- Latency of a global send over `d` positions (R89, R93). -/
def globalLat (d : Nat) (cross : Bool) : Nat := 4 + ceilDiv d 4 + (if cross then 8 else 0)

/-- Mesh field `j` of an entry (R95), none where it is idle or the loader would refuse it (R485). -/
def meshField (e : BitVec 512) (c p n j : Nat) : Option SendField :=
  let w := bitsOf e.toNat (16 * j) 16
  let hops := if bitOf w 14 then 2 else 1
  if bitOf w 15 ∧ (meshMove c (j / 4) hops).isSome ∧ p + 2 * hops < n then
    some { mesh := true, route := j / 4, chan := j % 4, src := bitsOf w 8 6, slot := bitsOf w 0 8, dist := hops, tag := j }
  else none

/-- A track of a column or row of a sheet in one direction (R159): the line is that of a cluster and a route. -/
def trackKey (c route track : Nat) : Nat :=
  ((clSheet c * 4 + route) * 16 + (if route < 2 then clCol c else clRow c)) * 128 + track

/-- Whether a track from `c` crosses the sheet bridge to reach `dst`. -/
def crosses (c route dst : Nat) : Bool := decide (2 ≤ route) && decide (dst / 16 ≠ clSheet c)

/-- Global field `j` of an entry (R96), none where it is idle or the loader would refuse it (R92, R485). DESIGN CHOICE 100: in MIRRORED
pairing (mode 2) East holds the tables of West (R248), and a parallel dst there names the column of East that mirrors it. -/
def globalField (mode : Nat) (e : BitVec 512) (c p n j : Nat) : Option SendField :=
  let w := bitsOf e.toNat (256 + 32 * j) 32
  let route := bitsOf w 29 2
  let dst := bitsOf w 8 5 + (if mode = 2 ∧ 2 ≤ route then 16 * clSheet c else 0)
  let a := trackPos c route
  let d := if route % 2 = 0 then dst - a else a - dst
  let x := crosses c route dst
  if bitOf w 31 ∧ bitsOf w 13 3 = 0 ∧ (route < 2 → dst < 16) ∧ 1 ≤ d ∧ (x = true → mode = 1) ∧ p + globalLat d x < n then
    some { mesh := false, route := route, chan := bitsOf w 16 7, src := bitsOf w 23 6, slot := bitsOf w 0 8, dist := d,
           tag := 16 + j }
  else none

/-- The sends of an entry at step `p` of a run group of depth `n` in a pairing mode, ascending field. -/
def sendFields (mode : Nat) (e : BitVec 512) (c p n : Nat) : List SendField :=
  if e = 0 then [] else
  (List.range 16).filterMap (meshField e c p n) ++ (List.range 8).filterMap (globalField mode e c p n)

/-- Active send table entry of a cluster, as fetched (R114). -/
def State.sendEntry (s : State) (c p : Nat) : BitVec 512 :=
  match mget none (c * 4096 + p) s.fetchSnd with
  | some e => e
  | none => mget 0 (c * 4096 + p) s.sendAct

/-- Active quad schedule entry, as fetched (R114). -/
def State.quadEntry (s : State) (q e : Nat) : BitVec 40 :=
  match mget none (q * 32768 + e) s.fetchQd with
  | some w => w
  | none => mget 0 (q * 32768 + e) s.quadAct

-- fences (R223 to R226)

/-- Key of the fence cell that a segment into cluster `d` passes. `leg` is the leg of a mesh channel. -/
def fenceKey (d : Nat) (mesh : Bool) (route chan leg : Nat) : Nat :=
  d * 2048 + (if mesh then 1024 + ((route * 4 + chan) * 2 + leg) else route * 128 + chan)

/-- The fence default byte of a cluster for values that enter it from an edge: 0 N, 1 E, 2 S, 3 W (R225). -/
def fenceByte (v : Cluster) (edge : Nat) : Nat := bitsOf v.fence.toNat (8 * edge) 8

/-- The edge across which a value enters: opposite to its direction. -/
def entryEdge (mesh : Bool) (route : Nat) : Nat :=
  if mesh then (route + 2) % 4
  else match route with | 0 => 2 | 1 => 0 | 2 => 3 | _ => 1

/-- A parcel whose fences are closed whatever its tag (R223). -/
def State.fenceShut (s : State) (p : Nat) : Bool := !(s.parcel p).owned || (s.parcel p).asleep || s.failed p

/-- What a fence does: 0 closed, 1 passes, 2 presents the default (R223). -/
def State.fenceCase (s : State) (u d : Nat) : Nat :=
  if s.fenceShut u || s.fenceShut d || decide ((s.parcel u).group ≠ (s.parcel d).group) then 0
  else if s.live u && s.live d && (s.parcel u).rg.isSome && decide ((s.parcel u).rg = (s.parcel d).rg) then 1
  else 2

/-- The default that a cluster's edge presents (R225, R226). -/
def State.fenceDefault (s : State) (d : Nat) (edge key : Nat) : V4 :=
  if s.live (clParcel d) then
    match fenceByte (s.cluster d) edge with
    | 1 => .zero | 2 => .one | 3 => .z | 4 => mget .x key s.fences | _ => .x
  else .x

/-- A flight passes from cluster `u` to cluster `d`: its value, and the cell's held value (R223, R226). A value that a closed fence has
stopped yields inside another owner's parcels: the cells there do not hold it (R224). -/
def State.fencePass (s : State) (f : Flight) (u d leg : Nat) : Flight × State :=
  if clParcel u = clParcel d then (f, s) else
  let key := fenceKey d f.mesh f.route f.chan leg
  match s.fenceCase (clParcel u) (clParcel d) with
  | 0 => ({ f with val := .x }, s)
  | 1 => (f, if s.ownerOf (clParcel d) = some f.owner then { s with fences := mset .x key f.val s.fences } else s)
  | _ => ({ f with val := s.fenceDefault d (entryEdge f.mesh f.route) key }, s)

-- segments (R93, R94, R110)

/-- The age at which a flight occupies its segment `i`. DEDUCED 10: a mesh send occupies its first channel at p + 1 and its
second at p + 3. -/
def segAge (f : Flight) (i : Nat) : Nat :=
  if f.mesh then 1 + 2 * i
  else 1 + i / 4 + (if clSheet (pathCl f.cl f.mesh f.route i) = clSheet f.cl then 0 else 8)

/-- The segments a flight occupies at its age. -/
def Flight.segs (f : Flight) : List Nat := (List.range f.dist).filter fun i => decide (segAge f i = f.age)

def Flight.at (f : Flight) (i : Nat) : Nat := pathCl f.cl f.mesh f.route i

/-- Identity of a track segment: where it starts, its route and track. -/
def segKey (f : Flight) (i : Nat) : Nat := (f.at i * 4 + f.route) * 128 + f.chan

/-- The track segments a flight occupies inside its owner's parcels (R111: elsewhere it occupies none). -/
def State.segKeys (s : State) (f : Flight) : List Nat :=
  if f.mesh then [] else
  (f.segs.filter fun i => decide (s.ownerOf (clParcel (f.at (i + 1))) = some f.owner)).map (segKey f)

/-- A segment on which two or more sends meet. -/
def clashKeys (l : List Nat) : List Nat := l.eraseDups.filter fun k => decide (2 ≤ l.count k)

/-- Move a flight over its segments of this step: the X of a clash, which a fence on the segment passes too (R110, R226), and the
fences. -/
def State.moveFlight (s : State) (clash : List Nat) (f : Flight) : Flight × State :=
  f.segs.foldl (fun a i =>
    let hit := !f.mesh && clash.contains (segKey f i)
    let r := a.2.fencePass (if hit then { a.1 with val := .x } else a.1) (f.at i) (f.at (i + 1)) (if f.mesh then i else 0)
    (if hit then { r.1 with val := .x } else r.1, r.2)) (f, s)

/-- Move every flight of a list. -/
def State.moveFlights (s : State) (clash : List Nat) : List Flight → List Flight × State
  | [] => ([], s)
  | f :: r =>
    let m := s.moveFlight clash f
    let t := m.2.moveFlights clash r
    (m.1 :: t.1, t.2)

/-- The fault of a clash on a segment: the cluster that the segment enters (R110, R418). -/
def segFault (f : Flight) (i step : Nat) (cycle : Word) : FaultEv :=
  portFault 0x1002 5 (f.at (i + 1)) step cycle 2
    ((if f.route = 0 then 0 else if f.route = 1 then 1 else f.route) + 4 * f.chan + 512 * trackPos (f.at i) f.route)

/-- A run group has moved its flights in the current opportunity. -/
def State.hasMoved (s : State) (h : Nat) : Bool :=
  (s.group h).moved || (decide ((s.group h).lastOpp = some s.opp) && (s.group h).ranLast)

/-- Age the flights of the run groups that execute a step in one opportunity, each by its step, and move them (R93). One clash detection
takes them all with those of the groups that have moved in the same opportunity (R110, R486). -/
def State.moveAll (s : State) (gs : List Nat) : State × List FaultEv :=
  let gs := gs.filter fun g => decide ((s.group g).flights ≠ [])
  if gs = [] then (s, []) else
  let mine := gs.map fun g => (g, (s.group g).flights.map fun f => { f with age := f.age + 1 })
  let others := s.runGroups.filter fun h => !gs.contains h && s.hasMoved h
  let theirs := others.flatMap fun h => (s.group h).flights
  let keys := mine.flatMap fun x => x.2.flatMap s.segKeys
  let clash := clashKeys (keys ++ theirs.flatMap s.segKeys)
  let hit (f : Flight) : Bool := (s.segKeys f).any clash.contains
  let s1 := forEach others (fun h t => t.updGroup h fun v =>
    { v with flights := v.flights.map fun f => if hit f then { f with val := .x } else f }) s
  let faults := (clash.filter keys.contains).filterMap fun k => mine.findSome? fun x => x.2.findSome? fun f =>
    (f.segs.find? fun i => !f.mesh && decide (segKey f i = k)).map fun i => segFault f i (s.group x.1).step (s.group x.1).cycle
  (mine.foldl (fun t x => let m := t.moveFlights clash x.2; m.2.updGroup x.1 fun v => { v with flights := m.1 }) s1, faults)

-- arrivals (R99, R110, R486)

/-- A flight's latency. -/
def Flight.latency (f : Flight) : Nat :=
  if f.mesh then 2 * f.dist else globalLat f.dist (decide (clSheet (f.at f.dist) ≠ clSheet f.cl))

/-- Start the list of arrivals of an opportunity. -/
def State.openArrivals (s : State) : State :=
  if s.arrOpp = s.opp then s else { s with arrOpp := s.opp, arrSlots := [], arrDrops := [] }

/-- Write a value into a receive slot: X and DRIVE_CLASH where another arrival reaches it in the same opportunity (R99,
R110). -/
def arrive (s : State) (c r : Nat) (v : V4) (tag step : Nat) (cycle : Word) : State × List FaultEv :=
  let s := s.openArrivals
  let k := c * 256 + r
  let m := s.arrSlots.count k
  let t := State.setSlot { s with arrSlots := k :: s.arrSlots } c r
    { val := if m = 0 then v else .x, written := true, step := tag }
  (t, if m = 1 then [portFault 0x1002 5 c step cycle 1 r] else [])

/-- The order in which drops of one step count (R110). -/
def dropRank (f : Flight) : Nat := (if f.mesh then 0 else if f.route < 2 then 1 else 2) * 256 + f.chan * 2 + f.route % 2

/-- Deliver an arrival. A drop beyond the eighth of a cluster in an opportunity writes X (R110). Its tag, and the record of a clash,
take the step and the cycle of the run group that receives it (R425, R486). -/
def deliver (s : State) (g step : Nat) (cycle : Word) (f : Flight) : State × List FaultEv :=
  let c := f.at f.dist
  let p := clParcel c
  if s.ownerOf p ≠ some f.owner ∨ s.live p = false then (s, []) else
  let s := s.openArrivals
  let n := s.arrDrops.count c
  let excess := !f.mesh && decide (8 ≤ n)
  let s := if f.mesh then s else { s with arrDrops := c :: s.arrDrops }
  let rcv : Nat × Word := if (s.parcel p).rg = some g then (step, cycle) else match (s.parcel p).rg with
    | some h => ((s.group h).step, (s.group h).cycle)
    | none => (step, cycle)
  let r := arrive s c f.slot (if excess then .x else f.val) rcv.1 rcv.1 rcv.2
  (r.1, (if excess && decide (n = 8) then [portFault 0x1002 5 c rcv.1 rcv.2 1 f.slot] else []) ++ r.2)

/-- Fold a step action over a list, collecting faults. -/
def foldFaults {α : Type} (f : State → α → State × List FaultEv) : List α → State → State × List FaultEv
  | [], s => (s, [])
  | a :: l, s =>
    let r := f s a
    let t := foldFaults f l r.1
    (t.1, r.2 ++ t.2)

/-- Insertion by a rank, keeping the order of equals. -/
def insertBy {α : Type} (rank : α → Nat) (a : α) : List α → List α
  | [] => [a]
  | b :: l => if rank b ≤ rank a then b :: insertBy rank a l else a :: b :: l

def sortBy {α : Type} (rank : α → Nat) (l : List α) : List α := l.foldl (fun acc a => insertBy rank a acc) []

/-- Deliver the flights of a run group that are due (R99), those that `sel` selects. -/
def State.arriveGroup (s : State) (g step : Nat) (cycle : Word) (due : Flight → Bool) : State × List FaultEv :=
  let r := s.group g
  if r.flights = [] then (s, []) else
  let now := sortBy dropRank (r.flights.filter due)
  let t := s.updGroup g fun v => { v with flights := v.flights.filter fun f => !due f }
  foldFaults (fun t f => deliver t g step cycle f) now t

/-- Deliver the flights of several run groups that are due in one opportunity, drops of all of them in the one order of R110 (R486). -/
def State.arriveAll (s : State) (gs : List Nat) : State × List FaultEv :=
  let due (f : Flight) : Bool := decide (f.age = f.latency)
  let now := sortBy (fun x => dropRank x.2) (gs.flatMap fun g => ((s.group g).flights.filter due).map fun f => (g, f))
  let t := forEach gs (fun g t => if (s.group g).flights = [] then t else
    t.updGroup g fun v => { v with flights := v.flights.filter fun f => !due f }) s
  foldFaults (fun t x => deliver t x.1 (s.group x.1).step (s.group x.1).cycle x.2) now t

/-- A flight of the run group has a cluster outside the group's parcels on its path: it passes a fence in its default case (R223, R486). -/
def State.leaves (s : State) (g : Nat) : Bool :=
  (s.group g).flights.any fun f => (List.range (f.dist + 1)).any fun i => !(s.group g).parcels.contains (clParcel (f.at i))

-- Fjarlek cargo (R102 to R107)

/-- The half of an entry that sends (R103): source cluster and first BP, none where it is idle. -/
structure CargoOut where
  cl  : Nat
  win : Nat
deriving DecidableEq, Repr

/-- The half that delivers: destination cluster, lag and first slot. -/
structure CargoIn where
  cl   : Nat
  lag  : Nat
  base : Nat
deriving DecidableEq, Repr

/-- An entry whose reserved field is zero and whose i_base is in range (R106, R485). DESIGN CHOICE 91: i_base is judged only where
the half that delivers is valid. -/
def quadWordOk (w : BitVec 40) : Bool :=
  decide (bitsOf w.toNat 20 10 = 0) && (!(w.getLsbD 19) || decide (bitsOf w.toNat 0 8 ≤ 220))

def cargoOut (q : Nat) (w : BitVec 40) : Option CargoOut :=
  if w.getLsbD 39 && quadWordOk w then
    some { cl := clAt (quadSheet q) (bitsOf w.toNat 31 4) (bitsOf w.toNat 35 4), win := if w.getLsbD 30 then 28 else 0 }
  else none

def cargoIn (q : Nat) (w : BitVec 40) : Option CargoIn :=
  if w.getLsbD 19 && quadWordOk w then
    some { cl := clAt (quadSheet q) (bitsOf w.toNat 11 4) (bitsOf w.toNat 15 4), lag := bitsOf w.toNat 8 3,
           base := bitsOf w.toNat 0 8 }
  else none

/-- The cluster lies in the run group (R111). -/
def RunGroup.holds (r : RunGroup) (c : Nat) : Bool := r.parcels.contains (clParcel c)

/-- The sending step of an inbound word due at step `p`: p + lag × N − 4 − D (R105, R106); none where it is negative. -/
def sendingStep (n d p lag : Nat) : Option Nat := if 4 + d ≤ p + lag * n then some (p + lag * n - 4 - d) else none

/-- The buffered codeword that carries a sending step of a cycle. -/
def Lane.find (l : Lane) (sp : Nat) (cycle : Word) : Option SchedCw :=
  l.rxBuf.find? fun w => decide (w.stepTag = sp / 4 * 4) && decide (w.cycle = cycle)

/-- All X: 36 codes 0b11 (R104). -/
def allX : BitVec 72 := BitVec.allOnes 72

/-- How an inbound cargo slot stands at step `p`: nothing due, X by R107, in place, or missing. -/
inductive CargoDue where
  | idle | early (d : CargoIn) | here (d : CargoIn) (w : BitVec 72) | missing (lane sp : Nat) (cycle : Word)
deriving DecidableEq, Repr

/-- The inbound cargo of slot `k` of quad `q` at step `p` (R103 to R107). DESIGN CHOICE 91: an entry that names a cluster outside the
run group, which only a poke makes, delivers nothing and holds nothing. -/
def State.cargoDue (s : State) (r : RunGroup) (q k p : Nat) : CargoDue :=
  match cargoIn q (s.quadEntry q (8 * p + k)) with
  | none => .idle
  | some d =>
    if r.holds d.cl = false then .idle
    else if r.cycle.toNat < d.lag then .early d
    else
      let lane := 4 * q + k / 2
      let cyc := r.cycle - BitVec.ofNat 64 d.lag
      match sendingStep r.n (classLimit (s.quad q).cls) p d.lag with
      | none => .missing lane 0 cyc
      | some sp =>
        match (s.lane lane).find sp cyc with
        | some w => .here d (w.words.getD (2 * (p % 4) + k % 2) allX)
        | none => .missing lane sp cyc

/-- Write 36 values of a cargo word into the destination's slots (R104). -/
def writeCargo (s : State) (d : CargoIn) (w : BitVec 72) (step : Nat) (cycle : Word) : State × List FaultEv :=
  foldFaults (fun t i => arrive t d.cl (d.base + i) (v4of (bitsOf w.toNat (2 * i) 2)) step step cycle) (List.range 36) s

/-- A fault of a quad's schedule store (R98, R418). -/
def quadStoreFault (code q e : Nat) (cycle : Word) : FaultEv :=
  { code := code, unit := 36 + q, access := 4, master := 0, address := 4 + fieldAt 4 q + fieldAt 20 (e % 65536), cycle := cycle }

/-- The fetch of the next step found a code word uncorrectable (R53, R98). -/
def RunGroup.badWord (r : RunGroup) (store word : Nat) : Bool := r.fetchBad.contains (eccKey store word)

/-- CARGO_DELIVERY of one slot (R104, R107, R127). DEDUCED 11: an uncorrectable schedule word delivers X, as R98 says of a send
table group. -/
def deliverCargo (s : State) (g q k : Nat) : State × List FaultEv :=
  let r := s.group g
  let go (d : CargoIn) (w : BitVec 72) : State × List FaultEv :=
    writeCargo s d (if r.badWord 4 (q * 32768 + 8 * r.step + k) then allX else w) r.step r.cycle
  match s.cargoDue r q k r.step with
  | .early d => go d allX
  | .here d w => go d w
  | _ => (s, [])

/-- The arrival step of a word of a codeword: its first one for `k` = 0, its last for 3, counted over the cycles (R105). -/
def SchedCw.due (w : SchedCw) (n d k : Nat) : Nat := w.cycle.toNat * n + w.stepTag + k + 4 + d

/-- The hold bit that a receiver sends (R126), `last` being the last executed step counted over the cycles; a change is also sent as
a message (R314). DESIGN CHOICE 100: before any step has executed, step 0 of cycle 0 stands for the last executed one. -/
def Lane.watchLead (v : Lane) (n d last : Nat) : Lane :=
  let newest := v.rxBuf.foldl (fun a w => max a (w.due n d 0)) 0
  let hold := if d + 16 + last < newest then true else if newest ≤ d + last then false else v.holdOut
  if hold = v.holdOut then v else { v with holdOut := hold, ctrl := v.ctrl ++ [if hold then .xoff else .xon] }

/-- Drop the codewords whose four steps have all arrived, and watch the lead (R126). The step in progress is the last executed. -/
def State.retireCargo (s : State) (g : Nat) : State :=
  let r := s.group g
  let last := r.cycle.toNat * r.n + r.step
  forEach (s.cargoLanes g) (fun l t =>
    let d := classLimit (t.quad (laneQuad l)).cls
    t.updLane l fun v => if v.rxBuf = [] ∧ v.holdOut = false then v else
      let w : Lane := { v with rxBuf := v.rxBuf.filter fun w => decide (last < w.due r.n d 3) }
      if s.paired && decide (72 ≤ l) then w else w.watchLead r.n d last) s

/-- The word of an outbound half: the results of 36 BPs at this step (R104). -/
def State.cargoWord (s : State) (o : CargoOut) : BitVec 72 :=
  BitVec.ofNat 72 ((List.range 36).foldl (fun a i => a + v4code (s.resultAt (o.cl * 64 + o.win + i)) * 4 ^ i) 0)

/-- The outbound cargo of slot `k` of quad `q` at the step just executed: the word enters its lane's codeword (R102, R308) and
the source's signature (R248). DESIGN CHOICE 91: an entry that names a cluster outside the run group, which only a poke makes, ships no
word. -/
def shipCargo (s : State) (g q k step : Nat) : State :=
  let r := s.group g
  match cargoOut q (s.quadEntry q (8 * step + k)) with
  | none => s
  | some o =>
    if r.holds o.cl = false then s else
    let w := if r.badWord 4 (q * 32768 + 8 * step + k) then allX else s.cargoWord o
    let l := 4 * q + k / 2
    (s.updLane l fun v => { v with build := mset none (2 * (step % 4) + k % 2) (some w) v.build }).sign o.cl (leBytes 9 w.toNat)

/-- At the end of a step-frame each lane's codeword is complete (R308); a lane that shipped no word makes none (R106). -/
def closeFrame (s : State) (g step : Nat) : State :=
  if step % 4 ≠ 3 then s else
  let r := s.group g
  forEach (s.cargoLanes g) (fun l t =>
    t.updLane l fun v =>
      if v.build = [] then v
      else if s.paired && decide (72 ≤ l) then { v with build := [] }
      else
        let words := (List.range 8).map fun j => (mget none j v.build).getD allX
        let cw : SchedCw := { stepTag := step - 3, cyc := r.cycle.toNat % 16, cycle := r.cycle, words := words }
        { v with build := [], complete := v.complete ++ [cw] }) s

-- sends (R95 to R98)

/-- A fault of a cluster's send table. -/
def sendStoreFault (code c step : Nat) (cycle : Word) : FaultEv :=
  { code := code, unit := clParcel c, access := 4, master := designMaster c, address := storeAddr 3 c 0 step, cycle := cycle }

/-- The code word (64-bit group) of a send field (R98). -/
def sendGroup (f : SendField) : Nat := if f.mesh then f.tag / 4 else 4 + (f.tag - 16) / 2

/-- Ship the sends of a cluster at the step just executed (R88, R97); those of a group that its fetch found uncorrectable carry X (R98). -/
def shipSends (g step : Nat) (c : Nat) (s : State) : State :=
  let r := s.group g
  let fs := sendFields s.boot.pairMode (s.sendEntry c step) c step r.n
  let s := { s with fetchSnd := mset none (c * 4096 + step) none s.fetchSnd }
  if fs = [] then s else
  let val (f : SendField) : V4 := if r.badWord 3 ((c * 4096 + step) * 8 + sendGroup f) then .x else s.resultAt (c * 64 + f.src)
  let fl := fs.map fun f =>
    ({ group := g, owner := (s.parcel (clParcel c)).group, cl := c, mesh := f.mesh, route := f.route, chan := f.chan, age := 0,
       dist := f.dist, slot := f.slot, val := val f } : Flight)
  (s.updGroup g fun v => { v with flights := v.flights ++ fl }).sign c (fs.map fun f => BitVec.ofNat 8 (f.tag * 4 + v4code (val f)))

-- fetch (R37, R51, R98)

/-- The fault of a code word in error that step `p` of a run group fetches: of an instruction, a send table group, or a quad schedule
entry; none for any other word. `e` is an entry of `ecc`. -/
def State.fetchFault (s : State) (g p : Nat) (cycle : Word) (e : Nat × Nat) : Option FaultEv :=
  let r := s.group g
  let w := e.1 % 2 ^ 44
  let code := if e.2 = 1 then 0x2001 else 0x2002
  match e.1 / 2 ^ 44 with
  | 0 =>
    let bp := w / 1024
    if w % 1024 = p / 4 ∧ r.holds (bpCluster bp) then some (bpFault code 4 bp p cycle (storeAddr 0 (bpCluster bp) bp p)) else none
  | 3 =>
    if w / 8 % 4096 = p ∧ r.holds (w / 32768) then some (sendStoreFault code (w / 32768) p cycle) else none
  | 4 =>
    if w % 32768 / 8 = p ∧ (s.quad (w / 32768)).rg = some g then some (quadStoreFault code (w / 32768) (w % 32768) cycle) else none
  | _ => none

/-- A reserved opcode that step `p` of a run group fetches raises ILLEGAL_OP (R74). -/
def State.fetchIllegal (s : State) (g p : Nat) (cycle : Word) (e : Nat × BitVec 72) : Option FaultEv :=
  if (insOf e.2).op = 15 ∧ e.1 % 4096 = p ∧ (s.group g).holds (bpCluster (e.1 / 4096))
      ∧ (s.group g).badWord 0 (insWord (e.1 / 4096) p) = false then
    some (bpFault 0x1007 4 (e.1 / 4096) p cycle 0)
  else none

/-- Fetch what step `p` of a run group reads from the stores that `sel` selects, and check it (R37, R51 to R53, R98): a correctable word
is corrected, an uncorrectable one is noted until the step executes. -/
def State.fetchStores (s : State) (g p : Nat) (cycle : Word) (sel : Nat → Bool) : State × List FaultEv :=
  let hits := s.ecc.filterMap fun e =>
    if sel (e.1 / 2 ^ 44) then (s.fetchFault g p cycle e).map fun f => (e.1, e.2, f) else none
  let bad := (hits.filter fun h => decide (h.2.1 ≠ 1)).map (·.1)
  let keep := (s.group g).fetchBad.filter fun k => !sel (k / 2 ^ 44)
  let t := s.updGroup g fun v => { v with fetchBad := keep ++ bad }
  ({ t with ecc := (hits.filter fun h => decide (h.2.1 = 1)).foldl (fun m h => mset 0 h.1 0 m) t.ecc }, hits.map (·.2.2))

/-- Stage FE of step `p`, in the executed opportunity before it (R37). -/
def State.fetchNext (s : State) (g p : Nat) (cycle : Word) : State :=
  let t := s.fetchStores g p cycle fun st => [0, 3, 4].contains st
  t.1.raiseAll (t.2 ++ t.1.istore.filterMap (t.1.fetchIllegal g p cycle))

-- rows

/-- The opportunity in which a group would run its next step: the part's current one, or the next where the group has used it. -/
def State.nextOpp (s : State) (g : Nat) : Nat := if (s.group g).lastOpp = some s.opp then s.opp + 1 else s.opp

/-- Act in the opportunity of a run group's next step, which the part has not reached yet. -/
def State.inNextOpp (s : State) (g : Nat) (f : State → State) : State := { f { s with opp := s.nextOpp g } with opp := s.opp }

/-- RECEIVE_SLOT_ARRIVAL: the flights of the cluster's run group that arrive in this slot at the next step (R99). -/
def execReceiveSlotArrival (cl slot : Nat) (s : State) : Host.Outcome State Fault Refusal :=
  if cl < 512 ∧ slot < 256 then
    match s.runningAt cl with
    | none => .next s
    | some (g, r) =>
      .next (s.inNextOpp g fun u =>
        let t := u.arriveGroup g r.step r.cycle fun f =>
          !r.moved && decide (f.at f.dist = cl) && decide (f.slot = slot) && decide (f.age + 1 = f.latency)
        t.1.raiseAll t.2)
  else .fault .noSuchUnit

/-- CARGO_DELIVERY: the inbound word of a cargo slot at the next step of the quad's run group (R104). The step that follows
delivers the same word again, so this delivery is not listed among the arrivals that can clash. -/
def execCargoDelivery (quad slot : Nat) (s : State) : Host.Outcome State Fault Refusal :=
  if quad < 36 ∧ slot < 8 then
    match (s.quad quad).rg with
    | none => .next s
    | some g =>
      if (s.group g).state = .running ∧ (s.group g).step < (s.group g).n then
        .next (s.inNextOpp g fun u =>
          let t := deliverCargo u g quad slot
          State.raiseAll { t.1 with arrOpp := s.arrOpp, arrSlots := s.arrSlots, arrDrops := s.arrDrops } t.2)
      else .next s
  else .fault .noSuchUnit

end Sys2Proof.Machine
end

