-- ==== Sys2Proof/Machine/Hold.lean ====
section
/-! DEFINITION. Hold sources (R118 to R124): what is late, what is raised, and what gates an opportunity. -/
namespace Sys2Proof.Machine

/-- Whether something a cluster issued is late at a step (source 0: R79, R83, R154). -/
def clusterLate (v : Cluster) (budget n : Nat) (cycle : Word) (step : Nat) : Bool :=
  (v.landings.any fun l => decide (l.step = step) && !l.ready)
    || (v.reqs.any fun q => q.isWrite && decide (q.cycle.toNat * n + q.step + budget ≤ cycle.toNat * n + step))
    || (decide (step % 2 = 0) && !v.staged.isEmpty && !v.drained)

/-- Source 0 of a run group at its next step. -/
def State.hbmLate (s : State) (g : Nat) : Bool :=
  let r := s.group g
  r.clusters.any fun c => clusterLate (s.cluster c) (s.budgetOf c) r.n r.cycle r.step

/-- Whether a re-send request is outstanding for the codeword that carries a sending step (R313). -/
def Lane.asked (l : Lane) (sp : Nat) (cycle : Word) : Bool :=
  l.wanted.any fun w => decide (w.stepTag = sp / 4 * 4) && decide (w.cyc = cycle.toNat % 16)

/-- Sources 1 and 2 of a run group at its next step: due cargo is missing without, or with, a request outstanding. -/
def State.cargoMissing (s : State) (g : Nat) : Bool × Bool :=
  let r := s.group g
  let dues := ((s.cargoQuads g).map fun q => (List.range 8).map fun k => s.cargoDue r q k r.step).flatten
  let test (asked : Bool) (d : CargoDue) : Bool :=
    match d with
    | .missing l sp c => decide ((s.lane l).asked sp c = asked)
    | _ => false
  (dues.any (test false), dues.any (test true))

/-- The arrival sources active at the next step, as bits 0 to 2 (R119, R120). -/
def State.arrivalLate (s : State) (g : Nat) : Nat :=
  let c := s.cargoMissing g
  b2n (s.hbmLate g) + 2 * b2n c.1 + 4 * b2n c.2

/-- A lane carries outbound cargo of its quad's run group. -/
def State.laneCarries (s : State) (l n : Nat) : Bool :=
  s.quadAct.any fun e => decide (e.1 / 32768 = laneQuad l) && decide (e.1 % 32768 < 8 * n) && decide (e.1 % 8 / 2 = l % 4)
    && (cargoOut (laneQuad l) e.2).isSome

/-- Source 3: a lane that carries the group's outbound cargo shows a set hold bit; a DOWN lane counts as one (R120, R320). -/
def State.laneHold (s : State) (g : Nat) : Bool :=
  (s.outLanes g).any fun l =>
    ((s.lane l).holdIn || decide ((s.lane l).state = .down)) && s.laneCarries l (s.group g).n

/-- A restore of the run group is in progress (R123). -/
def State.restoring (s : State) (g : Nat) : Bool := (s.group g).parcels.any fun p => decide ((s.parcel p).svState = .restoring)

/-- The asynchronous sources raised now, as bits 3 to 8 (R120), 4 and 5 whether the group runs or not. -/
def State.raised (s : State) (g : Nat) : Nat :=
  let r := s.group g
  8 * b2n (s.laneHold g) + 16 * b2n (decide (0 < s.thermal.demand)) + 32 * b2n (decide (s.phase = 1))
    + 64 * b2n (r.capturing || s.restoring g) + 128 * b2n r.paused + 256 * b2n r.divHeld

/-- The sources active now: PARCEL_HOLD_LIVE (R136). Sources 4 and 5 reach a running run group alone (R120). -/
def State.holdLive (s : State) (g : Nat) : Nat :=
  let v := s.raised g
  s.arrivalLate g + (if (s.group g).state = .running then v else v % 16 + v / 64 * 64)

/-- Whether a throttle level gates opportunity `o` (R121). -/
def levelGates (level o : Nat) : Bool :=
  match level with
  | 0 => false
  | 1 => decide (o % 8 = 7)
  | 2 => decide (o % 4 = 3)
  | _ => decide (o % 2 = 1)

/-- Whether a vector of asynchronous sources gates opportunity `o`: sources 3, 6, 7, 8 gate each, 4 by the level in force and 5 by its
pattern (R121). -/
def asyncGates (vec level o : Nat) : Bool :=
  bitOf vec 3 || bitOf vec 6 || bitOf vec 7 || bitOf vec 8 || levelGates level o || (bitOf vec 5 && decide (o % 2 = 1))

/-- The asynchronous vector that decides the next opportunity of a group: the sources as they stood at the end of the one two before it
(R117, R119). -/
def State.heldVec (s : State) (g : Nat) : Nat :=
  (if s.nextOpp g = s.opp then (s.group g).prev2 else (s.group g).prev).toNat

/-- The part enters opportunity `o`: the sources of every run group are noted as they stand at the end of the one before. -/
def State.moveOpp (s : State) (o : Nat) : State :=
  if o ≤ s.opp then s else
  forEach s.runGroups (fun g t =>
    let now := BitVec.ofNat 9 (s.raised g)
    t.updGroup g fun r => { r with prev := now, prev2 := if o = s.opp + 1 then r.prev else now }) { s with opp := o }

/-- Whether the group's next opportunity is gated (R118). A capture gates at once: its source was raised before step 0 could be
placed (R123). -/
def State.gatedNext (s : State) (g : Nat) : Bool :=
  decide (s.arrivalLate g ≠ 0) || (s.group g).capturing || asyncGates (s.heldVec g) s.thermal.applied (s.nextOpp g)

/-- Count a gated opportunity on every active source (R124). -/
def countHolds (vec : Nat) (m : SMap Nat) : SMap Nat :=
  (List.range 9).foldl (fun a i => if bitOf vec i then mset 0 i (satAdd 48 (mget 0 i a) 1) a else a) m

end Sys2Proof.Machine
end

