-- ==== Sys2Proof/Machine/Buf.lean ====
section
/-! DEFINITION. The host buffer of a command: packet bytes 8 to 19, direct or through a segment list (R378, R379). -/
namespace Sys2Proof.Machine

/-- Flag bits of a packet (R378). -/
def isFence (p : Packet) : Bool := p.flags.getLsbD 0
def isNotify (p : Packet) : Bool := p.flags.getLsbD 1
def isIndirect (p : Packet) : Bool := p.flags.getLsbD 2

/-- Read a segment list: entries of 16 bytes until the sum reaches the buffer length (R379). None: the list is malformed. -/
def segList (m : Memory) : Nat → Nat → Nat → Option (List (Nat × Nat))
  | _, _, 0 => some []
  | 0, _, _ + 1 => none
  | fuel + 1, at_, need + 1 =>
    let a := memNat m at_ 8
    let n := memNat m (at_ + 8) 4
    if a % 8 = 0 ∧ n ≠ 0 ∧ n % 8 = 0 ∧ memNat m (at_ + 12) 4 = 0 ∧ n ≤ need + 1 then
      (segList m fuel (at_ + 16) (need + 1 - n)).map fun l => (a, n) :: l
    else none

/-- The segments of a packet's buffer, in order. -/
def bufSegs (s : State) (p : Packet) : Option (List (Nat × Nat)) :=
  if isIndirect p then segList s.hostMem 256 p.buf.toNat p.len.toNat else some [(p.buf.toNat, p.len.toNat)]

/-- The host address of buffer offset `off`. -/
def segAddr : List (Nat × Nat) → Nat → Nat
  | [], off => off
  | (a, n) :: l, off => if off < n then a + off else segAddr l (off - n)

/-- The listed bytes of a buffer, numbered from 0. -/
def segSlice (m : Memory) : List (Nat × Nat) → Nat → Memory
  | [], _ => []
  | (a, n) :: l, base => ((memSlice m a n).map fun c => (base + c.1, c.2)) ++ segSlice m l (base + n)

/-- The buffer of a packet as a sparse byte string; empty for a malformed list. -/
def bufMem (s : State) (p : Packet) : Memory := segSlice s.hostMem ((bufSegs s p).getD []) 0

/-- Write bytes into the buffer of a packet from offset `off` on. -/
def bufPut (s : State) (p : Packet) (off : Nat) (bytes : List Byte) : State :=
  let segs := (bufSegs s p).getD []
  let cells := (List.range bytes.length).map fun i => (segAddr segs (off + i), bytes.getD i 0)
  { s with hostMem := msetMany unlistedByte cells s.hostMem }

/-- Write the `n` little-endian bytes of a number into the buffer. -/
def bufPutNat (s : State) (p : Packet) (off n v : Nat) : State := bufPut s p off (leBytes n v)

/-- Write a sparse byte string of length `n` into the buffer, from offset `off` on. -/
def bufPaste (s : State) (p : Packet) (off n : Nat) (b : Memory) : State :=
  let segs := (bufSegs s p).getD []
  let clear := segs.foldl (fun (acc : Memory × Nat) g =>
    let lo := max off acc.2
    let hi := min (off + n) (acc.2 + g.2)
    (if lo < hi then memZero (g.1 + (lo - acc.2)) (hi - lo) acc.1 else acc.1, acc.2 + g.2)) (s.hostMem, 0)
  { s with hostMem := msetMany unlistedByte (b.map fun c => (segAddr segs (off + c.1), c.2)) clear.1 }

end Sys2Proof.Machine
end

