-- ==== Sys2Proof/Machine/Cmd.lean ====
section
/-! DEFINITION. The form every host command follows (R378 to R391, R397): its checks in order, its reply, the release of
replies in flow order, and the interrupts of released replies (R376, R377, R388). -/
namespace Sys2Proof.Machine

/-- What a command's own checks and effect answer: a reply, a wait, or nothing (a session that resets itself, R392). -/
inductive Ans where
  | reply (status detail results : Nat) (s : State)
  | park (w : Wait) (s : State)
  | silent (s : State)
deriving Repr

/-- A failure: status and detail, nothing changed (R381), results 0. DESIGN CHOICE 101: so read those of a MEM_READ or MEM_WRITE that its
checks refuse, and of one of length 0 (R180). -/
def fail (s : State) (status : Nat) (detail : Nat := 0) : Ans := .reply status detail 0 s

/-- Success with results. -/
def done (s : State) (results : Nat := 0) : Ans := .reply 0 0 results s

-- status codes (R382)
def errParam : Nat := 0x8002
def errOwner : Nat := 0x8003
def errLock : Nat := 0x8004
def errCancelled : Nat := 0x8006
def errResource : Nat := 0x8007
def errState : Nat := 0x8008
def errMismatch : Nat := 0x8009
def errImageDevice : Nat := 0x8010
def errTruncated : Nat := 0x8011
def errAuth : Nat := 0x8012
def errFormat : Nat := 0x8013
def errDelay : Nat := 0x8014
def errFootprint : Nat := 0x8015
def errDevice : Nat := 0x8020
def errTimeout : Nat := 0x8021
def okNoop : Nat := 1
def okAlready : Nat := 5

/-- What the write pass of a load, a batch or a restore finds against its check pass (R202, R208, R213, R238): the source may have
changed, so a CRC differs, or the tag of an encrypted source. None: the same bytes. `v` is a free value (DESIGN CHOICE 90). -/
def rereadFail (v : BitVec 2) (enc : Bool) (crcDetail tagDetail : Nat) : Option (Nat × Nat) :=
  if v = 0 then none else if enc && decide (v = 3) then some (errAuth, tagDetail) else some (errTruncated, crcDetail)

/-- The family check of the BOOT phase (R397): families 0x00, 0x01, 0x0A, 0x0B, 0x0D and DATUM_ORIGIN. -/
def bootAllowed (opcode : Nat) : Bool :=
  [0x00, 0x01, 0x0A, 0x0B, 0x0D].contains (opcode / 256) || decide (opcode = 0x0702)

/-- The packet fields common to every command (R381, step 2): flow, reserved flags, buffer alignment, segment list. The detail of
the failure, or none. DEDUCED 12: a buffer address that the command does not use is checked for alignment only. -/
def packetBad (s : State) (p : Packet) : Option Nat :=
  if 15 < p.flow then some 0
  else if bitsOf p.flags.toNat 3 5 ≠ 0 then some 0
  else if p.buf.toNat % 8 ≠ 0 then some 0
  else if isIndirect p ∧ (bufSegs s p).isNone then some 0x10
  else none

-- release of replies (R376, R377, R388)

/-- The completion ring has no free entry (R372). -/
def Session.cqFull (v : Session) : Bool := decide ((v.cqTail + 1) % 2 ^ v.cqLog = v.cqHead)

/-- The 32 bytes of a reply (R380). -/
def replyBytes (r : Reply) : List Byte :=
  leBytes 4 r.tag.toNat ++ leBytes 2 r.status ++ leBytes 2 r.detail ++ leBytes 8 r.time.toNat ++ leBytes 16 r.results.toNat

/-- Whether replies of the session go to its ring: ENABLED or ERROR (R375). A session that never was enabled has no ring; a command
that reaches the part without one has its reply recorded only. -/
def Session.ringed (v : Session) : Bool := decide (v.state = .enabled) || decide (v.state = .error)

/-- Send the session's interrupt: every reply released so far is signalled (R377). -/
def State.signal (s : State) (i : Nat) : State :=
  (s.updSess i fun v => { v with unsig := 0 }).irq (i / 16) (s.sess i).vector

/-- A session enters ERROR (R375, R376): RING_CORRUPT, and its vector at once. -/
def State.sessionError (s : State) (i cause : Nat) : State :=
  let s := s.updSess i fun v => { v with state := .error, errCause := cause }
  let s := s.raise { code := 0x5002, unit := 82, access := 0, master := sessionMaster i, address := i + fieldAt 10 cause, cycle := 0 }
    (some (i / 16))
  s.signal i

/-- A transfer to or from an address of the host completes with an error or poison (R375, R376). -/
def State.hostFails (s : State) (a : Nat) : Bool := s.hostBad.contains (a / 4096)

/-- Release one reply: record it, write it at cq_tail, and count it for coalescing. A write that fails puts the session into ERROR (R376); its
entry is lost, and cq_tail moves on (DESIGN CHOICE 68). -/
def State.releaseOne (s : State) (i : Nat) (r : Reply) (notify : Bool) : State :=
  let s := s.setSent { s.sent with replies := s.sent.replies ++ [(i, r)] }
  let v := s.sess i
  if v.ringed then
    let tail := (v.cqTail + 1) % 2 ^ v.cqLog
    if s.hostFails (v.cqBase.toNat + 32 * v.cqTail) then (s.setSess i { v with cqTail := tail }).sessionError i 4 else
    let m := memSetBytes (v.cqBase.toNat + 32 * v.cqTail) (replyBytes r) s.hostMem
    let m := if v.wbEn then memSetBytes v.wbAddr.toNat (leBytes 8 tail) m else m
    let s := State.setSess { s with hostMem := m } i { v with cqTail := tail, unsig := v.unsig + 1 }
    if notify ∨ max 1 v.coalCnt ≤ v.unsig + 1 then s.signal i else s
  else s

/-- A finished reply may be released: none of its flow waits before it, and its ring has room. -/
def State.mayRelease (s : State) (blocked : List (Nat × Nat)) (e : Entry) : Bool :=
  !blocked.contains (e.pkt.session, e.pkt.flow) && !((s.sess e.pkt.session).ringed && (s.sess e.pkt.session).cqFull)

/-- HBM_PARTITION's boundaries apply when its reply is released (R188). -/
def State.applyReleased (s : State) (e : Entry) (r : Reply) : State :=
  if e.opcode = 0x0510 ∧ r.status < 0x8000 then
    s.updStack (par e.pkt 20 1) fun v =>
      { v with designEnd := par e.pkt 24 2, traceEnd := par e.pkt 26 2, insetEnd := par e.pkt 28 2 }
  else s

/-- Pass over the ready lists, oldest first, and release what may be released. `kept` and `blocked` are what the pass has left
behind. A session in RESETTING gets no reply (R392). -/
def releaseLoop : List Entry → List Entry → List (Nat × Nat) → State → State
  | [], kept, _, s => s.setEntries kept
  | e :: l, kept, blocked, s =>
    match e.state with
    | .done r =>
      if (s.sess e.pkt.session).state = .resetting then releaseLoop l kept blocked (s.applyReleased e r)
      else if s.mayRelease blocked e then releaseLoop l kept blocked ((s.releaseOne e.pkt.session r (isNotify e.pkt)).applyReleased e r)
      else releaseLoop l (kept ++ [e]) ((e.pkt.session, e.pkt.flow) :: blocked) s
    | _ => releaseLoop l (kept ++ [e]) ((e.pkt.session, e.pkt.flow) :: blocked) s

def State.release (s : State) : State := releaseLoop s.hub.entries [] [] s

/-- A session in RESETTING whose last command has stopped becomes DISABLED, its heads and tails at 0 (R392). -/
def State.settleSession (s : State) (i : Nat) : State :=
  if (s.sess i).state = .resetting ∧ (s.hub.entries.any fun e => decide (e.pkt.session = i)) = false then
    s.updSess i fun v =>
      { v with state := .disabled, enable := false, sqHead := 0, sqTail := 0, cqHead := 0, cqTail := 0, unsig := 0 }
  else s

/-- Release replies; finish session resets; answer the SESSION_RESET commands that waited for them (R392). -/
def State.settle (s : State) : State :=
  let s := s.release
  let waiting := (s.sessions.filter fun e => decide (e.2.state = .resetting)).map (·.1)
  if waiting = [] then s else
  let s := forEach waiting (fun i t => t.settleSession i) s
  (s.finishParked fun _ w => match w with
    | .sessReset i => if (s.sess i).state = .resetting then none else some (0, 0, 0)
    | _ => none).release

/-- Finish a command (R380): the reply waits on its entry for the order of its flow. -/
def State.finish (s : State) (opcode : Nat) (p : Packet) (status detail results : Nat) : State :=
  s.setEntries (setEntry opcode p (.done (s.mkReply p status detail results)) s.hub.entries)

/-- Put an answer into effect. -/
def conclude (opcode : Nat) (p : Packet) (a : Ans) : State :=
  match a with
  | .reply st d r t => (t.finish opcode p st d r).settle
  | .park w t => (t.setEntries (setEntry opcode p (.parked w) t.hub.entries)).settle
  | .silent t => t.settle

-- the ready lists and the workers (R385 to R388)

/-- Entries that a session holds. -/
def State.heldBy (s : State) (i : Nat) : Nat := (s.hub.entries.filter fun e => decide (e.pkt.session = i)).length

/-- Sessions in the ENABLED state. -/
def State.enabledSessions (s : State) : List Nat := (s.sessions.filter fun e => decide (e.2.state = .enabled)).map (·.1)

/-- Entries of the shared pool in use: those beyond the two that each ENABLED session has of its own. -/
def State.sharedUse (s : State) : Nat :=
  s.hub.entries.length - (s.enabledSessions.map fun i => min 2 (s.heldBy i)).sum

/-- An entry is available to a session (R385). -/
def State.entryFree (s : State) (i : Nat) : Bool :=
  decide (s.heldBy i < 256)
    && (decide (s.heldBy i < 2) || decide (s.sharedUse < 4096 - 2 * s.enabledSessions.length))

/-- A command carries a FENCE (R388, R402). -/
def fenceOf (opcode : Nat) (p : Packet) : Bool := isFence p || decide (opcode = 0x0D02) || decide (opcode = 0x0D03)

def Entry.fenced (e : Entry) : Bool := fenceOf e.opcode e.pkt

/-- The eligible command of a session (R386, R388): its oldest one that is not dispatched, unless a FENCE holds it back. -/
def State.eligible (s : State) (i : Nat) : Option Entry :=
  let mine := s.hub.entries.filter fun e => decide (e.pkt.session = i)
  match mine.find? fun e => decide (e.state = .queued) with
  | none => none
  | some e => if e.fenced && decide (mine.head? ≠ some e) then none else some e

/-- A worker executes a command. -/
def State.workerBusy (s : State) (w : Nat) : Bool :=
  s.hub.entries.any fun e => match e.state with | .executing v _ => decide (v = w) | _ => false

/-- A worker executes nothing, and nothing waits in its prefetch slot. -/
def State.workerFree (s : State) : Bool :=
  (List.range 8).any fun w => !s.workerBusy w && !s.hub.entries.any fun e => decide (e.state = .prefetched w)

/-- What the row of a command finds: a worker executes the command; the command waits; or it comes into the ready lists. -/
inductive Gate where
  | run | wait | arrive
deriving DecidableEq, Repr

/-- A reply that tells of a cancelled command. -/
def Entry.cancelled (e : Entry) : Bool := match e.state with | .done r => decide (r.status = 0x8006) | _ => false

/-- Whether a command whose row comes executes now (R386 to R389). One in a prefetch slot waits for its worker; one in the ready list, or
that comes with its row, for its session's order, a FENCE and a worker (DESIGN CHOICE 54: a free worker takes it up in the same CTRL cycle);
a parked or cancelled one does not execute. CMD_CANCEL acts as it comes. -/
def State.gate (s : State) (opcode : Nat) (p : Packet) : Gate :=
  if opcode = 1 then .run
  else
    let mine (e : Entry) : Bool := decide (e.opcode = opcode) && decide (e.pkt = p)
    match s.hub.entries.find? fun e => mine e && e.open with
    | some e => match e.state with
      | .queued => if s.eligible p.session = some e ∧ s.workerFree then .run else .wait
      | .prefetched w => if s.workerBusy w then .wait else .run
      | .executing _ _ | .ready _ => .run
      | .parked _ | .done _ => .wait
    | none =>
      if (s.hub.entries.any fun e => mine e && e.cancelled) ∨ (s.sess p.session).state = .error ∨ (s.sess p.session).state = .resetting then .wait
      else
        let before := s.hub.entries.filter fun e => decide (e.pkt.session = p.session)
        if (before.any fun e => decide (e.state = .queued)) || (fenceOf opcode p && !before.isEmpty) || !s.workerFree then .arrive else .run

/-- The row of a command: `run` where it executes, else it waits in its entry, or in its ring for want of one (R385). -/
def gated (opcode : Nat) (p : Packet) (s run : State) : State :=
  match s.gate opcode p with
  | .run => run
  | .wait => s
  | .arrive => if s.entryFree p.session then s.setEntries (s.hub.entries ++ [{ opcode := opcode, pkt := p, state := .queued }]) else s

-- commands that their workers have begun (R202, R386)

/-- The executing entry of a packet, its worker and its claim. -/
def State.workOf (s : State) (opcode : Nat) (p : Packet) : Option (Entry × Nat × Claim) :=
  s.hub.entries.findSome? fun e =>
    if e.opcode = opcode ∧ e.pkt = p then (match e.state with | .executing w c => some (e, w, c) | _ => none) else none

/-- The state with the marks of a command under way taken off its parcels, as its last pass finds them. -/
def State.unclaimed (s : State) (x : Entry × Nat × Claim) : State :=
  let s := s.setEntries (updFirst (fun e => decide (e = x.1)) (fun e => { e with state := .prefetched x.2.1 }) s.hub.entries)
  forEach x.2.2.parcels (fun p t => t.updParcel p fun v =>
    match x.2.2.phase with
    | .check | .write => { v with load := .blank }
    | .frames => { v with framesBusy := false }
    | .unload => if v.load = .unloading then { v with load := .loaded } else v
    | .restore => { v with svState := .idle }
    | .transfer | .firmware => v) s

/-- A command whose worker has begun it, as its last pass finds the part. -/
def State.resumed (s : State) (opcode : Nat) (p : Packet) : State :=
  match s.workOf opcode p with
  | some x => s.unclaimed x
  | none => s

/-- A command gets as far as its own checks (R381): nothing before them ends it. -/
def commandStarts (opcode : Nat) (p : Packet) (s : State) (bad : Option Nat) (zero : Bool) : Bool :=
  s.hubUp && (packetBad s p).isNone && bad.isNone && !zero && !(decide (s.phase = 0) && !bootAllowed opcode)

/-- A host command (R381, R397). `bad` is the detail of its own parameter failure, `zero` its zero rule, `own` its checks and
effect. Before S1 ends, and after PART_RESET has replied, nothing is fetched and the packet stays in its ring; after that the ready lists
and the workers say when it executes. -/
def command (opcode : Nat) (p : Packet) (s : State) (bad : Option Nat) (zero : Bool) (own : Ans) : State :=
  if s.hubUp = false then s
  else gated opcode p s (match packetBad s p with
    | some d => conclude opcode p (fail s errParam d)
    | none =>
      match bad with
      | some d => conclude opcode p (fail s errParam d)
      | none =>
        if zero then conclude opcode p (fail s okNoop)
        else if s.phase = 0 ∧ bootAllowed opcode = false then conclude opcode p (fail s errState 0x20)
        else conclude opcode p own)

-- common checks

/-- The routers for whose drains a command has waited have all drained. -/
def State.hasDrained (s : State) (opcode : Nat) (p : Packet) : Bool :=
  s.hub.entries.any fun e => decide (e.opcode = opcode) && decide (e.pkt = p) && decide (e.state = .ready true)

/-- The parameter check that every listed range is used and every other byte is zero, and `ok` holds. -/
def parCheck (p : Packet) (used : List (Nat × Nat)) (ok : Bool) : Option Nat :=
  if onlyPar p used && ok then none else some 0

/-- Lock unit keys: 0 to 31 parcels, 32 to 543 banks, 544 quads, 580 engines, 582 key slots (R393). -/
def bankUnit (c : Nat) : Nat := 32 + c
def quadUnit (q : Nat) : Nat := 544 + q
def engineUnit (e : Nat) : Nat := 580 + e
def keyUnit (k : Nat) : Nat := 582 + k

/-- Whether a lock covers a parcel. -/
def Lock.onParcel (l : Lock) (p : Nat) : Bool := decide (l.kind = 0) && bitOf l.mask p

/-- Whether a lock covers words `first` to `first + count - 1` of a bank; a parcel set covers every bank of its parcels. -/
def Lock.onBank (l : Lock) (c first count : Nat) : Bool :=
  l.onParcel (clParcel c) || (decide (l.kind = 1) && decide (clOf l.unit l.cluster = c)
    && decide (l.first < first + count) && decide (first < l.first + l.count))

def Lock.onUnit (l : Lock) (kind unit : Nat) : Bool := decide (l.kind = kind) && decide (l.unit = unit)

/-- A lock of another session that satisfies `f`. -/
def State.lockedBy (s : State) (i : Nat) (f : Lock → Bool) : Bool := s.hub.locks.any fun l => decide (l.session ≠ i) && f l

def State.parcelLocked (s : State) (i : Nat) (ps : List Nat) : Bool := s.lockedBy i fun l => ps.any l.onParcel
def State.quadLocked (s : State) (i q : Nat) : Bool := s.lockedBy i fun l => l.onUnit 2 q
def State.engineLocked (s : State) (i e : Nat) : Bool := s.lockedBy i fun l => l.onUnit 3 e
def State.keyLocked (s : State) (i k : Nat) : Bool := s.lockedBy i fun l => l.onUnit 4 k

/-- The ownership check of R218 for a command that names parcels: failed parcels, then untagged or foreign ones. DEDUCED 13: the
ownership failure comes before the failed one, as R381 orders ERR_NOT_OWNER first. -/
def State.ownCheck (s : State) (fn : Nat) (ps : List Nat) : Option Nat :=
  if ps.any fun p => !s.unusable p && decide (s.ownerOf p ≠ some fn) then some errOwner
  else if ps.any s.unusable then some errResource
  else none

/-- The run group whose parcels a mask names exactly. In MIRRORED and DIFFERENTIAL pairing the mask names its West parcels
(R244). -/
def State.groupOfMask (s : State) (ps : List Nat) : Option Nat :=
  s.runGroups.find? fun g =>
    let q := (s.group g).parcels
    decide ((if s.paired then (q.map (· % 16)).eraseDups else q) = ps)

/-- The run group that a mask names exactly, after the ownership, mask and lock checks in the order of R113 and R381: ownership before
the mask; parcels that a load or unload is at work on answer ERR_STATE (R209; DESIGN CHOICE 100: in UNLOADING too). The failure, or the group. -/
def ownedGroup (p : Packet) (s : State) : Except (Nat × Nat) Nat :=
  let ps := maskList 32 (par p 20 4)
  match s.ownCheck (callerFn p) ps with
  | some e => .error (e, 0)
  | none =>
    if ps.any s.inWork then .error (errState, 0) else
    match s.groupOfMask ps with
    | none => .error (errParam, 0)
    | some g => if s.parcelLocked p.session (s.group g).parcels then .error (errLock, 0) else .ok g

/-- Run a chain of checks: the first failure, else the answer. -/
def checks (s : State) (l : List (Bool × Nat × Nat)) (ok : Ans) : Ans :=
  match l.find? (·.1) with
  | some (_, st, d) => fail s st d
  | none => ok

/-- Commands that wait for training and whose lanes have all finished reply with the measured delays (R324). -/
def State.endTrain (s : State) : State :=
  s.finishParked fun _ w => match w with
    | .train q m =>
      let ls := (maskList 4 m).map (4 * q + ·)
      if ls.any fun l => decide ((s.lane l).state = .training) then none
      else some (0, 0, (ls.map fun l =>
        resAt (16 + 2 * (l % 4)) (if (s.lane l).state = .up then (s.lane l).trained else 0xFFFF)).sum)
    | _ => none

end Sys2Proof.Machine
end

