-- ==== Sys2Proof/Machine/Clock.lean ====
section
/-! DEFINITION. The datum counter (R276 to R285, R300): the time of an opportunity, the FRAME edge, a step of the counter, and the
comparison of times. -/
namespace Sys2Proof.Machine

/-- The counter with its fraction, in units of 2^-32 du. -/
def Datum.fine (d : Datum) : Nat := d.now.toNat * 2 ^ 32 + d.frac

/-- The addend that the next FRAME edge makes active, and the sum of the offsets that it applies. -/
def Datum.nextAddend (d : Datum) : BitVec 60 := match d.apply with | some a => a.addend | none => d.addend
def Datum.nextOffset (d : Datum) : Int := match d.apply with | some a => a.changes.foldl (fun n c => n + c.1) 0 | none => 0

/-- Datum time of the STEP edge of an opportunity (R279): of the frame in force, which is that of `opp` (a FRAME edge opens every fourth
opportunity, R22), of the frame before it, or of a later one, which takes what waits for its FRAME edge (R281, R283). -/
def State.tOpen (s : State) (o : Nat) : Word :=
  let d := s.datum
  let f := o / 4
  let f0 := s.opp / 4
  let fa : Int × Nat :=
    if f = f0 then (d.fine, d.addend.toNat)
    else if f < f0 then ((d.lastFine : Int) - (f0 - 1 - f : Nat) * (d.lastAddend.toNat : Int), d.lastAddend.toNat)
    else ((d.fine : Int) + d.addend.toNat + d.nextOffset * 2 ^ 32 + (f - f0 - 1 : Nat) * (d.nextAddend.toNat : Int), d.nextAddend.toNat)
  BitVec.ofInt 64 (fa.1 / 2 ^ 32 + (o % 4 * fa.2 / 2 ^ 34 : Nat))

/-- A target lies in the window of R282. -/
def inWindow (t now : Word) : Bool :=
  let d := signed64 t now
  decide (-(2 ^ 63 - 2 ^ 40 : Int) ≤ d) && decide (d ≤ (2 ^ 63 - 2 ^ 40 : Int))

/-- Whether a target is due at a datum time (R281). -/
def dueAt (now t : Word) : Bool := decide (0 ≤ signed64 now t)

/-- Every pending timed event, train and arm moved by the step of the first lock (R300). -/
def State.shiftTimes (s : State) (d : Word) : State :=
  let pin (v : TrigPin) : TrigPin :=
    { v with seqEnd := v.seqEnd + d, train := v.train.map fun t => { t with start := t.start + d }
             newTrain := v.newTrain.map fun t => { t with start := t.start + d } }
  let pause (q : Pause) : Pause :=
    { q with pauseTime := q.pauseTime + d, resumeTime := q.resumeTime.map (· + d), again := q.again.map (· + d) }
  let s := forEach s.runGroups (fun g t => t.updGroup g fun r =>
    { r with startTime := r.startTime.map (· + d), traceArm := r.traceArm.map (· + d), pauses := r.pauses.map pause
             surveys := r.surveys.map fun q => { q with atTime := q.atTime + d } }) s
  let s := forEach (List.range 4) (fun k t =>
    if (t.trigOutPin k).parcels = 0 then t else t.setTrigOut k (pin (t.trigOutPin k))) s
  s.setEntries (s.hub.entries.map fun e => match e.wait? with
    | some (.pauseRaise g t) => { e with state := .parked (.pauseRaise g (t + d)) }
    | _ => e)

/-- A step of the counter by `off` du has happened (R284, R300): it is counted and recorded; after the first lock it is a fault.
`first`: it brings the part to the grandmaster's time up to the first lock: it moves pending times and is no fault. -/
def State.datumStepped (s : State) (off : Int) (first : Bool) : State :=
  let size := BitVec.ofInt 64 off
  let s := if off = 0 then s else s.setDatum { s.datum with steps := satAdd 16 s.datum.steps 1 }
  if first then
    ((s.shiftTimes size).setDatum { s.datum with firstLock := s.datum.firstLock || decide (s.datum.lock = 2) }).logHub 0x50 0 (size.toNat + fieldAt 64 1)
  else if off ≠ 0 ∧ s.datum.firstLock then
    (s.logHub 0x50 0 size.toNat).raise { code := 0x4002, unit := 80, access := 6, master := 0, address := size.toNat, cycle := 0 }
  else s

/-- A FRAME edge (R276 to R278, R283): the counter advances by the addend of the frame that ends, a pending change is applied, and
the next frame begins. The throttle level asked for takes effect (R121). A DATUM_ADJUST or REG_COMMIT that waited for the edge replies. -/
def datumEdge (s : State) : State :=
  let d := s.datum
  let a := d.apply.getD { addend := d.addend, tag := d.tag, changes := [] }
  let v : Int := ((d.epoch.toNat * 2 ^ 96 + d.fine + d.addend.toNat : Nat) : Int) + a.changes.foldl (fun n c => n + c.1) 0 * 2 ^ 32
  let du := v / 2 ^ 32
  let s := s.moveOpp ((s.opp / 4 + 1) * 4)
  let s := { s with datum := { d with lastFine := d.fine, lastAddend := d.addend, now := BitVec.ofInt 64 du, epoch := BitVec.ofInt 32 (du / 2 ^ 64), frac := (v % 2 ^ 32).toNat
                                      addend := a.addend, tag := a.tag, apply := none }
                    thermal := { s.thermal with applied := s.thermal.demand } }
  let s := a.changes.foldl (fun t c => t.datumStepped c.1 c.2) s
  if s.anyParked (fun w => decide (w = .datumEdge)) then
    s.finishParked fun e w => if w = .datumEdge then some (0, 0, if e.opcode = 0x0112 then 1 else s.datum.now.toNat) else none
  else s

/-- Ask for a change at the next FRAME edge. What waits already stays and the offset joins it (R283; DEDUCED 87). -/
def State.askDatum (s : State) (addend : BitVec 60) (offset : Int) (tag : Nat) (first : Bool) : State :=
  let old := match s.datum.apply with | some a => a.changes | none => []
  s.setDatum { s.datum with
    apply := some { addend := addend, tag := tag, changes := old ++ [(offset, first)] } }

/-- The version tag that the next FRAME edge makes active. -/
def Datum.nextTag (d : Datum) : Nat := match d.apply with | some a => a.tag | none => d.tag

/-- Nominal addend (R277) and the largest deviations from it: 1,000 ppm for a commit, 100 ppm for the servo. -/
def addendNominal : Nat := 0x3333333333333
def addendOk (a : Nat) : Bool :=
  decide (a * 1000 ≤ addendNominal * 1001) && decide (addendNominal * 999 ≤ a * 1000)

/-- An addend that the servo chooses for an error `th` (R277, R290): a free value within 100 ppm of nominal, not above the addend in force
where the counter is ahead, not below it where it is behind. -/
def servoAddend (v : BitVec 64) (now : Nat) (th : Int) : BitVec 60 :=
  let dev := addendNominal / 10000
  let mid := max (addendNominal - dev) (min (addendNominal + dev) now)
  let lo := if th < 0 then mid else addendNominal - dev
  let hi := if 0 < th then mid else addendNominal + dev
  BitVec.ofNat 60 (lo + v.toNat % (hi - lo + 1))

end Sys2Proof.Machine
end

