-- ==== Sys2Proof/Machine/Nodes.lean ====
section
/-! DEFINITION. Nodes of the packet network (R349, R350). -/
namespace Sys2Proof.Machine

/-- What a destination node is. -/
inductive Node where
  | agent (parcel : Nat)          -- parcel agent
  | stream (parcel k : Nat)       -- HBM request stream of a row-pair
  | trace (sheet : Nat)
  | controller (stack : Nat)
  | quad (q : Nat)
  | bridge (b : Nat)
  | host | supervisor | ready | mailbox | worker (k : Nat) | collector | logbook | datum | mgmt | flash | keys
deriving DecidableEq, Repr

/-- The first quad of a router's group and the number of its quads, for the four groups of a sheet (R349). -/
def quadGroup (k : Nat) : Nat × Nat := match k with | 0 => (0, 5) | 1 => (5, 4) | 2 => (9, 5) | _ => (14, 4)

/-- The router at which a sheet's quad group attaches (R349). -/
def groupRouter (sheet k : Nat) : Nat := 4 * k + 3 * sheet

/-- The node of a unit of a parcel router of a sheet (R350). -/
def meshNode (sheet router unit : Nat) : Option Node :=
  match unit with
  | 0 => some (.agent (16 * sheet + router))
  | 1 => some (.stream (16 * sheet + router) 0)
  | 2 => some (.stream (16 * sheet + router) 1)
  | 3 => if router = 5 + sheet then some (.trace sheet) else none
  | 4 => if router < 4 then some (.controller (2 * sheet + 1)) else if 12 ≤ router then some (.controller (2 * sheet)) else none
  | _ =>
    if router % 4 ≠ 3 * sheet then none
    else
      let g := quadGroup (router / 4)
      if unit = 13 then some (.bridge (4 * sheet + router / 4))
      else if 8 ≤ unit ∧ unit < 8 + g.2 then some (.quad (18 * sheet + g.1 + (unit - 8)))
      else none

/-- The node of a unit of a hub router (R350). -/
def hubNode (router unit : Nat) : Option Node :=
  match router, unit with
  | 0, 0 => some .host
  | 1, 0 => some .supervisor
  | 1, 1 => some .ready
  | 1, 2 => some .mailbox
  | 2, k => if k < 4 then some (.worker k) else none
  | 5, k => if k < 4 then some (.worker (4 + k)) else none
  | 3, 0 => some .collector
  | 3, 1 => some .logbook
  | 4, 0 => some .datum
  | 6, 0 => some .mgmt
  | 6, 1 => some .flash
  | 7, 0 => some .keys
  | _, _ => none

/-- The node that a 10-bit number names (R350), none where it does not exist. -/
def nodeOf (n : Nat) : Option Node :=
  match n % 4 with
  | 0 => meshNode 0 (bitsOf n 2 4) (bitsOf n 6 4)
  | 1 => meshNode 1 (bitsOf n 2 4) (bitsOf n 6 4)
  | 2 => if bitsOf n 2 4 < 8 then hubNode (bitsOf n 2 4) (bitsOf n 6 4) else none
  | _ => none

/-- The number of a node: region, router, unit. -/
def nodeNum (region router unit : Nat) : Nat := region + 4 * router + 64 * unit

/-- The node number of a quad. -/
def quadNode (q : Nat) : Nat :=
  let k := q % 18
  let i := if k < 5 then 0 else if k < 9 then 1 else if k < 14 then 2 else 3
  nodeNum (q / 18) (groupRouter (q / 18) i) (8 + (k - (quadGroup i).1))

/-- The node number of an inset bridge. -/
def bridgeNode (b : Nat) : Nat := nodeNum (b / 4) (groupRouter (b / 4) (b % 4)) 13

/-- The inter-part mailbox: H1 unit 2. -/
def mailboxNode : Nat := nodeNum 2 1 2

/-- The domain in which a node lies (R361). -/
def Node.domain (n : Node) : Option Domain :=
  match n with
  | .agent p | .stream p _ => some (.parcel p)
  | .trace k => some (.trace k)
  | .controller k => some (.stack k)
  | .quad q => some (.quad q)
  | .bridge b => some (.bridge b)
  | _ => none

-- routes (R349, R352)

/-- The numbers from one to another, in either direction, both included. -/
def span (a b : Nat) : List Nat :=
  if a ≤ b then (List.range (b - a + 1)).map (a + ·) else (List.range (a - b + 1)).map (a - ·)

/-- The routers of a mesh path, numbered as NOC_RECONF does: along the row, then along the column (rule 1). -/
def meshPath (sheet a b : Nat) : List Nat :=
  (span (a % 4) (b % 4)).map (fun c => 16 * sheet + a / 4 * 4 + c)
    ++ ((span (a / 4) (b / 4)).drop 1).map fun r => 16 * sheet + 4 * r + b % 4

/-- The hub router at a row of a sheet, and the parcel router of its sheet that it attaches to (R349). -/
def rowHub (sheet row : Nat) : Nat := if sheet = 0 then row else 7 - row
def hubDoor (h : Nat) : Nat := if h < 4 then 4 * h + 3 else 4 * (7 - h)

/-- Steps of the ring from one hub router to another, upwards. -/
def ringUp (h k : Nat) : Nat := (k + 8 - h) % 8

/-- The hub routers of the shorter way round the ring, each with the class of the worm there: 1 once the link between H7 and H0 is
crossed. At a distance of 4 the way goes up (rule 3). -/
def ringPath (h k : Nat) : List (Nat × Bool) :=
  let d := ringUp h k
  if d ≤ 4 then (List.range (d + 1)).map fun i => ((h + i) % 8, decide (8 ≤ h + i))
  else (List.range (8 - d + 1)).map fun i => ((h + 8 - i) % 8, decide (h < i))

/-- The hub router of a sheet that is nearest to hub router `k` around the ring (rule 2). -/
def nearestHub (sheet k : Nat) : Nat :=
  let far (h : Nat) : Nat := min (ringUp h k) (8 - ringUp h k)
  [1, 2, 3].foldl (fun best r => if far (rowHub sheet r) < far best then rowHub sheet r else best) (rowHub sheet 0)

/-- Where a mesh is entered from the ring: at the hub router of the destination's row (rule 4, DESIGN CHOICE 95). -/
def entryHub (sheet router : Nat) : Nat := rowHub sheet (router / 4)

/-- The routers that a packet passes from one node to another, 0 to 31 those of the sheets, 32 to 39 H0 to H7, each with its dateline
class (R352). -/
def route (src dst : Nat) : List (Nat × Bool) :=
  let a := src % 4
  let b := dst % 4
  let ra := bitsOf src 2 4
  let rb := bitsOf dst 2 4
  if a < 2 ∧ a = b then (meshPath a ra rb).map fun r => (r, false)
  else
    let k := if b = 2 then rb else entryHub b rb
    let h := if a = 2 then ra else nearestHub a k
    (if a = 2 then [] else (meshPath a ra (hubDoor h)).map fun r => (r, false))
      ++ (ringPath h k).map (fun e => (32 + e.1, e.2))
      ++ (if b = 2 then [] else (meshPath b (hubDoor k) rb).map fun r => (r, false))

/-- The packet types and their virtual channels (R354). -/
def typeVc (t : Nat) : Option Nat := if t < 6 then some 0 else if t < 10 then some 1 else if t < 12 then some 2 else none

end Sys2Proof.Machine
end

