-- ==== Sys2Proof/Machine/Domain.lean ====
section
/-! DEFINITION. Power domains (R361, R362): which sleep, the start of a wake, and a power-down
that ends. -/
namespace Sys2Proof.Machine

/-- The domain exists (R361). -/
def domainOk (d : Domain) : Bool :=
  match d with
  | .parcel i => decide (i < 32)
  | .stack i => decide (i < 4)
  | .quad i => decide (i < 36)
  | .trace i => decide (i < 2)
  | .bridge i => decide (i < 8)

/-- The domain sleeps. -/
def State.isAsleep (s : State) (d : Domain) : Bool :=
  match d with
  | .parcel i => (s.parcel i).asleep
  | .stack i => (s.stack i).asleep
  | .quad i => !(s.quad i).awake
  | .trace i => !(s.engine i).awake
  | .bridge i => !(s.bridge i).awake

/-- The wake of a domain is under way. -/
def State.isWaking (s : State) (d : Domain) : Bool := s.net.waking.contains d

/-- Wakes caused by packets are counted (R362, R366). -/
def State.countWake (s : State) : State := s.setNet { s.net with wakes := satAdd 32 s.net.wakes 1 }

/-- Start the wake of a sleeping domain. `packet`: a packet caused it (R362). A failed parcel never wakes (R229). -/
def State.startWake (s : State) (d : Domain) (packet : Bool) : State :=
  let dead : Bool := match d with | .parcel i => s.failed i | _ => false
  if s.isAsleep d && !s.isWaking d && !dead then
    let s := if packet then s.countWake else s
    s.setNet { s.net with waking := s.net.waking ++ [d] }
  else s

/-- A power-down is under way, and has not ended or been cancelled. -/
def State.isDown (s : State) (d : Domain) : Bool := s.net.down.contains d

/-- What a wait has left when a domain has finished, and whether the domain was one of its own: parcels of a PARCEL_SLEEP; stacks or
quads of a POWER_SET. -/
def Wait.without (w : Wait) (d : Domain) (sleeps completed : Bool) : Wait :=
  let cut (m i : Nat) (ok : Bool) : Nat × Bool := if bitOf m i then (m - 2 ^ i, ok && completed) else (m, ok)
  match w, d with
  | .sleep m ok, .parcel i => if sleeps then .sleep (cut m i ok).1 (cut m i ok).2 else w
  | .power 0 m wk ok, .stack i => if wk = sleeps then w else .power 0 (cut m i ok).1 wk (cut m i ok).2
  | .power 1 m wk ok, .quad i => if wk = sleeps then w else .power 1 (cut m i ok).1 wk (cut m i ok).2
  | _, _ => w

/-- Tell the parked commands that a domain's change has finished or was cancelled; those with nothing left reply (R363, R365). -/
def State.tellPower (s : State) (d : Domain) (sleeps completed : Bool) : State :=
  let s := s.setEntries (s.hub.entries.map fun e => match e.wait? with
    | some w => { e with state := .parked (w.without d sleeps completed) }
    | none => e)
  s.finishParked fun _ w => match w with
    | .sleep 0 ok => some (0, 0, b2n ok)
    | .power _ 0 _ ok => some (0, 0, b2n ok)
    | _ => none

/-- The power-down of a domain is no longer under way. -/
def State.leaveDown (s : State) (d : Domain) : State :=
  s.setNet { s.net with down := s.net.down.filter fun x => decide (x ≠ d), draining := s.net.draining.filter fun x => decide (x.1 ≠ d)
                        isolated := s.net.isolated.filter fun x => decide (x ≠ d)
                        called := s.net.called.filter fun x => decide (x ≠ d) }

/-- A packet before isolation cancels a power-down (R363): the domain stays awake and keeps its content. -/
def State.cancelDown (s : State) (d : Domain) : State :=
  ((s.leaveDown d).setNet { (s.leaveDown d).net with cancelled := satAdd 16 s.net.cancelled 1 }).tellPower d true false

/-- A domain takes nothing yet: it sleeps, wakes, is isolated to power down, or clears its stores (R229, R362, R363). -/
def State.unready (s : State) (d : Domain) : Bool :=
  s.isAsleep d || s.isWaking d || s.net.isolated.contains d || (match d with | .parcel i => (s.parcel i).clearing | _ => false)

/-- A packet goes to a domain (R362, R363): a sleeping one wakes; a power-down is cancelled before isolation, and after it the domain wakes
as soon as it has powered down. `packet`: the wake counts. -/
def State.callDomain (s : State) (d : Domain) (packet : Bool := true) : State :=
  if s.net.isolated.contains d then
    (if s.net.called.contains d then s else s.setNet { s.net with called := s.net.called ++ [d] })
  else if s.isDown d then s.cancelDown d
  else s.startWake d packet

/-- What a unit does at a domain, or its call where the domain takes nothing yet. -/
def State.calls (s : State) (d : Domain) (f : State → State) : State :=
  let t := s.callDomain d
  if t.unready d then t else f t

/-- Tell the parked commands that a domain is ready; those that wait for nothing more are taken up again (R387). -/
def State.tellReady (s : State) (d : Domain) : State :=
  s.setEntries (s.hub.entries.map fun e => match e.wait? with
    | some (.domains ds) =>
      let left := ds.filter fun x => decide (x ≠ d)
      { e with state := if left = [] then .ready false else .parked (.domains left) }
    | _ => e)

-- drains (R349, R360)

/-- The routers at whose ports a domain attaches, numbered as NOC_RECONF does: 0 to 15 West, 16 to 31 East (R349, R366). -/
def domainRouters (d : Domain) : List Nat :=
  match d with
  | .parcel i => [i]
  | .stack k => (List.range 4).map fun j => 16 * (k / 2) + (if k % 2 = 0 then 12 else 0) + j
  | .quad q =>
    let k := q % 18
    [16 * (q / 18) + groupRouter (q / 18) (if k < 5 then 0 else if k < 9 then 1 else if k < 14 then 2 else 3)]
  | .trace e => [if e = 0 then 5 else 22]
  | .bridge b => [16 * (b / 4) + groupRouter (b / 4) (b % 4)]

/-- The largest drain that a router waits for, in NOC cycles (R360). -/
def drainLimit : Nat := 65536

/-- The status of R382 for a drain that is abandoned. -/
def errBusyDrain : Nat := 0x8005

/-- A reconfiguration of a router has drained, or was abandoned (R360, R366). -/
def State.noteDrain (s : State) (router drain : Nat) : State :=
  let bad := decide (drainLimit < drain)
  s.setNet { s.net with
    router := router, lastAband := bad, abandoned := if bad then satAdd 16 s.net.abandoned 1 else s.net.abandoned
    drainMax := max s.net.drainMax (min drain 0x1FFFF) }

/-- Tell the parked commands that a router has drained; those that wait for no other are taken up again (R360, R387). -/
def State.tellDrained (s : State) (router : Nat) : State :=
  s.setEntries (s.hub.entries.map fun e => match e.wait? with
    | some (.drain rs) =>
      let left := rs.filter fun x => decide (x ≠ router)
      { e with state := if left = [] then .ready true else .parked (.drain left) }
    | _ => e)

end Sys2Proof.Machine
end

