-- ==== Sys2Proof/Machine/Hbm.lean ====
section
/-! DEFINITION. Commands that wait for domains (R362) and for routers' drains (R360). Words of the HBM stacks (R182). Allotments in the HBM
stacks (R183, R187, R261, R334): the ranges in use and the lowest free address. Ranges are pairs of a base and a length in units of 64 MiB.
-/
namespace Sys2Proof.Machine

/-- A command whose packets go to domains (R362): it goes on where each takes them, and else is parked until each does. Its checks run again
when a worker takes it up (DESIGN CHOICE 30). -/
def awaken (s : State) (ds : List Domain) (ok : State → Ans) : Ans :=
  let t := ds.foldl (fun u d => u.callDomain d) s
  let left := ds.filter t.unready
  if left = [] then ok t else .park (.domains left) t

/-- A command whose change waits for drains (R360): it is parked until each router has drained, and its checks run again then (DESIGN CHOICE
96). An abandoned one ends it with ERR_BUSY_DRAIN, and nothing changes. -/
def drained (opcode : Nat) (p : Packet) (s : State) (routers : List Nat) (ok : State → Ans) : Ans :=
  if routers = [] ∨ s.hasDrained opcode p then ok s else .park (.drain routers) s

/-- Bytes of a unit of 64 MiB, and its 64-bit words. -/
def unitBytes : Nat := 0x4000000
def unitWords : Nat := 0x800000

/-- Zero a range of units of a stack, which wakes where it sleeps (R186). -/
def State.zeroUnits (s : State) (stack base units : Nat) : State :=
  if units = 0 then s
  else let s := s.callDomain (.stack stack)
       { s with hbm := memZero (stack * 2 ^ 36 + base * unitBytes) (units * unitBytes) s.hbm,
                ecc := mdrop (fun k => decide (eccKey 9 (stack * 2 ^ 33 + base * unitWords) ≤ k)
                  && decide (k < eccKey 9 (stack * 2 ^ 33 + (base + units) * unitWords))) s.ecc }

/-- A 64-bit word of a stack. -/
def State.hbmWord (s : State) (k w : Nat) : Word := memWord s.hbm (hbmAddr k w)

/-- Write a word of a stack; it becomes clean. -/
def State.hbmStore (s : State) (k w : Nat) (d : Word) : State :=
  State.eccClean { s with hbm := memSetWord (hbmAddr k w) d s.hbm } 9 (k * 2 ^ 33 + w)

/-- A fault of a stack (R426): its unit is the reader's parcel for a design read. -/
def hbmFault (code unit access master k w : Nat) (cycle : Word) : FaultEv :=
  { code := code, unit := unit, access := access, master := master, address := hbmFaultAddr k w, cycle := cycle }

/-- Read a word of a stack (R182), counting what it finds: by the part's own code, mark 1 corrected and 2 uncorrectable; by the stack's
reports, mark 3 corrected on the die and 4 uncorrectable there. -/
def State.hbmRead (s : State) (k w unit access master : Nat) (cycle : Word) : Option Word × State :=
  let e := s.eccAt 9 (k * 2 ^ 33 + w)
  if e = 0 then (some (s.hbmWord k w), s)
  else if e = 3 then (some (s.hbmWord k w), s.updStack k fun v => { v with ondieCe := satAdd 16 v.ondieCe 1 })
  else if e = 1 then
    (some (s.hbmWord k w),
      (s.updStack k fun v => { v with ce := satAdd 32 v.ce 1 }).raise (hbmFault 0x2003 unit access master k w cycle))
  else
    (none, (s.updStack k fun v => { v with ue := satAdd 16 v.ue 1 }).raise (hbmFault 0x2004 unit access master k w cycle))

/-- Read `n` words of a stack from word `w` on through the code's check (R182): the marked ones count and raise. Those that do not read
right, and the state. -/
def State.hbmScan (s : State) (k w n unit access master : Nat) (cycle : Word) : List Nat × State :=
  let base := eccKey 9 (k * 2 ^ 33)
  ((s.ecc.filter fun e => decide (base + w ≤ e.1) && decide (e.1 < base + w + n)).map fun e => e.1 - base).foldl (fun a x =>
    let r := a.2.hbmRead k x unit access master cycle
    (if r.1.isSome then a.1 else a.1 ++ [x], r.2)) ([], s)

/-- Every image that the run groups hold. -/
def State.images (s : State) : List Image := (s.groups.map fun e => e.2.images).flatten

/-- The fault unit of an access to a unit of a stack: the lowest parcel of the image whose memory it is, else the stack (R418). -/
def State.stackUnit (s : State) (k unit : Nat) : Nat :=
  match s.images.find? fun i => i.allots.any fun a => decide (a.1 = k) && decide (a.2.1 ≤ unit) && decide (unit < a.2.1 + a.2.2) with
  | some i => i.parcels.headD (32 + k)
  | none => 32 + k

/-- The ranges on a stack that a list of allotments takes. -/
def rangesOn (k : Nat) (l : List (Nat × Nat × Nat)) : List (Nat × Nat) :=
  (l.filter fun a => decide (a.1 = k)).map fun a => (a.2.1, a.2.2)

/-- Design-region ranges in use on a stack: allotments of loaded images, of loads under way and of stages (R183, R202, R206). -/
def State.designUsed (s : State) (k : Nat) : List (Nat × Nat) :=
  (s.images.map fun i => rangesOn k i.allots).flatten ++ (s.claims.map fun c => rangesOn k c.allots).flatten
    ++ (s.stages.filter fun g => decide (g.stack = k)).map fun g => (g.base, g.units)

/-- Trace-region ranges in use on a stack, those that a load under way holds among them (R202, R261). -/
def State.traceUsed (s : State) (k : Nat) : List (Nat × Nat) :=
  ((List.range 2).filterMap fun e =>
    let v := s.engine e
    if v.rg.isSome && !v.onDie && decide (2 * e + v.side = k) then some (v.base, v.units) else none)
    ++ (s.claims.map fun c => rangesOn k c.buffers).flatten

/-- Inset-region ranges in use on a stack, without those of bridge `skip` (R334). -/
def State.insetUsed (s : State) (k : Nat) (skip : Nat := 8) : List (Nat × Nat) :=
  ((List.range 8).map fun b =>
    let v := s.bridge b
    if b = skip ∨ v.rxUnits = 0 ∨ 2 * (b / 4) + v.side ≠ k then []
    else [(v.rxBase, v.rxUnits), (v.txBase, v.txUnits)]).flatten

/-- A range `[base, base + n)` meets none of the used ones. -/
def rangeFree (used : List (Nat × Nat)) (base n : Nat) : Bool :=
  used.all fun u => decide (base + n ≤ u.1) || decide (u.1 + u.2 ≤ base)

/-- The lowest base in `[lo, hi)` at which `n` units fit. A lowest fit starts at `lo` or where a used range ends. -/
def firstFit (used : List (Nat × Nat)) (lo hi n : Nat) : Option Nat :=
  let cands := (lo :: used.map fun u => u.1 + u.2).filter fun b =>
    decide (lo ≤ b) && decide (b + n ≤ hi) && rangeFree used b n
  match cands with
  | [] => none
  | c :: r => some (r.foldl min c)

/-- The largest free run of a region (R189). -/
def largestFree (used : List (Nat × Nat)) (lo hi : Nat) : Nat :=
  (lo :: used.map fun u => u.1 + u.2).foldl (fun best b =>
    if lo ≤ b ∧ b ≤ hi ∧ rangeFree used b 0 then
      let stop := used.foldl (fun h u => if b ≤ u.1 ∧ u.1 < h then u.1 else h) hi
      max best (stop - b)
    else best) 0

end Sys2Proof.Machine
end

