-- ==== Sys2Proof/Machine/Inset.lean ====
section
/-! DEFINITION. The inset bridges (R328 to R347): link, buffers, flow control, outbound assembly, and their commands. -/
namespace Sys2Proof.Machine

/-- The GSR of the parcels of a bridge's image is released (R203); in DIFFERENTIAL pairing those of the bridge's own sheet. -/
def State.bridgeLive (s : State) (b : Nat) : Bool :=
  match (s.bridge b).rg with
  | none => false
  | some g => (s.group g).parcels.all fun p => s.live p || (decide (s.boot.pairMode = 3) && decide (p / 16 ≠ b / 4))

/-- The bridge's link is enabled (R331, R242): it is configured and bound to a loaded image, and nothing holds its lanes in reset (R423). -/
def State.insetEnabled (s : State) (b : Nat) : Bool :=
  let v := s.bridge b
  decide (v.pmd ≠ 0) && !v.bad && s.bridgeLive b && v.awake && !(s.paired && decide (4 ≤ b)) && !s.boot.sheetsHeld

/-- The link state after a change of the configuration, the binding, the GSR or the pairing mode (R331). A link that is not enabled is not
down: its episode ends (R421). -/
def State.relink (s : State) (b : Nat) : State :=
  let v := s.bridge b
  let quiet (t : State) : State := if t.isLive (72 + b) 0x7002 then t.endEpisode (72 + b) 0x7002 else t
  if v.pmd = 0 ∧ v.bad = false then quiet (s.setBridge b { v with link := .unconfigured })
  else if s.insetEnabled b = false then quiet (s.setBridge b { v with link := .held, arriving := none })
  else match v.link with
    | .unconfigured | .held => s.setBridge b { v with link := .training }
    | _ => s

/-- The stack of a bridge's buffers (R334). -/
def State.insetStack (s : State) (b : Nat) : Nat := 2 * (b / 4) + (s.bridge b).side

/-- The words of the stack under `n` bytes of a buffer from byte `place` on; a buffer is a ring (DESIGN CHOICE 103). -/
def frameWords (base units place n : Nat) : List Nat :=
  (List.range (ceilDiv n 8)).map fun i => base * unitWords + (place / 8 + i) % (max 1 units * unitWords)

/-- A frame's words are written: they are clean (R182). -/
def State.cleanFrame (s : State) (b base units place n : Nat) : State :=
  let marks := (frameWords base units place n).filter fun w => decide (s.eccAt 9 (s.insetStack b * 2 ^ 33 + w) ≠ 0)
  { s with ecc := msetMany 0 (marks.map fun w => (eccKey 9 (s.insetStack b * 2 ^ 33 + w), 0)) s.ecc }

/-- A frame is read from its buffer (R182): every word is checked, and one in uncorrectable error reads as a free value (DESIGN CHOICE 103). -/
def State.readFrame (s : State) (b base units : Nat) (f : BFrame) : BFrame × State :=
  let k := s.insetStack b
  let one (a : BFrame × State) (x : Nat × Nat) : BFrame × State :=
    if a.2.eccAt 9 (k * 2 ^ 33 + x.2) = 0 then a else
    let r := a.2.hbmRead k x.2 (32 + k) 1 (nodeMaster (bridgeNode b)) 0
    if r.1.isSome then (a.1, r.2) else
    let v := r.2.fresh 64
    ({ a.1 with bytes := ((a.1.bytes.take (8 * x.1)) ++ leBytes 8 v.1.toNat ++ a.1.bytes.drop (8 * x.1 + 8)).take a.1.bytes.length }, v.2)
  let ws := frameWords base units f.place f.bytes.length
  ((List.range ws.length).zip ws).foldl one (f, s)

/-- Bytes that a frame occupies in a buffer (R335). -/
def frameRoom (n : Nat) : Nat := ceilDiv n 64 * 64 + 64
def occupancy (l : List BFrame) : Nat := (l.map fun f => frameRoom f.bytes.length).sum

/-- A fault of a bridge. -/
def insetFault (s : State) (code b dir : Nat) : FaultEv :=
  { code := code, unit := 72 + b, access := 0, master := 0, address := b + fieldAt 8 dir,
    cycle := match (s.bridge b).rg with | some g => (s.group g).cycle | none => 0 }

/-- Begin the overrun episode of a direction: INSET_OVERRUN once (R337, R339). -/
def State.overBegin (s : State) (b : Nat) (tx : Bool) : State :=
  let v := s.bridge b
  if (if tx then v.overLiveTx else v.overLive) then s else
  let s := s.setBridge b (if tx then { v with overLiveTx := true } else { v with overLive := true })
  State.raise { s with faults := { s.faults with live := mset 0 (72 + b) (s.liveBits (72 + b) ||| 32) s.faults.live } }
    (insetFault s 0x7001 b (b2n tx))

/-- End it: the unit's live status clears when neither direction is live. -/
def State.overEnd (s : State) (b : Nat) (tx : Bool) : State :=
  let v := s.bridge b
  let w := if tx then { v with overLiveTx := false } else { v with overLive := false }
  let s := s.setBridge b w
  if w.overLive || w.overLiveTx then s else s.endEpisode (72 + b) 0x7001

/-- Send a PAUSE frame, or a PFC frame for the priorities of pfc_mask, with quanta (R337). -/
def State.sendFlow (s : State) (b quanta : Nat) : State :=
  let v := s.bridge b
  let s := s.insetCount b 12 1
  s.setSent { s.sent with flow := s.sent.flow ++ [(b, if v.fc = 2 then some v.pfcMask else none, quanta)] }

/-- Watch the inbound buffer's marks after a change (R335, R337). -/
def State.watchRx (s : State) (b : Nat) : State :=
  let v := s.bridge b
  let occ := occupancy v.rxBuf * 256
  let size := v.rxUnits * unitBytes
  if v.overRx = false ∧ 0 < size ∧ v.hiWm * size ≤ occ then
    let s := s.setBridge b { v with overRx := true, pauseSent := decide (v.fc ≠ 0) }
    if v.fc = 0 then s.overBegin b false else s.sendFlow b 0xFFFF
  else if v.overRx ∧ occ < v.loWm * size then
    let s := s.setBridge b { v with overRx := false, pauseSent := false }
    (if v.pauseSent then s.sendFlow b 0 else s).overEnd b false
  else s

/-- Watch the outbound buffer's marks (R339). -/
def State.watchTx (s : State) (b : Nat) : State :=
  let v := s.bridge b
  let occ := occupancy v.txBuf * 256
  let size := v.txUnits * unitBytes
  if v.overTx = false ∧ 0 < size ∧ v.hiWm * size ≤ occ then (s.setBridge b { v with overTx := true }).overBegin b true
  else if v.overTx ∧ occ < v.loWm * size then (s.setBridge b { v with overTx := false }).overEnd b true
  else s

/-- The fate of a frame that begins to arrive (R336): 1 buffered, 0 dropped whole. -/
def arriveFrame (s : State) (b length : Nat) : State :=
  let v := s.bridge b
  if v.link ≠ .up then s
  else if v.rxUnits * unitBytes < occupancy v.rxBuf + frameRoom length then
    ((s.insetCount b 3 1).overBegin b false).updBridge b fun w => { w with arriving := some (length, 0) }
  else if v.overRx ∧ v.fc = 0 then
    ((s.insetCount b 2 1).overBegin b false).updBridge b fun w => { w with arriving := some (length, 0) }
  else s.setBridge b { v with arriving := some (length, 1) }

/-- A complete inbound frame (R333). DEDUCED 14: a frame of a bad length counts as such even when its FCS is wrong. -/
def receiveFrame (s : State) (b : Nat) (f : Frame) : State :=
  let v := s.bridge b
  match v.arriving with
  | none => s
  | some (_, keep) =>
    let s := s.setBridge b { v with arriving := none }
    let n := f.bytes.length
    if keep = 0 then s
    else if n < 60 ∨ v.maxLen < n then s.insetCount b 5 1
    else
      let fr : BFrame := { bytes := f.bytes, error := !f.fcsOk, stamp := f.stamp, cycle := 0, step := 0, place := v.rxNext }
      let put (t : State) : State :=
        State.watchRx (((t.callDomain (.stack (t.insetStack b))).cleanFrame b v.rxBase v.rxUnits v.rxNext n).updBridge b fun w =>
          { w with rxBuf := w.rxBuf ++ [fr], rxNext := (v.rxNext + frameRoom n) % (max 1 v.rxUnits * unitBytes) }) b
      if f.fcsOk then put ((s.insetCount b 0 1).insetCount b 1 n)
      else if v.deliverBad then put (s.insetCount b 4 1)
      else s.insetCount b 4 1

/-- The bytes of a PAUSE or PFC frame, with a source address that the spec leaves to the far end. -/
def flowBytes (src : BitVec 48) (pfc : Bool) (mask quanta : Nat) : List Byte :=
  let be (v : Nat) : List Byte := [BitVec.ofNat 8 (v / 256), BitVec.ofNat 8 v]
  let body := if pfc then be mask ++ ((List.range 8).map fun i => if bitOf mask i then be quanta else be 0).flatten else be quanta
  let all := ([0x01, 0x80, 0xC2, 0x00, 0x00, 0x01] : List Byte) ++ leBytes 6 src.toNat ++ [0x88, 0x08] ++ be (if pfc then 0x0101 else 1)
    ++ body
  all ++ List.replicate (60 - all.length) 0

/-- A received PAUSE or PFC frame (R333, R338). -/
def takeFlow (s : State) (b : Nat) (pfc : Bool) (mask quanta : Nat) : State :=
  let v := s.bridge b
  if v.link ≠ .up then s
  else if v.fc = 0 then
    let r := s.fresh 48
    let f : Frame := { bytes := flowBytes r.1 pfc mask quanta, fcsOk := true, stamp := s.tOpen s.opp }
    receiveFrame (arriveFrame r.2 b 60) b f
  else
    let named := if pfc then maskList 8 (mask &&& v.pfcMask) else List.range 8
    let rest := v.paused.filter fun p => !named.contains p
    (s.setBridge b { v with paused := if quanta = 0 then rest else rest ++ named }).insetCount b 13 1

/-- The priority of a frame (R338): that of its VLAN tag, else 0. -/
def framePrio (f : BFrame) : Nat :=
  if f.bytes.getD 12 0 = 0x81 ∧ f.bytes.getD 13 0 = 0x00 then (f.bytes.getD 14 0).toNat / 32 else 0

/-- Move the head frame of the inbound buffer into the inbound inset stream queue (R340), once the stack is awake (R362). In paired modes East's
queue takes a copy (R245). -/
def moveFrame (s : State) (b : Nat) : State :=
  let v := s.bridge b
  let twin := s.paired && decide (b < 4)
  match v.rxBuf with
  | [] => s
  | f :: rest =>
    if v.rg.isNone || decide (16 ≤ v.rxQ.length) || (twin && decide (16 ≤ (s.bridge (b + 4)).rxQ.length)) then s
    else s.calls (.stack (s.insetStack b)) fun t =>
      let r := t.readFrame b v.rxBase v.rxUnits f
      let s := r.2.updBridge b fun w => { w with rxBuf := rest, rxQ := v.rxQ ++ [r.1] }
      let s := if twin then s.updBridge (b + 4) fun w => { w with rxQ := w.rxQ ++ [r.1] } else s
      s.watchRx b

/-- The bytes of an outbound word (R84). -/
def wordBytes (w : BitVec 72) : List Byte :=
  let n := bitsOf w.toNat 67 3
  leBytes (if w.getLsbD 66 && decide (n ≠ 0) then n else 8) w.toNat

/-- An outbound word joins the open frame (R342): at its eof the frame is complete, or discarded. -/
def appendWord (b : Bridge) (f : BFrame) (abort : Bool) (w : BitVec 72) : Bridge :=
  let g : BFrame := { f with bytes := f.bytes ++ wordBytes w }
  let long := b.txLong || decide (b.maxLen < g.bytes.length)
  let ab := abort || w.getLsbD 70
  let kept : BFrame := { g with bytes := if long then [] else g.bytes }
  if w.getLsbD 66 then
    if long || ab then
      { b with txOpen := none, txLong := false, txAbort := false, cnt := mset 0 10 (satAdd 48 (mget 0 10 b.cnt) 1) b.cnt }
    else { b with txOpen := none, txLong := false, txAbort := false, txQ := b.txQ ++ [g] }
  else { b with txOpen := some kept, txLong := long, txAbort := ab }

/-- An outbound word reaches the bridge (R83, R342): the bridge, and whether the word was dropped for want of an entry. -/
def assembleWord (b : Bridge) (w : BitVec 72) (cycle : Word) (step : Nat) : Bridge × Bool :=
  let bad (v : Bridge) : Bridge := { v with cnt := mset 0 11 (satAdd 48 (mget 0 11 v.cnt) 1) v.cnt }
  let empty : BFrame := { bytes := [], error := false, stamp := 0, cycle := cycle, step := step }
  match w.getLsbD 65, b.txOpen with
  | true, none => if 16 ≤ b.txUse then (b, true) else (appendWord { b with txLong := false } empty false w, false)
  | true, some _ => (appendWord { bad b with txLong := false } empty false w, false)
  | false, none => (bad b, false)
  | false, some f => (appendWord b f b.txAbort w, false)

/-- A completed outbound frame moves into the outbound buffer (R339, R342); East's are discarded in paired modes (R245). -/
def completeOut (s : State) (b : Nat) : State :=
  let v := s.bridge b
  match v.txQ with
  | [] => s
  | f :: rest =>
    let s := s.setBridge b { v with txQ := rest }
    if s.paired && decide (4 ≤ b) then s
    else if v.txUnits * unitBytes < occupancy v.txBuf + frameRoom f.bytes.length then
      (s.insetCount b 8 1).overBegin b true
    else
      let n := f.bytes.length
      State.watchTx (((s.callDomain (.stack (s.insetStack b))).cleanFrame b v.txBase v.txUnits v.txNext n).updBridge b fun w =>
        { w with txBuf := w.txBuf ++ [{ f with place := v.txNext }], txNext := (v.txNext + frameRoom n) % (max 1 v.txUnits * unitBytes) }) b

/-- The FCS of a frame (R333), sent lowest byte first. PRESUMED 99: the CRC-32 of IEEE 802.3, polynomial 0x04C11DB7. -/
def fcs (b : List Byte) : Nat := b.foldl (fun c x => crcShift 0xEDB88320 8 (c ^^^ x.toNat)) 0xFFFFFFFF ^^^ 0xFFFFFFFF

/-- The head frame of the outbound buffer leaves, waits for its priority, or is discarded (R333, R338, R339). Its stamp is the datum time of
the opportunity, within 1 ns of the crossing (R344). -/
def departFrame (s : State) (b : Nat) : State :=
  let v := s.bridge b
  match v.txBuf with
  | [] => s
  | f :: rest =>
    if v.link ≠ .up then ((s.setBridge b { v with txBuf := rest }).insetCount b 9 1).watchTx b
    else if v.paused.contains (framePrio f) then s
    else s.calls (.stack (s.insetStack b)) fun t =>
      let r := t.readFrame b v.txBase v.txUnits f
      let s := r.2
      let f := r.1
      let n := f.bytes.length
      let e : StampEntry :=
        { seq := v.txSeq, length := n, error := false, stamp := s.tOpen s.opp, cycle := f.cycle, step := f.step }
      let l := stampLog v.txLog e
      let s := s.updBridge b fun w =>
        { w with txBuf := rest, txLog := l.1, txSeq := v.txSeq + 1, lost := satAdd 32 v.lost l.2 }
      let s := ((s.insetCount b 6 1).insetCount b 7 n).watchTx b
      let sent := f.bytes ++ List.replicate (60 - n) 0
      s.setSent { s.sent with frames := s.sent.frames ++ [(b, sent ++ leBytes 4 (fcs sent))] }

/-- A row that names a bridge. -/
def insetRow (b : Nat) (s : State) (f : State → State) : Host.Outcome State Fault Refusal :=
  if b < 8 then .next (f s) else .fault .noSuchUnit

def execInsetFrameArrival (bridge length : Nat) (s : State) : Host.Outcome State Fault Refusal :=
  insetRow bridge s fun t => arriveFrame t bridge length

def execInsetFrameReceived (bridge : Nat) (f : Frame) (s : State) : Host.Outcome State Fault Refusal :=
  insetRow bridge s fun t => if (t.bridge bridge).link = .up then receiveFrame t bridge f else t

def execPauseFrame (bridge : Nat) (pfc : Bool) (mask quanta : Nat) (s : State) : Host.Outcome State Fault Refusal :=
  insetRow bridge s fun t => takeFlow t bridge pfc mask quanta

/-- PAUSE_EXPIRY of one priority, or of all for a number above 7 (a PAUSE frame). -/
def execPauseExpiry (bridge prio : Nat) (s : State) : Host.Outcome State Fault Refusal :=
  insetRow bridge s fun t => t.updBridge bridge fun v => { v with paused := v.paused.filter fun p => decide (p ≠ prio) && decide (prio < 8) }

def execPauseRepeat (bridge : Nat) (s : State) : Host.Outcome State Fault Refusal :=
  insetRow bridge s fun t => if (t.bridge bridge).pauseSent then t.sendFlow bridge 0xFFFF else t

def execInsetFrameMove (bridge : Nat) (s : State) : Host.Outcome State Fault Refusal :=
  insetRow bridge s fun t => moveFrame t bridge

def execInsetOutboundComplete (bridge : Nat) (s : State) : Host.Outcome State Fault Refusal :=
  insetRow bridge s fun t => completeOut t bridge

def execInsetFrameDepart (bridge : Nat) (s : State) : Host.Outcome State Fault Refusal :=
  insetRow bridge s fun t => departFrame t bridge

/-- INSET_LINK_UP (R331, R332). -/
def execInsetLinkUp (bridge : Nat) (s : State) : Host.Outcome State Fault Refusal :=
  insetRow bridge s fun t =>
    if t.insetEnabled bridge then (t.updBridge bridge fun v => { v with link := .up }).endEpisode (72 + bridge) 0x7002 else t

/-- INSET_LINK_DOWN: an enabled link that is UP goes down, or its training fails (R331, R332). -/
def execInsetLinkDown (bridge : Nat) (s : State) : Host.Outcome State Fault Refusal :=
  insetRow bridge s fun t =>
    if t.insetEnabled bridge then
      let v := t.bridge bridge
      let u := t.setBridge bridge { v with link := .down, arriving := none }
      if v.link = .up then u.beginEpisode (insetFault u 0x7002 bridge 0) else u
    else t

def execInsetTrainingRetry (bridge : Nat) (s : State) : Host.Outcome State Fault Refusal :=
  insetRow bridge s fun t =>
    if t.insetEnabled bridge && decide ((t.bridge bridge).link = .down) then t.updBridge bridge fun v => { v with link := .training }
    else t

-- commands

/-- The lanes of a quad that a PHY uses (R328). -/
def phyLanes (quad pmd : Nat) : List Nat := (quadLanes quad).take (if pmd = 3 then 4 else if pmd = 2 then 2 else 1)

/-- A pair of PHY and quad is consistent for a bridge (R330). -/
def State.insetPairOk (s : State) (b pmd quad : Nat) : Bool :=
  decide (pmd = 0) || (decide (pmd ≤ 4) && decide (quad < 36) && decide (quadSheet quad = b / 4)
    && (decide ((s.quad quad).bridge = none) || decide ((s.quad quad).bridge = some b)) && (s.quad quad).rg.isNone
    && !s.quadHeld quad && (s.quad quad).awake)

/-- Put the PHY and quad of a bridge into force (R329, R330): the old quad is unbound, the new one bound and its lanes set. -/
def State.insetBind (s : State) (b pmd quad : Nat) : State :=
  let v := s.bridge b
  let s := if v.pmd ≠ 0 ∧ (s.quad v.quad).bridge = some b then (s.updQuad v.quad fun q => { q with bridge := none }).clearRec (36 + v.quad) else s
  let s := s.updBridge b fun w => { w with pmd := pmd, quad := quad, stgPmd := pmd, stgQuad := quad, bad := false }
  if pmd = 0 then s else
  let s := s.callDomain (.bridge b)
  let s := (s.updQuad quad fun q => { q with bridge := some b }).clearRec (36 + quad)
  let used := phyLanes quad pmd
  State.endTrain (State.endDown (forEach (quadLanes quad) (fun l t => t.updLane l fun w =>
    if used.contains l then
      { { w with fec := 1 }.toIdle with rate := b2n (pmd = 4), stgRate := b2n (pmd = 4), stgFec := 1, ctrl := [] }
    else w.toIdle) s) quad)

/-- The fields of INSET_CONFIG as a whole, for the comparison with those in force. -/
def insetFields (v : Bridge) : List Nat :=
  [v.pmd, v.quad, v.fc, v.pfcMask, b2n v.deliverBad, v.side, v.maxLen, v.rxUnits, v.txUnits, v.hiWm, v.loWm]

def insetConfigBad (p : Packet) : Option Nat :=
  parCheck p [(20, 1), (21, 1), (22, 1), (23, 1), (24, 1), (25, 1), (26, 2), (28, 1), (29, 1), (30, 1), (31, 1)]
    (decide (par p 20 1 < 8) && decide (par p 21 1 ≤ 4) && decide (par p 22 1 < 36) && decide (par p 23 1 ≤ 2)
      && decide (par p 25 1 < 4) && decide (1514 ≤ par p 26 2) && decide (par p 26 2 ≤ 9212) && decide (par p 28 1 ≤ 64)
      && decide (par p 29 1 ≤ 64) && decide (par p 31 1 < par p 30 1) && !(decide (par p 23 1 = 2) && decide (par p 24 1 = 0)))

/-- The link code of INSET_STAT (R347). -/
def linkCode (l : BridgeLink) : Nat :=
  match l with | .unconfigured => 0 | .held => 1 | .training => 2 | .up => 3 | .down => 4

/-- INSET_CONFIG (R334, R345). DEDUCED 15: a quad that sleeps makes the pair inconsistent (R330), ERR_CFG_MISMATCH. -/
def insetConfigOwn (p : Packet) (s : State) : Ans :=
  let b := par p 20 1
  let pmd := par p 21 1
  let quad := par p 22 1
  let v := s.bridge b
  let side := bitsOf (par p 25 1) 1 1
  let k := 2 * (b / 4) + side
  let st := s.stack k
  let units := if pmd = 0 then (0, 0) else (par p 28 1, par p 29 1)
  let used := s.insetUsed k b
  let rx := firstFit used st.traceEnd st.insetEnd units.1
  let tx := match rx with
    | some r => firstFit ((r, units.1) :: used) st.traceEnd st.insetEnd units.2
    | none => none
  let new : Bridge :=
    { Bridge.init with pmd := pmd, quad := quad, fc := par p 23 1, pfcMask := par p 24 1,
                       deliverBad := bitOf (par p 25 1) 0, side := side, maxLen := par p 26 2, rxUnits := units.1,
                       txUnits := units.2, hiWm := par p 30 1, loWm := par p 31 1 }
  checks s
    [(!callerPf p, errOwner, 0),
     (s.quadLocked p.session quad || (decide (v.pmd ≠ 0) && s.quadLocked p.session v.quad), errLock, 0),
     (v.rg.isSome || s.bridgeHeld b || (s.paired && decide (4 ≤ b)), errState, 0),
     (!v.bad && decide (insetFields new = insetFields v), okAlready, 0),
     (decide (pmd ≠ 0) && (decide (quadSheet quad ≠ b / 4) || (s.quad quad).rg.isSome || s.quadHeld quad
        || ((s.quad quad).bridge.isSome && decide ((s.quad quad).bridge ≠ some b))), errResource, 0),
     (decide (pmd ≠ 0) && !(s.quad quad).awake, errMismatch, 0),
     (decide (pmd ≠ 0) && (!st.trained || rx.isNone || tx.isNone), errResource, 0x0502)]
    (drained 0x0900 p s (domainRouters (.bridge b)) fun s =>
     let s := (s.zeroUnits (2 * (b / 4) + v.side) v.rxBase v.rxUnits).zeroUnits (2 * (b / 4) + v.side) v.txBase v.txUnits
     let s := s.insetBind b pmd quad
     let base (o : Option Nat) : Nat := if pmd = 0 then 0 else o.getD 0
     let s := s.updBridge b fun w =>
       { w with fc := new.fc, pfcMask := new.pfcMask, deliverBad := new.deliverBad, side := side, maxLen := new.maxLen,
                rxBase := base rx, rxUnits := units.1, txBase := base tx, txUnits := units.2, hiWm := new.hiWm,
                loWm := new.loWm, rxBuf := [], txBuf := [], rxNext := 0, txNext := 0, arriving := none, paused := [], pauseSent := false,
                overRx := false, overTx := false }
     let s := (s.zeroUnits k (base rx) units.1).zeroUnits k (base tx) units.2
     let s := (((s.overEnd b false).overEnd b true).relink b).noteCommit 0x38 b 0
     done s (linkCode (s.bridge b).link))

def execInsetConfig (p : Packet) (s : State) : Host.Outcome State Fault Refusal :=
  .next (command 0x0900 p s (insetConfigBad p) (decide (par p 21 1 ≠ 0) && (decide (par p 28 1 = 0) || decide (par p 29 1 = 0)))
    (insetConfigOwn p s))

/-- The caller owns the image bound to the bridge, or is the physical function (R346). -/
def insetCaller (p : Packet) (s : State) (b : Nat) : Bool :=
  callerPf p || ((s.bridge b).rg.isSome && decide ((s.bridge b).group = callerFn p))

/-- INSET_FLUSH (R346). -/
def insetFlushOwn (p : Packet) (s : State) : Ans :=
  let b := par p 20 1
  let v := s.bridge b
  let m := par p 21 1
  let rx := if bitOf m 0 then v.rxBuf.length else 0
  let tx := if bitOf m 1 then v.txBuf.length else 0
  checks s [(!insetCaller p s b, errOwner, 0), (decide (v.pmd = 0), errState, 0)]
    (done (((s.setBridge b { v with rxBuf := if bitOf m 0 then [] else v.rxBuf, txBuf := if bitOf m 1 then [] else v.txBuf }).watchRx b).watchTx b)
      (rx + resAt 20 tx))

def execInsetFlush (p : Packet) (s : State) : Host.Outcome State Fault Refusal :=
  .next (command 0x0901 p s (parCheck p [(20, 1), (21, 1)] (decide (par p 20 1 < 8) && decide (par p 21 1 < 4)))
    (decide (par p 21 1 = 0)) (insetFlushOwn p s))

/-- The 32 bytes of a stamp log entry (R344). -/
def stampBytes (e : StampEntry) : List Byte :=
  leBytes 4 e.seq ++ leBytes 2 e.length ++ leBytes 2 (b2n e.error) ++ leBytes 8 e.stamp.toNat ++ leBytes 8 e.cycle.toNat
    ++ leBytes 2 e.step ++ leBytes 6 0

/-- The log that INSET_STAMPS reads, and the entries of it that it copies (R346). -/
def stampLogOf (p : Packet) (s : State) : List StampEntry :=
  if par p 21 1 = 0 then (s.bridge (par p 20 1)).rxLog else (s.bridge (par p 20 1)).txLog

def stampCopies (p : Packet) (s : State) : List (List Byte) :=
  (((stampLogOf p s).drop (par p 24 8)).take (p.len.toNat / 32)).map stampBytes

/-- INSET_STAMPS (R346). -/
def insetStampsOwn (p : Packet) (s : State) : Ans :=
  let out := stampCopies p s
  checks s [(!insetCaller p s (par p 20 1), errOwner, 0), (decide ((s.bridge (par p 20 1)).pmd = 0), errState, 0)]
    (done (bufPut s p 0 out.flatten) (out.length + resAt 20 (stampLogOf p s).length))

def insetStampsBad (p : Packet) : Option Nat :=
  parCheck p [(20, 1), (21, 1), (24, 8)] (decide (par p 20 1 < 8) && decide (par p 21 1 < 2) && decide (p.len.toNat % 32 = 0))

def execInsetStamps (p : Packet) (s : State) : Host.Outcome State Fault Refusal :=
  .next (command 0x0902 p s (insetStampsBad p) (decide (p.len = 0)) (insetStampsOwn p s))

end Sys2Proof.Machine
end

