-- ==== Sys2Proof/Machine/Bank.lean ====
section
/-! DEFINITION. The free slots of the banks (R167 to R181): the arbiter, write-backs, the transfers of parked backdoor commands;
and the events of the HBM path (R83, R154, R182 to R185, R351). -/
namespace Sys2Proof.Machine

/-- Remove the first element that satisfies `p`. -/
def dropFirst {α : Type} (p : α → Bool) : List α → List α
  | [] => []
  | a :: l => if p a then l else a :: dropFirst p l

-- the arbiter (R173, R174)

/-- The Surveyor DMA has accesses pending at a bank: a load writes it, or an unload or the clear of its parcel zero-fills it (R172, R173). -/
def State.dmaAt (s : State) (c : Nat) : Bool :=
  let v := s.parcel (clParcel c)
  v.clearing || match v.load with
    | .loading | .unloading => true
    | _ => false

/-- The survey has accesses pending at a bank: it captures or restores the bank's parcel (R173). -/
def State.surveyAt (s : State) (c : Nat) : Bool :=
  match (s.parcel (clParcel c)).svState with
  | .capturing | .restoring => true
  | _ => false

/-- The request lines of a bank, master 0 first. DESIGN CHOICE 107: the words that masters 1 and 2 move are not told apart, so their lines
stay raised until the work at the bank ends. -/
def State.lines (s : State) (c : Nat) : List Bool :=
  [!(s.cluster c).host.isEmpty, s.dmaAt c, s.surveyAt c, !(s.cluster c).atomics.isEmpty]

/-- Slot B of a step is free: the free map says so (R175), and the port word is neither reserved nor uncorrectable (R86). -/
def State.freeB (s : State) (c n step : Nat) : Bool :=
  let k := c * 4096 + (if n = 0 then 0 else step % n)
  !mget false k s.busyMap && !(portInsOf (mget 0 k s.ptable)).bad && decide (s.eccAt 5 k < 2)

/-- The run group of a cluster in RUNNING state. -/
def State.runsAt (s : State) (c : Nat) : Option Nat :=
  match s.rgOfCluster c with
  | some g => if (s.group g).state = .running then some g else none
  | none => none

/-- Whether a slot of the current opportunity is free to dynamic masters (R167): of the opportunity that the run group has used, or of
the one that it uses next. Slot B of an executed step passes after the step (DEDUCED 89). -/
def State.slotFree (s : State) (c : Nat) (slot : Slot) : Bool :=
  match s.runsAt c with
  | none => true
  | some g =>
    let r := s.group g
    if r.lastOpp = some s.opp then !r.ranLast || (decide (slot = .b) && s.freeB c r.n (r.step + r.n - 1))
    else s.gatedNext g || (decide (slot = .b) && s.freeB c r.n r.step)

/-- Whether an atomic fits into a free slot of the current opportunity: the next slot in slot order is certain to be free (R174, rule 3).
After a slot A that is slot B of the same opportunity; after a slot B, slot B of the next step or slot A of a gated opportunity. Lateness
that is established makes the current opportunity certain, and never a later one. -/
def State.atomicFits (s : State) (c : Nat) (slot : Slot) : Bool :=
  match s.rgOfCluster c with
  | none => true
  | some g =>
    let r := s.group g
    if r.state ≠ .running ∧ r.state ≠ .armed then true
    else match slot with
      | .a => decide (s.arrivalLate g ≠ 0) || s.freeB c r.n r.step
      | .b => s.freeB c r.n (if r.state = .running ∧ r.lastOpp ≠ some s.opp ∧ s.gatedNext g = false then r.step + 1 else r.step)

/-- The masters in rotation after the last owner. -/
def rotation (owner : Nat) : List Nat := (List.range 4).map fun i => (owner + 1 + i) % 4

/-- The decision for a free slot (R174): the granted master, and whether an atomic was passed over. -/
def arbitrate (owner : Nat) (lines : List Bool) (fits : Bool) : Option Nat × Bool :=
  let order := (rotation owner).filter fun m => lines.getD m false
  match order with
  | [] => (none, false)
  | m :: rest => if m = 3 ∧ fits = false then (rest.head?, true) else (some m, false)

/-- The decision for a slot, and the owner after it. A slot that is not free, or reserved for a write-back or the second half of an
atomic, gets none. -/
def slotGrant (owner : Nat) (lines : List Bool) (open_ fits : Bool) : SlotGrant × Nat :=
  if open_ then
    let d := arbitrate owner lines fits
    ({ master := d.1, skips := d.2, past := false }, d.1.getD owner)
  else (SlotGrant.none, owner)

/-- Bring the arbiter of a bank to opportunity `o`: the grants of its slots, decided in the opportunity before from the request lines at
the start of that one (R174), and the conflicts of a scheduled slot B and of an atomic passed over (R178). Slots held for a write-back or
the second half of an atomic come first. -/
def State.syncArb (s : State) (c o : Nat) : State :=
  let v := s.cluster c
  if o = v.arb.opp ∨ (o < v.arb.opp ∧ (s.runsAt c).isNone) then s else
  let lines := if o = v.arb.opp + 1 then v.arb.seen else s.lines c
  let fa := s.slotFree c .a
  let fb := s.slotFree c .b
  let held := b2n v.second.isSome + b2n v.wb.isSome
  let a := slotGrant v.owner lines (fa && decide (held = 0)) (s.atomicFits c .a)
  let b := slotGrant a.2 lines (fb && decide (held ≤ b2n fa) && decide (a.1.master ≠ some 3))
    (s.atomicFits c .b)
  let s := s.updCluster c fun w => { w with owner := b.2, arb := { opp := o, seen := s.lines c, a := a.1, b := b.1 } }
  let s := if !fb && (s.runsAt c).isSome then
      (List.range 4).foldl (fun t m => if lines.getD m false then t.countConflict (clParcel c) m else t) s
    else s
  if a.1.skips || b.1.skips then s.countConflict (clParcel c) 3 else s

/-- Raise the line of a dynamic master (R174): the access counts from the next opportunity on. -/
def State.raiseLine (s : State) (c : Nat) (f : Cluster → Cluster) : State := (s.syncArb c s.opp).updCluster c f

-- transfers

/-- The parked backdoor command that access `id` of a bank belongs to. -/
def Entry.atBank (e : Entry) (c id : Nat) : Bool :=
  match e.wait? with
  | some (.bank cl _ _ _ _ k) => decide (cl = c) && decide (k = id)
  | some (.atomicOp cl _ k) => decide (cl = c) && decide (k = id)
  | _ => false

/-- The next access of a MEM_READ or MEM_WRITE on a bank. -/
def nextAccess (s : State) (p : Packet) (write : Bool) (done addr id : Nat) : BankAccess :=
  if write then .wr addr (BitVec.ofNat 64 (memNat (bufMem s p) (8 * done) 8)) id else .rd addr id

/-- The results of a backdoor transfer (R180): words moved, and the word it stopped at, or all ones. -/
def memResults (words stop : Nat) : Nat := words + resAt 20 stop
def memComplete : Nat := 2 ^ 64 - 1

/-- A word of command `id` has moved: its next access is raised, or the command ends. -/
def advanceBank (s : State) (c id : Nat) (data : Option Word) : State :=
  match s.hub.entries.find? (·.atBank c id) with
  | none => s
  | some e =>
    match e.wait? with
    | some (.bank _ write done total word _) =>
      let upd (t : State) (st : EntryState) : State :=
        t.setEntries (updFirst (·.atBank c id) (fun x => { x with state := st }) t.hub.entries)
      match write, data with
      | false, none => upd s (.done (s.mkReply e.pkt errDevice 0x2002 (memResults done word)))
      | _, _ =>
        let s := match write, data with
          | false, some d => bufPutNat s e.pkt (8 * done) 8 d.toNat
          | _, _ => s
        if done + 1 = total then upd s (.done (s.mkReply e.pkt 0 0 (memResults total memComplete)))
        else
          let a := nextAccess s e.pkt write (done + 1) (word + 1) id
          (upd s (.parked (.bank c write (done + 1) total (word + 1) id))).updCluster c fun v => { v with host := v.host ++ [a] }
    | _ => s

/-- End the atomic `id` of a bank. -/
def finishAtomic (s : State) (c id status detail results : Nat) : State :=
  s.setEntries (updFirst (·.atBank c id) (fun e => { e with state := .done (s.mkReply e.pkt status detail results) }) s.hub.entries)

/-- The session of the command an access belongs to, as the master of a fault. -/
def bankMaster (s : State) (c id : Nat) : Nat :=
  match s.hub.entries.find? (·.atBank c id) with
  | some e => sessionMaster e.pkt.session
  | none => nodeMaster surveyorNode

/-- Cycle counter of the run group of a cluster, 0 if none (R425). -/
def State.cycleAt (s : State) (c : Nat) : Word :=
  match s.rgOfCluster c with
  | some g => (s.group g).cycle
  | none => 0

/-- Store a dynamic write; in MIRRORED pairing both copies are written (R251). -/
def State.dynStore (s : State) (c w : Nat) (d : Word) : State :=
  let s := s.bankStore c w d
  if s.boot.pairMode = 2 ∧ c < 256 then s.bankStore (c + 256) w d else s

/-- Perform one access of master 0. -/
def doAccess (s : State) (c : Nat) (a : BankAccess) : State :=
  match a with
  | .rd w id =>
    let r := s.bankRead c w 1 (bankMaster s c id) (s.cycleAt c)
    let t := r.2.1.raiseAll r.2.2
    advanceBank t c id r.1
  | .wr w d id => advanceBank (s.dynStore c w d) c id none
  | _ => s

/-- The new value of an atomic (R177). -/
def atomicValue (a : BankAccess) (old : Word) : Word :=
  match a with
  | .add _ v _ => old + v
  | .swap _ v _ => v
  | _ => old

def BankAccess.word (a : BankAccess) : Nat :=
  match a with | .rd w _ => w | .wr w _ _ => w | .add w _ _ => w | .swap w _ _ => w
def BankAccess.id (a : BankAccess) : Nat :=
  match a with | .rd _ k => k | .wr _ _ k => k | .add _ _ k => k | .swap _ _ k => k

/-- The first slot of an atomic: the read and its check (R171, R177). -/
def atomicRead (s : State) (c : Nat) (a : BankAccess) : State :=
  let w := a.word
  let r := s.bankRead c w 3 (bankMaster s c a.id) (s.cycleAt c)
  let t := r.2.1.raiseAll r.2.2
  match r.1 with
  | some old => t.updCluster c fun v => { v with second := some (w, old) }
  | none => finishAtomic (t.updCluster c fun v => { v with atomics := v.atomics.drop 1 }) c a.id errDevice 0x2002 0

/-- The second slot: the write, and the old value returned. -/
def atomicWrite (s : State) (c w : Nat) (old : Word) : State :=
  let v := s.cluster c
  match v.atomics with
  | [] => s.setCluster c { v with second := none }
  | a :: rest =>
    finishAtomic ((s.setCluster c { v with second := none, atomics := rest }).dynStore c w (atomicValue a old)) c a.id 0 0 old.toNat

/-- The granted master uses a slot (R174). A grant to a master with nothing left is unused. What masters 1 and 2 move takes effect with the
row that ends their work. -/
def transfer (s : State) (c m : Nat) : State :=
  let v := s.cluster c
  match m with
  | 0 => match v.host with
    | a :: rest => doAccess (s.updCluster c fun w => { w with host := rest }) c a
    | [] => s
  | 1 | 2 => s
  | _ => match v.atomics with
    | a :: _ => atomicRead s c a
    | [] => s

/-- Write back the corrected word of a bank (R170): its check bits become clean. -/
def writeBack (s : State) (c : Nat) : State :=
  match (s.cluster c).wb with
  | some w => (s.eccClean 6 (c * 65536 + w)).updCluster c fun v => { v with wb := none }
  | none => s

/-- The slot, or a later one of its opportunity, has passed. -/
def Arbiter.past (v : Arbiter) (slot : Slot) : Bool := v.b.past || (decide (slot = .a) && v.a.past)

/-- A slot has passed. -/
def Arbiter.pass (v : Arbiter) (slot : Slot) : Arbiter :=
  match slot with
  | .a => { v with a := { v.a with past := true } }
  | .b => { v with b := { v.b with past := true } }

/-- A free slot of a bank passes (R170, R174, R177): the second slot of an atomic, a write-back, or the granted transfer. -/
def freeSlot (s : State) (c : Nat) (slot : Slot) : State :=
  let v := s.cluster c
  let s := s.setCluster c { v with arb := v.arb.pass slot }
  match v.second with
  | some (w, old) => atomicWrite s c w old
  | none =>
    if v.wb.isSome then writeBack s c
    else match (match slot with | .a => v.arb.a.master | .b => v.arb.b.master) with
      | some m => transfer s c m
      | none => s

/-- The opportunity that a row of a slot belongs to: the current one. Where no run group executes at the bank, a row of a slot that has
passed is the one of the opportunity after (DEDUCED 89). -/
def State.slotOpp (s : State) (c : Nat) (slot : Slot) : Nat :=
  let v := (s.cluster c).arb
  if (s.runsAt c).isNone ∧ s.opp ≤ v.opp then (if v.past slot then v.opp + 1 else v.opp) else s.opp

/-- A slot passes where it is free to dynamic masters and has not passed yet. -/
def dynamicSlot (s : State) (c : Nat) (slot : Slot) : State :=
  let t := s.syncArb c (s.slotOpp c slot)
  if s.slotFree c slot && !(t.cluster c).arb.past slot then freeSlot t c slot else t

/-- The slot that a write-back takes: the next that is free and has not passed (R170); where no run group executes at the bank, slot A of
the opportunity after, once both have passed. -/
def State.backSlot (s : State) (c : Nat) : Option Slot :=
  match [Slot.a, Slot.b].find? fun x => s.slotFree c x && !((s.syncArb c s.opp).cluster c).arb.past x with
  | some x => some x
  | none => if (s.runsAt c).isNone then some .a else none

/-- ECC_WRITEBACK: the next free slot of the bank goes to the write-back, ahead of every dynamic master; with no free slot, or while an
atomic is between its slots, it waits (R170). -/
def eccWriteback (s : State) (c : Nat) : State :=
  match s.backSlot c with
  | some x => if (s.cluster c).second.isSome || (s.cluster c).wb.isNone then s else dynamicSlot s c x
  | none => s

/-- Withdraw the access of a backdoor command that has ended without it; an atomic between its slots is abandoned. -/
def State.dropAccess (s : State) (c id : Nat) : State :=
  s.updCluster c fun v =>
    { v with host := dropFirst (fun a => decide (a.id = id)) v.host
             atomics := dropFirst (fun a => decide (a.id = id)) v.atomics
             second := if v.atomics.head?.map (·.id) = some id then none else v.second }

/-- A backdoor command that waits at a bank ends with a failure: the words before it are done, none after (R180, R181). -/
def endAccess (s : State) (e : Entry) (status detail : Nat) : State :=
  match e.wait? with
  | some (.bank cl _ done _ a id) =>
    let s := s.dropAccess cl id
    s.setEntries (updFirst (·.atBank cl id)
      (fun x => { x with state := .done (s.mkReply e.pkt status detail (memResults done a)) }) s.hub.entries)
  | some (.atomicOp cl _ id) => finishAtomic (s.dropAccess cl id) cl id status detail 0
  | _ => s

/-- BACKDOOR_GRANT_TIMEOUT (R180, R181): the oldest command of a master at this bank ends with ERR_TIMEOUT. Masters 1 and 2 serve no
backdoor command. -/
def grantTimeout (s : State) (c m : Nat) : State :=
  let first := s.hub.entries.find? fun e => match e.wait? with
    | some (.bank cl _ _ _ _ _) => decide (m = 0) && decide (cl = c)
    | some (.atomicOp cl _ _) => decide (m = 3) && decide (cl = c)
    | _ => false
  match first with
  | none => s
  | some e => endAccess s e errTimeout 0

-- the HBM path

/-- STAGING_QUEUE_DRAIN: the packet network takes the head of a port staging queue (R83): an HBM write is on its way to the
controller, an inset word joins the bridge's frame (R342). -/
def drainStaging (s : State) (c : Nat) : State :=
  let v := s.cluster c
  match v.staged with
  | [] => s
  | .hbm cycle step :: rest =>
    s.setCluster c { v with staged := rest, drained := true,
                            reqs := updFirst (fun q => q.isWrite && decide (q.cycle = cycle) && decide (q.step = step))
                              (fun q => { q with sent := true }) v.reqs }
  | .inset b word cycle step :: rest =>
    let s := s.setCluster c { v with staged := rest, drained := true }
    let bound := (s.bridge b).rg.isSome && decide ((s.bridge b).rg = s.rgOfCluster c)
    if bound = false then s else
    let r := assembleWord (s.bridge b) word cycle step
    let t := s.setBridge b r.1
    if r.2 then t.raise (portFault 0x1004 5 c step cycle 4 2) else t

def execStagingQueueDrain (cl : Nat) (s : State) : Host.Outcome State Fault Refusal :=
  if cl < 512 then .next (drainStaging s cl) else .fault .noSuchUnit

/-- The requests of a run group on a stack that the controller has not applied, with their clusters. -/
def State.hbmQueue (s : State) (g k : Nat) : List (Nat × HbmReq) :=
  ((s.group g).clusters.map fun c =>
    ((s.cluster c).reqs.filter fun q => !q.applied && decide (q.stack = k)).map fun q => (c, q)).flatten

/-- The stamp order of R184 within a run group, as one number. -/
def stampRank (n : Nat) (e : Nat × HbmReq) : Nat := (e.2.cycle.toNat * n + e.2.step) * 256 + e.1 % 256

/-- Apply one request: a read takes its data, a write stores it (R171, R182, R184). -/
def applyReq (s : State) (c : Nat) (q : HbmReq) : State :=
  let mark (t : State) (d : Option Word) : State := t.updCluster c fun v =>
    { v with reqs := updFirst (fun x => decide (x = q)) (fun x => { x with applied := true, rdata := d }) v.reqs }
  match q.word with
  | none => mark s none
  | some w =>
    if q.isWrite then
      match q.wdata with
      | some d => mark (s.hbmStore q.stack w d) none
      | none => mark s none
    else
      let r := s.hbmRead q.stack w (clParcel c) 5 (designMaster c) q.cycle
      mark r.2 r.1

/-- What the flits of a design packet met on the way (R358): words corrected, and a data word that came uncorrectable. -/
def State.countFlits (s : State) (fixed : Nat) (ue : Bool) : State :=
  s.setNet { s.net with ce := satAdd 32 s.net.ce fixed, ueData := satAdd 16 s.net.ueData (b2n ue) }

/-- The word of a request that arrives: where a write's data word came uncorrectable it is stored so (R358). -/
def applyFlit (s : State) (c : Nat) (q : HbmReq) (r : StackRequest) : State :=
  let bad := r.ue && q.isWrite && q.wdata.isSome
  let t := applyReq (s.countFlits r.fixed bad) c q
  match q.word with
  | some w => if bad then { t with ecc := mset 0 (eccKey 9 (q.stack * 2 ^ 33 + w)) 2 t.ecc } else t
  | none => t

/-- HBM_DESIGN_REQUEST: the controller of a stack applies the request with the lowest stamp, when it has come (R184). The run groups
are served in ascending order. A stack that sleeps, or powers down, wakes first (R186, R363). -/
def serveStack (s : State) (req : StackRequest) : State :=
  let k := req.stack
  let heads := s.runGroups.filterMap fun g =>
    match sortBy (stampRank (s.group g).n) (s.hbmQueue g k) with
    | [] => none
    | e :: _ => if e.2.sent then some e else none
  match heads with
  | [] => s
  | e :: _ => s.calls (.stack k) fun t => applyFlit t e.1 e.2 req

def execHbmDesignRequest (req : StackRequest) (s : State) : Host.Outcome State Fault Refusal :=
  if req.stack < 4 then .next (serveStack s req) else .fault .noSuchUnit

/-- The read of a cluster whose data returns next (R351). -/
def HbmReq.returns (q : HbmReq) : Bool := !q.isWrite && q.applied && !q.back

/-- HBM_DESIGN_RETURN: read data reaches its cluster, in issue order (R351). A return lost to an uncorrectable sideband lands unknown and
raises HBM_UE, and so does one whose data word came uncorrectable (R358). -/
def hbmReturn (s : State) (r : StackReturn) : State :=
  let c := r.cl
  let lost := r.lost
  let v := s.cluster c
  match v.reqs.find? HbmReq.returns with
  | none => s
  | some q =>
    let s := s.setCluster c
      { v with reqs := updFirst HbmReq.returns (fun x => { x with back := true, rdata := if lost || r.ue then none else x.rdata }) v.reqs }
    let s := if lost then s.setNet { s.net with ueSide := satAdd 16 s.net.ueSide 1 } else s.countFlits r.fixed r.ue
    if lost || r.ue then s.raise (hbmFault 0x2004 (clParcel c) 5 (designMaster c) q.stack (q.word.getD 0) q.cycle) else s

def execHbmDesignReturn (ret : StackReturn) (s : State) : Host.Outcome State Fault Refusal :=
  if ret.cl < 512 then .next (hbmReturn s ret) else .fault .noSuchUnit

/-- HBM_DATA_ARRIVAL: returned data enters the landing buffer of the port (R79, R185): its landing becomes ready. -/
def landData (s : State) (c : Nat) : State :=
  let v := s.cluster c
  let h := s.budgetOf c
  let wait (q : HbmReq) : Bool :=
    !q.isWrite && q.back && v.landings.any fun l => l.hbm && !l.ready && decide (l.step = q.step + h)
  match v.reqs.find? wait with
  | none => s
  | some q =>
    let land (l : Landing) : Landing := { l with ready := true, known := q.rdata.isSome, data := (q.rdata.getD 0).setWidth 72 }
    let ls := updFirst (fun l => l.hbm && !l.ready && decide (l.step = q.step + h)) land v.landings
    s.setCluster c { v with landings := ls }

def execHbmDataArrival (cl : Nat) (s : State) : Host.Outcome State Fault Refusal :=
  if cl < 512 then .next (landData s cl) else .fault .noSuchUnit

/-- HBM_WRITE_ACCEPT: the controller accepts the cluster's oldest write that it has applied; the request's entry frees (R154). -/
def execHbmWriteAccept (cl : Nat) (s : State) : Host.Outcome State Fault Refusal :=
  if cl < 512 then .next (s.updCluster cl fun v => { v with reqs := dropFirst (fun q => q.isWrite && q.applied) v.reqs })
  else .fault .noSuchUnit

/-- HBM_REFRESH: the controller issues one refresh command (R182, R189). A sleeping stack refreshes itself; one that is not trained, or is
held in reset (R24, R423), gets none. -/
def execHbmRefresh (stack : Nat) (s : State) : Host.Outcome State Fault Refusal :=
  if stack < 4 then
    .next (if (s.stack stack).asleep || !((s.stack stack).trained || (s.stack stack).s3Trained) then s
      else s.updStack stack fun v => { v with refresh := satAdd 48 v.refresh 1 })
  else .fault .noSuchUnit

end Sys2Proof.Machine
end

