-- ==== Sys2Proof/Machine/Unload.lean ====
section
/-! DEFINITION. Clearing parcels and releasing what an image holds (R172, R197, R203, R208, R214, R222, R229). -/
namespace Sys2Proof.Machine

/-- The cluster of a code word in `ecc`, none for a quad schedule or an HBM word. -/
def eccCluster (k : Nat) : Option Nat :=
  let w := k % 2 ^ 44
  match k / 2 ^ 44 with
  | 0 => some (w / 65536)
  | 1 => some (w / 32768)
  | 2 | 8 => some (w / 8192)
  | 3 | 10 => some (w / 32768)
  | 5 | 7 => some (w / 4096)
  | 6 => some (w / 65536)
  | _ => none

/-- Drop the entries of a table that belong to some clusters; `per` keys belong to each. -/
def dropClusters {α : Type} (cs : List Nat) (per : Nat) (m : SMap α) : SMap α := mdrop (fun k => cs.contains (k / per)) m

/-- Swap the parts of two tables that belong to some owners. -/
def swapParts {α : Type} [DecidableEq α] (d : α) (os : List Nat) (per : Nat) (a b : SMap α) : SMap α :=
  msetMany d (b.filter fun e => os.contains (e.1 / per)) (dropClusters os per a)

/-- An entry of `ecc` is in table store `st` of one of some owners, each of which has 32,768 code words in it. -/
def markIn (st : Nat) (os : List Nat) (e : Nat × Nat) : Bool :=
  decide (e.1 / 2 ^ 44 = st) && os.contains (e.1 % 2 ^ 44 / 32768)

/-- Exchange the marks of the two pages of a table. -/
def swapMarks (a b : Nat) (os : List Nat) (m : SMap Nat) : SMap Nat :=
  msetMany 0 (m.filterMap fun e => if markIn a os e then some (eccKey b (e.1 % 2 ^ 44), e.2)
      else if markIn b os e then some (eccKey a (e.1 % 2 ^ 44), e.2) else none)
    (m.filter fun e => !(markIn a os e || markIn b os e))

/-- The marks after page `a` is copied to page `b`: what is in uncorrectable error in either stays so, which only a reload clears (R216). -/
def copyMarks (a b : Nat) (os : List Nat) (m : SMap Nat) : SMap Nat :=
  msetMany 0 (m.filterMap fun e => if markIn a os e && decide (e.2 = 2) then some (eccKey b (e.1 % 2 ^ 44), 2) else none)
    (m.filter fun e => !(markIn b os e && decide (e.2 ≠ 2)))

/-- Copy the active pages of some clusters and quads into their shadow pages. -/
def State.copyPages (s : State) (cs qs : List Nat) : State :=
  { s with sendShd := swapParts 0 cs 4096 s.sendShd s.sendAct, quadShd := swapParts 0 qs 32768 s.quadShd s.quadAct
           ecc := copyMarks 4 11 qs (copyMarks 3 10 cs s.ecc) }

/-- Clear every store, table page, receive slot, register and bank word of some clusters (R172, R214, R229). -/
def State.clearClusters (s : State) (cs : List Nat) : State :=
  { s with istore := dropClusters cs 262144 s.istore, values := dropClusters cs 262144 s.values,
           cur := dropClusters cs 65536 s.cur, stg := dropClusters cs 65536 s.stg, pend := dropClusters cs 65536 s.pend,
           result := dropClusters cs 64 s.result, slots := dropClusters cs 256 s.slots,
           ptable := dropClusters cs 4096 s.ptable, busyMap := dropClusters cs 4096 s.busyMap,
           sendAct := dropClusters cs 4096 s.sendAct, sendShd := dropClusters cs 4096 s.sendShd,
           fetchSnd := dropClusters cs 4096 s.fetchSnd, fences := dropClusters cs 2048 s.fences,
           ecc := mdrop (fun k => match eccCluster k with | some c => cs.contains c | none => false) s.ecc,
           clusters := dropClusters cs 1 s.clusters,
           bank := s.bank.filter fun e => !cs.contains (e.1 / 524288) }

/-- Clear the schedule pages of some quads. -/
def State.clearSchedules (s : State) (qs : List Nat) : State :=
  { s with quadAct := dropClusters qs 32768 s.quadAct, quadShd := dropClusters qs 32768 s.quadShd,
           fetchQd := dropClusters qs 32768 s.fetchQd,
           ecc := mdrop (fun k => (decide (k / 2 ^ 44 = 4) || decide (k / 2 ^ 44 = 11)) && qs.contains (k % 2 ^ 44 / 32768)) s.ecc }

/-- The physical units of an image's binding list. In MIRRORED pairing East's replicas are bound too; in DIFFERENTIAL pairing the
East revision works on the replicas (R245). -/
def State.boundUnits (s : State) (i : Image) (off : Nat) (l : List Nat) : List Nat :=
  let b := l.filter (· < 255)
  if s.boot.pairMode = 2 then b ++ b.map (· + off)
  else if s.boot.pairMode = 3 ∧ i.sheet = 1 then b.map (· + off)
  else b

def State.boundQuads (s : State) (i : Image) : List Nat := s.boundUnits i 18 i.quadBind
def State.boundBridges (s : State) (i : Image) : List Nat := s.boundUnits i 4 i.bridgeBind

/-- Empty a lane of its design's cargo. -/
def Lane.noCargo (v : Lane) : Lane :=
  { v with build := [], complete := [], cargoQ := [], retained := [], reTx := [], rxBuf := [], wanted := [], holdIn := false,
           holdOut := false, cls := 0, clsValid := false }

/-- Unbind a quad from a run group: its lanes enter idle with the GSR of its parcels (R203, R319), and its fault record clears
(R419). -/
def State.freeQuad (s : State) (q : Nat) : State :=
  let s := s.updQuad q fun v => { v with rg := none, group := 0, cls := 0, joined := false, outCrc := 0, inCrc := 0, joinMsg := none }
  let s := forEach (quadLanes q) (fun l t => t.updLane l fun v => { v.noCargo.goIdle with drift := false }) s
  (s.clearRec (36 + q)).endEpisode (36 + q) 0x3003

/-- A bridge is bound to an image or unbound: its buffers are zeroed, its queues and logs cleared (R334, R344). -/
def State.emptyBridge (s : State) (b : Nat) : State :=
  let v := s.bridge b
  let k := 2 * (b / 4) + v.side
  let s := (s.zeroUnits k v.rxBase v.rxUnits).zeroUnits k v.txBase v.txUnits
  let s := s.setBridge b
    { v with rxBuf := [], txBuf := [], rxQ := [], rxPos := 0, txQ := [], txOpen := none, txLong := false, txAbort := false,
             rxLog := [], txLog := [], rxSeq := 0, txSeq := 0, arriving := none, paused := [], pauseSent := false,
             overRx := false, overTx := false }
  (s.overEnd b false).overEnd b true

def State.freeBridge (s : State) (b : Nat) : State :=
  (((s.emptyBridge b).updBridge b fun v => { v with rg := none, group := 0 }).relink b).clearRec (72 + b)

/-- Release a trace engine (R275): disarmed, its buffer zeroed and freed, unbound. -/
def State.freeEngine (s : State) (e : Nat) : State :=
  let v := s.engine e
  let s := if v.onDie then s else s.zeroUnits (2 * e + v.side) v.base v.units
  s.setEngine e { Engine.init with awake := v.awake }

/-- Release what an image holds besides its parcels: allotments, quads, bridges (R214). -/
def State.freeImage (s : State) (i : Image) : State :=
  let s := forEach (List.range i.allots.length) (fun k t => match i.allots[k]? with
    | some a => t.zeroUnits a.1 a.2.1 a.2.2
    | none => t) s
  let quads := s.boundQuads i
  let s := forEach quads (fun q t => t.freeQuad q) (s.clearSchedules quads)
  forEach (s.boundBridges i) (fun b t => t.freeBridge b) s

/-- GSR of every parcel of a pin is released (R298). -/
def State.pinDriven (s : State) (v : TrigPin) : Bool := (maskList 32 v.parcels).all s.live

/-- Drive a TRIG_OUT pin after a change of what holds it high: a change of level is an output (R298). -/
def State.setPin (s : State) (k : Nat) (new : TrigPin) : State :=
  let old := s.trigOutPin k
  let was := old.seqHigh || old.trainHigh
  let is_ := new.seqHigh || new.trainHigh
  let s := s.setTrigOut k new
  if was = is_ then s else s.setSent { s.sent with pins := s.sent.pins ++ [(k, is_)] }

/-- A time in units of 2 ps, 131.072 du, in whole du (R294, R297). -/
def pinTime (n : Nat) : Word := BitVec.ofNat 64 (n * 16384 / 125)

/-- TRIG_OUT pins of parcels whose GSR is asserted are low (R298). -/
def State.lowerPins (s : State) (ps : List Nat) : State :=
  forEach ((List.range 4).filter fun k => ps.any fun p => bitOf (s.trigOutPin k).parcels p)
    (fun k t => t.setPin k { t.trigOutPin k with seqHigh := false, trainHigh := false }) s

/-- The loader, master 1, zero-fills the banks of some clusters (R172, R173). -/
def State.zeroBanks (s : State) (cs : List Nat) : State :=
  forEach cs (fun c t => t.updCluster c fun v => { v with owner := 1 }) (s.clearClusters cs)

/-- Unload one image of a run group (R214): its parcels return to BLANK; the run group ends with its last image. In DIFFERENTIAL pairing
its engines go together (R254). -/
def State.unloadImage (s : State) (g : Nat) (i : Image) : State :=
  let s := ((s.zeroBanks (clustersOf i.parcels)).freeImage i).lowerPins i.parcels
  let s := forEach [0, 1] (fun e t =>
    if (t.engine e).rg = some g ∧ (s.boot.pairMode = 3 ∨ (i.parcels.any fun p => decide (p / 16 = e)) = true) then t.freeEngine e else t) s
  let s := forEach i.parcels (fun p t => (t.endEpisode p 0x1010).updParcel p fun v =>
    { v with load := .blank, rg := none, framesBusy := false, svState := .idle, restoreBad := false, commitPend := false,
             copyBusy := false }) s
  let r := s.group g
  let left := r.images.filter fun x => decide (x ≠ i)
  s.setGroup g (if left = [] then RunGroup.init
    else { r with images := left, parcels := r.parcels.filter fun p => !i.parcels.contains p })

/-- Unload every image of a run group. -/
def State.unloadGroup (s : State) (g : Nat) : State := (s.group g).images.foldl (fun t i => t.unloadImage g i) s

/-- Record the last status of a load, frame batch or unload on parcels (R200). -/
def State.noteLoad (s : State) (ps : List Nat) (status detail : Nat) : State :=
  forEach ps (fun p t => t.updParcel p fun v => { v with lastStatus := status, lastDetail := detail }) s

/-- The copy that the hub did not boot: writes go to it (R411). -/
def State.inactive (s : State) : Nat := 1 - s.boot.bootCopy

/-- Payload of kind 0x0030 (R434): copy, version, status, detail. -/
def fwEvent (copy version status detail : Nat) : Nat := copy + fieldAt 16 version + fieldAt 32 status + fieldAt 48 detail

/-- A firmware copy whose write is abandoned is EMPTY (R413). -/
def State.dropWriting (s : State) : State :=
  let empty (v : FwCopy) : FwCopy := if v.state = 2 then { state := 0, major := 0, minor := 0, newFloor := 0, minSi := 0, digest := 0 } else v
  { s with flash := { s.flash with copy0 := empty s.flash.copy0, copy1 := empty s.flash.copy1 } }

/-- A load under way ends without success (R208): what its write pass wrote is cleared as in unloading; its parcels are BLANK, and what it
held is free with its entry. -/
def State.endClaim (s : State) (c : Claim) : State :=
  let s := if c.phase = .write then
      c.allots.foldl (fun t a => t.zeroUnits a.1 a.2.1 a.2.2) ((s.zeroBanks (clustersOf c.parcels)).clearSchedules c.quads)
    else s
  forEach c.parcels (fun p t => t.updParcel p fun v => { v with load := .blank }) s

/-- End one entry with a status and results. -/
def State.finishEntry (s : State) (e : Entry) (status detail results : Nat) : State :=
  s.setEntries (updFirst (fun x => decide (x = e)) (fun x => { x with state := .done (s.mkReply e.pkt status detail results) })
    s.hub.entries)

/-- The records of an area from `first` on, with their seq or slot (R437). -/
def Logbook.from (l : Logbook) (area first : Nat) : List (Nat × LogRec) :=
  let all := if area = 0 then l.ring.map fun r => (r.seq, r) else (List.range l.pinned.length).zip l.pinned
  all.filter fun (x : Nat × LogRec) => decide (first ≤ x.1)

/-- The results of a LOG_READ that has copied `n` records (R437). DESIGN CHOICE 38: where nothing is copied, bytes 20 to 23 are `first`. -/
def logResults (s : State) (p : Packet) (n : Nat) : Nat :=
  let next := match ((s.log.from (par p 20 1) (par p 24 8)).take n).getLast? with | some x => x.1 + 1 | none => par p 24 8
  n + resAt 20 (next % 2 ^ 32)

/-- The results of a transfer that stops between words or records: how far it got (R180, R274, R346, R390, R437). -/
def transferResults (s : State) (e : Entry) (moved : Nat) : Nat :=
  let p := e.pkt
  match e.opcode with
  | 0x0500 | 0x0501 => memResults moved (par p 24 8 + moved)
  | 0x0603 =>
    let v := s.engine (par p 24 1)
    moved + resAt 20 (if par p 25 1 = 0 then v.buffer.length else v.events.length)
  | 0x0902 => moved + resAt 20 (if par p 21 1 = 0 then (s.bridge (par p 20 1)).rxLog else (s.bridge (par p 20 1)).txLog).length
  | _ => logResults s p moved

/-- A command that its worker has begun stops with a status (R357, R390): a load ends as R208 states; a batch or a restore in its check pass
with nothing written; a transfer between words; a firmware copy is EMPTY (R413). An unload runs to completion. -/
def stopWork (s : State) (e : Entry) (c : Claim) (status : Nat) : State × Nat :=
  match c.phase with
  | .check | .write => (((s.endClaim c).noteLoad c.parcels status 0).finishEntry e status 0 0, 1)
  | .frames =>
    ((forEach c.parcels (fun p t => t.updParcel p fun v => { v with framesBusy := false, lastStatus := status, lastDetail := 0 }) s).finishEntry
      e status 0 0, 1)
  | .restore => ((forEach c.parcels (fun p t => t.updParcel p fun v => { v with svState := .idle }) s).finishEntry e status 0 0, 1)
  | .transfer => (s.finishEntry e status 0 (transferResults s e c.moved), 1)
  | .firmware =>
    let m := bufMem s e.pkt
    ((s.dropWriting.logHub 0x30 0 (fwEvent s.inactive (memNat m 12 1 * 256 + memNat m 13 1) status 0)).finishEntry e status 0 0, 1)
  | .unload => (s, 2)

/-- Cancel a command that its worker has begun (R390). -/
def cancelWork (s : State) (e : Entry) (c : Claim) : State × Nat := stopWork s e c errCancelled

/-- End the parked commands of a run group that satisfy `f`, with a status and detail. -/
def State.endWaits (s : State) (status detail : Nat) (f : Wait → Bool) : State :=
  s.finishParked fun _ w => if f w then some (status, detail, 0) else none

/-- Whether a wait belongs to a run group. -/
def Wait.ofGroup (g : Nat) (w : Wait) : Bool :=
  match w with
  | .runStart h | .runStop h _ | .pauseRaise h _ | .pauseRelease h | .commit h _ | .arm h _ | .survey h _ | .join h | .traceWake h =>
    decide (h = g)
  | _ => false

/-- A run group of a reset function (R222): surveys and restores are abandoned; it stops at the end of its cycle, then its images
unload. A run group that is not running unloads at once. -/
def State.surrenderGroup (s : State) (g : Nat) : State :=
  let r := s.group g
  let s := s.endWaits errCancelled 0 (Wait.ofGroup g)
  if r.state = .running then
    let s := forEach r.parcels (fun p t => t.updParcel p fun v => { v with svState := .idle }) s
    s.setGroup g { r with surrender := true, surveys := [] }
  else s.unloadGroup g

/-- Zeroize and unbind the key slots of a function, and clear its KEK (R222). -/
def State.dropKeys (s : State) (fn : Nat) : State :=
  let slots := (s.keys.filter fun e => decide (e.2.bound = some fn)).map (·.1)
  let s := forEach slots (fun k t => t.setKey k KeySlot.init) s
  { s with keks := mset none fn none s.keks }

/-- Step 5 of R222, once no image of the function waits for the end of its cycle to be unloaded. -/
def State.endSurrender (s : State) (fn : Nat) : State :=
  if s.runGroups.any fun g => (s.group g).surrender && (s.group g).parcels.any fun p => decide (s.ownerOf p = some fn) then s
  else s.dropKeys fn

/-- What a function-level reset, or the reset of the last enabled session of a group, does to the group's parcels (R222): the work that any of
its sessions has under way on them ends first. -/
def State.surrender (s : State) (fn : Nat) : State :=
  let s := s.hub.entries.foldl (fun t e => match e.claim? with
    | some c => if c.parcels.any fun q => decide (s.ownerOf q = some fn) then (cancelWork t e c).1 else t
    | none => t) s
  let gs := s.runGroups.filter fun g => (s.group g).parcels.any fun p => decide (s.ownerOf p = some fn)
  (forEach gs (fun g t => t.surrenderGroup g) s).endSurrender fn

end Sys2Proof.Machine
end

