-- ==== Sys2Proof/Machine/Trace.lean ====
section
/-! DEFINITION. The trace engines (R254 to R275): the configuration block, binding, the evaluation of a cycle, storage, and
their commands. -/
namespace Sys2Proof.Machine

-- placement of an image's clusters (R156, R157)

/-- The physical cluster of a virtual one. One-sheet images are compiled for virtual sheet 0. -/
def Image.clusterOf (i : Image) (vsheet vrow vcol : Nat) : Option Nat :=
  let sheet := if i.spanning then vsheet else i.sheet
  let row := vrow + 4 * i.dy
  let col := vcol + 4 * i.dx
  let c := clAt sheet row col
  if row < 16 ∧ col < 16 ∧ (i.spanning ∨ vsheet = 0) ∧ i.parcels.contains (clParcel c) then some c else none

-- the configuration block (R256, R257)

/-- A parsed configuration block, clusters still virtual: (row, column). -/
structure TraceBlock where
  vsheet   : Nat
  side     : Nat
  units    : Nat
  clusters : List (Nat × Nat)
  comps    : List Comparator
  matchers : List AMatcher
  targets  : List Nat
  trans    : List (BitVec 64)
  contours : List Contour
  trigUse  : Nat
  inPol    : Nat
  length   : Nat
deriving DecidableEq, Repr

/-- Whether bytes `lo` to `lo + n - 1` are all zero. -/
def zeroAt (m : Memory) (lo n : Nat) : Bool := (memSlice m lo n).all fun c => decide (c.2 = 0)

/-- Words of a sample (R258). -/
def sampleWords (nClusters : Nat) : Nat := ceilDiv (64 * nClusters) 36

/-- Comparator `k` (R265), none where it is malformed. -/
def parseComp (m : Memory) (o words : Nat) : Option Comparator :=
  let word := memNat m o 2
  let mode := memNat m (o + 2) 1
  let lo := memNat m (o + 3) 1
  let hi := memNat m (o + 4) 1
  let range := bitOf mode 0
  let care := memNat m (o + 8) 8
  let ok := decide (word < words) && decide (bitsOf mode 1 6 = 0) && zeroAt m (o + 5) 3 && zeroAt m (o + 25) 7
    && (if range then decide (lo ≤ hi) && decide (hi ≤ 35) && zeroAt m (o + 24) 1 else decide (care < 2 ^ 36))
  if ok then
    some { word := word, range := range, invert := bitOf mode 7, lo := lo, hi := hi, care := care,
           value := memNat m (o + 16) (if range then 8 else 9) }
  else none

/-- Assertion matcher (R266). -/
def parseMatcher (m : Memory) (o : Nat) : Option AMatcher :=
  let id := memNat m o 2
  let mask := memNat m (o + 2) 2
  let val := memNat m (o + 4) 1
  if id < 1024 ∧ mask < 1024 ∧ val < 4 ∧ zeroAt m (o + 5) 3 then some { id := id, mask := mask, val := val } else none

/-- A transition is well formed (R270): one that is not valid is not looked at. -/
def transOk (t : Nat) : Bool :=
  !bitOf t 25 || (decide (bitsOf t 0 7 < 112) && decide (bitsOf t 8 7 < 112) && decide (bitsOf t 16 7 < 112)
    && decide (bitsOf t 43 21 = 0))

/-- Contour mask header and data (R268), with the byte range of its data. -/
def parseContour (m : Memory) (o data probes maskBytes : Nat) : Option (Contour × Nat × Nat) :=
  let first := memNat m o 2
  let count := memNat m (o + 2) 2
  let n := memNat m (o + 4) 1
  let at_ := memNat m (o + 8) 4
  let per := ceilDiv count 2
  if 1 ≤ count ∧ count ≤ 1024 ∧ first + count ≤ probes ∧ 1 ≤ n ∧ n ≤ 16 ∧ zeroAt m (o + 5) 3 ∧ zeroAt m (o + 12) 4
      ∧ at_ % 8 = 0 ∧ at_ + n * per ≤ maskBytes then
    let nib (ph i : Nat) : Nat := bitsOf (memNat m (data + at_ + ph * per + i / 2) 1) (4 * (i % 2)) 4
    some ({ first := first, count := count, phases := (List.range n).map fun ph => (List.range count).map (nib ph) },
      at_, n * per)
  else none

/-- All of a list of optional values, or none. -/
def allSome {α : Type} : List (Option α) → Option (List α)
  | [] => some []
  | none :: _ => none
  | some a :: l => (allSome l).map (a :: ·)

/-- Disjoint byte ranges. -/
def disjointRanges : List (Nat × Nat) → Bool
  | [] => true
  | r :: l => (l.all fun q => decide (r.1 + r.2 ≤ q.1) || decide (q.1 + q.2 ≤ r.1)) && disjointRanges l

/-- Parse one block at offset `o` of `len` bytes; none where it is malformed (R255, detail 0x0262). -/
def parseBlock (m : Memory) (o len : Nat) : Option TraceBlock :=
  let n := memNat m (o + 10) 2
  let nCmp := memNat m (o + 12) 1
  let nMask := memNat m (o + 13) 1
  let nAm := memNat m (o + 14) 1
  let trig := memNat m (o + 15) 1
  let pol := memNat m (o + 16) 1
  let mb := memNat m (o + 20) 4
  let head := decide (o + 0xE00 ≤ len) && decide (memNat m o 4 = 0x52544B53) && decide (memNat m (o + 4) 2 = 1)
    && decide (memNat m (o + 6) 1 ≤ 1) && decide (memNat m (o + 7) 1 ≤ 1) && decide (1 ≤ memNat m (o + 8) 2)
    && decide (memNat m (o + 8) 2 ≤ 512) && decide (1 ≤ n) && decide (n ≤ 256) && decide (nCmp ≤ 64) && decide (nMask ≤ 16)
    && decide (nAm ≤ 8) && decide (trig < 16) && decide (pol < 16) && zeroAt m (o + 17) 3 && decide (mb ≤ 131072)
    && decide (mb % 8 = 0) && zeroAt m (o + 24) 36 && decide (memNat m (o + 60) 4 = crc32c (memBytes m o 60))
    && decide (o + 0xE00 + mb ≤ len)
  if head = false then none else
  let cl (k : Nat) : Nat := memNat m (o + 0x40 + 2 * k) 2
  let trans := (List.range 64).map fun k => BitVec.ofNat 64 (memNat m (o + 0xB00 + 8 * k) 8)
  let cs := (List.range n).map cl
  let rest := zeroAt m (o + 0x40 + 2 * n) (512 - 2 * n) && zeroAt m (o + 0x240 + 32 * nCmp) (2048 - 32 * nCmp)
    && zeroAt m (o + 0xA40 + 8 * nAm) (64 - 8 * nAm) && zeroAt m (o + 0xD00 + 16 * nMask) (256 - 16 * nMask)
    && (cs.all fun w => decide (w < 256)) && (trans.all fun t => transOk t.toNat)
    && ((List.range 16).all fun k => decide (memNat m (o + 0xA80 + 8 * k + 6) 2 = 0))
  let comps := allSome ((List.range nCmp).map fun k => parseComp m (o + 0x240 + 32 * k) (sampleWords n))
  let ams := allSome ((List.range nAm).map fun k => parseMatcher m (o + 0xA40 + 8 * k))
  let cons := allSome ((List.range nMask).map fun k => parseContour m (o + 0xD00 + 16 * k) (o + 0xE00) (64 * n) mb)
  match rest, comps, ams, cons with
  | true, some c, some a, some k =>
    if disjointRanges (k.map fun x => x.2) then
      some { vsheet := memNat m (o + 6) 1, side := memNat m (o + 7) 1, units := memNat m (o + 8) 2,
             clusters := cs.map fun w => (w / 16, w % 16), comps := c, matchers := a,
             targets := (List.range 16).map fun j => memNat m (o + 0xA80 + 8 * j) 6, trans := trans,
             contours := k.map (·.1), trigUse := trig, inPol := pol, length := 0xE00 + mb }
    else none
  | _, _, _, _ => none

/-- The one or two blocks of a section or buffer, each at a multiple of 64 (R256). -/
def parseBlocks (m : Memory) (len : Nat) : Option (List TraceBlock) :=
  match parseBlock m 0 len with
  | none => none
  | some b =>
    let next := ceilDiv b.length 64 * 64
    if len ≤ next then some [b]
    else match parseBlock m next len with
      | none => none
      | some c => if next + c.length < len ∧ next + ceilDiv c.length 64 * 64 ≠ len then none else some [b, c]

-- binding (R254, R255, R261)

/-- The engines a run group needs (R254). -/
def State.groupEngines (s : State) (r : RunGroup) : List Nat :=
  if s.paired then [0, 1] else [0, 1].filter fun e => r.parcels.any fun p => decide (p / 16 = e)

/-- The image and virtual sheet whose clusters engine `e` of a run group watches, and the block for it. -/
def State.blockFor (s : State) (r : RunGroup) (bs : List TraceBlock) (e : Nat) : Option (Image × TraceBlock) :=
  if s.boot.pairMode = 2 then
    match r.images, bs with
    | [i], [b] => if b.vsheet = 0 then some (i, b) else none
    | _, _ => none
  else if s.boot.pairMode = 3 then
    match r.images.find? fun i => decide (i.sheet = e), bs.find? fun b => decide (b.vsheet = e) with
    | some i, some b => some (i, b)
    | _, _ => none
  else
    match r.images with
    | [i] =>
      if i.spanning then (bs.find? fun b => decide (b.vsheet = e)).map fun b => (i, b)
      else match bs with
        | [b] => if b.vsheet = 0 then some (i, b) else none
        | _ => none
    | _ => none

/-- The cluster list of a block, relocated, as indices on the engine's sheet (R257, R258). In MIRRORED pairing East's clusters lie
one sheet up; in DIFFERENTIAL pairing each revision is compiled for virtual sheet 0. -/
def State.relocList (s : State) (i : Image) (b : TraceBlock) : Option (List Nat) :=
  allSome (b.clusters.map fun rc =>
    (i.clusterOf (if s.boot.pairMode = 3 then 0 else b.vsheet) rc.1 rc.2).map (· % 256))

/-- Some entry of a cluster's port table ships (R255). -/
def State.hasShip (s : State) (c : Nat) : Bool := s.ptable.any fun e => decide (e.1 / 4096 = c) && e.2.getLsbD 8

/-- Bytes of a stored sample (R260). -/
def recordLen (words : Nat) : Nat := ceilDiv (32 + 9 * words) 64 * 64

/-- The engine that a block makes; `old` gives the buffer that a rebind keeps. -/
def engineOf (old : Engine) (g fn : Nat) (b : TraceBlock) (list : List Nat) (base : Nat) (onDie keep : Bool) : Engine :=
  let bytes := if onDie then 0x200000 else b.units * unitBytes
  { Engine.init with
    state := .bound, rg := some g, group := fn, awake := old.awake, side := b.side, units := b.units, base := base
    onDie := onDie, clusters := list, comps := b.comps, matchers := b.matchers, targets := b.targets, trans := b.trans
    contours := b.contours, trigUse := b.trigUse, inPol := b.inPol
    capacity := bytes / recordLen (sampleWords list.length)
    buffer := if keep then old.buffer else [], stored := if keep then old.stored else 0, ringAt := if keep then old.ringAt else 0 }

/-- The failure of a binding of engines (R255), none where every one of them can be bound. `ship` tells whether a cluster's table
ships. -/
def bindError (s : State) (fn g : Nat) (r : RunGroup) (bs : List TraceBlock) (ship : Nat → Bool) : Option (Nat × Nat) :=
  let es := s.groupEngines r
  let parts := es.map fun e => (e, s.blockFor r bs e)
  let list (x : Nat × Option (Image × TraceBlock)) : Option (List Nat) :=
    match x.2 with
    | some (i, b) => s.relocList i b
    | none => none
  if parts.any fun x => x.2.isNone then some (errFormat, 0x0262)
  else if parts.any fun x => (list x).isNone then some (errFormat, 0x0263)
  else if parts.any fun x => decide (((list x).getD []).eraseDups ≠ (list x).getD []) then some (errFormat, 0x0263)
  else if parts.any fun x => ((list x).getD []).any fun c => !ship (x.1 * 256 + c) then some (errFormat, 0x0263)
  else if bs.any fun b => (maskList 4 b.trigUse).any fun k =>
      decide ((s.trigInPin k).parcels = 0) || decide ((s.trigInPin k).owner ≠ fn) then some (errOwner, 0)
  else if es.any fun e => s.engineHeld e || ((s.engine e).rg.isSome && decide ((s.engine e).rg ≠ some g)) then some (errResource, 0x0503)
  else none

/-- Whether a rebind keeps an engine's buffer (R275). -/
def keepsBuffer (e : Engine) (b : TraceBlock) : Bool := e.rg.isSome && decide (e.units = b.units) && decide (e.side = b.side)

/-- Bind one engine, allotting its buffer (R255, R261). DEDUCED 16: a rebind that keeps its buffer keeps its samples. -/
def bindEngine (s : State) (g fn e : Nat) (i : Image) (b : TraceBlock) : Option State :=
  let old := s.engine e
  let list := (s.relocList i b).getD []
  if keepsBuffer old b then some (s.setEngine e (engineOf old g fn b list old.base old.onDie true))
  else
    let s := if old.rg.isSome then s.freeEngine e else s
    if s.phase = 1 then some (s.setEngine e (engineOf old g fn b list 0 true false))
    else
      let k := 2 * e + b.side
      let st := s.stack k
      match firstFit (s.traceUsed k) st.designEnd st.traceEnd b.units with
      | some base =>
        if st.trained then some ((s.zeroUnits k base b.units).setEngine e (engineOf old g fn b list base false false)) else none
      | none => none

/-- Bind every engine of a run group, or none. -/
def bindAll (s : State) (g fn : Nat) (r : RunGroup) (bs : List TraceBlock) : List Nat → Option State
  | [] => some s
  | e :: l =>
    match s.blockFor r bs e with
    | none => none
    | some (i, b) =>
      match bindEngine s g fn e i b with
      | none => none
      | some t => bindAll t g fn r bs l

-- evaluation at the boundary (R264 to R272)

/-- The value of probe index `p` in the sample in the compare latches (R258, R259). -/
def State.probeAt (s : State) (ei : Nat) (e : Engine) (p : Nat) : V4 :=
  match e.clusters[p / 64]? with
  | some c => mget .x (p % 64) (s.cluster (ei * 256 + c)).compare
  | none => .x

/-- The code of lane `l` of sample word `w`; a lane beyond the last probe reads X. -/
def State.laneAt (s : State) (ei : Nat) (e : Engine) (w l : Nat) : V4 := s.probeAt ei e (36 * w + l)

/-- A comparator's result (R265). -/
def State.compHit (s : State) (ei : Nat) (e : Engine) (c : Comparator) : Bool :=
  let raw :=
    if c.range then
      let n := bitsNat ((List.range (c.hi + 1 - c.lo)).map fun i => two (s.laneAt ei e c.word (c.lo + i)))
      decide (c.care ≤ n) && decide (n ≤ c.value)
    else (maskList 36 c.care).all fun l => decide (v4code (s.laneAt ei e c.word l) = bitsOf c.value (2 * l) 2)
  raw != c.invert

/-- Whether a contour mask is violated in a cycle (R268). -/
def State.contourHit (s : State) (ei : Nat) (e : Engine) (cycle : Word) (k : Contour) : Bool :=
  let table := k.phases.getD (cycle.toNat % k.phases.length) []
  (List.range k.count).any fun i => !bitOf (table.getD i 0) (v4code (s.probeAt ei e (k.first + i)))

/-- The earliest step of an event of a cycle that matched assertion matcher `k` of an engine. -/
def State.matchStep (s : State) (ei : Nat) (e : Engine) (k : Nat) : Option Nat :=
  (e.clusters.filterMap fun c => mget none k (s.cluster (ei * 256 + c)).matched).min?

/-- The first edge of a TRIG_IN pin that belongs to a cycle (R267). -/
def Engine.edgeIn (e : Engine) (cycle : Word) (k : Nat) : Option PinEdge :=
  e.edges.find? fun x => decide (x.pin = k) && decide (x.cycle = cycle)

/-- The auto timeout is reached at this evaluation (R269, R272; DEDUCED 97: input 109 is set at that one only). -/
def Engine.autoNow (e : Engine) : Bool :=
  e.autoHit || (decide (e.state = .armed) && decide (e.autoCnt ≠ 0) && decide (e.armedFor + 1 = e.autoCnt))

/-- The inputs of the sequencer as one number (R269). -/
def State.traceInputs (s : State) (ei : Nat) (e : Engine) (cycle : Word) (div : Bool) : Nat :=
  bitsNat (
    ((List.range 64).map fun k => (e.comps[k]?.map (s.compHit ei e)).getD false)
    ++ ((List.range 16).map fun k => (e.contours[k]?.map (s.contourHit ei e cycle)).getD false)
    ++ ((List.range 8).map fun k => (s.matchStep ei e k).isSome)
    ++ ((List.range 4).map fun k => (e.edgeIn cycle k).isSome)
    ++ ((List.range 16).map fun k => decide (e.targets.getD k 0 ≤ mget 0 k e.counters))
    ++ [div, e.autoNow, e.force, true])

/-- Whether a transition matches (R270). -/
def transHit (inputs t : Nat) : Bool :=
  let a := bitOf inputs (bitsOf t 0 7) != bitOf t 7
  let b := bitOf inputs (bitsOf t 8 7) != bitOf t 15
  let c := bitOf inputs (bitsOf t 16 7) != bitOf t 23
  bitOf t 25 && (if bitOf t 24 then a || b || c else a && b && c)

/-- The transition that the sequencer takes (R271): number and bits. -/
def Engine.pick (e : Engine) (inputs : Nat) : Option (Nat × Nat) :=
  ((List.range 4).map fun k => (4 * e.seqState + k, (e.trans.getD (4 * e.seqState + k) 0).toNat)).find? fun x => transHit inputs x.2

/-- What one engine's evaluation yields before the partner is known. -/
structure TraceEval where
  inputs  : Nat
  taken   : Option (Nat × Nat)
  contour : Bool
  div     : Bool
  auto    : Bool
  force   : Bool
deriving DecidableEq, Repr

def TraceEval.seqTrig (v : TraceEval) : Bool := match v.taken with | some (_, t) => bitOf t 30 | none => false
def TraceEval.stops (v : TraceEval) : Bool := match v.taken with | some (_, t) => bitOf t 31 | none => false
def TraceEval.pulses (v : TraceEval) : Bool := match v.taken with | some (_, t) => bitOf t 32 | none => false

/-- An engine evaluates at a boundary in ARMED, FILLING and DONE. -/
def Engine.active (e : Engine) : Bool :=
  match e.state with | .armed | .filling | .done => true | _ => false

/-- Form the inputs and choose the transition (R264, items 1 to 3). -/
def State.traceEval (s : State) (ei : Nat) (cycle : Word) (div : Bool) : TraceEval :=
  let e := s.engine ei
  let inputs := s.traceInputs ei e cycle div
  { inputs := inputs, taken := if e.state = .done then none else e.pick inputs
    contour := decide (bitsOf inputs 64 16 ≠ 0), div := div, auto := e.autoNow && decide (e.state ≠ .done), force := e.force }

/-- A source of the engine's own triggers it (R271, R272). -/
def TraceEval.fires (v : TraceEval) (e : Engine) : Bool :=
  decide (e.state = .armed) && (v.seqTrig || v.contour || v.div || v.auto || v.force)

/-- Counters after the actions of a transition (R271). -/
def actCounters (t : Nat) (m : SMap Nat) : SMap Nat :=
  let m := if bitOf t 38 then mset 0 (bitsOf t 39 4) 0 m else m
  if bitOf t 33 then mset 0 (bitsOf t 34 4) (satAdd 48 (mget 0 (bitsOf t 34 4) m) 1) m else m

/-- Add one to the counters of the set bits of a field of the inputs. -/
def countBits (inputs lo n : Nat) (m : SMap Nat) : SMap Nat :=
  (maskList n (bitsOf inputs lo n)).foldl (fun a k => mset 0 k (satAdd 32 (mget 0 k a) 1) a) m

/-- The step field of the trigger record (R273). -/
def State.recordStep (s : State) (ei : Nat) (e : Engine) (cycle : Word) (v : TraceEval) : Nat :=
  match v.taken with
  | none => 0xFFFF
  | some (_, t) =>
    let used := [bitsOf t 0 7, bitsOf t 8 7, bitsOf t 16 7]
    let steps := used.filterMap fun i =>
      if 80 ≤ i ∧ i < 88 then s.matchStep ei e (i - 80)
      else if 88 ≤ i ∧ i < 92 then (e.edgeIn cycle (i - 88)).map (·.step)
      else none
    steps.min?.getD 0xFFFF

/-- The trigger record (R273). -/
def State.trigRecord (s : State) (ei : Nat) (e : Engine) (cycle stamp : Word) (v : TraceEval) (partner : Bool) : TrigRec :=
  let ext := (List.range 4).findSome? (e.edgeIn cycle)
  let x := ext.getD { pin := 0, time := 0, cycle := 0, step := 0, frac := 0, held := false }
  { cycle := cycle, step := s.recordStep ei e cycle v, trans := match v.taken with | some (n, _) => n | none => 0
    seq := v.seqTrig, contour := v.contour, div := v.div, auto := v.auto, force := v.force, partner := partner, pre := 0
    stamp := stamp, cmp := bitsOf v.inputs 0 64, masks := bitsOf v.inputs 64 16, amatch := bitsOf v.inputs 80 8
    trigIn := bitsOf v.inputs 88 4, divIn := bitOf v.inputs 108, autoIn := bitOf v.inputs 109, forceIn := bitOf v.inputs 110
    extTime := x.time, extCycle := x.cycle, extStep := x.step, extFrac := x.frac, extPin := x.pin
    extHeld := x.held, extValid := ext.isSome }

/-- Post-trigger samples that are queued but not yet stored. -/
def Engine.queuedPost (e : Engine) : Nat := (e.queue.filter (·.post)).length

/-- A cycle whose sample is not queued leaves nothing in the tap FIFOs of the clusters. -/
def State.dropTaps (s : State) (ei : Nat) (e : Engine) : State :=
  forEach (e.clusters.map (ei * 256 + ·)) (fun c t => t.updCluster c fun v =>
    { v with taps := v.taps.filter fun x => decide (x.nth + 1 ≠ e.cycles) }) (s.setEngine ei e)

/-- One engine closes a cycle (R264, items 3 to 5). `partner`: the other engine triggers at this boundary. -/
def State.closeEngine (s : State) (ei : Nat) (cycle stamp : Word) (v : TraceEval) (partner : Bool) : State :=
  let e := s.engine ei
  let trig := v.fires e || (decide (e.state = .armed) && partner)
  let viols := countBits v.inputs 64 16 e.viols
  if e.state = .done then s.setEngine ei { e with viols := viols, force := false } else
  let sample (flags : Nat) (post : Bool) : Sample :=
    { cycle := cycle, nth := e.cycles, post := post, stamp := stamp, flags := flags, words := [] }
  let e1 : Engine :=
    { e with viols := viols, hits := countBits v.inputs 0 64 e.hits, force := false
             counters := match v.taken with | some (_, t) => actCounters t e.counters | none => e.counters
             seqState := match v.taken with | some (_, t) => bitsOf t 26 4 | none => e.seqState
             extra := if v.seqTrig && decide (e.state = .filling) then satAdd 16 e.extra 1 else e.extra
             armedFor := if e.state = .armed then e.armedFor + 1 else e.armedFor, autoHit := false, cycles := e.cycles + 1 }
  if trig then
    s.setEngine ei { e1 with state := .filling, postLeft := e.postCnt, record := s.trigRecord ei e cycle stamp v partner
                             queue := e.queue ++ [sample 1 false] }
  else if e.state = .armed then s.setEngine ei { e1 with queue := e.queue ++ [sample 0 false] }
  else if e.queuedPost < e.postLeft then s.setEngine ei { e1 with queue := e.queue ++ [sample 0 true] }
  else s.dropTaps ei e1

-- differential compare (R252)

/-- One entry of the compare map fails on the closed samples. -/
def State.compareFails (s : State) (w : BitVec 64) : Bool :=
  let ww := bitsOf w.toNat 0 9
  let ew := bitsOf w.toNat 9 9
  let mode := bitsOf w.toNat 18 2
  (maskList 36 (bitsOf w.toNat 20 36)).any fun l =>
    let a := s.laneAt 0 (s.engine 0) ww l
    let b := s.laneAt 1 (s.engine 1) ew l
    !(decide (a = b) || (decide (mode = 1) && (!known a || !known b)))

/-- The failing entries of a run group's compare map in DIFFERENTIAL pairing, lowest first. -/
def State.divergences (s : State) (g : Nat) : List Nat :=
  if s.boot.pairMode ≠ 3 then [] else
  match (s.group g).images.find? fun i => decide (i.sheet = 0) with
  | none => []
  | some i => (List.range i.compare.length).filter fun k => s.compareFails (i.compare.getD k 0)

/-- Latch or count a differential divergence of a cycle: the state, and input 108. -/
def State.latchDiv (s : State) (g : Nat) (cycle : Word) : State × Bool :=
  let r := s.group g
  match s.divergences g with
  | [] => (s, false)
  | k :: l =>
    if r.sigHold then (s, false)
    else if r.diverged then (s.setGroup g { r with divCount := satAdd 16 r.divCount 1 }, false)
    else (s.setGroup g { r with diverged := true, firstEnt := k, divCycle := cycle, divN := l.length + 1
                                divCount := satAdd 16 r.divCount 1 }, true)

/-- The trace engines of a run group close cycle `cycle` (R28 item 3, R264). The answer tells whether a contour was violated, a
stop action was taken, and a pulse action was taken. -/
def State.closeTrace (s : State) (g : Nat) (cycle stamp : Word) : State × Bool × Bool × Bool :=
  let d := s.latchDiv g cycle
  let s := d.1
  let es := [0, 1].filter fun e => decide ((s.engine e).rg = some g) && (s.engine e).active
  let vs := es.map fun e => (e, s.traceEval e cycle d.2)
  let fires (e : Nat) : Bool := vs.any fun x => decide (x.1 = e) && x.2.fires (s.engine e)
  let t := vs.foldl (fun a x => a.closeEngine x.1 cycle stamp x.2 (fires (1 - x.1))) s
  (t, vs.any fun x => x.2.contour, vs.any fun x => x.2.stops, vs.any fun x => x.2.pulses)

/-- After the evaluation the matches of the cycle are gone, and edges of the cycle are done with. -/
def State.endTraceCycle (s : State) (g : Nat) (cycle : Word) : State :=
  let s := forEach (s.group g).clusters (fun c t =>
    if (t.cluster c).matched = [] then t else t.updCluster c fun v => { v with matched := [] }) s
  forEach [0, 1] (fun e t =>
    if (t.engine e).rg = some g ∧ (t.engine e).edges ≠ [] then
      t.updEngine e fun v => { v with edges := v.edges.filter fun x => decide (x.cycle ≠ cycle) }
    else t) s

-- storage (R259 to R262)

/-- The FIFO entry of a listed cluster for a sample, and the cluster with the entries up to it drained. -/
def drainTap (nth : Nat) (v : Cluster) : Option TapSample × Cluster :=
  (v.taps.find? fun t => decide (t.nth = nth), { v with taps := v.taps.filter fun t => decide (nth < t.nth) })

/-- The words of a sample from the probes of its clusters; `none` stands for a dropped one and reads X. -/
def buildWords (probes : List (Option (SMap V4))) : List (BitVec 72) :=
  (List.range (sampleWords probes.length)).map fun w =>
    BitVec.ofNat 72 ((List.range 36).foldl (fun a l =>
      let p := 36 * w + l
      let v := match probes[p / 64]? with
        | some (some m) => mget .x (p % 64) m
        | _ => .x
      a + v4code v * 4 ^ l) 0)

/-- The stack of an engine's buffer, and the bytes of one of its records (R260, R261). -/
def Engine.stackOf (e : Engine) (ei : Nat) : Nat := 2 * ei + e.side
def Engine.recordBytes (e : Engine) : Nat := recordLen (sampleWords e.clusters.length)

/-- The words in error of an engine's buffer in HBM, each with the record that holds it, counted from the oldest, and its byte in it. -/
def State.bufferMarks (s : State) (ei : Nat) (e : Engine) : List (Nat × Nat × Nat) :=
  if e.onDie then [] else
  s.ecc.filterMap fun x =>
    let w := x.1 % 2 ^ 33
    let b := 8 * (w - e.base * unitWords)
    if x.1 / 2 ^ 33 = 9 * 2 ^ 11 + e.stackOf ei ∧ e.base * unitWords ≤ w ∧ b < e.capacity * e.recordBytes then
      some (w, (b / e.recordBytes + e.capacity - e.ringAt) % e.capacity, b % e.recordBytes)
    else none

/-- A record is written to the buffer: the words under it are clean (R182). -/
def State.cleanRecord (s : State) (ei : Nat) (e : Engine) (i : Nat) : State :=
  ((s.bufferMarks ei e).filter fun x => decide (x.2.1 = i)).foldl (fun t x => t.eccClean 9 (e.stackOf ei * 2 ^ 33 + x.1)) s

/-- TRACE_SAMPLE_STORE: the oldest closed sample is written to the buffer (R259 to R262). The engine is DONE once the trigger sample and
its post-trigger samples are stored (R272). -/
def storeSample (s : State) (ei : Nat) : State :=
  let e := s.engine ei
  match e.queue with
  | [] => s
  | x :: rest => (if e.onDie then fun f => f s else s.calls (.stack (e.stackOf ei))) fun s =>
    let cs := e.clusters.map (ei * 256 + ·)
    let probes := cs.map fun c => ((drainTap x.nth (s.cluster c)).1).map (·.probe)
    let s := forEach cs (fun c t => t.updCluster c fun v => (drainTap x.nth v).2) s
    let gap := match e.lastCyc with | some c => decide (c + 1 ≠ x.cycle) | none => false
    let flags := x.flags + 2 * b2n gap + 4 * b2n (probes.any (·.isNone))
    let full := decide (e.capacity ≤ e.buffer.length)
    let buf := (if full then e.buffer.drop 1 else e.buffer) ++ [{ x with flags := flags, words := buildWords probes }]
    let left := if x.post then e.postLeft - 1 else e.postLeft
    let fin := decide (e.state = .filling) && (x.post || bitOf x.flags 0) && decide (left = 0)
    let e1 : Engine :=
      { e with queue := rest, buffer := buf, stored := buf.length, lastCyc := some x.cycle, wrapped := e.wrapped || full
               ringAt := if full then (e.ringAt + 1) % max 1 e.capacity else e.ringAt
               postLeft := left, state := if fin then .done else e.state
               record := if fin then { e.record with pre := buf.length - 1 - e.postCnt } else e.record }
    (s.cleanRecord ei e1 (buf.length - 1)).setEngine ei e1

def engineRow (e : Nat) (s : State) (f : State → State) : Host.Outcome State Fault Refusal :=
  if e < 2 then .next (f s) else .fault .noSuchUnit

def execTraceSampleStore (engine : Nat) (s : State) : Host.Outcome State Fault Refusal :=
  engineRow engine s fun t => storeSample t engine

/-- AUTO_TIMEOUT: the count since the arm is reached (R272); the trigger comes at the next evaluation. -/
def execAutoTimeout (engine : Nat) (s : State) : Host.Outcome State Fault Refusal :=
  engineRow engine s fun t =>
    t.updEngine engine fun e =>
      if e.state = .armed ∧ e.autoCnt ≠ 0 ∧ e.autoCnt ≤ e.armedFor + 1 then { e with autoHit := true } else e

/-- Append to the event log of 4,096 entries; the oldest gives way and is counted (R266). -/
def logEvents (e : Engine) (l : List LogEvent) : Engine :=
  let all := e.events ++ l
  let excess := all.length - 4096
  { e with events := all.drop excess, lost := satAdd 32 e.lost excess }

/-- ASSERTION_EVENT_DRAIN: one event leaves each cluster's FIFO of the sheet; those of listed clusters enter the log while the engine
is ARMED or FILLING, the others are discarded (R266). -/
def drainEvents (s : State) (ei : Nat) : State :=
  let e := s.engine ei
  let have_ := (s.clusters.filter fun x => decide (x.1 / 256 = ei) && !x.2.asserts.isEmpty).map (·.1)
  let listed := have_.filter fun c => e.clusters.contains (c % 256) && decide (e.rg = s.rgOfCluster c)
  let out := listed.filterMap fun c => (s.cluster c).asserts.head?.map fun ev => ({ ev := ev, cl := c % 256 } : LogEvent)
  let s := forEach have_ (fun c t => t.updCluster c fun v => { v with asserts := v.asserts.drop 1 }) s
  if e.state = .armed ∨ e.state = .filling then s.setEngine ei (logEvents e out) else s

def execAssertionEventDrain (engine : Nat) (s : State) : Host.Outcome State Fault Refusal :=
  engineRow engine s fun t => drainEvents t engine

-- arming (R263)

/-- An arm takes effect on an engine. An edge that belongs to the first cycle it evaluates may have come already (R267). -/
def Engine.arm (e : Engine) (post auto : Nat) : Engine :=
  { e with state := .armed, seqState := 0, counters := [], hits := [], viols := [], extra := 0, record := TrigRec.init
           buffer := [], stored := 0, ringAt := 0, cycles := 0, queue := [], lastCyc := none, wrapped := false, postCnt := min post (e.capacity - 1)
           postLeft := 0, autoCnt := auto, armedFor := 0, autoHit := false, force := false, events := [], lost := 0 }

/-- An engine is bound to a run group and configured. In DIFFERENTIAL pairing the engine of a sheet whose image has no block is bound with
none (R254). -/
def Engine.serves (e : Engine) (g : Nat) : Bool := decide (e.rg = some g) && !e.clusters.isEmpty

/-- Arm the engines of a run group with the counts of a TRACE_ARM packet. -/
def State.armGroup (s : State) (g : Nat) (p : Packet) : State :=
  forEach [0, 1] (fun e t =>
    if (t.engine e).serves g then
      let v := (t.engine e).arm (par p 28 8) (par p 36 6)
      forEach (v.clusters.map (e * 256 + ·)) (fun c u => u.updCluster c fun k => { k with taps := [] }) (t.setEngine e v)
    else t) s

/-- The clamped count of an arm: the engines of a run group share the smaller capacity. -/
def State.armCount (s : State) (g post : Nat) : Nat :=
  [0, 1].foldl (fun a e => if (s.engine e).serves g then min a ((s.engine e).capacity - 1) else a) post

/-- Status and results of an arm that takes effect: the count in force and the first cycle (R263). -/
def State.armReply (s : State) (g : Nat) (p : Packet) (first : Word) : Nat × Nat × Nat :=
  let n := s.armCount g (par p 28 8)
  (if n < par p 28 8 then 2 else 0, 0, n + resAt 24 first.toNat)

/-- The arms of a run group that wait take effect, and reply. `first` is the cycle of the first sample. -/
def State.takeArm (s : State) (g : Nat) (first : Word) : State :=
  match s.hub.entries.find? fun e => decide (e.wait? = some (.arm g 0)) with
  | none => s
  | some e =>
    let s := s.armGroup g e.pkt
    let s := s.updGroup g fun r => { r with traceArm := none, armWaits := false }
    let r := s.armReply g e.pkt first
    s.finishParked fun x w => if w = .arm g 0 ∧ x.pkt = e.pkt then some r else none

-- commands (R263, R275)

/-- The run group that a mask names with its engines bound, after the usual checks. The failure, or the group. -/
def traceGroup (p : Packet) (s : State) : Except (Nat × Nat) Nat :=
  let ps := maskList 32 (par p 20 4)
  match s.ownCheck (callerFn p) ps with
  | some e => .error (e, 0)
  | none =>
    if ps.any s.inWork then .error (errState, 0) else
    match s.groupOfMask ps with
    | none => .error (errParam, 0)
    | some g =>
      if (s.groupEngines (s.group g)).any fun e => s.engineLocked p.session e then .error (errLock, 0) else .ok g

/-- Every engine the group needs is bound to it. -/
def State.traceBound (s : State) (g : Nat) : Bool :=
  (s.groupEngines (s.group g)).all fun e => decide ((s.engine e).rg = some g)

/-- The group has started and not stopped: ARMED or RUNNING. -/
def RunGroup.busy (r : RunGroup) : Bool := decide (r.state = .armed) || decide (r.state = .running)

def traceConfigOwn (p : Packet) (s : State) : Ans :=
  match traceGroup p s with
  | .error (st, d) => fail s st d
  | .ok g =>
    let r := s.group g
    if r.busy then fail s errState
    else match parseBlocks (bufMem s p) p.len.toNat with
      | none => fail s errFormat 0x0262
      | some bs =>
        match bindError s (callerFn p) g r bs s.hasShip with
        | some (st, d) => fail s st d
        | none =>
          match bindAll s g (callerFn p) r bs (s.groupEngines r) with
          | none => fail s errResource 0x0502
          | some t =>
            let t := forEach (t.groupEngines r) (fun e u => u.callDomain (.trace e)) t
            if (t.groupEngines r).all fun e => (t.engine e).awake then done t else .park (.traceWake g) t

def execTraceConfig (p : Packet) (s : State) : Host.Outcome State Fault Refusal :=
  .next (command 0x0600 p s (parCheck p [(20, 4)] true) (decide (p.len = 0) || decide (par p 20 4 = 0)) (traceConfigOwn p s))

/-- TRACE_ARM (R263). A waiting arm of the same run group is withdrawn. -/
def traceArmOwn (p : Packet) (s : State) : Ans :=
  match traceGroup p s with
  | .error (st, d) => fail s st d
  | .ok g =>
    let r := s.group g
    let timed := bitOf (par p 24 1) 0
    let at_ := BitVec.ofNat 64 (par p 44 8)
    if s.traceBound g = false then fail s errState
    else if timed && !inWindow at_ s.datum.now then fail s errState
    else
      let s := s.endWaits errCancelled 0 fun w => decide (w = .arm g 0)
      if r.state ≠ .running then
        let t := (s.armGroup g p).updGroup g fun v => { v with traceArm := none, armWaits := false }
        let a := t.armReply g p r.cycle
        .reply a.1 a.2.1 a.2.2 t
      else .park (.arm g 0) (s.updGroup g fun v =>
        { v with traceArm := if timed then some at_ else none, armWaits := !timed && decide (v.step = v.n) })

def execTraceArm (p : Packet) (s : State) : Host.Outcome State Fault Refusal :=
  .next (command 0x0601 p s
    (parCheck p [(20, 4), (24, 1), (28, 8), (36, 6), (44, 8)] (decide (par p 24 1 < 2)))
    (decide (par p 20 4 = 0)) (traceArmOwn p s))

def traceForceOwn (p : Packet) (s : State) : Ans :=
  match traceGroup p s with
  | .error (st, d) => fail s st d
  | .ok g =>
    if s.traceBound g = false then fail s errParam
    else
      let es := s.groupEngines (s.group g)
      if es.all fun e => decide ((s.engine e).state = .armed) then
        done (forEach es (fun e t => t.updEngine e fun v => { v with force := true }) s)
      else if es.any fun e => decide ((s.engine e).state = .filling) || decide ((s.engine e).state = .done) then fail s okAlready
      else fail s errState

def execTraceForce (p : Packet) (s : State) : Host.Outcome State Fault Refusal :=
  .next (command 0x0602 p s (parCheck p [(20, 4)] true) (decide (par p 20 4 = 0)) (traceForceOwn p s))

/-- The bytes of a stored sample (R260). -/
def sampleBytes (x : Sample) : List Byte :=
  let b := leBytes 8 x.cycle.toNat ++ leBytes 8 x.stamp.toNat ++ leBytes 4 x.flags ++ leBytes 2 x.words.length ++ leBytes 10 0
    ++ (x.words.map fun w => leBytes 9 w.toNat).flatten
  b ++ List.replicate (recordLen x.words.length - b.length) 0

/-- The bytes of an event log entry (R266). -/
def eventBytes (x : LogEvent) : List Byte :=
  leBytes 8 x.ev.cycle.toNat ++ leBytes 2 x.ev.step ++ leBytes 2 (x.ev.id + 32768 * b2n x.ev.isX) ++ leBytes 1 x.cl
    ++ leBytes 1 x.ev.bp ++ leBytes 2 0

/-- What reading records from an HBM buffer counts and raises (R182), and what the words in uncorrectable error give, each with its byte in
the output: a free value (DESIGN CHOICE 92). -/
def State.readRecords (s : State) (p : Packet) (e : Engine) (ei n : Nat) : State × List (Nat × Nat) :=
  let first := par p 28 8
  ((s.bufferMarks ei e).filter fun x => decide (first ≤ x.2.1) && decide (x.2.1 < first + n)).foldl (fun a x =>
    let r := a.1.hbmRead (e.stackOf ei) x.1 (32 + e.stackOf ei) 1 (sessionMaster p.session) 0
    match r.1 with
    | some _ => (r.2, a.2)
    | none => let f := r.2.fresh 64; (f.2, a.2 ++ [((x.2.1 - first) * e.recordBytes + x.2.2, f.1.toNat)])) (s, [])

/-- Whether TRACE_READ asks for samples, not for the event log, and the bytes of one record of them (R273). -/
def readsSamples (p : Packet) : Bool := decide (par p 25 1 = 0)

/-- The records of an engine that TRACE_READ asks for, each as its bytes. -/
def traceRecords (p : Packet) (e : Engine) : List (List Byte) :=
  if readsSamples p then e.buffer.map sampleBytes else e.events.map eventBytes

/-- Those that it copies: from the first one named on, as many as its buffer holds. -/
def traceCopies (p : Packet) (e : Engine) : List (List Byte) :=
  ((traceRecords p e).drop (par p 28 8)).take (p.len.toNat / if readsSamples p then e.recordBytes else 16)

def traceReadOwn (p : Packet) (s : State) : Ans :=
  match traceGroup p s with
  | .error (st, d) => fail s st d
  | .ok g =>
    let e := s.engine (par p 24 1)
    if s.traceBound g = false ∨ e.rg ≠ some g then fail s errParam
    else if e.state = .armed ∨ e.state = .filling then fail s errState
    else
      let out := traceCopies p e
      awaken s (if e.onDie then [] else [.stack (e.stackOf (par p 24 1))]) fun s =>
      let r := if readsSamples p then s.readRecords p e (par p 24 1) out.length else (s, [])
      done (r.2.foldl (fun t x => bufPutNat t p x.1 8 x.2) (bufPut r.1 p 0 out.flatten)) (out.length + resAt 20 (traceRecords p e).length)

def traceReadBad (p : Packet) : Option Nat :=
  parCheck p [(20, 4), (24, 1), (25, 1), (28, 8)] (decide (par p 24 1 < 2) && decide (par p 25 1 < 2))

def traceReadZero (p : Packet) : Bool := decide (p.len = 0) || decide (par p 20 4 = 0)

def execTraceRead (p : Packet) (s : State) : Host.Outcome State Fault Refusal :=
  .next (command 0x0603 p s (traceReadBad p) (traceReadZero p) (traceReadOwn p s))

def traceReleaseOwn (p : Packet) (s : State) : Ans :=
  match traceGroup p s with
  | .error (st, d) => fail s st d
  | .ok g =>
    if s.traceBound g = false then fail s errParam
    else
      let s := s.endWaits errCancelled 0 fun w => decide (w = .arm g 0)
      let s := s.updGroup g fun v => { v with traceArm := none, armWaits := false }
      done (forEach [0, 1] (fun e t => if (t.engine e).rg = some g then t.freeEngine e else t) s)

def execTraceRelease (p : Packet) (s : State) : Host.Outcome State Fault Refusal :=
  .next (command 0x0604 p s (parCheck p [(20, 4)] true) (decide (par p 20 4 = 0)) (traceReleaseOwn p s))

end Sys2Proof.Machine
end

