-- ==== Sys2Proof/Machine/Survey.lean ====
section
/-! DEFINITION. Surveys (R230 to R240): the capture of a run group's design state and its restoration. -/
namespace Sys2Proof.Machine

-- the order of an image's parcels and clusters (R193, R156)

/-- Virtual parcels of an image, ascending: 0 to 15 on sheet W, 16 to 31 on sheet E. -/
def Image.virtuals (i : Image) : List Nat := maskList 16 i.footW ++ (maskList 16 i.footE).map (· + 16)

/-- The physical parcel of a virtual one (R157). -/
def Image.parcelOf (i : Image) (v : Nat) : Nat :=
  16 * (if i.spanning then v / 16 else i.sheet) + 4 * (v % 16 / 4 + i.dy) + v % 4 + i.dx

/-- The physical clusters of an image in section order; in MIRRORED pairing those of its West copy. -/
def Image.ordered (i : Image) : List Nat := (i.virtuals.map fun v => parcelClusters (i.parcelOf v)).flatten

/-- The image that a mask names exactly, with its run group. In MIRRORED pairing the mask names its West parcels (R251). -/
def State.imageOfMask (s : State) (ps : List Nat) : Option (Nat × Image) :=
  s.runGroups.findSome? fun g =>
    ((s.group g).images.find? fun i =>
      decide ((if s.boot.pairMode = 2 then i.parcels.filter (· < 16) else i.parcels) = ps)).map fun i => (g, i)

/-- The physical bridge and quad of a virtual one of an image, none where it is not bound. -/
def State.physOf (s : State) (i : Image) (off : Nat) (l : List Nat) (v : Nat) : Option Nat :=
  let b := l.getD v 255
  if 255 ≤ b then none else some (if s.boot.pairMode = 3 ∧ i.sheet = 1 then b + off else b)

-- the body (R234)

/-- Four codes per byte, entry 0 in the low bits. -/
def packCodes (f : Nat → V4) (n : Nat) : List Byte :=
  (List.range (n / 4)).map fun k =>
    BitVec.ofNat 8 (v4code (f (4 * k)) + 4 * v4code (f (4 * k + 1)) + 16 * v4code (f (4 * k + 2)) + 64 * v4code (f (4 * k + 3)))

/-- Bytes of the fixed part of one parcel, and of one cluster's part of it: its four items, and where they begin. -/
def parcelFixed : Nat := 9707520
def clusterFixed : Nat := 606720
def stateAt : Nat := 65536
def slotsAt : Nat := 81920
def bankAt : Nat := 82432

/-- The value store bytes of a cluster; the state store bytes; the receive slot bytes. -/
def State.valuePack (s : State) (c : Nat) : List Byte :=
  ((List.range 64).map fun b => packCodes (s.valueAt (c * 64 + b)) 4096).flatten
def State.statePack (s : State) (c : Nat) : List Byte :=
  ((List.range 64).map fun b => packCodes (s.curAt (c * 64 + b)) 1024).flatten
def State.slotPack (s : State) (c : Nat) : List Byte :=
  ((List.range 256).map fun r => leBytes 2 (v4code (s.slotAt c r).val + 4 * (s.slotAt c r).step)).flatten

/-- The fixed part of one cluster at offset `base`: value stores, state stores, receive slots, bank. -/
def State.clusterBody (s : State) (c base : Nat) : Memory :=
  cellsAt base (s.valuePack c) ++ cellsAt (base + stateAt) (s.statePack c) ++ cellsAt (base + slotsAt) (s.slotPack c)
    ++ (memSlice s.bank (bankAddr c 0) 524288).map fun e => (base + bankAt + e.1, e.2)

/-- The fixed part of one parcel at offset `base`: cluster after cluster in the order of R193 (R234). -/
def State.parcelBody (s : State) (p base : Nat) : Memory :=
  (List.range 16).flatMap fun k => s.clusterBody (clOf p k) (base + k * clusterFixed)

/-- A buffered inbound cargo word of a survey. -/
structure CargoRec where
  vquad : Nat
  slot  : Nat
  step  : Nat
  cycle : Nat
  word  : BitVec 72
deriving DecidableEq, Repr

/-- The buffered words of a lane whose arrival falls in a cycle not yet begun (R108), oldest codeword first. -/
def State.laneRecs (s : State) (r : RunGroup) (v q l : Nat) : List CargoRec :=
  let d := classLimit (s.quad q).cls
  ((s.lane l).rxBuf.map fun w =>
    (List.range 8).filterMap fun j =>
      let sp := w.stepTag + j / 2
      let k := 2 * (l % 4) + j % 2
      let abs := w.cycle.toNat * r.n + sp + 4 + d
      let p := if r.n = 0 then 0 else abs % r.n
      let cyc := if r.n = 0 then 0 else abs / r.n
      match cargoIn q (s.quadEntry q (8 * p + k)) with
      | none => none
      | some e =>
        if r.cycle.toNat ≤ cyc ∧ sendingStep r.n d p e.lag = some sp then
          some { vquad := v, slot := k, step := p, cycle := cyc, word := w.words.getD j allX }
        else none).flatten

/-- Every buffered word of an image, ascending by virtual quad and lane. -/
def State.cargoRecs (s : State) (g : Nat) (i : Image) : List CargoRec :=
  let r := s.group g
  ((List.range 36).map fun v =>
    match s.physOf i 18 i.quadBind v with
    | none => []
    | some q => ((quadLanes q).map (s.laneRecs r v q)).flatten).flatten

def CargoRec.bytes (c : CargoRec) : List Byte :=
  leBytes 1 c.vquad ++ leBytes 1 c.slot ++ leBytes 2 c.step ++ leBytes 4 0 ++ leBytes 8 c.cycle ++ leBytes 9 c.word.toNat
    ++ leBytes 7 0

/-- A frame of an inbound inset stream queue with the words not yet received (R234). -/
def frameBytes (v : Nat) (f : BFrame) (pos : Nat) : List Byte :=
  let n := f.bytes.length
  let words := ceilDiv (n - pos) 8
  let body := ((List.range words).map fun j => leBytes 9 (insetWord f (pos + 8 * j)).toNat).flatten
  leBytes 1 v ++ leBytes 1 (b2n f.error) ++ leBytes 2 n ++ leBytes 2 words ++ leBytes 10 0 ++ body
    ++ List.replicate (ceilDiv body.length 8 * 8 - body.length) 0

/-- The frames of a virtual bridge's queue. -/
def State.bridgeFrames (s : State) (i : Image) (v : Nat) : List (List Byte) :=
  match s.physOf i 4 i.bridgeBind v with
  | none => []
  | some b =>
    let w := s.bridge b
    match w.rxQ with
    | [] => []
    | f :: rest => frameBytes v f w.rxPos :: rest.map fun x => frameBytes v x 0

/-- The allotments that a survey includes: those of the sheets of the image's own copy. -/
def Image.ownAllots (i : Image) : List (Nat × Nat × Nat) := i.allots.filter fun a => i.spanning || decide (a.1 / 2 = i.sheet)

/-- Bytes of HBM allotments that a survey with these flags holds. -/
def Image.hbmBytes (i : Image) (flags : Nat) : Nat :=
  if bitOf flags 0 then (i.ownAllots.map fun a => a.2.2 * unitBytes).sum else 0

/-- The run group's items: counts, cargo, frames. -/
def State.groupItems (s : State) (g : Nat) (i : Image) (flags : Nat) : List Byte :=
  let cargo := s.cargoRecs g i
  let frames := ((List.range 8).map (s.bridgeFrames i)).flatten
  leBytes 4 cargo.length ++ leBytes 2 frames.length ++ leBytes 2 0 ++ leBytes 8 (i.hbmBytes flags)
    ++ (cargo.map (·.bytes)).flatten ++ frames.flatten

/-- The length of the body. -/
def State.bodyLen (s : State) (g : Nat) (i : Image) (flags : Nat) : Nat :=
  i.virtuals.length * parcelFixed + (s.groupItems g i flags).length + i.hbmBytes flags

/-- Allotments placed one after the other from `base`. -/
def State.allotBody (s : State) : List (Nat × Nat × Nat) → Nat → Memory
  | [], _ => []
  | a :: l, base =>
    ((memSlice s.hbm (a.1 * 2 ^ 36 + a.2.1 * unitBytes) (a.2.2 * unitBytes)).map fun e => (base + e.1, e.2))
      ++ s.allotBody l (base + a.2.2 * unitBytes)

/-- The body of a survey. -/
def State.surveyBody (s : State) (g : Nat) (i : Image) (flags : Nat) : Memory :=
  let n := i.virtuals.length
  let items := s.groupItems g i flags
  ((List.range n).map fun k => s.parcelBody (i.parcelOf (i.virtuals.getD k 0)) (k * parcelFixed)).flatten
    ++ cellsAt (n * parcelFixed) items
    ++ (if bitOf flags 0 then s.allotBody i.ownAllots (n * parcelFixed + items.length) else [])

-- the header (R233)

/-- Header bytes 0x00 to 0x37. -/
def surveyHead (s : State) (r : RunGroup) (i : Image) (flags : Nat) (stamp : Word) (bodyLen : Nat) : List Byte :=
  leBytes 4 0x56534B53 ++ leBytes 2 1 ++ leBytes 2 256 ++ leBytes 8 s.legend ++ leBytes 4 i.hdrCrc ++ leBytes 2 i.footW
    ++ leBytes 2 i.footE ++ leBytes 8 r.cycle.toNat ++ leBytes 8 stamp.toNat ++ leBytes 8 bodyLen
    ++ leBytes 1 (b2n i.keySlot.isSome) ++ leBytes 1 (b2n (bitOf flags 0)) ++ leBytes 2 r.n ++ leBytes 4 0

/-- Write a survey to host memory (R235): sealed under the image's key where it has one. `view` is the state that the reads of its
memories gave. -/
def State.writeSurvey (s view : State) (g : Nat) (i : Image) (q : SurveyReq) : State :=
  let r := s.group g
  let n := s.bodyLen g i q.flags
  let head := surveyHead s r i q.flags q.stamp n
  let body := view.surveyBody g i q.flags
  let dest := q.dest.toNat
  match i.keySlot with
  | none =>
    let h := head ++ List.replicate (0x58 - 0x38) 0 ++ leBytes 4 (crcSparse body n) ++ List.replicate 160 0
    let h := h ++ leBytes 4 (crc32c h)
    { s with hostMem := memSetBytes dest h (memPaste (dest + 256) n body s.hostMem) }
  | some k =>
    let key := s.key k
    let iv := BitVec.ofNat 96 (key.ivHi.toNat + fieldAt 32 key.ivCount)
    let sealed := Config.gcmSeal key.key iv (leNat head) 0x38 (memToNat body) n
    let ct := leBytes n sealed
    let h := head ++ leBytes 12 iv.toNat ++ leBytes 4 0 ++ leBytes 16 (sealed / 256 ^ n) ++ leBytes 4 (crc32c ct)
      ++ List.replicate 160 0
    let h := h ++ leBytes 4 (crc32c h)
    let s := s.setKey k { key with ivCount := key.ivCount + 1 }
    { s with hostMem := memSetBytes dest h (memPaste (dest + 256) n (cellsAt 0 ct) s.hostMem) }

-- capture

/-- The earliest cycle at whose end an event requested now takes effect: the next one once the last step has begun (R29). -/
def RunGroup.earliest (r : RunGroup) : Word := if r.step = r.n then r.cycle + 1 else r.cycle

/-- What a survey reads of a memory word in error (R166, R170, R171, R182): a state with what it counts and raises, and one in which a
word in uncorrectable error holds what the survey takes for it, a free value (DESIGN CHOICE 92). -/
def readMark (i : Image) (hbm : Bool) (cycle : Word) (a : State × State) (e : Nat × Nat) : State × State :=
  let w := e.1 % 2 ^ 44
  let master := nodeMaster surveyorNode
  if e.1 / 2 ^ 44 = 6 ∧ i.ordered.contains (w / 65536) then
    let r := a.1.bankRead (w / 65536) (w % 65536) 1 master cycle
    let s := r.2.1.raiseAll r.2.2
    match r.1 with
    | some _ => (s, a.2)
    | none => let f := s.fresh 64; (f.2, { a.2 with bank := memSetWord (w * 8) f.1 a.2.bank })
  else if hbm ∧ e.1 / 2 ^ 44 = 9 ∧ (i.ownAllots.any fun x => decide (x.1 = w / 2 ^ 33)
      && decide (x.2.1 ≤ w % 2 ^ 33 / unitWords) && decide (w % 2 ^ 33 / unitWords < x.2.1 + x.2.2)) then
    let r := a.1.hbmRead (w / 2 ^ 33) (w % 2 ^ 33) (i.parcels.headD 0) 1 master cycle
    match r.1 with
    | some _ => (r.2, a.2)
    | none => let f := r.2.fresh 64; (f.2, { a.2 with hbm := memSetWord (hbmAddr (w / 2 ^ 33) (w % 2 ^ 33)) f.1 a.2.hbm })
  else a

/-- Read the memories of an image for a survey; the last owner of each bank's arbiter is then the survey (R173). -/
def State.surveyReads (s : State) (i : Image) (hbm : Bool) (cycle : Word) : State × State :=
  let a := s.ecc.foldl (readMark i hbm cycle) (s, s)
  (forEach i.ordered (fun c t => t.updCluster c fun v => { v with owner := 2 }) a.1, a.2)

/-- A cargo word that was sent before the boundary and arrives after it has not reached its lane's receive buffer (R108). -/
def State.cargoOnWay (s : State) (g : Nat) : Bool :=
  let r := s.group g
  s.quadAct.any fun e =>
    let q := e.1 / 32768
    let p := e.1 % 32768 / 8
    decide ((s.quad q).rg = some g) && decide (p < r.n) && (match cargoIn q e.2 with
      | none => false
      | some d => r.holds d.cl && (List.range d.lag).any fun j =>
        decide (d.lag ≤ r.cycle.toNat + j) && (match sendingStep r.n (classLimit (s.quad q).cls) p d.lag with
          | none => false
          | some sp => ((s.lane (4 * q + e.1 % 8 / 2)).find sp (r.cycle + BitVec.ofNat 64 j - BitVec.ofNat 64 d.lag)).isNone))

/-- Everything the group sent out has drained (R80, R232), and everything sent to it before the boundary has come (R108). -/
def State.groupDrained (s : State) (g : Nat) : Bool :=
  ((s.group g).clusters.all fun c => (s.cluster c).staged.isEmpty && !(s.cluster c).reqs.any (·.isWrite)) && !s.cargoOnWay g

/-- Set the survey state of parcels. -/
def State.setSv (s : State) (ps : List Nat) (v : SurveyState) : State :=
  forEach ps (fun p t => t.updParcel p fun x => { x with svState := v }) s

/-- The parcels of the image that a survey takes; the parcels it names are in MIRRORED pairing those of West (R251). -/
def RunGroup.surveyed (r : RunGroup) (q : SurveyReq) : List Nat :=
  match r.imageOf (q.parcels.headD 0) with
  | some i => i.parcels
  | none => q.parcels

/-- The survey of the image that a mask names. -/
def SurveyReq.named (q : SurveyReq) (mask : Nat) : Bool := decide (q.parcels = maskList 32 mask)

/-- Begin a capture: hold source 6 rises (R123, R232). -/
def State.beginCapture (s : State) (g : Nat) (q : SurveyReq) (stamp : Word) : State :=
  (s.setSv ((s.group g).surveyed q) .capturing).updGroup g fun r =>
    { r with surveys := (r.surveys.filter fun x => decide (x.parcels ≠ q.parcels)) ++ [{ q with stamp := stamp, taking := true }] }

/-- Write one survey whose capture is under way, and answer its command (R232, R236). -/
def captureOne (g : Nat) (s : State) (q : SurveyReq) : State :=
  let r := s.group g
  match r.imageOf (q.parcels.headD 0) with
  | none => s
  | some i =>
    let len := 256 + s.bodyLen g i q.flags
    let a := s.surveyReads i (decide (i.hbmBytes q.flags ≠ 0)) r.cycle
    let s := (a.1.writeSurvey a.2 g i q).setSv i.parcels .idle
    let s := s.updGroup g fun v => { v with surveys := v.surveys.filter fun x => decide (x.parcels ≠ q.parcels) }
    let s := forEach i.parcels (fun p t => t.updParcel p fun x => { x with svLast := r.cycle.toNat % 2 ^ 48 }) s
    s.finishParked fun _ w => match w with
      | .survey h m => if h = g ∧ q.named m then some (0, 0, r.cycle.toNat + resAt 24 len) else none
      | _ => none

/-- The stacks that the surveys under way read. -/
def RunGroup.surveyStacks (r : RunGroup) : List Domain :=
  (r.surveys.filter (·.taking)).flatMap fun q => match r.imageOf (q.parcels.headD 0) with
    | some i => if i.hbmBytes q.flags = 0 then [] else i.allots.map fun a => .stack a.1
    | none => []

/-- SURVEY_CAPTURE: once everything has drained, and the stacks that it reads are awake (R362), the surveys under way are written and the hold
is released. It gates the opportunity of its release and the next one (R123, R232). -/
def surveyCapture (s : State) (g : Nat) : State :=
  let r := s.group g
  if r.capturing = false ∨ s.groupDrained g = false then s
  else
    let s := r.surveyStacks.foldl (fun t d => t.callDomain d) s
    if r.surveyStacks.any s.unready then s else
    ((r.surveys.filter (·.taking)).foldl (captureOne g) s).updGroup g fun v =>
      { v with prev := v.prev ||| 0x40, prev2 := v.prev2 ||| 0x40 }

/-- A row that names a run group: one that holds no parcel does nothing (R116). -/
def groupRow (g : Nat) (s : State) (f : State → State) : Host.Outcome State Fault Refusal :=
  if g < 32 then .next (if (s.group g).parcels.isEmpty then s else f s) else .fault .noSuchUnit

def execSurveyCapture (g : Nat) (s : State) : Host.Outcome State Fault Refusal :=
  groupRow g s fun t => (surveyCapture t g).settle

-- SURVEY (R230, R231)

/-- A descriptor's key slot matches that of the image's load. -/
def slotMatches (i : Image) (k : Nat) : Bool := decide (i.keySlot = if k = 255 then none else some k)

def surveyBad (p : Packet) (s : State) : Option Nat :=
  let d := bufMem s p
  parCheck p [] (decide (p.len = 64) && decide (memNat d 4 1 < 4) && zeroAt d 6 2 && zeroAt d 40 24
    && !(decide (memNat d 8 8 ≠ 0) && bitOf (memNat d 4 1) 1)
    && (!bitOf (memNat d 4 1) 1 || inWindow (memWord d 16) s.datum.now))

def surveyOwn (p : Packet) (s : State) : Ans :=
  let d := bufMem s p
  let ps := maskList 32 (memNat d 0 4)
  match s.imageOfMask ps with
  | none =>
    if ps.any s.failed then fail s errResource
    else if s.claims.any fun c => decide (c.phase ≠ .frames) && decide (c.parcels.filter (fun q => !s.paired || q < 16) = ps) then
      (match s.ownCheck (callerFn p) ps with
      | some e => fail s e
      | none => fail s (if s.parcelLocked p.session ps then errLock else errState))
    else fail s errParam
  | some (g, i) =>
    let r := s.group g
    let flags := memNat d 4 1
    let at_ := memWord d 8
    let late := decide (at_ ≠ 0) && decide (at_.toNat < r.earliest.toNat)
    let need := 256 + s.bodyLen g i flags
    let base : SurveyReq :=
      { parcels := ps, stamp := 0, flags := flags, atCycle := at_, atTime := memWord d 16, dest := memWord d 24
        length := memNat d 32 8, taking := false }
    let atOnce := decide (at_ = 0) && !bitOf flags 1
    match s.ownCheck (callerFn p) ps with
    | some e => fail s e
    | none =>
      if s.parcelLocked p.session ps then fail s errLock
      else if !slotMatches i (memNat d 5 1) then fail s errAuth 0x0623
      else if ps.any (fun q => s.inWork q || decide ((s.parcel q).svState ≠ .idle)) || late || decide (r.state = .armed)
          || decide (r.state = .faultHalted) then fail s errState
      else if memNat d 32 8 < need then .reply errParam 0x0701 (resAt 24 need) s
      else if atOnce ∧ r.state ≠ .running then .park (.survey g (listMask ps)) (s.beginCapture g base s.datum.now)
      else
        let q : SurveyReq := if atOnce then { base with atCycle := r.earliest } else base
        .park (.survey g (listMask ps)) ((s.setSv i.parcels .pending).updGroup g fun v => { v with surveys := v.surveys ++ [q] })

def execSurvey (p : Packet) (s : State) : Host.Outcome State Fault Refusal :=
  .next (command 0x0400 p s (surveyBad p s) (decide (memNat (bufMem s p) 32 8 = 0) || decide (memNat (bufMem s p) 0 4 = 0))
    (surveyOwn p s))

-- restoring (R237 to R239)

/-- Code `k` of a packed string at `base`. -/
def codeAt (m : Memory) (base k : Nat) : V4 := v4of (bitsOf (memGet (base + k / 4) m).toNat (2 * (k % 4)) 2)

/-- Restore one cluster from its part of the body at offset `base`. -/
def restoreCluster (s : State) (m : Memory) (base c n : Nat) : State :=
  let bps := List.range 64
  let put (off per : Nat) (b e : Nat) : V4 := codeAt m (base + off) (b * per + e)
  let vals := (bps.map fun b => (List.range 4096).map fun e => ((c * 64 + b) * 4096 + e, put 0 4096 b e)).flatten
  let sts := (bps.map fun b => (List.range 1024).map fun j => ((c * 64 + b) * 1024 + j, put stateAt 1024 b j)).flatten
  let slots := (List.range 256).map fun r =>
    let w := memNat m (base + slotsAt + r * 2) 2
    (c * 256 + r, ({ val := v4of w, written := false, step := bitsOf w 2 12 } : RSlot))
  let res := bps.map fun b =>
    let bp := c * 64 + b
    let op := (mget 0 (bp * 4096 + (n - 1)) s.istore).toNat / 2 ^ 68
    (bp, if op = 0 then V4.x else put 0 4096 b (n - 1))
  { s with values := msetMany .x vals (dropClusters [c] 262144 s.values)
           cur := msetMany .x sts (dropClusters [c] 65536 s.cur)
           stg := dropClusters [c] 65536 s.stg, pend := dropClusters [c] 65536 s.pend, fetchSnd := dropClusters [c] 4096 s.fetchSnd
           slots := msetMany RSlot.init slots (dropClusters [c] 256 s.slots)
           result := msetMany .x res (dropClusters [c] 64 s.result)
           bank := memPaste (bankAddr c 0) 524288 (memSlice m (base + bankAt) 524288) s.bank
           ecc := mdrop (fun x => [1, 2, 6, 8].contains (x / 2 ^ 44) && decide (eccCluster x = some c)) s.ecc }

/-- Put a restored cargo word into a receive buffer (R108): its codeword is the one that would have carried it. -/
def putCargo (r : RunGroup) (d : Nat) (c : CargoRec) (v : Lane) : Lane :=
  let abs := c.cycle * r.n + c.step
  if abs < 4 + d ∨ r.n = 0 then v else
  let sp := (abs - 4 - d) % r.n
  let cyc := (abs - 4 - d) / r.n
  let tag := sp / 4 * 4
  let j := 2 * (sp % 4) + c.slot % 2
  let hit (w : SchedCw) : Bool := decide (w.stepTag = tag) && decide (w.cycle = BitVec.ofNat 64 cyc)
  let buf := if v.rxBuf.any hit then v.rxBuf
    else v.rxBuf ++ [{ stepTag := tag, cyc := cyc % 16, cycle := BitVec.ofNat 64 cyc, words := List.replicate 8 allX }]
  { v with rxBuf := updFirst hit (fun w => { w with words := w.words.set j c.word }) buf }

/-- The cargo records of a body. -/
def readCargo (m : Memory) (base n : Nat) : List CargoRec :=
  (List.range n).map fun i =>
    let o := base + 32 * i
    { vquad := memNat m o 1, slot := memNat m (o + 1) 1, step := memNat m (o + 2) 2, cycle := memNat m (o + 8) 8
      word := BitVec.ofNat 72 (memNat m (o + 16) 9) }

/-- The frames of a body: bridge, error, length, words; and the offset past them. `fuel` is the frame count. -/
def readFrames (m : Memory) : Nat → Nat → List (Nat × Bool × Nat × Nat × Nat) × Nat
  | 0, o => ([], o)
  | fuel + 1, o =>
    let words := memNat m (o + 4) 2
    let r := readFrames m fuel (o + 16 + ceilDiv (9 * words) 8 * 8)
    ((memNat m o 1, bitOf (memNat m (o + 1) 1) 0, memNat m (o + 2) 2, words, o + 16) :: r.1, r.2)

/-- A restored frame. Bytes of words that had been received before the capture are not in the survey and read 0; its stamp is
not in the survey either, and is a free value. -/
def putFrame (s : State) (m : Memory) (b : Nat) (err : Bool) (len words o : Nat) : State :=
  let lost := ceilDiv len 8 - words
  let got := ((List.range words).map fun j => leBytes 8 (memNat m (o + 9 * j) 8)).flatten
  let r := s.fresh 64
  let f : BFrame := { bytes := (List.replicate (8 * lost) 0 ++ got).take len, error := err, stamp := r.1, cycle := 0, step := 0 }
  r.2.updBridge b fun v => { v with rxQ := v.rxQ ++ [f], rxPos := if v.rxQ = [] then 8 * lost else v.rxPos }

/-- A body split into its run group items. -/
structure BodyItems where
  cargo  : List CargoRec
  frames : List (Nat × Bool × Nat × Nat × Nat)
  hbmAt  : Nat
  hbm    : Nat
deriving DecidableEq, Repr

def bodyItems (m : Memory) (nParcels : Nat) : BodyItems :=
  let o := nParcels * parcelFixed
  let nc := memNat m o 4
  let f := readFrames m (memNat m (o + 4) 2) (o + 16 + 32 * nc)
  { cargo := readCargo m (o + 16) nc, frames := f.1, hbmAt := f.2, hbm := memNat m (o + 8) 8 }

/-- Restore the HBM allotments of an image from a body. -/
def restoreHbm (m : Memory) : List (Nat × Nat × Nat) → Nat → State → State
  | [], _, s => s
  | a :: l, o, s =>
    let n := a.2.2 * unitBytes
    restoreHbm m l (o + n)
      { s.zeroUnits a.1 a.2.1 a.2.2 with hbm := memPaste (a.1 * 2 ^ 36 + a.2.1 * unitBytes) n (memSlice m o n) s.hbm }

/-- The run group stands at another cycle (R238, R239): the lanes watch their lead anew (R126), and the ships of a cycle that a halt
cut off are in no trace tap FIFO (R259). -/
def State.replace (s : State) (g : Nat) (cs : List Nat) : State :=
  let r := s.group g
  let s := forEach (s.cargoLanes g) (fun l t =>
    if s.paired && decide (72 ≤ l) then t
    else t.updLane l fun v => v.watchLead r.n (classLimit (t.quad (laneQuad l)).cls) (r.cycle.toNat * r.n + r.step - 1)) s
  forEach cs (fun c t => if (t.cluster c).taps = [] then t else
    t.updCluster c fun v => { v with taps := v.taps.filter fun x => decide (x.nth < (t.engine (c / 256)).cycles) }) s

/-- Clusters of an image that a restore writes: both copies in MIRRORED pairing (R251). -/
def State.copies (s : State) (c : Nat) : List Nat := if s.boot.pairMode = 2 then [c, c + 256] else [c]

/-- The write pass of a restore (R239). -/
def restoreWrite (s : State) (g : Nat) (i : Image) (m : Memory) (items : BodyItems) (cycle : Word) : State :=
  let r := s.group g
  let s := forEach (List.range i.virtuals.length) (fun v t =>
    forEach (List.range 16) (fun k u =>
      let c := clOf (i.parcelOf (i.virtuals.getD v 0)) k
      forEach (u.copies c) (fun d w => restoreCluster w m (v * parcelFixed + k * clusterFixed) d r.n) u) t) s
  let s := { s with fetchQd := dropClusters (s.boundQuads i) 32768 s.fetchQd }
  let s := if items.hbm = 0 then s else restoreHbm m i.ownAllots items.hbmAt s
  let s := if items.hbm = 0 ∨ s.boot.pairMode ≠ 2 then s
    else restoreHbm m (i.allots.filter fun a => decide (2 ≤ a.1)) items.hbmAt s
  let s := forEach (s.boundQuads i) (fun q t => forEach (quadLanes q) (fun l u => u.updLane l fun v => { v with rxBuf := [], wanted := [] }) t) s
  let s := items.cargo.foldl (fun t c =>
    match t.physOf i 18 i.quadBind c.vquad with
    | none => t
    | some q =>
      forEach (if t.boot.pairMode = 2 then [q, q + 18] else [q]) (fun q2 u =>
        u.updLane (4 * q2 + c.slot / 2) (putCargo r (classLimit (u.quad q2).cls) c)) t) s
  let s := forEach (s.boundBridges i) (fun b t => t.updBridge b fun v => { v with rxQ := [], rxPos := 0, txQ := [], txOpen := none }) s
  let s := items.frames.foldl (fun t f =>
    match t.physOf i 4 i.bridgeBind f.1 with
    | none => t
    | some b => forEach (if t.boot.pairMode = 2 then [b, b + 4] else [b])
        (fun b2 u => putFrame u m b2 f.2.1 f.2.2.1 f.2.2.2.1 f.2.2.2.2) t) s
  let s := forEach (clustersOf i.parcels) (fun c t => t.updCluster c fun v =>
    { v with port := Port.init, landings := [], checks := [], staged := [], drained := false, reqs := [], matched := []
             owner := 2, wb := none, sig := 0xFFFFFFFF }) s
  let s := forEach i.parcels (fun p t => t.updParcel p fun v =>
    { v with restoreBad := false, svLast := cycle.toNat % 2 ^ 48, svState := .idle }) s
  ((if r.step = 0 then s else s.fetchNext g 0 cycle).updGroup g fun v =>
    { v with cycle := cycle, step := 0, state := .stopped, flights := [], moved := false, stops := [], halting := none
             pauses := [], sigDue := false, pulseDue := false, restores := v.restores ++ [(i.sheet, cycle)] }).replace g (clustersOf i.parcels)

/-- A restore whose write pass fails (R238): stores and receive slots X, banks 0, cycle 0, restore_bad. What the changed source left in
the image's HBM is a free value; cargo and inset queues are empty (DESIGN CHOICE 90). -/
def restoreSpoil (s : State) (g : Nat) (i : Image) (items : BodyItems) : State :=
  let cs := clustersOf i.parcels
  let s := { s with values := dropClusters cs 262144 s.values, cur := dropClusters cs 65536 s.cur
                    stg := dropClusters cs 65536 s.stg, pend := dropClusters cs 65536 s.pend, result := dropClusters cs 64 s.result
                    slots := dropClusters cs 256 s.slots, fetchSnd := dropClusters cs 4096 s.fetchSnd
                    fetchQd := dropClusters (s.boundQuads i) 32768 s.fetchQd
                    bank := s.bank.filter fun e => !cs.contains (e.1 / 524288)
                    ecc := mdrop (fun x => [1, 2, 6, 8].contains (x / 2 ^ 44) && ((eccCluster x).any cs.contains)) s.ecc }
  let s := if items.hbm = 0 then s else
    let f := s.fresh (8 * items.hbm)
    let m := cellsAt 0 (leBytes items.hbm f.1.toNat)
    let s := restoreHbm m i.ownAllots 0 f.2
    if s.boot.pairMode ≠ 2 then s else restoreHbm m (i.allots.filter fun a => decide (2 ≤ a.1)) 0 s
  let s := forEach (s.boundQuads i) (fun q t => forEach (quadLanes q) (fun l u => u.updLane l fun v => { v with rxBuf := [], wanted := [] }) t) s
  let s := forEach (s.boundBridges i) (fun b t => t.updBridge b fun v => { v with rxQ := [], rxPos := 0, txQ := [], txOpen := none }) s
  let s := forEach cs (fun c t => t.updCluster c fun v =>
    { v with port := Port.init, landings := [], checks := [], staged := [], drained := false, reqs := [], matched := []
             owner := 2, wb := none, sig := 0xFFFFFFFF }) s
  let s := forEach i.parcels (fun p t => t.updParcel p fun v => { v with restoreBad := true, svState := .idle }) s
  (s.updGroup g fun v =>
    { v with cycle := 0, step := 0, flights := [], moved := false, stops := [], halting := none, pauses := [], sigDue := false
             pulseDue := false }).replace g cs

/-- The checks of a restore after ownership and locks, in the order of R238; `.ok` gives the plain body, its items and cycle. -/
def restoreCheck (s : State) (g : Nat) (i : Image) (slot : Nat) (src len : Nat) : Except (Nat × Nat) (Memory × BodyItems × Word) :=
  let r := s.group g
  let h := memSlice s.hostMem src 256
  let bodyLen := memNat h 0x28 8
  let enc := memNat h 0x30 1
  let n := i.virtuals.length
  let stored := memSlice s.hostMem (src + 256) bodyLen
  let sum := crcSparse stored bodyLen
  let k := s.key (i.keySlot.getD 0)
  let plain : Option Memory :=
    if enc = 0 then some stored
    else (Config.gcmOpen k.key (BitVec.ofNat 96 (memNat h 0x38 12)) (memNat h 0 0x38) 0x38
        (memToNat stored + memNat h 0x48 16 * 256 ^ bodyLen) (bodyLen + 16)).map fun t => cellsAt 0 (leBytes bodyLen t)
  if r.busy || !r.surveys.isEmpty || r.parcels.any (fun q => decide ((s.parcel q).svState ≠ .idle)) then .error (errState, 0)
  else if memNat h 0 4 ≠ 0x56534B53 ∨ memNat h 4 2 ≠ 1 ∨ memNat h 6 2 ≠ 256 ∨ memNat h 0xFC 4 ≠ crcSparse (memSlice h 0 0xFC) 0xFC
      ∨ zeroAt h 0x34 4 = false ∨ zeroAt h 0x44 4 = false ∨ zeroAt h 0x5C 160 = false ∨ 1 < enc ∨ 1 < memNat h 0x31 1 then
    .error (errFormat, 0x0702)
  else if slotMatches i slot = false ∨ (enc = 1) ≠ (i.keySlot.isSome = true) then .error (errAuth, 0x0623)
  else if memNat h 0x10 4 ≠ i.hdrCrc then .error (errMismatch, 0x0704)
  else if len < 256 + bodyLen then .error (errTruncated, 0x0711)
  else if memNat h 0x58 4 ≠ sum then .error (errTruncated, 0x0712)
  else match plain with
    | none => .error (errAuth, 0x0721)
    | some m =>
      let hbmWant := i.hbmBytes 1
      if bodyLen < n * parcelFixed + 16 + 32 * memNat m (n * parcelFixed) 4 ∨ 128 < memNat m (n * parcelFixed + 4) 2 then
        .error (errFormat, 0x0703)
      else
      let items := bodyItems m n
      if bodyLen ≠ items.hbmAt + items.hbm ∨ (memNat h 0x31 1 = 0 ∧ items.hbm ≠ 0) then .error (errFormat, 0x0703)
      else if memNat h 0x31 1 = 1 ∧ items.hbm ≠ hbmWant then .error (errResource, 0x0705)
      else if (items.cargo.any fun c => (s.physOf i 18 i.quadBind c.vquad).isNone)
          || (items.frames.any fun f => (s.physOf i 4 i.bridgeBind f.1).isNone) then .error (errMismatch, 0x0706)
      else .ok (m, items, memWord h 0x18)

/-- The checks of SURVEY_RESTORE before those of R238: ownership, locks, and an image; parcels that are not LOADED answer ERR_STATE (R209,
R396). The image, or the failure. -/
def restoreFront (p : Packet) (s : State) : Except Nat (Nat × Image) :=
  let ps := maskList 32 (memNat (bufMem s p) 0 4)
  match s.ownCheck (callerFn p) ps with
  | some e => .error e
  | none =>
    if s.parcelLocked p.session ps then .error errLock
    else if ps.any s.inWork then .error errState
    else match s.imageOfMask ps with
      | none => .error (if ps.all s.live then errParam else errState)
      | some x => .ok x

/-- SURVEY_RESTORE (R237 to R239). -/
def surveyRestoreOwn (p : Packet) (s : State) : Ans :=
  let d := bufMem s p
  match restoreFront p s with
  | .error e => fail s e
  | .ok (g, i) =>
    match restoreCheck s g i (memNat d 4 1) (memNat d 8 8) (memNat d 16 8) with
    | .error (st, dt) => fail s st dt
    | .ok (m, items, cycle) =>
      awaken s (if items.hbm = 0 then [] else i.allots.map fun a => .stack a.1) fun s =>
      let v := s.fresh 2
      match rereadFail v.1 i.keySlot.isSome 0x0713 0x0721 with
      | some (st, dt) => .reply st dt 0 (restoreSpoil v.2 g i items)
      | none => done (restoreWrite v.2 g i m items cycle) cycle.toNat

def surveyRestoreBad (p : Packet) (s : State) : Option Nat :=
  parCheck p [] (decide (p.len = 32) && zeroAt (bufMem s p) 5 3 && zeroAt (bufMem s p) 24 8)

def surveyRestoreZero (p : Packet) (s : State) : Bool :=
  decide (memNat (bufMem s p) 16 8 = 0) || decide (memNat (bufMem s p) 0 4 = 0)

def execSurveyRestore (p : Packet) (s : State) : Host.Outcome State Fault Refusal :=
  let t := s.resumed 0x0401 p
  .next (command 0x0401 p t (surveyRestoreBad p t) (surveyRestoreZero p t) (surveyRestoreOwn p t))

end Sys2Proof.Machine
end

