-- ==== Sys2Proof/Machine/Run.lean ====
section
/-! DEFINITION. A run group at work: one step opportunity (R37, R118), the cycle boundary (R28), the swap of table pages (R112),
the mirror compare (R249), and timed events (R281). -/
namespace Sys2Proof.Machine

-- locks that a halt orphans (R393)

/-- The lockable units that a lock covers: a parcel set covers the banks of its parcels. -/
def Lock.units (l : Lock) : List Nat :=
  match l.kind with
  | 0 => maskList 32 l.mask ++ (clustersOf (maskList 32 l.mask)).map bankUnit
  | 1 => [bankUnit (clOf l.unit l.cluster)]
  | 2 => [quadUnit l.unit]
  | 3 => [engineUnit l.unit]
  | _ => [keyUnit l.unit]

/-- Raise the generations of units that a release frees; orphaned ones are marked, with the generation that the lock held (R393, R394). -/
def State.bumpUnits (s : State) (us : List Nat) (orphan : Bool) : State :=
  forEach us (fun u t =>
    let v := t.lockUnit u
    t.setLockUnit u { gen := v.gen + 1, orphan := v.orphan || orphan, held := if orphan then v.gen else v.held }) s

/-- Release the locks that satisfy `f`. -/
def State.freeLocks (s : State) (orphan : Bool) (f : Lock → Bool) : State :=
  let gone := s.hub.locks.filter f
  let s := s.setHub { s.hub with locks := s.hub.locks.filter fun l => !f l }
  gone.foldl (fun t l => t.bumpUnits l.units orphan) s

/-- A lock covers a unit that a run group uses. -/
def State.lockUses (s : State) (g : Nat) (l : Lock) : Bool :=
  let r := s.group g
  match l.kind with
  | 0 => r.parcels.any fun p => bitOf l.mask p
  | 1 => r.parcels.contains l.unit
  | 2 => (s.cargoQuads g).contains l.unit
    || (List.range 8).any fun b => decide ((s.bridge b).rg = some g) && decide ((s.bridge b).pmd ≠ 0) && decide ((s.bridge b).quad = l.unit)
  | 3 => decide ((s.engine l.unit).rg = some g)
  | _ => r.images.any fun i => decide (i.keySlot = some l.unit)

-- pages (R112)

/-- Swap the send and quad pages of a run group at cycle `n` (R112, R115): entry 0 comes from the new pages (R37, R98), and the copy into
the new shadow pages begins. `left`: another TABLE_COMMIT of the group still waits. -/
def State.swapPages (s : State) (g : Nat) (n : Word) (left : Bool) : State :=
  let cs := (s.group g).clusters
  let qs := s.cargoQuads g
  let s := { s with sendAct := swapParts 0 cs 4096 s.sendAct s.sendShd, sendShd := swapParts 0 cs 4096 s.sendShd s.sendAct
                    quadAct := swapParts 0 qs 32768 s.quadAct s.quadShd, quadShd := swapParts 0 qs 32768 s.quadShd s.quadAct
                    ecc := swapMarks 4 11 qs (swapMarks 3 10 cs s.ecc) }
  let f := s.fetchStores g 0 n fun st => decide (st = 3) || decide (st = 4)
  let s := f.1.raiseAll f.2
  forEach (s.group g).parcels (fun p t => t.updParcel p fun v => { v with commitPend := left, copyBusy := true, lastCommit := n.toNat % 2 ^ 48 }) s

/-- The swap of the TABLE_COMMITs of a run group that are due at cycle `n`, with their replies (R112, R115). -/
def State.commitDue (s : State) (g : Nat) (n : Word) (due : Option Word → Bool) : State :=
  let left := s.anyParked fun w => match w with | .commit h c => decide (h = g) && !due c | _ => false
  (s.swapPages g n left).finishParked fun _ w => match w with
    | .commit h c => if h = g ∧ due c then some (0, 0, n.toNat) else none
    | _ => none

/-- A TABLE_COMMIT of the run group waits that is due. -/
def State.commitWaits (s : State) (g : Nat) (due : Option Word → Bool) : Bool :=
  s.anyParked fun w => match w with | .commit h c => decide (h = g) && due c | _ => false

/-- A copy is in progress on a parcel of the group. -/
def State.copying (s : State) (g : Nat) : Bool := (s.group g).parcels.any fun p => (s.parcel p).copyBusy

/-- Item 2 of R28: the TABLE_COMMITs that are due at the end of cycle `n` make one swap and reply (R112, R401), and so does one that
waited for a copy before the run started. -/
def State.boundaryCommits (s : State) (g : Nat) (n : Word) : State :=
  let due (c : Option Word) : Bool := match c with | some c => decide (c.toNat ≤ n.toNat) | none => true
  if s.copying g || !s.commitWaits g due then s else s.commitDue g n due

/-- TABLE_COPY_DONE: the shadow pages equal the active ones again, and a commit that waited for that on parcels that do not run, or
whose boundary passed while they ran, swaps at once (R112). -/
def tableCopyDone (s : State) (g : Nat) : State :=
  let r := s.group g
  if s.copying g = false then s else
  let s := s.copyPages r.clusters (s.cargoQuads g)
  let s := forEach r.parcels (fun p t => t.updParcel p fun v => { v with copyBusy := false }) s
  let due (c : Option Word) : Bool := match c with | some c => decide (c.toNat < r.cycle.toNat) | none => true
  if r.state ≠ .running ∧ s.commitWaits g due then s.commitDue g r.cycle due else s

def execTableCopyDone (g : Nat) (s : State) : Host.Outcome State Fault Refusal :=
  groupRow g s fun t => (tableCopyDone t g).settle

-- the boundary (R28)

/-- Bytes of a state update in the mirror signature (R248, orders 6 and 7). -/
def stateSig (bp j : Nat) (v : V4) : List Byte := leBytes 3 (j + fieldAt 10 (bp % 64) + fieldAt 16 (v4code v))

/-- Commit one staged value (R43), through the checks of both copies (R52, R53). DESIGN CHOICE 100: a staged copy in uncorrectable error
commits X, with SRAM_UE, and stays in error. -/
def commitEntry (step : Nat) (cycle : Word) (a : State × List FaultEv) (key : Nat) : State × List FaultEv :=
  let s := a.1
  let bp := key / 1024
  let j := key % 1024
  let e := s.eccAt 8 (bp * 128 + j / 8)
  let v := eccVal e (s.stgAt bp j)
  let f := if e = 0 then [] else
    [bpFault (if e = 1 then 0x2001 else 0x2002) 5 bp step cycle (storeAddr 2 (bpCluster bp) bp j)]
  let s := if e = 1 then s.eccClean 8 (bp * 128 + j / 8) else s
  let w := eccWrite s 2 bp j step cycle
  ((w.1.setCur bp j v).sign (bpCluster bp) (stateSig bp j v), a.2 ++ f ++ w.2)

/-- Item 1 of R28, and with it the return of the ports to their fixed state (R80) and the clearing of written flags (R99). -/
def State.commitState (s : State) (g : Nat) (step : Nat) (cycle : Word) : State × List FaultEv :=
  let r := s.group g
  let keys := (s.pend.filter fun e => r.parcels.contains (bpParcel (e.1 / 1024))).map (·.1)
  let c := keys.foldl (commitEntry step cycle) (s, [])
  let s := { c.1 with pend := mdrop (fun k => r.parcels.contains (bpParcel (k / 1024))) c.1.pend }
  let slots := s.slots.map fun e =>
    if r.parcels.contains (clParcel (e.1 / 256)) then (e.1, { e.2 with written := false }) else e
  let s := { s with slots := slots.filter fun e => decide (e.2 ≠ RSlot.init) }
  let s := forEach r.clusters (fun k t => t.updCluster k fun v => { v with port := Port.init, landings := [] }) s
  (s, c.2)

/-- Close the mirror signatures of a cycle (R248, R249). -/
def State.closeSigs (s : State) (g : Nat) : State :=
  if s.boot.pairMode ≠ 2 then s
  else
    let s := forEach (s.group g).clusters (fun c t => t.updCluster c fun v =>
      { v with sigLast := v.sig ^^^ 0xFFFFFFFF, sig := 0xFFFFFFFF }) s
    s.updGroup g fun r => { r with sigDue := !r.sigHold, sigHold := false }

/-- Item 3 of R28: the engines close the sample, arms take effect, and what they found becomes a stop (R264, R271, R401). After a
PAIR_DIVERGE_CLEAR the compare of this cycle was off; the next one compares again (R250, R252). -/
def State.boundaryTrace (s : State) (g : Nat) (n : Word) : State :=
  let r := s.group g
  let t := s.closeTrace g n r.stamp
  let s := (t.1.endTraceCycle g n).updGroup g fun v => { v with sigHold := false }
  let s := if t.2.1 then s.stopDue g 3 n else s
  let s := if t.2.2.1 then s.stopDue g 1 n else s
  let s := if t.2.2.2 then s.updGroup g fun v => { v with pulseDue := true } else s
  if r.armWaits then s.updGroup g fun v => { v with armWaits := false }
  else match r.traceArm with
    | some at_ => if dueAt (s.tOpen (s.nextOpp g)) at_ then s.takeArm g (n + 1) else s
    | none => s.takeArm g (n + 1)

/-- Precedence of stop causes (R488). -/
def causeRank (c : Nat) : Nat :=
  match c with | 5 => 0 | 3 => 1 | 1 => 2 | 2 => 3 | _ => 4

/-- The stop that takes effect at the end of cycle `n`, if any: the lowest stop cycle, then the precedence of R488. -/
def RunGroup.dueStop (r : RunGroup) (n : Word) : Option StopReq :=
  match sortBy (fun q : StopReq => q.cycle.toNat * 8 + causeRank q.cause) (r.stops.filter fun q => decide (q.cycle.toNat ≤ n.toNat)) with
  | [] => none
  | q :: _ => some q

/-- End everything that a stop or halt ends (R131, R135, R222): pauses, the compare of the last cycle (R250), and the RUN_STOP commands
that waited for it. -/
def State.endRun (s : State) (g : Nat) (n : Word) : State :=
  let s := s.updGroup g fun v =>
    { v with pauses := [], startTime := none, stops := [], halting := none, sigDue := false, sigHold := false }
  let s := s.finishParked fun _ w => match w with
    | .runStop h _ => if h = g then some (0, 0, n.toNat) else none
    | .pauseRaise h _ | .pauseRelease h => if h = g then some (errCancelled, 0, 0) else none
    | _ => none
  if (s.group g).surrender then
    let owners := ((s.group g).parcels.filterMap s.ownerOf).eraseDups
    forEach owners (fun f t => t.endSurrender f) (s.unloadGroup g)
  else s

/-- A fault halt (R134): a survey that was to capture here is abandoned (R232), and locks on what the group uses are orphaned. -/
def State.haltGroup (s : State) (g code : Nat) (n : Word) : State :=
  let s := s.endWaits errDevice code fun w => match w with | .survey h _ => decide (h = g) | _ => false
  let s := (s.setSv (s.group g).parcels .idle).updGroup g fun v => { v with state := .faultHalted, stopCause := 5, surveys := [] }
  (s.freeLocks true (s.lockUses g)).endRun g n

/-- The design state of both sheets, HBM and the lanes as a reset leaves them. -/
def State.wipeSheets (s : State) : State :=
  { s with istore := [], values := [], cur := [], stg := [], pend := [], result := [], slots := [], ptable := [], busyMap := []
           sendAct := [], sendShd := [], quadAct := [], quadShd := [], fetchSnd := [], fetchQd := [], ecc := [], fences := []
           arrSlots := [], arrDrops := [], clusters := [], bank := [], hbm := [], lanes := [] }

/-- THERM_TRIP and RAIL_FAULT hold the sheets, HBM and lanes in reset (R423): what still runs or waits to run halts at once, and its
design state is lost. -/
def State.holdSheets (s : State) (code : Nat) : State :=
  let s := s.setBoot { s.boot with sheetsHeld := true, tripDue := false }
  let s := forEach (s.runGroups.filter fun g => (s.group g).busy) (fun g t =>
    ((t.endWaits errDevice code fun w => decide (w = .runStart g)).haltGroup g code (t.group g).cycle)) s
  let s := forEach s.runGroups (fun g t => t.updGroup g fun r => { r with flights := [], moved := false }) s
  let s := forEach (List.range 4) (fun k t => t.updStack k fun v => { v with trained := false, s3Trained := false }) s
  let s := forEach (List.range 36) (fun q t => (t.endEpisode (36 + q) 0x3002).endEpisode (36 + q) 0x3003) s
  let s := forEach (List.range 8) (fun b t => if (t.bridge b).pmd = 0 then t else (t.emptyBridge b).relink b) s
  (s.lowerPins (List.range 32)).wipeSheets

/-- After THERM_TRIP the reset is applied once every run group has halted (R423). -/
def State.tripHold (s : State) : State :=
  if s.boot.tripDue && !s.runGroups.any fun g => decide ((s.group g).state = .running) then s.holdSheets 0x6002 else s

/-- Item 5 of R28: a halt, or a stop that is due. -/
def State.boundaryStop (s : State) (g : Nat) (n : Word) : State :=
  let r := s.group g
  match r.halting with
  | some code => s.haltGroup g code n
  | none =>
    if r.surrender then (s.updGroup g fun v => { v with state := .stopped }).endRun g n
    else match r.dueStop n with
      | none => s
      | some q =>
        (s.updGroup g fun v =>
          { v with state := .stopped, stopCause := q.cause, stopLate := decide (q.cycle.toNat < n.toNat) }).endRun g n

/-- Whether a pending survey captures at the end of cycle `n` (R230). -/
def surveyDue (q : SurveyReq) (n tNext : Word) : Bool :=
  if bitOf q.flags 1 then dueAt tNext q.atTime else decide (q.atCycle.toNat ≤ n.toNat)

/-- Item 6 of R28. -/
def State.boundarySurvey (s : State) (g : Nat) (n : Word) : State :=
  let r := s.group g
  let t := s.tOpen (s.nextOpp g)
  (r.surveys.filter fun q => !q.taking && surveyDue q n t).foldl (fun u q => u.beginCapture g q t) s

/-- The cycle boundary of a run group whose step N − 1 has executed (R28). The commands whose events fall at it reply in the order of its items
(R401). -/
def boundary (s : State) (g : Nat) : State :=
  let r := s.group g
  if r.state ≠ .running ∨ r.step ≠ r.n ∨ r.n = 0 then s else
  let n := r.cycle
  let c := s.commitState g (r.n - 1) n
  let s := (c.1.closeSigs g).raiseAll c.2
  let s := (s.boundaryCommits g n).settle
  let s := (s.boundaryTrace g n).settle
  let s := s.updGroup g fun v => { v with cycle := n + 1, step := 0 }
  ((s.boundaryStop g n).settle.boundarySurvey g n).tripHold

def execCycleBoundary (g : Nat) (s : State) : Host.Outcome State Fault Refusal :=
  groupRow g s fun t => (boundary t g).settle

-- one step (R37, R118)

/-- Close the heavy-unit window of a parcel (R145): its count, and POWER_BUDGET where it exceeds the declared class. -/
def State.closeWindow (s : State) (g p step : Nat) : State × List FaultEv :=
  let r := s.group g
  let v := s.parcel p
  let limit := heavyLimit ((r.imageOf p).map (·.cls) |>.getD 4)
  let excess := decide (limit < v.heavy)
  let s := s.setParcel p
    { v with heavy := 0, peak := max v.peak v.heavy, excess := if excess then satAdd 16 v.excess 1 else v.excess
             msWindow := max v.msWindow v.heavy }
  (s, if excess then
    [{ code := 0x1005, unit := p, access := 0, master := 0, cycle := r.cycle
       address := schedAddr (clOf p 0) 0 step 5 (step / 64) }] else [])

/-- POWER_WINDOW_END: the window of one parcel ends (R145). Windows are aligned to the cycle (R143): between two of their ends it does
nothing. -/
def execPowerWindowEnd (parcel : Nat) (s : State) : Host.Outcome State Fault Refusal :=
  if parcel < 32 then
    match (s.parcel parcel).rg with
    | none => .next s
    | some g =>
      if (s.group g).step = 0 ∨ (s.group g).step % 64 ≠ 0 then .next s
      else let w := s.closeWindow g parcel ((s.group g).step - 1); .next (w.1.raiseAll w.2)
  else .fault .noSuchUnit

/-- The instruction of a BP at a step, as its fetch left it: none where it is uncorrectable (R53). -/
def State.insAt (s : State) (g bp step : Nat) : Option InsWord :=
  if (s.group g).badWord 0 (insWord bp step) then none else some (insOf (mget 0 (bp * 4096 + step) s.istore))

/-- A reserved opcode has raised its fault at its fetch (R74). -/
def BpOut.fetched (o : BpOut) : BpOut := if o.illegal = some 4 then { o with illegal := none } else o

/-- The BPs of a group of four that issue to its X-evaluator (R47, R48). -/
def evaluators (ins : Nat → Option InsWord) (grp : Nat) : List Nat :=
  ((List.range 4).map (4 * grp + ·)).filter fun b => match ins b with | some i => i.exactIssue | none => false

/-- What the 64 BPs of a cluster yield at a step, from the state `pre` before it. An uncorrectable instruction yields X (R53). -/
def clusterOuts (pre : State) (g c step : Nat) (cycle : Word) : List (Nat × BpOut) × List FaultEv :=
  let ins (b : Nat) : Option InsWord := pre.insAt g (c * 64 + b) step
  let outs := (List.range 64).map fun b =>
    let bp := c * 64 + b
    match ins b with
    | none => (bp, BpOut.plain .x [])
    | some i =>
      let exact := decide ((evaluators ins (b / 4)).head? = some b)
      (bp, (bpEval pre bp step cycle exact i).fetched)
  let clash := (List.range 16).filterMap fun grp =>
    match evaluators ins grp with
    | _ :: loser :: _ => some (bpFault 0x1001 5 (c * 64 + loser) step cycle 0)
    | _ => none
  (outs, clash)

/-- The BPs of a cluster execute: outputs formed from `pre`, written to `s` in ascending order. -/
def runCluster (pre : State) (g step : Nat) (cycle : Word) (s : State) (c : Nat) : State × List FaultEv :=
  let o := clusterOuts pre g c step cycle
  let w := foldFaults (fun t x => bpApply t g x.1 step cycle x.2) o.1 s
  (w.1, o.2 ++ w.2)

/-- Signature bytes of the updating LATCHes of a cluster (R248, order 6). -/
def latchSig (outs : List (Nat × BpOut)) : List Byte :=
  (outs.map fun x => match x.2.cur with | some (j, v) => stateSig x.1 j v | none => []).flatten

/-- The arbiters that have a line up take part in the opportunity of an executed step (R174, R178). -/
def State.arbitrateStep (s : State) (c : Nat) : State :=
  let v := s.cluster c
  if (s.lines c).any id || v.arb.seen.any id then s.syncArb c s.opp else s

/-- Edges that waited while their group did not run belong to the step that it executes next (R267): the first of a cycle that follows
a restore to another one. -/
def State.retagEdges (s : State) (g : Nat) (cycle : Word) : State :=
  forEach [0, 1] (fun e t =>
    if (t.engine e).rg = some g ∧ (t.engine e).edges.any (fun x => decide (x.cycle ≠ cycle)) then
      t.updEngine e fun v => { v with edges := v.edges.map fun x =>
        if x.cycle = cycle then x else { x with cycle := cycle, step := 0, frac := 0, held := true } }
    else t) s

/-- Step 0 of a cycle: its stamp, a sequencer pulse on each pin that is driven (R298), and the reply of the RUN_AT that started the run
(R28, R130, R271). -/
def State.openCycle (s : State) (g o : Nat) : State :=
  let r := s.group g
  let stamp := s.tOpen o
  let s := (s.setGroup g { r with stamp := stamp, pulseDue := false }).retagEdges g r.cycle
  let s := if r.pulseDue then
      forEach ((List.range 4).filter fun k => (r.parcels.any fun p => bitOf (s.trigOutPin k).parcels p) && s.pinDriven (s.trigOutPin k)) (fun k t =>
        t.setPin k { t.trigOutPin k with seqHigh := true, seqEnd := stamp + pinTime (t.trigOutPin k).seqWidth }) s
    else s
  s.finishParked fun _ w => if w = .runStart g then some (0, 0, stamp.toNat + resAt 24 r.cycle.toNat) else none

/-- The other run groups that execute a step in the current opportunity and have not had their row yet, where a flight passes from
one run group into another: a drop falls before the RD stage of its opportunity, whichever row comes first (R486; DEDUCED 88). -/
def State.joiners (s : State) (g : Nat) : List Nat :=
  let hs := s.runGroups.filter fun h =>
    let r := s.group h
    decide (h ≠ g) && !r.moved && decide (r.state = .running) && decide (r.step < r.n) && decide (r.flights ≠ [])
      && decide (s.nextOpp h = s.opp) && !s.gatedNext h
  if (g :: hs).any s.leaves then hs else []

/-- The run groups that a flight due now falls into from another one, and whose boundary is due (R486). -/
def State.boundariesFirst (s : State) (gs : List Nat) : List Nat :=
  ((gs.flatMap fun g => ((s.group g).flights.filter fun f => decide (f.age + 1 = f.latency)).filterMap fun f =>
    match (s.parcel (clParcel (f.at f.dist))).rg with
    | some h => if !gs.contains h && decide ((s.group h).state = .running) && decide ((s.group h).step = (s.group h).n) then some h
      else none
    | none => none)).eraseDups

/-- Execute the next step of a run group in opportunity `o`. A run group whose boundary is due passes it before a drop of another one falls
into it, so that the drop's written flag holds in the step that it executes next (R486). -/
def runStep (s : State) (g o : Nat) : State :=
  let s := if (s.group g).step = 0 then s.openCycle g o else s
  let s := forEach (s.boundariesFirst (g :: s.joiners g)) (fun h t => boundary t h) s
  let r := s.group g
  let p := r.step
  let n := r.cycle
  let cs := r.clusters
  let qs := s.cargoQuads g
  let slots := List.range 8
  let hs := s.joiners g
  let m := s.moveAll (if r.moved then hs else g :: hs)
  let m : State × List FaultEv := (forEach (g :: hs) (fun h t => t.updGroup h fun v => { v with moved := decide (h ≠ g) }) m.1, m.2)
  let k := foldFaults (fun t c => checkBanks t c n) cs m.1
  let s := forEach cs (fun c t => landCluster t c p n) k.1
  let a := s.arriveAll (hs ++ [g])
  let d := foldFaults (fun t x => deliverCargo t g x.1 x.2) (qs.flatMap fun q => slots.map fun k => (q, k)) a.1
  let pre := d.1
  let ports := cs.foldl (fun (acc : State × List FaultEv × List (Nat × List Byte)) c =>
    let w := portStep acc.1 (pre.cluster c).port c p n (mget 0 (c * 4096 + p) acc.1.ptable)
    (w.s, acc.2.1 ++ w.f, acc.2.2 ++ [(c, w.sig)])) (pre, [], [])
  let b := foldFaults (runCluster pre g p n) cs ports.1
  let s := forEach cs (shipSends g p) b.1
  let s := qs.foldl (fun t q => slots.foldl (fun u k => shipCargo u g q k p) t) s
  let s := ports.2.2.foldl (fun t w => t.sign w.1 w.2) s
  let s := if s.boot.pairMode = 2 then
      cs.foldl (fun t c => t.sign c (latchSig (clusterOuts pre g c p n).1)) s
    else s
  let s := closeFrame s g p
  let w := if p % 64 = 63 then foldFaults (fun t q => t.closeWindow g q p) r.parcels s else (s, [])
  let s := w.1.raiseAll (m.2 ++ k.2 ++ a.2 ++ d.2 ++ ports.2.1 ++ b.2 ++ w.2)
  let s := if p % 2 = 0 then cs.foldl (fun t c =>
      if (t.cluster c).drained then t.updCluster c fun v => { v with drained := false } else t) s else s
  let s := s.retireCargo g
  let s := { s with fetchQd := mdrop (fun k => qs.contains (k / 32768) && decide (k % 32768 / 8 = p)) s.fetchQd }
  let s := s.updGroup g fun v => { v with step := p + 1 }
  cs.foldl State.arbitrateStep (s.fetchNext g (if p + 1 = r.n then 0 else p + 1) n)

/-- One opportunity of a running run group (R118): a boundary that is due, then the next step, or a gated opportunity. DESIGN CHOICE 93: an
asynchronous source is active in a gated opportunity where it stands in the vector that gates it; source 4 also where the level in
force gates it. -/
def stepExecute (s : State) (g : Nat) : State :=
  let s := boundary s g
  let r := s.group g
  if r.state ≠ .running ∨ s.boot.sheetsHeld then s else
  let o := s.nextOpp g
  let arr := s.arrivalLate g
  let held := s.heldVec g
  let gated := s.gatedNext g
  let s := if s.opp / 4 < o / 4 then datumEdge s else s
  let s := s.moveOpp o
  let s := s.updGroup g fun v => { v with lastOpp := some o, ranLast := !gated }
  if gated then
    let vec := (arr + held / 8 * 8) ||| (if levelGates s.thermal.applied o then 16 else 0)
    let s := s.updGroup g fun v => { v with holdCnt := countHolds (if v.capturing then vec ||| 64 else vec) v.holdCnt }
    if r.halting = some 0 ∧ (bitOf arr 1 || bitOf held 3) then s.haltGroup g 0 r.cycle else s
  else runStep s g o

def execStepExecute (g : Nat) (s : State) : Host.Outcome State Fault Refusal :=
  groupRow g s fun t => (stepExecute t g).settle

-- mirror compare (R249)

/-- MIRROR_COMPARE: the signatures of the last cycle are compared, and the first divergent cycle is latched (R122, R249). -/
def mirrorCompare (s : State) (g : Nat) : State :=
  let r := s.group g
  if r.sigDue = false then s else
  let west := r.clusters.filter fun c => decide (c < 256)
  let bad := (sortBy id west).filter fun c => decide ((s.cluster c).sigLast ≠ (s.cluster (c + 256)).sigLast)
  let s := s.updGroup g fun v => { v with sigDue := false }
  match bad with
  | [] => s
  | c :: _ =>
    let s := s.updGroup g fun v => { v with divCount := satAdd 16 v.divCount 1, divHeld := v.divHeld || decide (r.response = 0) }
    if r.diverged then s else
    let s := s.updGroup g fun v =>
      { v with diverged := true, firstCl := c % 256, divCycle := r.cycle - 1, westSig := (s.cluster c).sigLast
               eastSig := (s.cluster (c + 256)).sigLast, divN := bad.length }
    s.beginEpisode { code := 0x1010, unit := clParcel c, access := 0, master := 0, address := schedAddr c 0 0 0 0
                     cycle := r.cycle - 1 }

def execMirrorCompare (g : Nat) (s : State) : Host.Outcome State Fault Refusal := groupRow g s fun t => mirrorCompare t g

-- timed events (R129, R131, R281)

/-- RUN_AT's time is due: an ARMED group runs, and its step 0 executes in the first opportunity that is not gated. -/
def startDue (s : State) (g : Nat) : State :=
  let r := s.group g
  match r.startTime with
  | some t =>
    if r.state = .armed ∧ dueAt (s.tOpen s.opp) t then
      s.setGroup g { r with state := .running, step := 0, startTime := none, lastOpp := none }
    else s
  | none => s

/-- Results of a pause: the cycle, and the index of the next step (R131, R396). -/
def RunGroup.position (r : RunGroup) : Nat :=
  if r.step = r.n then r.cycle.toNat + 1 else r.cycle.toNat + resAt 24 r.step

/-- The time at which a pause ends, none where it lasts until a RESUME_AT. -/
def Pause.ends (q : Pause) : Option Word := if q.again.isSome then q.again else q.resumeTime

/-- A pause that is in force and due to end at a datum time. -/
def Pause.excess (q : Pause) (now : Word) : Bool := q.raised && (q.ends.map (dueAt now)).getD false

/-- Every pause that is due at a datum time begins, and its PAUSE_AT replies (R131, R281). -/
def pauseDue (s : State) (g : Nat) : State :=
  let r := s.group g
  let now := s.tOpen s.opp
  let s := s.updGroup g fun v => { v with pauses := v.pauses.map fun q => { q with raised := q.raised || dueAt now q.pauseTime } }
  s.finishParked fun _ w => match w with
    | .pauseRaise h t => if h = g ∧ dueAt now t then some (0, 0, r.position) else none
    | _ => none

/-- Every pause that is due to end at a datum time ends; a RESUME_AT replies once source 7 is released (R131). The release waits for
mirrored writes (R251). -/
def resumeDue (s : State) (g : Nat) : State :=
  let now := s.tOpen s.opp
  if s.mirrorWriting g then s else
  let s := s.updGroup g fun v => { v with pauses := v.pauses.filter fun q => !q.excess now }
  let r := s.group g
  if r.paused then s
  else s.finishParked fun _ w => if w = .pauseRelease g then some (0, 0, r.cycle.toNat) else none

/-- A pause of a run group whose end has waited for a mirrored write ends with it (R251). -/
def State.pauseEnds (s : State) (g : Nat) : State :=
  if s.boot.pairMode = 2 ∧ ((s.group g).pauses.any fun q => q.excess (s.tOpen s.opp)) then resumeDue s g else s

/-- The same for the run group of a bank at which a transfer has ended. -/
def State.pauseAfter (s : State) (c : Nat) : State :=
  match s.rgOfCluster c with
  | some g => s.pauseEnds g
  | none => s

def execDynamicSlotGrant (cl : Nat) (slot : Slot) (s : State) : Host.Outcome State Fault Refusal :=
  if cl < 512 then .next ((dynamicSlot s cl slot).pauseAfter cl).settle else .fault .noSuchUnit

def execEccWriteback (cl : Nat) (s : State) : Host.Outcome State Fault Refusal :=
  if cl < 512 then .next (eccWriteback s cl).settle else .fault .noSuchUnit

def execBackdoorGrantTimeout (cl master : Nat) (s : State) : Host.Outcome State Fault Refusal :=
  if cl < 512 ∧ master < 4 then .next ((grantTimeout s cl master).pauseAfter cl).settle else .fault .noSuchUnit

/-- TIMED_EVENT_DUE. A timed arm and a timed survey act at the first boundary at or after their time, which the boundary itself
decides (R281): here a timed arm of a group that has stopped running takes effect, since it waits for no boundary (R263), and a
timed survey of a group that does not run is captured. -/
def timedDue (s : State) (e : TimedEvent) : State :=
  match e with
  | .runStart g => startDue s g
  | .pauseBegin g => pauseDue s g
  | .pauseEnd g => resumeDue s g
  | .traceArm g =>
    match (s.group g).traceArm with
    | some t => if (s.group g).state ≠ .running ∧ dueAt (s.tOpen s.opp) t then s.takeArm g (s.group g).cycle else s
    | none => s
  | .surveyAt g =>
    if (s.group g).busy then s
    else
      let t := s.tOpen s.opp
      ((s.group g).surveys.filter fun q => !q.taking && bitOf q.flags 1 && dueAt t q.atTime).foldl (fun u q => u.beginCapture g q t) s

/-- The run group a timed event belongs to. -/
def timedGroup (e : TimedEvent) : Nat :=
  match e with
  | .runStart g => g
  | .pauseBegin g => g
  | .pauseEnd g => g
  | .traceArm g => g
  | .surveyAt g => g

def execTimedEventDue (e : TimedEvent) (s : State) : Host.Outcome State Fault Refusal :=
  groupRow (timedGroup e) s fun t => (timedDue t e).settle

end Sys2Proof.Machine
end

