-- ==== Sys2Proof/Machine/RunCmd.lean ====
section
/-! DEFINITION. Run control and table commands: TABLE_COMMIT, TABLE_POKE_ACTIVE (R112 to R114), RUN_AT, RUN_STOP, PAUSE_AT and
RESUME_AT (R129 to R135, R400). -/
namespace Sys2Proof.Machine

/-- The run group that a mask names exactly, after the mask, ownership and lock checks of R130, in that order. A mask with a failed
parcel answers ERR_NO_RESOURCE (R3, R218). `ok` is a check of parameters that stands beside that of the mask. The failure, or the
group. -/
def runGroupOf (p : Packet) (s : State) (ok : Bool := true) : Except (Nat × Nat) Nat :=
  let ps := maskList 32 (par p 20 4)
  match s.groupOfMask ps with
  | none => .error (if ps.any s.unusable then errResource else errParam, 0)
  | some g =>
    if ok = false then .error (errParam, 0) else
    match s.ownCheck (callerFn p) ps with
    | some e => .error (e, 0)
    | none => if s.parcelLocked p.session (s.group g).parcels then .error (errLock, 0) else .ok g

-- table pages

/-- TABLE_COMMIT (R112, R113). A run group that does not run swaps at once, or when the copy in progress completes. DESIGN CHOICE 100: once
step N − 1 of a cycle has executed, an at_cycle that names it has ended. -/
def tableCommitOwn (p : Packet) (s : State) : Ans :=
  match ownedGroup p s with
  | .error (st, d) => fail s st d
  | .ok g =>
    let r := s.group g
    let at_ := BitVec.ofNat 64 (par p 28 8)
    if at_ ≠ 0 ∧ at_.toNat < (if r.state = .running then r.earliest else r.cycle).toNat then fail s errState
    else
      let t := forEach r.parcels (fun i u => u.updParcel i fun v => { v with commitPend := true }) s
      if r.state = .running then .park (.commit g (some (if at_ = 0 then r.earliest else at_))) t
      else if s.copying g then .park (.commit g none) t
      else done (s.swapPages g r.cycle (s.commitWaits g fun _ => true)) r.cycle.toNat

def execTableCommit (p : Packet) (s : State) : Host.Outcome State Fault Refusal :=
  .next (command 0x0220 p s (parCheck p [(20, 4), (28, 8)] true) (decide (par p 20 4 = 0)) (tableCommitOwn p s))

/-- The bit position and width of a poked field in its entry (R94, R95, R103). -/
def pokeField (p : Packet) : Nat × Nat :=
  if par p 21 1 = 1 then (0, 40)
  else if par p 23 1 < 16 then (16 * par p 23 1, 16) else (256 + 32 * (par p 23 1 - 16), 32)

/-- Parameter ranges of R114. -/
def pokeOk (p : Packet) : Bool :=
  decide (par p 20 1 < 32) && decide (par p 21 1 < 2)
    && (if par p 21 1 = 0 then decide (par p 22 1 < 16) && decide (par p 23 1 < 24) && decide (par p 24 2 < 4096)
        else decide (par p 22 1 < 36) && decide (par p 23 1 = 0) && decide (par p 24 2 < 32768))
    && decide (par p 28 8 < 2 ^ (pokeField p).2)

/-- Whether a poke that lands in step `l` takes effect in the cycle in progress for the entry of step `e` (R114). -/
def pokeInTime (e l : Nat) : Bool := decide (l + 2 ≤ e)

/-- Keep the entry as fetched, where a poke of a running group comes too late for the entry of a step that this cycle has still
to execute. -/
def keepFetched (s : State) (table key e : Nat) (r : RunGroup) : State :=
  if r.n ≤ e ∨ e < r.step ∨ pokeInTime e r.step then s
  else if table = 0 then
    (if mget none key s.fetchSnd = none then { s with fetchSnd := mset none key (some (mget 0 key s.sendAct)) s.fetchSnd } else s)
  else if mget none key s.fetchQd = none then { s with fetchQd := mset none key (some (mget 0 key s.quadAct)) s.fetchQd }
  else s

/-- Write a field into the active and the shadow page, with new check bits over its 64-bit group or entry (R98); what was in uncorrectable
error stays so until a reload (R216). -/
def pokePages (s : State) (p : Packet) (table key : Nat) : State :=
  let f := pokeField p
  let put {w : Nat} (x : BitVec w) : BitVec w := BitVec.ofNat w (putBits x.toNat f.1 f.2 (par p 28 8))
  let s := if table = 0 then (s.eccMerge 3 (key * 8 + f.1 / 64)).eccMerge 10 (key * 8 + f.1 / 64) else (s.eccMerge 4 key).eccMerge 11 key
  if table = 0 then
    { s with sendAct := mset 0 key (put (mget 0 key s.sendAct)) s.sendAct, sendShd := mset 0 key (put (mget 0 key s.sendShd)) s.sendShd }
  else
    { s with quadAct := mset 0 key (put (mget 0 key s.quadAct)) s.quadAct, quadShd := mset 0 key (put (mget 0 key s.quadShd)) s.quadShd }

/-- TABLE_POKE_ACTIVE (R114). DEDUCED 58: in MIRRORED pairing it acts on the parcel or quad it names alone. DESIGN CHOICE 91: with the
boundary pending the reply gives step N − 1; on a run group that does not run it gives step 0 and byte 26 is 0. -/
def tablePokeOwn (p : Packet) (s : State) : Ans :=
  let i := par p 20 1
  let table := par p 21 1
  let unit := par p 22 1
  let fn := callerFn p
  match s.ownCheck fn [i] with
  | some e => fail s e
  | none =>
    if table = 1 ∧ ((s.quad unit).rg = none ∨ (s.quad unit).group ≠ fn) then fail s errOwner
    else if s.parcelLocked p.session [i] || (decide (table = 1) && s.quadLocked p.session unit) then fail s errLock
    else match (s.parcel i).rg with
      | none => fail s errState
      | some g0 =>
        if s.inWork i then fail s errState else
        let g := if table = 1 then (s.quad unit).rg.getD g0 else g0
        let r := s.group g
        let key := if table = 0 then clOf i unit * 4096 + par p 24 2 else unit * 32768 + par p 24 2
        let e := if table = 0 then par p 24 2 else par p 24 2 / 8
        if r.state = .running then
          let l := if r.step = r.n then r.n - 1 else r.step
          done (pokePages (keepFetched s table key e r) p table key)
            (r.cycle.toNat + resAt 24 l + resAt 26 (b2n (!pokeInTime e l)))
        else done (pokePages s p table key) r.cycle.toNat

def execTablePokeActive (p : Packet) (s : State) : Host.Outcome State Fault Refusal :=
  .next (command 0x0221 p s
    (parCheck p [(20, 1), (21, 1), (22, 1), (23, 1), (24, 2), (28, 8)] (pokeOk p)) false (tablePokeOwn p s))

-- runs

/-- 2,000 ns in du (R130, R276). -/
def runLead : Int := 2000 * 65536

/-- A target lies less than a lead ahead of the datum time. -/
def tooSoon (t now : Word) (lead : Int) : Bool := decide (signed64 t now < lead)

/-- Every cycle that a restore since the loads has set is the same (R252). -/
def RunGroup.restoresAgree (r : RunGroup) : Bool :=
  match r.restores with
  | [] => true
  | a :: l => l.all fun x => decide (x.2 = a.2)

/-- The run group can run: it is LOADED or STOPPED and not restore-bad; in DIFFERENTIAL pairing both revisions are loaded, their
restores agree, and a compare map has both its engines (R130, R238, R252). -/
def State.runnable (s : State) (g : Nat) : Bool :=
  let r := s.group g
  (decide (r.state = .loaded) || decide (r.state = .stopped)) && !r.parcels.any (fun p => (s.parcel p).restoreBad || s.inWork p)
    && (decide (s.boot.pairMode ≠ 3) || (decide (2 ≤ r.images.length) && r.restoresAgree
      && (!(r.images.any fun i => decide (i.sheet = 0) && !i.compare.isEmpty)
        || [0, 1].all fun e => decide ((s.engine e).rg = some g) && !(s.engine e).clusters.isEmpty)))

/-- RUN_AT (R130). -/
def runAtOwn (p : Packet) (s : State) : Ans :=
  match runGroupOf p s (inWindow (BitVec.ofNat 64 (par p 28 8)) s.datum.now) with
  | .error (st, d) => fail s st d
  | .ok g =>
    let r := s.group g
    let t := BitVec.ofNat 64 (par p 28 8)
    if s.runnable g = false then fail s errState
    else if s.cargoQuads g ≠ [] ∧ r.joined = false then fail s errState
    else if tooSoon t s.datum.now runLead then fail s errState
    else .park (.runStart g)
      (s.setGroup g { r with state := .armed, prior := r.state, startTime := some t, stops := [], seenStops := [], faultSent := false, halting := none })

def execRunAt (p : Packet) (s : State) : Host.Outcome State Fault Refusal :=
  .next (command 0x0300 p s
    (parCheck p [(20, 4), (28, 8)] true) (decide (par p 20 4 = 0)) (runAtOwn p s))

/-- A run group that is ARMED returns to the state it had; its RUN_AT ends with ERR_CANCELLED (R130). DEDUCED 18: so do pauses that
were asked for since, because that state has none. -/
def State.disarm (s : State) (g : Nat) : State :=
  let s := s.endWaits errCancelled 0 fun w => match w with
    | .runStart h | .pauseRaise h _ | .pauseRelease h => decide (h = g)
    | _ => false
  s.updGroup g fun v => { v with state := v.prior, startTime := none, pauses := [], halting := none }

/-- A RUN_STOP releases hold sources 7 and 8 (R250, R400). -/
def State.stopHolds (s : State) (g : Nat) : State := (s.releasePause g).updGroup g fun v => { v with divHeld := false }

/-- RUN_STOP (R132, R133, R135). DESIGN CHOICE 93: a run group that holds on source 1 is not released, so the stop waits for its boundary. -/
def runStopOwn (p : Packet) (s : State) : Ans :=
  match runGroupOf p s with
  | .error (st, d) => fail s st d
  | .ok g =>
    let r := s.group g
    let at_ := BitVec.ofNat 64 (par p 28 8)
    let lead : Word := if r.joined then BitVec.ofNat 64 r.stopLead else 0
    let first := r.earliest + lead
    if r.state = .armed then
      let f := s.fresh 64
      done (f.2.disarm g) f.1.toNat
    else if r.state ≠ .running then .reply okAlready 0 r.cycle.toNat s
    else if at_ ≠ 0 ∧ at_.toNat < first.toNat then fail s errState
    else
      let c := if at_ = 0 then first else at_
      .park (.runStop g c) ((s.stopDue g 2 (c - lead)).stopHolds g)

def execRunStop (p : Packet) (s : State) : Host.Outcome State Fault Refusal :=
  .next (command 0x0301 p s (parCheck p [(20, 4), (28, 8)] true) (decide (par p 20 4 = 0)) (runStopOwn p s))

/-- PAUSE_AT (R131). A pause whose times are both past gates nothing. -/
def pauseAtOwn (p : Packet) (s : State) : Ans :=
  match runGroupOf p s with
  | .error (st, d) => fail s st d
  | .ok g =>
    let r := s.group g
    let t := BitVec.ofNat 64 (par p 28 8)
    let e := BitVec.ofNat 64 (par p 36 8)
    let now := s.tOpen s.opp
    let q : Pause := { pauseTime := t, resumeTime := if e = 0 then none else some e, again := none, raised := dueAt now t }
    if r.busy = false ∨ r.paused then fail s errState
    else if q.excess now then done s r.position
    else
      let u := s.updGroup g fun v => { v with pauses := v.pauses ++ [q] }
      if q.raised then done u r.position else .park (.pauseRaise g t) u

def execPauseAt (p : Packet) (s : State) : Host.Outcome State Fault Refusal :=
  let t := BitVec.ofNat 64 (par p 28 8)
  let e := BitVec.ofNat 64 (par p 36 8)
  .next (command 0x0302 p s
    (parCheck p [(20, 4), (28, 8), (36, 8)] (inWindow t s.datum.now
      && (decide (e = 0) || (inWindow e s.datum.now && decide (0 < signed64 e t)))))
    (decide (par p 20 4 = 0)) (pauseAtOwn p s))

/-- RESUME_AT (R131): its time replaces that of the pause in force. -/
def resumeAtOwn (p : Packet) (s : State) : Ans :=
  match runGroupOf p s with
  | .error (st, d) => fail s st d
  | .ok g =>
    let r := s.group g
    let t := BitVec.ofNat 64 (par p 28 8)
    if r.paused = false then fail s errState
    else
      let u := s.updGroup g fun v => { v with pauses := v.pauses.map fun q => if q.raised then { q with again := some t } else q }
      let v := if dueAt (s.tOpen s.opp) t then resumeDue u g else u
      if (v.group g).paused then .park (.pauseRelease g) v else done v r.cycle.toNat

def execResumeAt (p : Packet) (s : State) : Host.Outcome State Fault Refusal :=
  .next (command 0x0303 p s
    (parCheck p [(20, 4), (28, 8)] (inWindow (BitVec.ofNat 64 (par p 28 8)) s.datum.now))
    (decide (par p 20 4 = 0)) (resumeAtOwn p s))

end Sys2Proof.Machine
end

