-- ==== Sys2Proof/Machine/Datum.lean ====
section
/-! DEFINITION. The commands of the datum and of its pins (R280, R283 to R286, R291 to R299), and the events of the pins. -/
namespace Sys2Proof.Machine

/-- DATUM_TICK: a FRAME edge (R276). The opportunities of the next frame follow it. With the clocks stopped there is none (R24). -/
def execDatumTick (s : State) : Host.Outcome State Fault Refusal := .next (if s.clocked then (datumEdge s).settle else s)

/-- DATUM_PAIR_APPLY: the FRAME edge at which a change that waits is applied (R283). -/
def execDatumPairApply (s : State) : Host.Outcome State Fault Refusal :=
  .next (if s.clocked && s.datum.apply.isSome then (datumEdge s).settle else s)

/-- A servo owns the counter (R283). -/
def Datum.servo (d : Datum) : Bool := decide (2 ≤ d.role)

/-- A run group of a joined design is ARMED or RUNNING (R286). -/
def State.joinedBusy (s : State) : Bool := s.runGroups.any fun g => (s.group g).joined && (s.group g).busy

-- commands

/-- DATUM_ROLE (R286): before full service nothing is LOCKED (R445). -/
def datumRoleOwn (p : Packet) (s : State) : Ans :=
  let role := par p 20 1
  checks s
    [(!callerPf p, errOwner, 0), (decide (role = s.datum.role), okAlready, 0),
     ((decide (role ≠ 0) && s.boot.part.isNone) || s.joinedBusy, errState, 0)]
    (let lock := if role = 0 then 0 else if role = 1 ∧ s.phase = 2 then 2 else 1
     let own := s.boot.part.getD 0
     let s := s.setDatum
       { s.datum with role := role, lock := lock, good := 0, bad := 0, ppsGood := 0, seqs := []
                      gmPart := if role = 0 then 0 else if role = 3 then par p 22 2 else own }
     done (if lock = 2 then s.endEpisode 80 0x4001 else s).endS5)

def datumRoleOk (p : Packet) (s : State) : Bool :=
  decide (par p 20 1 ≤ 3)
    && (if par p 20 1 = 3 then decide (par p 22 2 < 1024) && decide (some (par p 22 2) ≠ s.boot.part) else decide (par p 22 2 = 0))

def execDatumRole (p : Packet) (s : State) : Host.Outcome State Fault Refusal :=
  .next (command 0x0700 p s (parCheck p [(20, 1), (22, 2)] (datumRoleOk p s)) false (datumRoleOwn p s))

/-- The signed offset of DATUM_ADJUST. -/
def adjustOffset (p : Packet) : Int := (BitVec.ofNat 64 (par p 28 8)).toInt

def datumAdjustOk (p : Packet) : Bool :=
  decide (par p 20 8 < 2 ^ 60) && (decide (par p 20 8 = 0) || addendOk (par p 20 8))
    && decide (-(2 ^ 59 : Int) ≤ adjustOffset p) && decide (adjustOffset p < (2 ^ 59 : Int))

/-- DATUM_ADJUST (R283, R285): both staged registers take one new tag, and the pair is committed; the staged offset clears (R466). -/
def datumAdjustOwn (p : Packet) (s : State) : Ans :=
  checks s [(!callerPf p, errOwner, 0), (s.datum.servo, errState, 0)]
    (let a := if par p 20 8 = 0 then s.datum.nextAddend else BitVec.ofNat 60 (par p 20 8)
     let tag := (s.datum.nextTag + 1) % 16
     let s := s.setDatum { s.datum with stgAddend := a, stgTag := tag, offset := 0, offTag := tag }
     .park .datumEdge ((s.askDatum a (adjustOffset p) tag false).noteCommit 0x50 0 0))

def execDatumAdjust (p : Packet) (s : State) : Host.Outcome State Fault Refusal :=
  .next (command 0x0701 p s (parCheck p [(20, 8), (28, 8)] (datumAdjustOk p))
    (decide (par p 20 8 = 0) && decide (par p 28 8 = 0)) (datumAdjustOwn p s))

/-- DATUM_ORIGIN (R280). -/
def datumOriginOwn (p : Packet) (s : State) : Ans :=
  checks s [(!callerPf p, errOwner, 0)] (done (s.setDatum { s.datum with originS := par p 20 8, originNs := par p 28 4 }))

def execDatumOrigin (p : Packet) (s : State) : Host.Outcome State Fault Refusal :=
  .next (command 0x0702 p s (parCheck p [(20, 8), (28, 4)] (decide (par p 20 8 < 2 ^ 48) && decide (par p 28 4 < 1000000000)))
    false (datumOriginOwn p s))

/-- DATUM_LINK_CAL (R293). -/
def datumLinkCalOwn (p : Packet) (s : State) : Ans :=
  checks s [(!callerPf p, errOwner, 0)]
    (done (s.updQuad (par p 20 1) fun q => { q with asym := (BitVec.ofNat 16 (par p 22 2)).toInt }))

def execDatumLinkCal (p : Packet) (s : State) : Host.Outcome State Fault Refusal :=
  .next (command 0x0703 p s (parCheck p [(20, 1), (22, 2)] (decide (par p 20 1 < 36))) false (datumLinkCalOwn p s))

/-- The one owner of all parcels of a mask. -/
def State.maskOwner (s : State) (ps : List Nat) : Option Nat :=
  match ps with
  | [] => none
  | p :: l =>
    match s.ownerOf p with
    | some f => if l.all fun q => decide (s.ownerOf q = some f) then some f else none
    | none => none

/-- A pin of TRIG_BIND. -/
def State.pinOf (s : State) (out : Bool) (k : Nat) : TrigPin := if out then s.trigOutPin k else s.trigInPin k

/-- The TRIG_PULSE whose train waits on a pin ends without it (R297, R400). -/
def State.dropPulse (s : State) (k : Nat) : State := s.endWaits errCancelled 0 fun w => decide (w = .pulse k)

/-- A binding ends (R296): an unbound TRIG_OUT drives low. -/
def State.unbindPin (s : State) (out : Bool) (k : Nat) : State :=
  if out then (s.dropPulse k).setPin k TrigPin.init else s.setTrigIn k TrigPin.init

/-- TRIG_BIND (R296). -/
def trigBindOwn (p : Packet) (s : State) : Ans :=
  let out := decide (par p 20 1 = 1)
  let k := par p 21 1
  let v := s.pinOf out k
  if callerPf p = false then fail s errOwner
  else if bitOf (par p 22 1) 0 then (if v.parcels = 0 then fail s okAlready else done (s.unbindPin out k))
  else if (maskList 32 (par p 24 4)).any s.failed then fail s errResource
  else match s.maskOwner (maskList 32 (par p 24 4)) with
    | none => fail s errParam
    | some f =>
      if v.parcels ≠ 0 then fail s errState
      else
        let w : TrigPin := { TrigPin.init with parcels := par p 24 4, owner := f, seqWidth := if out then par p 28 4 else 0 }
        done (if out then s.setTrigOut k w else s.setTrigIn k w)

def trigBindOk (p : Packet) : Bool :=
  decide (par p 20 1 < 2) && decide (par p 21 1 < 4) && decide (par p 22 1 < 2)
    && (decide (par p 20 1 = 0) || bitOf (par p 22 1) 0 || decide (1600 ≤ par p 28 4))

def execTrigBind (p : Packet) (s : State) : Host.Outcome State Fault Refusal :=
  .next (command 0x0704 p s (parCheck p [(20, 1), (21, 1), (22, 1), (24, 4), (28, 4)] (trigBindOk p))
    (decide (par p 22 1 = 0) && decide (par p 24 4 = 0)) (trigBindOwn p s))

/-- A datum time rounded to the nearest 2 ps, in whole du (R297). DEDUCED 20: half way rounds up, and the part of a du is cut. -/
def round2ps (t : Nat) : Word := pinTime ((t * 125 * 2 + 16384) / 32768)

/-- 1,000 ns in du (R282, R297). -/
def pulseLead : Int := 1000 * 65536

/-- TRIG_PULSE (R297, R400): a train replaces a running one after the pulse in progress, and is armed then. -/
def trigPulseOwn (p : Packet) (s : State) : Ans :=
  let k := par p 20 1
  let v := s.trigOutPin k
  let start := BitVec.ofNat 64 (par p 28 8)
  if v.parcels = 0 ∨ v.owner ≠ callerFn p then fail s errOwner
  else if bitOf (par p 21 1) 0 then
    (if v.train.isNone then fail s okAlready else done ((s.dropPulse k).setPin k { v with train := none, newTrain := none, trainHigh := false }))
  else if tooSoon start s.datum.now pulseLead then fail s errState
  else
    let t : Train := { start := round2ps start.toNat, count := par p 24 4, width := par p 36 4, period := par p 40 8, next := 0 }
    let mid := match v.train with | some o => decide (o.next % 2 = 1) | none => false
    let s := s.dropPulse k
    if mid then .park (.pulse k) (s.setTrigOut k { v with newTrain := some t })
    else done (s.setTrigOut k { v with train := some t, newTrain := none }) t.start.toNat

def trigPulseOk (p : Packet) (s : State) : Bool :=
  decide (par p 20 1 < 4) && decide (par p 21 1 < 2)
    && (bitOf (par p 21 1) 0 || ((decide (par p 36 4 = 0) || decide (1600 ≤ par p 36 4))
      && (decide (par p 24 4 ≤ 1) || decide (par p 36 4 + 1600 ≤ par p 40 8))
      && inWindow (BitVec.ofNat 64 (par p 28 8)) s.datum.now))

def execTrigPulse (p : Packet) (s : State) : Host.Outcome State Fault Refusal :=
  .next (command 0x0705 p s
    (parCheck p [(20, 1), (21, 1), (24, 4), (28, 8), (36, 4), (40, 8)] (trigPulseOk p s))
    (decide (par p 21 1 = 0) && (decide (par p 24 4 = 0) || decide (par p 36 4 = 0))) (trigPulseOwn p s))

-- pins

/-- Datum time of edge `j` of a train: even is a rise (R297). -/
def Train.edge (t : Train) (j : Nat) : Word := t.start + pinTime (j / 2 * t.period + j % 2 * t.width)

/-- TRIG_OUT_EDGE: the next edge that is due on a pin (R271, R297, R298): the fall of a sequencer pulse, or an edge of the train. A
pulse that begins while GSR is asserted is not driven. -/
def trigOutEdge (s : State) (k : Nat) : State :=
  let v := s.trigOutPin k
  let now := s.tOpen s.opp
  if v.seqHigh && dueAt now v.seqEnd then s.setPin k { v with seqHigh := false }
  else match v.train with
    | none => s
    | some t =>
      if dueAt now (t.edge t.next) = false then s
      else
        let j := t.next + 1
        let fall := decide (j % 2 = 0)
        let rest := if fall && v.newTrain.isSome then v.newTrain else if j = 2 * t.count then none else some { t with next := j }
        let t := s.setPin k { v with train := rest, newTrain := if fall then none else v.newTrain
                                     trainHigh := !fall && s.pinDriven v }
        match v.newTrain with
        | some n => if fall then t.finishParked fun _ w => if w = .pulse k then some (0, 0, n.start.toNat) else none else t
        | none => t

def execTrigOutEdge (pin : Nat) (s : State) : Host.Outcome State Fault Refusal :=
  if pin < 4 then .next (trigOutEdge s pin).settle else .fault .noSuchUnit

/-- 10^9 ns in du. -/
def secondDu : Nat := 65536000000000

/-- How far a datum time lies behind the last whole TAI second, in du (R280). `e` is its epoch. -/
def Datum.pastSecond (d : Datum) (e t : Int) : Nat := (((d.originNs : Int) * 65536 + e * 2 ^ 64 + t) % secondDu).toNat

/-- PPS_OUT_EDGE (R295): PPS_OUT is high in the first 10 ms of each of the part's own seconds, and low while the hub is in reset. -/
def ppsOutEdge (s : State) : State :=
  let high := s.clocked && decide (s.datum.pastSecond s.datum.epoch.toNat s.datum.now.toNat < 655360000000)
  if s.ppsHigh = high then s
  else State.setSent { s with ppsHigh := high } { s.sent with pins := s.sent.pins ++ [(4, high)] }

def execPpsOutEdge (s : State) : Host.Outcome State Fault Refusal := .next (ppsOutEdge s)

/-- The signed distance of a datum time near now from the nearest whole second. -/
def Datum.secondError (d : Datum) (t : Word) : Int :=
  let x := d.pastSecond d.epoch.toNat (d.now.toNat + signed64 t d.now)
  if x * 2 ≤ secondDu then x else (x : Int) - secondDu

/-- The servo steps the counter (R290, R291). -/
def State.servoStep (s : State) (off : Int) (first : Bool) : State := s.askDatum s.datum.nextAddend off s.datum.nextTag first

/-- The servo slews the addend for an error `th` (R290, R291): to a free value within its range, on the side that lessens the error. -/
def State.servoSlew (s : State) (th : Int) : State :=
  let r := s.fresh 64
  r.2.askDatum (servoAddend r.1 r.2.datum.nextAddend.toNat th) 0 r.2.datum.nextTag false

/-- The servo leaves LOCKED (R290, R291): DATUM_UNLOCK once an episode. -/
def State.unlock (s : State) (lock : Nat) : State :=
  let s := s.setDatum { s.datum with lock := lock, good := 0, bad := 0, ppsGood := 0 }
  if s.isLive 80 0x4001 then s
  else (s.setDatum { s.datum with unlocks := satAdd 16 s.datum.unlocks 1 }).beginEpisode
    { code := 0x4001, unit := 80, access := 6, master := 0, address := 0, cycle := 0 }

/-- PPS_IN_EDGE (R291, R299): the edge is recorded; a GM_PPS part in full service steers to it. -/
def ppsInEdge (s : State) (t : Word) : State :=
  let e := s.datum.secondError t
  let near := decide (-65536 ≤ e) && decide (e ≤ 65536)
  if s.clocked = false then s else
  let s := s.setDatum { s.datum with ppsIn := t, ppsOk := near }
  if s.datum.role ≠ 2 ∨ s.phase ≠ 2 then s
  else
    let n := if near then s.datum.ppsGood + 1 else 0
    let lock := if 4 ≤ n then 2 else if s.datum.lock = 3 then 1 else s.datum.lock
    let s := s.setDatum { s.datum with offLast := BitVec.ofInt 64 e, ppsGood := n, lock := lock }
    let s := (if lock = 2 then s.endEpisode 80 0x4001 else s).endS5
    if e < -65536000 ∨ 65536000 < e then s.servoStep (-e) false else s.servoSlew e

def execPpsInEdge (time : BitVec 64) (s : State) : Host.Outcome State Fault Refusal := .next (ppsInEdge s time)

/-- PPS_TIMEOUT (R291): a GM_PPS part holds over. -/
def execPpsTimeout (s : State) : Host.Outcome State Fault Refusal :=
  .next (if s.datum.role = 2 ∧ s.phase = 2 then s.unlock 3 else s)

-- TRIG_IN (R267, R299)

/-- Where a datum time falls among the steps of a running group: cycle, step, fraction of a step, held. DEDUCED 21: the event is
taken in the opportunity of the edge, so that the edge lies in the last opportunity that the group used or in the next one. -/
def placeEdge (s : State) (g : Nat) (t : Word) : Word × Nat × Nat × Bool :=
  let r := s.group g
  let next := if r.step = r.n then (r.cycle + 1, 0) else (r.cycle, r.step)
  let frac (o : Nat) : Nat :=
    let w := (s.tOpen (o + 1) - s.tOpen o).toNat
    min 1023 ((t - s.tOpen o).toNat * 1024 / max 1 w)
  match r.lastOpp with
  | some o =>
    if dueAt t (s.tOpen (o + 1)) = false ∧ r.ranLast then
      (if r.step = 0 then (r.cycle - 1, r.n - 1, frac o, false) else (r.cycle, r.step - 1, frac o, false))
    else if dueAt t (s.tOpen (o + 1)) = false ∨ s.gatedNext g then (next.1, next.2, 0, true)
    else (next.1, next.2, frac (s.nextOpp g), false)
  | none => if s.gatedNext g then (next.1, next.2, 0, true) else (next.1, next.2, frac (s.nextOpp g), false)

/-- An engine that uses a TRIG_IN with an edge's polarity sees the edge while its run group runs: the first one of each cycle counts
(R267). -/
def State.feedEdge (s : State) (k : Nat) (falling : Bool) (t : Word) (ei : Nat) : State :=
  let e := s.engine ei
  match e.rg with
  | none => s
  | some g =>
    if (s.group g).state ≠ .running ∨ bitOf e.trigUse k = false ∨ bitOf e.inPol k ≠ falling then s
    else
      let x := placeEdge s g t
      if (e.edgeIn x.1 k).isSome then s
      else s.setEngine ei
        { e with edges := e.edges ++ [{ pin := k, time := t, cycle := x.1, step := x.2.1, frac := x.2.2.1, held := x.2.2.2 }] }

/-- TRIG_IN_EDGE: an edge is captured unless one was in the last 6.4 ns (R299), and feeds both engines. -/
def trigInEdge (s : State) (k : Nat) (falling : Bool) (t : Word) : State :=
  let v := s.trigInPin k
  let close : Bool := match v.lastEdge with | some l => decide ((t - l).toNat * 10 ≤ 4194304) | none => false
  if v.parcels = 0 ∨ close then s
  else
    forEach [0, 1] (fun e u => u.feedEdge k falling t e) (s.setTrigIn k { v with lastEdge := some t })

def execTrigInEdge (pin : Nat) (falling : Bool) (time : BitVec 64) (s : State) : Host.Outcome State Fault Refusal :=
  if pin < 4 then .next (trigInEdge s pin falling time) else .fault .noSuchUnit

end Sys2Proof.Machine
end

