-- ==== Sys2Proof/Machine/Packets.lean ====
section
/-! DEFINITION. Packets of the packet network (R350, R352, R354, R357 to R359, R362): tags, routes, delivery and answers. -/
namespace Sys2Proof.Machine

/-- Types that are answered (R354, R357). DEDUCED 32: a MESSAGE is answered with ACK, as the types of R359 show. -/
def isRequest (t : Nat) : Bool := decide (t = 0) || decide (t = 1) || decide (t = 3) || decide (t = 4)

/-- The answer to a packet, of a type and with data; `ue` marks its uncorrectable words. -/
def answer (k : NetPacket) (type : Nat) (data : List Byte) (ue : Nat) : NetPacket :=
  { vc := 1, prio := false, dst := k.src, src := k.dst, type := type, tag := k.tag, group := k.group, internal := k.internal
    addr := k.addr, data := data, ue := ue, fixed := 0, badSide := false }

/-- Send an answer. -/
def State.answerTo (s : State) (k : NetPacket) (type : Nat) (data : List Byte := []) (ue : Nat := 0) : State :=
  s.setSent { s.sent with packets := s.sent.packets ++ [answer k type data ue] }

/-- Answer a request with ERROR; a packet that asks for no answer gets none. -/
def State.refuse (s : State) (k : NetPacket) : State := if isRequest k.type then s.answerTo k 9 else s

-- tags (R357)

/-- A request whose response takes another part's tag: it comes from a quad. -/
def fromPart (k : NetPacket) : Bool := match nodeOf k.src with | some (.quad _) => true | _ => false

/-- The tags of the holder that a node belongs to: the first and how many. DESIGN CHOICE 95: the units of a parcel router are survey
engines, every unit of the hub but the host port is the Surveyor. -/
def tagRange (src : Nat) : Nat × Nat :=
  match nodeOf src with
  | some .host => (0, 2048)
  | some (.agent _) | some (.stream _ _) | some (.controller _) => (3072, 512)
  | some (.bridge _) | some (.trace _) => (3584, 512)
  | _ => (2048, 1024)

def holdsTag (src tag : Nat) : Bool := decide ((tagRange src).1 ≤ tag) && decide (tag < (tagRange src).1 + (tagRange src).2)

/-- The tag that a request takes: the one it names where that is free and its holder's, else the lowest free one of its holder. -/
def State.pickTag (s : State) (k : NetPacket) : Option Nat :=
  let free (t : Nat) : Bool := !s.net.tags.any fun e => decide (e.1 = t)
  if holdsTag k.src k.tag && free k.tag then some k.tag
  else ((List.range (tagRange k.src).2).map ((tagRange k.src).1 + ·)).find? free

/-- A request holds a tag. -/
def State.takeTag (s : State) (k : NetPacket) : State :=
  s.setNet { s.net with tags := s.net.tags ++ [(k.tag, k)], peak := max s.net.peak (s.net.tags.length + 1) }

/-- The parcel in which a node lies. -/
def Node.parcel? (n : Node) : Option Nat :=
  match n with
  | .agent p | .stream p _ => some p
  | _ => none

/-- An entry depends on a request (R357, DESIGN CHOICE 95): a backdoor command on one of the host port for its bank's parcel; a survey on one of
its parcels' survey engines; what a worker executes on one from or to that worker, or of the host port or the Surveyor for its parcels. -/
def Entry.dependsOn (e : Entry) (s : State) (k : NetPacket) : Bool :=
  let src := nodeOf k.src
  let dst := nodeOf k.dst
  match e.state with
  | .parked (.bank cl _ _ _ _ _) | .parked (.atomicOp cl _ _) => decide (src = some .host) && decide (dst = some (.agent (clParcel cl)))
  | .parked (.survey g _) => match src.bind Node.parcel? with
    | some p => (s.group g).parcels.contains p
    | none => false
  | .executing w c =>
    decide (src = some (.worker w)) || decide (dst = some (.worker w))
      || (decide (src = some .host) || decide (src = some .supervisor)) && (match dst with
        | some (.controller x) => c.allots.any fun a => decide (a.1 = x)
        | some n => match n.parcel? with | some p => c.parcels.contains p | none => false
        | none => false)
  | _ => false

/-- The oldest command that depends on a request. -/
def State.dependent (s : State) (k : NetPacket) : Option Entry := s.hub.entries.find? fun e => e.dependsOn s k

/-- The command that depends on a request ends with a failure: a survey with nothing captured. -/
def State.failDependent (s : State) (k : NetPacket) (status detail : Nat) : State :=
  match s.dependent k with
  | none => s
  | some e => match e.state with
    | .executing _ c => (stopWork s e c status).1
    | .parked (.survey g m) =>
      let t := s.finishEntry e status detail 0
      match (s.group g).surveys.find? (·.named m) with
      | none => t
      | some q => (t.setSv ((s.group g).surveyed q) .idle).updGroup g fun r => { r with surveys := r.surveys.filter fun x => decide (x ≠ q) }
    | _ => endAccess s e status detail

-- delivery

/-- A stack's 64-bit words under `n` bytes from byte address `a` on. -/
def wordsUnder (a n : Nat) : List Nat := (List.range ((a + n + 7) / 8 - a / 8)).map (a / 8 + ·)

/-- Bytes of a stack (R182). -/
def stackBytes : Nat := 36 * 2 ^ 30

/-- A READ at an HBM controller: 64 bytes, one flit (R353, R354); every word is checked, and one in uncorrectable error goes out with an
uncorrectable pattern (R182, R358). DESIGN CHOICE 33: the length of a READ, which no field gives; DESIGN CHOICE 95: a stack that is not
trained answers ERROR. -/
def readHbm (s : State) (k : NetPacket) (stack : Nat) : State :=
  if !(s.stack stack).trained ∨ stackBytes < k.addr + 64 then s.refuse k
  else
    let one (a : State × Nat) (w : Nat) : State × Nat :=
      let r := a.1.hbmRead stack w (s.stackUnit stack (w / unitWords)) 1 (nodeMaster k.src) 0
      match r.1 with
      | some _ => (r.2, a.2)
      | none => (r.2, a.2 ||| 2 ^ (w - k.addr / 8))
    let r := (wordsUnder k.addr 64).foldl one (s, 0)
    r.1.answerTo k 6 (memBytes s.hbm (stack * 2 ^ 36 + k.addr) 64) r.2

/-- A write at an HBM controller. An uncorrectable data word is stored with an uncorrectable pattern, the others clean (R358). -/
def writeHbm (s : State) (k : NetPacket) (stack : Nat) : State :=
  if !(s.stack stack).trained ∨ stackBytes < k.addr + k.data.length then s.refuse k
  else
    let bad := (maskList 64 k.ue).flatMap fun i => wordsUnder (k.addr + 8 * i) (min 8 (k.data.length - 8 * i))
    let marks := (wordsUnder k.addr k.data.length).map fun w => (eccKey 9 (stack * 2 ^ 33 + w), if bad.contains w then 2 else 0)
    let s := { s with hbm := memSetBytes (stack * 2 ^ 36 + k.addr) k.data s.hbm, ecc := msetMany 0 marks s.ecc }
    if k.type = 1 then s.answerTo k 7 else s

/-- The parcel agent's check of the ownership tag (R354). -/
def State.agentRefuses (s : State) (k : NetPacket) (parcel : Nat) : Bool := !k.internal && decide (s.ownerOf parcel ≠ some k.group)

/-- Eight flits at most of 64 bytes: a packet for another part goes out on its quad's lane (R307, R359). DEDUCED 34: its dst_part is the
part at the far end. -/
def sendRemote (s : State) (k : NetPacket) (q : Nat) : State :=
  match (quadLanes q).find? fun l => decide ((s.lane l).state = .up) with
  | none => s
  | some l =>
    let n := max 1 (ceilDiv k.data.length 64)
    let flit (i : Nat) : Nat × BitVec 576 :=
      let route := (s.lane l).farPart + fieldAt 10 ((s.boot.part).getD 0) + fieldAt 20 (b2n (decide (i = 0)))
        + fieldAt 21 (b2n (decide (i + 1 = n))) + fieldAt 22 (if i = 0 then n - 1 else 0) + fieldAt 25 k.type + fieldAt 29 k.tag
      (k.vc, BitVec.ofNat 576 (leNat ((k.data.drop (64 * i)).take 64) + fieldAt 512 route))
    s.updLane l fun v => { v with flits := v.flits ++ (List.range n).map flit }

/-- The answer of a unit whose addresses the spec does not lay out: data of free value, or ACK. -/
def State.answerFree (s : State) (k : NetPacket) : State :=
  if k.type = 0 ∨ k.type = 3 then
    let r := s.fresh 512
    r.2.answerTo k 6 (leBytes (if k.type = 0 then 64 else 8) r.1.toNat)
  else if k.type = 1 ∨ k.type = 4 then s.answerTo k 7
  else s

/-- A datum copy of a sheet is loaded (R276). -/
def State.loadCopy (s : State) (k : NetPacket) : State :=
  s.setNet { s.net with sheetDatum := (List.range 2).map fun i => s.net.sheetDatum.getD i false || decide (k.dst % 4 = i) }

/-- The bank words of a parcel that a write stores with an uncorrectable pattern (R358). Which ones they are is free (DESIGN CHOICE 33). -/
def State.markBank (s : State) (parcel n : Nat) : State :=
  let f := s.fresh 20
  let first := (clOf parcel (bitsOf f.1.toNat 0 4)) * 65536
  { f.2 with ecc := msetMany 0 ((List.range n).map fun i => (eccKey 6 (first + (bitsOf f.1.toNat 4 16 + i) % 65536), 2)) f.2.ecc }

/-- The hub's own packets: from a node of the hub, and internal. -/
def fromHub (k : NetPacket) : Bool := k.internal && decide (k.src % 4 = 2)

/-- A packet acts at its destination (R354). A parcel agent answers every packet of a foreign function with ERROR; the boot flash answers
the hub only (R17). A unit whose addresses the spec does not lay out answers, and what the packet carries is the effect of the command it
serves (DESIGN CHOICE 33). -/
def deliverPacket (s : State) (k : NetPacket) (node : Node) : State :=
  match node, k.type with
  | .controller d, 0 => readHbm s k d
  | .controller d, 1 | .controller d, 2 => writeHbm s k d
  | .controller _, 3 => s.refuse k
  | .quad q, 4 | .quad q, 7 | .quad q, 9 => sendRemote s k q
  | .agent i, t =>
    if s.agentRefuses k i then s.answerTo k 9
    else if t = 10 then s.loadCopy k
    else (if (t = 1 ∨ t = 2) ∧ k.ue ≠ 0 then s.markBank i (maskList 64 k.ue).length else s).answerFree k
  | .flash, _ => if fromHub k then s.answerFree k else s.refuse k
  | .mailbox, 4 | .supervisor, 4 | .worker _, 4 => State.answerTo (s.setNet { s.net with mail := s.net.mail ++ [k] }) k 7
  | _, 10 => s.loadCopy k
  | _, _ => s.answerFree k

/-- Deliver the packets that were held at a domain, in order. -/
def State.deliverHeld (s : State) (d : Domain) : State :=
  let mine (k : NetPacket) : Bool := decide ((nodeOf k.dst).bind Node.domain = some d)
  let ks := s.net.held.filter mine
  let s := s.setNet { s.net with held := s.net.held.filter fun k => !mine k }
  ks.foldl (fun t k => match nodeOf k.dst with | some n => deliverPacket t k n | none => t) s

/-- A packet reaches the router of its destination (R350, R362, R363): it is delivered, behind those that are held there already (R352),
or held while the domain is not awake. One that comes before isolation cancels a power-down. -/
def reach (s : State) (k : NetPacket) (node : Node) : State :=
  match node.domain with
  | none => deliverPacket s k node
  | some d =>
    let s := s.setNet { s.net with held := s.net.held ++ [k] }
    if s.isAsleep d ∨ s.isWaking d ∨ s.net.isolated.contains d then s.startWake d true
    else (if s.isDown d then s.cancelDown d else s).deliverHeld d

/-- A packet that has its tag travels (R350, R352, R358): what its flits' checks find is counted, one with an uncorrectable sideband is
discarded whole, one for a node that does not exist is discarded and refused. A sheet held in reset passes none (R423). -/
def travel (s : State) (k : NetPacket) : State :=
  let n := s.net
  if k.badSide then s.setNet { n with ce := satAdd 32 n.ce k.fixed, ueSide := satAdd 16 n.ueSide 1 }
  else
    let s := s.setNet { n with ce := satAdd 32 n.ce k.fixed, ueData := satAdd 16 n.ueData (maskList 64 k.ue).length }
    match nodeOf k.dst with
    | none => State.refuse (s.setNet { s.net with badDst := satAdd 16 s.net.badDst 1 }) k
    | some node =>
      if s.boot.sheetsHeld && decide (k.dst % 4 < 2 ∨ k.src % 4 < 2) then s
      else reach (s.setNet { s.net with route := route k.src k.dst }) k node

/-- A packet of a type enters the network. A reserved type or a channel that does not fit is discarded (R354). A request takes a tag of
its holder, or waits for one (R357). The routers run from S2 on (R439). The packet of another type than the command's is no such packet. -/
def enter (s : State) (type : Nat) (k : NetPacket) : State :=
  let n := s.net
  if s.running = false then s
  else if typeVc k.type ≠ some k.vc then s.setNet { n with badType := satAdd 16 n.badType 1 }
  else if k.type ≠ type then s
  else if isRequest k.type = false ∨ fromPart k then travel s k
  else match s.pickTag k with
    | none => s.setNet { n with waits := satAdd 32 n.waits 1, waiting := n.waiting ++ [k] }
    | some t => travel (s.takeTag { k with tag := t }) { k with tag := t }

/-- A tag is free: the oldest request that waits for one of its holder's takes it. -/
def State.passTag (s : State) (tag : Nat) : State :=
  match s.net.waiting.find? fun k => holdsTag k.src tag with
  | none => s
  | some k =>
    let s := s.setNet { s.net with waiting := dropFirst (fun x => decide (x = k)) s.net.waiting }
    travel (s.takeTag { k with tag := tag }) { k with tag := tag }

/-- Free a tag whose request satisfies `f`. -/
def State.freeTag (s : State) (tag : Nat) (f : NetPacket → Bool) : State :=
  let hit (e : Nat × NetPacket) : Bool := decide (e.1 = tag) && f e.2
  if s.net.tags.any hit then State.passTag (s.setNet { s.net with tags := s.net.tags.filter fun e => !hit e }) tag else s

/-- A response arrives at the requester (R357): its tag is free. A READ_RESPONSE with an uncorrectable word ends the command that reads
(R180, R358). An answer for another part has that part's tag, and leaves on its quad's lane. -/
def respond (s : State) (type : Nat) (k : NetPacket) : State :=
  let valid := decide (typeVc k.type = some k.vc) && decide (k.type = type) && (nodeOf k.dst).isSome && !k.badSide
  if valid = false then enter s type k
  else
    let req := (s.net.tags.find? fun e => decide (e.1 = k.tag) && decide (e.2.src = k.dst)).map (·.2)
    let s := (enter s type k).freeTag k.tag fun r => decide (r.src = k.dst)
    match req with
    | some r => if type = 6 ∧ k.ue ≠ 0 then s.failDependent r errDevice 0x2002 else s
    | none => s

/-- TAG_TIMEOUT (R357): the request completes with an ERROR to its requester, the command that depends on it ends with ERR_TIMEOUT, and
the tag is free. -/
def tagTimeout (s : State) (tag : Nat) : State :=
  match s.net.tags.find? fun e => decide (e.1 = tag) with
  | none => s
  | some e =>
    let s := (s.setNet { s.net with timeouts := satAdd 16 s.net.timeouts 1 }).refuse e.2
    (s.failDependent e.2 errTimeout 0).freeTag tag fun _ => true

end Sys2Proof.Machine
end

