-- ==== Sys2Proof/Machine/Line.lean ====
section
/-! DEFINITION. Line coding of a lane (R303 to R306, R323): the Reed-Solomon code, the scrambler, Gray mapping, precoding and error
injection. -/
namespace Sys2Proof.Machine

/-- Product in GF(2^10) with field polynomial x^10 + x^3 + 1 (R305): `n` bits of `b` from the lowest. -/
def gfMulBits : Nat → Nat → Nat → Nat
  | 0, _, _ => 0
  | n + 1, a, b =>
    let a2 := if a / 512 % 2 = 1 then (a * 2 % 1024) ^^^ 9 else a * 2
    (if b % 2 = 1 then a else 0) ^^^ gfMulBits n a2 (b / 2)

def gfMul (a b : Nat) : Nat := gfMulBits 10 a b

/-- A polynomial over GF(2^10), highest coefficient first, times (x − r). -/
def polyTimes (p : List Nat) (r : Nat) : List Nat :=
  ((p ++ [0]).zip (0 :: p)).map fun (c : Nat × Nat) => c.1 ^^^ gfMul r c.2

/-- The generator (x − 1)(x − α)(x − α²)(x − α³) (R305): α is 2. -/
def rsGenerator : List Nat := [1, 2, 4, 8].foldl polyTimes [1]

/-- One symbol enters the divider of the systematic code. -/
def rsShift (st : List Nat) (sym : Nat) : List Nat :=
  let f := sym ^^^ st.headD 0
  ((st.drop 1 ++ [0]).zip (rsGenerator.drop 1)).map fun (c : Nat × Nat) => c.1 ^^^ gfMul f c.2

/-- The four parity symbols of 64 payload symbols (R305). -/
def rsParity (payload : BitVec 640) : List Nat :=
  ((List.range 64).map fun k => bitsOf payload.toNat (10 * k) 10).foldl rsShift [0, 0, 0, 0]

/-- The 680-bit codeword: payload, then parity symbols 64 to 67. -/
def rsEncode (payload : BitVec 640) : Nat :=
  payload.toNat + (rsParity payload).foldr (fun x a => x + a * 1024) 0 * 2 ^ 640

/-- Bits of the sequence x^31 + x^28 + 1 (R304): `st` holds the last 31 bits, the newest in bit 0. DEDUCED 22: a bit is the sum of
the bits 31 and 28 places before it. The answer is the bits, first one lowest, and the state after them. -/
def prbs31 : Nat → Nat → Nat × Nat
  | 0, st => (0, st)
  | n + 1, st =>
    let b := (st / 2 ^ 30 + st / 2 ^ 27) % 2
    let r := prbs31 n ((st * 2 + b) % 2 ^ 31)
    (b + 2 * r.1, r.2)

/-- `n` bits of a sequence with the taps of a polynomial (R315, R322), as `prbs31` gives those of x^31 + x^28 + 1. -/
def prbsBits (taps : List Nat) : Nat → Nat → Nat × Nat
  | 0, st => (0, st)
  | n + 1, st =>
    let b := (taps.map fun t => st / 2 ^ (t - 1)).sum % 2
    let r := prbsBits taps n ((st * 2 + b) % 2 ^ taps.headD 1)
    (b + 2 * r.1, r.2)

/-- The taps of PRBS7, PRBS13 and PRBS31 by their codes (R322, R324), the degree first. -/
def patternTaps (code : Nat) : List Nat := if code = 1 then [7, 6] else if code = 2 then [13, 12, 2, 1] else [31, 28]

/-- The seed: all ones (R304). -/
def scramSeed : Nat := 2 ^ 31 - 1

/-- The Gray index of a pair of bits, the first of which is the lower one (R303). -/
def grayIndex (pair : Nat) : Nat := match pair % 4 with | 0 => 0 | 2 => 1 | 3 => 2 | _ => 3

/-- What happens to the Gray indices of a codeword on their way out: injection adds 1 to chosen ones (R323), then precoding (R303). The
answer is the indices sent, two bits each, first one lowest. `every`: one symbol in that many, 0 for none. -/
def lineSymbols (pre : Bool) (every : Nat) : Nat → Nat → (left at_ last : Nat) → Nat × Nat × Nat × Nat
  | 0, _, left, at_, last => (0, left, at_, last)
  | n + 1, bits, left, at_, last =>
    let hit := decide (0 < left) || (decide (0 < every) && decide (at_ + 1 = every))
    let g := (grayIndex bits + b2n hit) % 4
    let p := if pre then (g + 4 - last) % 4 else g
    let r := lineSymbols pre every n (bits / 4) (left - 1) (if at_ + 1 < every then at_ + 1 else 0) p
    (p + 4 * r.1, r.2)

/-- 680 bits go onto the line: Gray mapping, injection and, where `pre` says so, precoding. The answer is the 340 symbols sent, as indices of
two bits. -/
def lineOut (v : Lane) (pre : Bool) (bits : Nat) : BitVec 680 × Lane :=
  let every := if v.injKind = 3 then v.injRate + 1 else 0
  let r := lineSymbols pre every 340 bits v.injLeft v.injAt v.preLast
  (BitVec.ofNat 680 r.1, { v with injLeft := r.2.1, injAt := r.2.2.1, preLast := r.2.2.2 })

/-- A codeword goes onto the line (R304): all but TRAIN are scrambled, and precoded where the lane precodes. -/
def sendLine (v : Lane) (train : Bool) (payload : BitVec 640) : BitVec 680 × Lane :=
  let code := rsEncode payload
  let sc := if train then (0, v.scram) else prbs31 680 v.scram
  lineOut { v with scram := sc.2 } (v.preTx && !train) (code ^^^ sc.1)

/-- The next 680 bits of the lane's test pattern (R322), the first one lowest, and the generator after them. -/
def Lane.patternBits (v : Lane) : Nat × Nat :=
  if v.gen ≤ 3 then prbsBits (patternTaps v.gen) 680 v.patt
  else if v.gen = 4 then
    ((List.range 340).foldr (fun k a => (Config.ssprq ((v.patt + k) % 65535)).toNat + 4 * a) 0, (v.patt + 340) % 65535)
  else ((List.range 680).foldr (fun k a => b2n (v.user.getLsbD ((v.patt + k) % 80)) + 2 * a) 0, (v.patt + 680) % 80)

/-- The header of a codeword (R306) with its CRC-8. -/
def headerBits (type vc : Nat) (hold retx : Bool) (stepTag cyc pseq ack credit : Nat) : Nat :=
  let h := type + fieldAt 4 vc + fieldAt 6 (b2n hold) + fieldAt 7 (b2n retx) + fieldAt 8 stepTag + fieldAt 20 cyc
    + fieldAt 24 pseq + fieldAt 32 ack + fieldAt 40 credit
  h + fieldAt 56 (crc8 (leBytes 7 h))

end Sys2Proof.Machine
end

