-- ==== Sys2Proof/Machine/Lane.lean ====
section
/-! DEFINITION. Lanes (R302 to R327): training, idle, failure, the transmitter, and the lane commands. -/
namespace Sys2Proof.Machine

/-- A lane carries Fjarlek traffic. -/
def Lane.linked (v : Lane) : Bool := decide (v.state = .up) && decide (v.fec = 0)

/-- A fault of a lane's quad (R418, R426). -/
def laneFault (s : State) (code l address : Nat) : FaultEv :=
  { code := code, unit := 36 + laneQuad l, access := 0, master := 0, address := l + address
    cycle := match (s.quad (laneQuad l)).rg with | some g => (s.group g).cycle | none => 0 }

/-- A row that names a lane. -/
def laneRow (l : Nat) (s : State) (f : State → State) : Host.Outcome State Fault Refusal :=
  if l < 144 then .next (f s).settle else .fault .noSuchUnit

/-- A lane that is UP goes DOWN and stops its transmitter (R320). Its phase tells how the next retry begins: at 3 from stored settings. -/
def State.laneDown (s : State) (l : Nat) : State :=
  let v := s.lane l
  if v.state ≠ .up then s
  else
    let s := s.setLane l { v with state := .down, trainDue := false, burst := 0, uncorr64 := [], replayAt := none, phase := if v.stored then 3 else 0 }
    s.beginEpisode (laneFault s 0x3002 l 0)

/-- Compare the live delay of a lane with the class bound to it (R318). In paired modes it includes the 8 steps of replication (R246). -/
def State.watchDrift (s : State) (l : Nat) : State :=
  let v := s.lane l
  let limit := classLimit v.cls
  let live := v.live + if s.paired then 8 else 0
  if v.clsValid && !v.drift && decide (limit < live) then
    let s := s.setLane l { v with drift := true }
    s.beginEpisode (laneFault s 0x3003 l (fieldAt 24 live))
  else if v.drift && (!v.clsValid || decide (live + 4 ≤ limit)) then
    let s := s.setLane l { v with drift := false }
    if (quadLanes (laneQuad l)).any fun k => (s.lane k).drift then s else s.endEpisode (36 + laneQuad l) 0x3003
  else s

/-- Whether a trained lane is crossed (R317): its far lane index differs, or the trained lanes of its quad face more than one far quad or
part. -/
def State.isCrossed (s : State) (l : Nat) : Bool :=
  let v := s.lane l
  decide (v.farLane ≠ l % 4) || (quadLanes (laneQuad l)).any fun k =>
    let w := s.lane k
    w.stored && (decide (w.farQuad ≠ v.farQuad) || decide (w.farPart ≠ v.farPart))

-- cargo a receiver still expects (R313)

/-- The sending step-frame of an inbound entry due in cycle `c`, as sending cycle and first step; none before its lag. -/
def frameOf (r : RunGroup) (d : Nat) (e : Nat × BitVec 40) (q : Nat) (c : Word) : Option (Word × Nat) :=
  match cargoIn q e.2 with
  | none => none
  | some i =>
    if r.holds i.cl = false ∨ c.toNat < i.lag then none
    else (sendingStep r.n d (e.1 % 32768 / 8) i.lag).map fun sp => (c - BitVec.ofNat 64 i.lag, sp / 4 * 4)

/-- The next step-frame that a lane's receiver expects: the earliest with a word still due that is not in its buffer and not asked for
already, so that every uncorrectable codeword has a request of its own (R127, R313); `again` asks for the first missing one all the
same (R320). The buffer spans fewer than four cycles. -/
def State.nextExpected (s : State) (l : Nat) (again : Bool := false) : Option (Word × Nat) :=
  let q := laneQuad l
  match (s.quad q).rg with
  | none => none
  | some g =>
    let r := s.group g
    let d := classLimit (s.quad q).cls
    let mine := s.quadAct.filter fun e =>
      decide (e.1 / 32768 = q) && decide (e.1 % 8 / 2 = l % 4) && decide (e.1 % 32768 / 8 < r.n)
    let frames := (List.range 5).flatMap fun k =>
      let c := r.cycle + BitVec.ofNat 64 k
      (mine.filter fun e => decide (0 < k) || decide (r.step ≤ e.1 % 32768 / 8)).filterMap fun e => frameOf r d e q c
    let open_ := frames.filter fun f => (again || !(s.lane l).asked f.2 f.1)
      && !((s.lane l).rxBuf.any fun w => decide (w.cycle = f.1) && decide (w.stepTag = f.2))
    (sortBy (fun f : Word × Nat => f.1.toNat * 4096 + f.2) open_).head?

/-- Ask for the next expected step-frame (R127, R313), or `again` for the first missing one (R320). DEDUCED 23. -/
def State.askResend (s : State) (l : Nat) (again : Bool := false) : State :=
  let v := s.lane l
  match s.nextExpected l again with
  | none => s
  | some (c, tag) =>
    let w : ResendReq := { stepTag := tag, cyc := c.toNat % 16, count := 1 }
    let others := v.wanted.filter fun x => !(decide (x.stepTag = tag) && decide (x.cyc = w.cyc))
    s.setLane l { v with wanted := others ++ [w], ctrl := v.ctrl ++ [.resend tag w.cyc], reqOut := satAdd 16 v.reqOut 1 }

-- training (R315 to R320)

/-- Both ends report every phase done, and at rate 0 the delay has been measured by 16 echoes (R315, R316). -/
def Lane.ready (v : Lane) : Bool :=
  v.trainDue && decide (v.phase = 4) && decide (v.farDone = 3) && (decide (v.rate ≠ 0) || decide (v.echoes.length = 16))

/-- Training ends with the lane UP (R304, R311, R315 to R318, R320): the delay of rate 0 is the largest echo; the settings found are
free values. A lane that was DOWN asks for its first missing step-frame and replays its packets. -/
def State.trainDone (s : State) (l : Nat) : State :=
  let v := s.lane l
  if (v.state ≠ .training ∧ v.state ≠ .down) ∨ v.ready = false ∨ s.pairHeld l then s
  else
    let a := s.fresh 8
    let b := a.2.fresh 8
    let c := b.2.fresh 8
    let d := if v.rate = 0 then v.echoes.foldl max 0 else v.trained
    let s := c.2.setLane l
      { v with state := .up, trained := d, live := d, d0 := none, stored := true, trainDue := false, phase := 0, scram := scramSeed
               preLast := 0, eqPre := a.1, eqMain := b.1, eqPost := c.1, credits := [16, 16, 16], uncorr64 := [], farSleep := false
               replayN := 0, relink := decide (v.state = .down), replayAt := if v.unacked = [] then none else some 0
               replays := if v.unacked = [] then v.replays else satAdd 32 v.replays 1 }
    let s := forEach (quadLanes (laneQuad l)) (fun k t => t.updLane k fun w => { w with crossed := w.stored && t.isCrossed k }) s
    let s := if v.state = .down then s.askResend l true else s
    ((s.watchDrift l).endDown (laneQuad l)).endTrain

def execLaneTrainingDone (lane : Nat) (s : State) : Host.Outcome State Fault Refusal := laneRow lane s fun t => t.trainDone lane

/-- Training fails (R315, R320): the lane stays idle, or DOWN until the next retry. -/
def State.failTrain (s : State) (l : Nat) : State :=
  let v := s.lane l
  if v.state = .training then (s.setLane l { v with state := .idleUntrained, trainDue := false, phase := 0 }).endTrain
  else if v.state = .down then s.setLane l { v with trainDue := false, phase := 0 } else s

def execTrainingTimeout (lane : Nat) (s : State) : Host.Outcome State Fault Refusal := laneRow lane s fun t => t.failTrain lane

/-- LANE_RETRY (R320): a DOWN lane tries again, first from stored settings and then by full training. -/
def execLaneRetry (lane : Nat) (s : State) : Host.Outcome State Fault Refusal :=
  laneRow lane s fun t => if t.pairHeld lane || t.quadHeld (laneQuad lane) then t else t.updLane lane fun v =>
    if v.state = .down then
      { v with trainDue := true, phase := if v.trainDue = false ∧ v.phase = 3 then v.storedPhase else 1, farDone := 0, echoes := []
               echoTag := none, preLast := 0 }
    else v

def execLaneLockLoss (lane : Nat) (s : State) : Host.Outcome State Fault Refusal :=
  laneRow lane s fun t => if (t.lane lane).farSleep then t else t.laneDown lane

/-- HEADER_TIMEOUT (R320): a far end that announced its silence is no failure. -/
def execHeaderTimeout (lane : Nat) (s : State) : Host.Outcome State Fault Refusal :=
  laneRow lane s fun t => if (t.lane lane).farSleep then t else t.laneDown lane

/-- A packet replay starts (R312). Where sixteen in a row have not advanced the ack, the lane goes DOWN in its place. -/
def State.startReplay (s : State) (l : Nat) : State :=
  let v := s.lane l
  if v.unacked = [] ∨ v.linked = false then s
  else if 16 ≤ v.replayN then s.laneDown l
  else s.setLane l { v with replayAt := some 0, replayN := v.replayN + 1, replays := satAdd 32 v.replays 1 }

def execReplayTimeout (lane : Nat) (s : State) : Host.Outcome State Fault Refusal := laneRow lane s fun t => t.startReplay lane

/-- A quad's domain wakes (R319, R361): stored settings are restored and its lanes exit idle. -/
def State.wakeQuad (s : State) (q : Nat) : State :=
  if (s.quad q).awake then s
  else
    let s := s.updQuad q fun v => { v with awake := true }
    forEach (quadLanes q) (fun l t => t.updLane l fun v =>
      if v.state ≠ .off then v
      else if v.stored then
        let w : Lane := { v with state := .idleTrained }
        if t.pairHeld l || t.quadHeld q then w else w.exitIdle
      else { v with state := .idleUntrained }) s

-- the transmitter (R308 to R312)

/-- The words of a CTRL message (R310). -/
def CtrlMsg.words (m : CtrlMsg) : List Nat :=
  match m with
  | .stop f c => [4 + fieldAt 4 (b2n f) + fieldAt 8 c.toNat]
  | .resend tag cyc => [3 + fieldAt 4 tag + fieldAt 16 cyc]
  | .xoff => [1]
  | .xon => [2]
  | .nak p => [5 + fieldAt 4 p]
  | .join a b => [a.toNat, b.toNat]
  | .sleep => [7]

def CtrlMsg.rank (m : CtrlMsg) : Nat :=
  match m with | .stop _ _ => 0 | .resend _ _ => 1 | .xoff | .xon => 2 | .nak _ => 3 | .join _ _ => 4 | .sleep => 5

/-- Fill the eight words of a CTRL codeword in order (R310): the words, and the messages that wait. -/
def packCtrl : List CtrlMsg → List Nat → List Nat × List CtrlMsg
  | [], ws => (ws, [])
  | m :: l, ws =>
    let w := m.words
    let ws2 := if w.length = 2 ∧ ws.length % 2 = 1 then ws ++ [0] else ws
    if ws2.length + w.length ≤ 8 then packCtrl l (ws2 ++ w) else (ws, m :: l)

/-- The body of eight 72-bit words (R305). -/
def bodyOf (ws : List Nat) : BitVec 576 := BitVec.ofNat 576 (ws.foldr (fun w a => w % 2 ^ 72 + a * 2 ^ 72) 0)

/-- An echo that came in an earlier frame is answered now (R316). -/
def Lane.answers (v : Lane) (opp : Nat) : Bool := match v.echoTag with | some e => decide (e.2 / 4 < opp / 4) | none => false

/-- The body of a TRAIN codeword (R315, R316): an echo's answer with its turnaround, or in phase 3, once the far end reports phase 2 done, a
tag to echo, the count of the FRAME edge; PRBS13 in words 1 to 7. What the spec leaves to the equalisers, the tap requests, and where the
pattern begins are free. -/
def State.trainBody (s : State) (l : Nat) (v : Lane) : BitVec 576 × State :=
  let a := s.fresh 12
  let b := a.2.fresh 13
  let edge := s.opp / 4 * 4
  let echo := match v.echoTag with
    | some (tag, at_) => if v.answers s.opp then fieldAt 36 tag + fieldAt 48 ((edge - at_) % 4096) else ask edge
    | none => ask edge
  let w0 := s.boot.part.getD 0 + fieldAt 10 (b2n s.boot.part.isSome) + fieldAt 11 (laneQuad l) + fieldAt 17 (l % 4)
    + fieldAt 19 v.rate + fieldAt 21 (v.phase - 1) + fieldAt 23 (b2n v.preRx) + fieldAt 24 a.1.toNat + echo
  (BitVec.ofNat 576 (w0 + (prbsBits (patternTaps 2) 504 (b.1.toNat % 8191 + 1)).1 * 2 ^ 72), b.2)
where ask (edge : Nat) : Nat := if v.phase = 3 ∧ 2 ≤ v.farDone then fieldAt 36 (edge % 4096) else 0

/-- A TIME body as it leaves (R287 to R289): the times of its own departure are written. -/
def timeBody (s : State) (b : BitVec 576) : BitVec 576 :=
  let v := b.toNat
  let dep := s.datum.now
  let put (lo n f : Nat) (x : Nat) : Nat := putBits x lo n f
  BitVec.ofNat 576
    (if bitsOf v 0 4 = 0 then
      (if bitsOf v 4 4 = 0 then put 256 32 s.datum.epoch.toNat (put 64 64 dep.toNat v)
       else put 128 64 (BitVec.ofNat 64 (bitsOf v 128 64) + dep).toNat v)
    else put 64 64 dep.toNat v)

/-- A codeword of a type leaves a lane. -/
def State.emit (s : State) (l : Nat) (v : Lane) (type vc : Nat) (retx : Bool) (stepTag cyc pseq : Nat) (body : BitVec 576) : State :=
  let train := decide (type = 5)
  let freed := v.freed.map (min 3)
  let credit := freed.getD 0 0 + 4 * freed.getD 1 0 + 16 * freed.getD 2 0
  let hdr := headerBits type vc (v.holdOut && !train) retx stepTag cyc pseq ((v.rxSeq + 255) % 256) credit
  let payload : BitVec 640 := BitVec.ofNat 640 (hdr + body.toNat * 2 ^ 64)
  let r := sendLine v train payload
  (s.setLane l { r.2 with freed := v.freed.map fun n => n - 3 }).setSent { s.sent with cws := s.sent.cws ++ [(l, type, payload, r.1)] }

/-- A CTRL codeword with messages leaves a lane (R310); those that do not fit wait. -/
def State.sendCtrl (s : State) (l : Nat) (ms : List CtrlMsg) : State :=
  let c := packCtrl (sortBy CtrlMsg.rank ms) []
  s.emit l { s.lane l with ctrl := c.2 } 4 0 false 0 0 0 (bodyOf c.1)

/-- Frames for which a sender keeps a SCHED codeword (R127). -/
def State.keepFrames (s : State) (l : Nat) : Nat := (2 * classLimit (s.quad (laneQuad l)).cls + 32) / 4

/-- The first flit that may go: its VC has a credit (R309, R311). -/
def readyFlit (credits : List Nat) : List (Nat × BitVec 576) → Option (Nat × BitVec 576)
  | [] => none
  | f :: l => if 0 < credits.getD f.1 0 then some f else readyFlit credits l

/-- A lane in TEST sends 340 symbols of its pattern (R322), recorded as type 16. A generator starts at a free position. -/
def sendPattern (s : State) (l : Nat) : State :=
  let v := s.lane l
  if v.gen = 0 then s
  else
    let a := s.fresh 31
    let seed := v.patt = 0 ∧ v.gen ≤ 3
    let v := if seed then { v with patt := a.1.toNat % (2 ^ (patternTaps v.gen).headD 1 - 1) + 1 } else v
    let b := v.patternBits
    let r := lineOut { v with patt := b.2 } v.preTx b.1
    ((if seed then a.2 else s).setLane l r.2).setSent { s.sent with cws := s.sent.cws ++ [(l, 16, 0, r.1)] }

/-- CODEWORD_TRANSMIT: the highest-ranked codeword that is ready (R309). A lane that must stay idle (R242, R329) sends nothing once it has
announced its silence. -/
def transmit (s : State) (l : Nat) : State :=
  let v := s.lane l
  if v.state = .test then sendPattern s l
  else if v.fec ≠ 0 ∨ v.held ∨ (s.pairHeld l ∧ v.ctrl.contains .sleep = false) then s
  else if v.trainDue then
    let t := s.trainBody l v
    let up := decide (v.burst = 1)
    let w : Lane := { v with echoTag := if v.answers s.opp then none else v.echoTag, burst := v.burst - 1 }
    t.2.emit l (if up then { w with state := .up, trainDue := false, phase := 0, scram := scramSeed } else w) 5 0 false 0 0 0 t.1
  else if v.state ≠ .up then s
  else if v.ctrl ≠ [] then
    let t := s.sendCtrl l v.ctrl
    if v.ctrl.contains .sleep && !(t.lane l).ctrl.contains .sleep then t.updLane l fun w => { w with state := .idleTrained } else t
  else match v.reTx, v.cargoQ, v.timeQ, v.replayAt with
    | c :: rest, _, _, _ =>
      s.emit l { v with reTx := rest } 1 0 true c.stepTag c.cyc 0 (bodyOf (c.words.map BitVec.toNat))
    | [], c :: rest, _, _ =>
      let now := s.opp / 4
      let kept := (v.retained.filter fun x => decide (now ≤ x.1 + s.keepFrames l)) ++ [(now, c)]
      s.emit l { v with cargoQ := rest, retained := kept } 1 0 false c.stepTag c.cyc 0 (bodyOf (c.words.map BitVec.toNat))
    | [], [], b :: rest, _ =>
      let t := s.emit l { v with timeQ := rest } 3 0 false 0 0 0 (timeBody s b)
      if bitsOf b.toNat 0 4 = 1 then t.updQuad (laneQuad l) fun q => { q with reqTime := some s.datum.now } else t
    | [], [], [], some i =>
      match v.unacked[i]? with
      | some (p, vc, b) =>
        s.emit l { v with replayAt := if i + 1 < v.unacked.length then some (i + 1) else none } 2 vc true 0 0 p b
      | none => s.emit l { v with replayAt := none } 0 0 false 0 0 0 0
    | [], [], [], none =>
      match (if v.unacked.length < 64 then readyFlit v.credits v.flits else none) with
      | some (vc, b) =>
        s.emit l { v with flits := dropFirst (fun x => decide (x = (vc, b))) v.flits, txSeq := (v.txSeq + 1) % 256
                          unacked := v.unacked ++ [(v.txSeq, vc, b)], credits := v.credits.modify vc fun n => n - 1 }
          2 vc false 0 0 v.txSeq b
      | none => s.emit l v 0 0 false 0 0 0 0

def execCodewordTransmit (lane : Nat) (s : State) : Host.Outcome State Fault Refusal := laneRow lane s fun t => transmit t lane

/-- SCHED_CODEWORD_QUEUE (R308). -/
def execSchedCodewordQueue (lane : Nat) (s : State) : Host.Outcome State Fault Refusal :=
  laneRow lane s fun t => t.updLane lane fun v => { v with cargoQ := v.cargoQ ++ v.complete, complete := [] }

-- test features (R322, R323)

/-- What a locked checker has checked and found in error since it locked, or since it last told (R322). DESIGN CHOICE 69. -/
def Lane.checked (v : Lane) (syms errs : Nat) : Lane :=
  if v.state = .test ∧ v.chkLock then { v with errCnt := satAdd 48 v.errCnt errs, testSym := satAdd 48 v.testSym syms } else v

/-- CHECKER_LOCK: 64 error-free symbols in a row. -/
def execCheckerLock (rx : CheckerRx) (s : State) : Host.Outcome State Fault Refusal :=
  laneRow rx.lane s fun t => t.updLane rx.lane fun v =>
    let w := v.checked rx.syms rx.errs
    if v.state = .test ∧ v.chk ≠ 0 then { w with chkLock := true } else w

/-- CHECKER_LOCK_LOSS: 32 errors within 64 symbols. -/
def execCheckerLockLoss (rx : CheckerRx) (s : State) : Host.Outcome State Fault Refusal :=
  laneRow rx.lane s fun t => t.updLane rx.lane fun v => { v.checked rx.syms rx.errs with chkLock := false }

-- commands (R324)

/-- The lanes that a lane command names. -/
def lanesOf (p : Packet) : List Nat := (maskList 4 (par p 21 1)).map (4 * par p 20 1 + ·)

/-- The checks common to the lane commands. -/
def laneChecks (p : Packet) (s : State) (rights : Bool) (bad : Bool) (ok : Ans) : Ans :=
  checks s [(!rights, errOwner, 0), (s.quadLocked p.session (par p 20 1), errLock, 0),
    (decide (s.phase = 1), errState, 0x20), (bad, errState, 0)] ok

def laneParOk (p : Packet) : Bool := decide (par p 20 1 < 36) && decide (par p 21 1 < 16)

/-- A lane mode is consistent (R325). -/
def modeOk (rate fec : Nat) : Bool := decide (rate ≤ 2) && decide (fec ≤ 2) && !(decide (fec = 1) && decide (rate = 2))

/-- A mode becomes active and the lane retrains (R324, R325). -/
def State.laneMode (s : State) (l rate fec : Nat) (tx rx : Bool) : State :=
  let s := s.updLane l fun v =>
    let w : Lane := { v.endTest with rate := rate, fec := fec, preTx := tx, preRx := rx, stgRate := rate, stgFec := fec, stgPreTx := tx
                                     stgPreRx := rx, held := false, stored := false, crossed := false, farSleep := false }
    if fec = 0 ∧ s.pairHeld l = false then w.startTraining else { w with state := .idleUntrained, trainDue := false, phase := 0 }
  (s.endDown (laneQuad l)).endTrain

/-- The quad is bound for cargo or to a bridge, or a load holds it. -/
def State.quadBound (s : State) (q : Nat) : Bool := (s.quad q).rg.isSome || (s.quad q).bridge.isSome || s.quadHeld q

/-- The quad serves a run group that is ARMED or RUNNING. -/
def State.quadBusy (s : State) (q : Nat) : Bool := match (s.quad q).rg with | some g => (s.group g).busy | none => false

def laneConfigOwn (p : Packet) (s : State) : Ans :=
  laneChecks p s (callerPf p) (s.quadBound (par p 20 1))
    (awaken s [.quad (par p 20 1)] fun s => drained 0x0800 p s (domainRouters (.quad (par p 20 1))) fun s =>
     done (forEach (lanesOf p) (fun l t => (t.laneMode l (par p 22 1) (par p 23 1) (bitOf (par p 24 1) 0) (bitOf (par p 24 1) 1)).noteCommit 0x20 l 0) s))

def execLaneConfig (p : Packet) (s : State) : Host.Outcome State Fault Refusal :=
  .next (command 0x0800 p s
    (parCheck p [(20, 1), (21, 1), (22, 1), (23, 1), (24, 1)]
      (laneParOk p && modeOk (par p 22 1) (par p 23 1) && decide (par p 24 1 < 4)))
    (decide (par p 21 1 = 0)) (laneConfigOwn p s))

/-- LANE_TRAIN. DEDUCED 24: a lane that speaks no Fjarlek, or is held by an inconsistent pair, a bridge's quad or the pairing mode, does
not train and counts as failed. -/
def laneTrainOwn (p : Packet) (s : State) : Ans :=
  laneChecks p s (callerPf p) (s.quadBusy (par p 20 1) || s.quadHeld (par p 20 1))
    (awaken s [.quad (par p 20 1)] fun s =>
     let s := forEach (lanesOf p) (fun l t => t.updLane l fun v =>
       if v.fec ≠ 0 ∨ v.held ∨ t.pairHeld l then v
       else
         let w := v.startTraining
         { w with phase := if par p 22 1 = 1 ∧ v.stored then w.storedPhase else 1 }) s
     .park (.train (par p 20 1) (par p 21 1)) (s.endDown (par p 20 1)))

def execLaneTrain (p : Packet) (s : State) : Host.Outcome State Fault Refusal :=
  .next (State.settle (State.endTrain (command 0x0801 p s
    (parCheck p [(20, 1), (21, 1), (22, 1)] (laneParOk p && decide (par p 22 1 < 2))) (decide (par p 21 1 = 0)) (laneTrainOwn p s))))

/-- LANE_IDLE: nothing to change is OK_ALREADY. The lanes that a load holds stay idle (R203). -/
def laneIdleOwn (p : Packet) (s : State) : Ans :=
  let enter := decide (par p 22 1 = 0)
  laneChecks p s (callerPf p) ((enter && s.quadBusy (par p 20 1)) || s.quadHeld (par p 20 1))
    (awaken s [.quad (par p 20 1)] fun s =>
     let t := forEach (lanesOf p) (fun l x => x.updLane l fun v => if enter then v.goIdle else if x.pairHeld l then v else v.exitIdle) s
     if (lanesOf p).all fun l => decide (t.lane l = s.lane l) then fail s okAlready else done t)

def execLaneIdle (p : Packet) (s : State) : Host.Outcome State Fault Refusal :=
  .next (command 0x0802 p s (parCheck p [(20, 1), (21, 1), (22, 1)] (laneParOk p && decide (par p 22 1 < 2)))
    (decide (par p 21 1 = 0)) (laneIdleOwn p s))

/-- LANE_PATTERN (R322): a pattern puts the lane into TEST, and none returns a lane in TEST to idle. DESIGN CHOICE 98: on a lane that must stay idle
(R242) ERR_STATE. -/
def lanePatternOwn (p : Packet) (s : State) : Ans :=
  let off := decide (par p 22 1 = 0) && decide (par p 23 1 = 0)
  laneChecks p s (callerPf p) (s.quadBound (par p 20 1) || s.pairHeld (4 * par p 20 1))
    (awaken s [.quad (par p 20 1)] fun s => done ((forEach (lanesOf p) (fun l t => t.updLane l fun v =>
      let w : Lane := { v with gen := par p 22 1, chk := par p 23 1, chkLock := false, user := BitVec.ofNat 80 (par p 28 10), patt := 0
                               errCnt := if bitOf (par p 24 1) 0 then 0 else v.errCnt
                               testSym := if bitOf (par p 24 1) 0 then 0 else v.testSym }
      if off then (if v.state = .test then { w with state := if v.stored then .idleTrained else .idleUntrained } else w)
      else { w with state := .test, trainDue := false, burst := 0, phase := 0 }) s).endDown (par p 20 1)).endTrain)

def execLanePattern (p : Packet) (s : State) : Host.Outcome State Fault Refusal :=
  .next (command 0x0803 p s
    (parCheck p [(20, 1), (21, 1), (22, 1), (23, 1), (24, 1), (28, 10)]
      (laneParOk p && decide (par p 22 1 ≤ 5) && decide (par p 23 1 ≤ 5) && decide (par p 24 1 < 2)))
    (decide (par p 21 1 = 0)) (lanePatternOwn p s))

/-- The caller of LANE_INJECT: the physical function, or the owner of the image bound to the quad while it holds the quad's lock. -/
def injectRights (p : Packet) (s : State) : Bool :=
  let q := par p 20 1
  callerPf p || ((s.quad q).rg.isSome && decide ((s.quad q).group = callerFn p)
    && s.hub.locks.any fun l => decide (l.session = p.session) && l.onUnit 2 q)

def laneInjectOwn (p : Packet) (s : State) : Ans :=
  let kind := par p 22 1
  laneChecks p s (injectRights p s) false
    (awaken s [.quad (par p 20 1)] fun s => done (forEach (lanesOf p) (fun l t => t.updLane l fun v =>
      { v with injKind := kind, injBurst := par p 23 1, injRate := par p 24 4, injAt := 0
               injLeft := if kind = 1 then 1 else if kind = 2 then par p 23 1 else 0 }) s))

def execLaneInject (p : Packet) (s : State) : Host.Outcome State Fault Refusal :=
  .next (command 0x0804 p s
    (parCheck p [(20, 1), (21, 1), (22, 1), (23, 1), (24, 4)]
      (laneParOk p && decide (par p 22 1 ≤ 3) && decide (par p 23 1 ≤ 64)))
    (decide (par p 21 1 = 0) || (decide (par p 22 1 = 2) && decide (par p 23 1 = 0))) (laneInjectOwn p s))

end Sys2Proof.Machine
end

