-- ==== Sys2Proof/Machine/Pair.lean ====
section
/-! DEFINITION. Sheet pairing (R241, R242, R250): PAIR_SET, PAIR_RESPONSE and PAIR_DIVERGE_CLEAR. -/
namespace Sys2Proof.Machine

/-- The domains of East's replicas (R242). -/
def eastReplicas : List Domain := (List.range 18).map (fun q => .quad (18 + q)) ++ (List.range 4).map (fun b => .bridge (4 + b))

/-- The payload of a configuration record (R434): 0 pairing mode or 1 part number, the old value and the new. DESIGN CHOICE 29. -/
def configEvent (what old new : Nat) : Nat := what + fieldAt 16 old + fieldAt 32 new

/-- Enter or leave the modes in which East carries replicas (R242): its lanes enter or exit idle; its sleeping units wake, and power-downs of
its units under way end. -/
def State.pairEntered (s : State) (was : Bool) : State :=
  let s := if s.paired = was then s
    else if s.paired then
      State.endTrain (forEach ((List.range 18).map (18 + ·)) (fun q t => t.endDown q)
        (forEach eastLanes (fun l t => t.updLane l Lane.toIdle) s))
    else forEach eastLanes (fun l t => if t.pairHeld l then t else t.updLane l Lane.exitIdle) s
  let s := if s.paired then eastReplicas.foldl (fun t d => t.callDomain d false) s else s
  forEach [4, 5, 6, 7] (fun b t => t.relink b) s
where eastLanes : List Nat := (List.range 72).map (72 + ·)

/-- PAIR_SET (R242). A wait for East's wakes parks the command. -/
def pairSetOwn (p : Packet) (s : State) : Ans :=
  let mode := par p 20 1
  let old := s.boot.pairMode
  checks s
    [(!callerPf p, errOwner, 0),
     ((List.range 36).any fun q => s.quadLocked p.session q, errLock, 0),
     ((List.range 32).any fun i => !s.failed i && (decide ((s.parcel i).load ≠ .unowned) || (s.parcel i).owned), errState, 0),
     (decide (mode = old), okAlready, 0)]
    (drained 0x0C10 p s (if s.paired = decide (2 ≤ mode) then [] else (eastReplicas.flatMap domainRouters).eraseDups) fun s =>
     let t := s.setBoot { s.boot with pairMode := mode }
     let t := (t.logHub 0x60 0 (configEvent 0 old mode)).pairEntered s.paired
     if t.paired && eastReplicas.any t.unready then .park .pairWake t else done t)

def execPairSet (p : Packet) (s : State) : Host.Outcome State Fault Refusal :=
  .next (command 0x0C10 p s (parCheck p [(20, 1)] (decide (par p 20 1 < 4))) false (pairSetOwn p s))

/-- The run group that a mask names, after the mask, ownership and lock checks, in a mode that fits. -/
def pairGroup (p : Packet) (s : State) (modes : List Nat) : Except (Nat × Nat) Nat :=
  match ownedGroup p s with
  | .error e => .error e
  | .ok g => if modes.contains s.boot.pairMode then .ok g else .error (errState, 0)

/-- PAIR_RESPONSE (R250): switching to 1 releases source 8 at once. -/
def pairResponseOwn (p : Packet) (s : State) : Ans :=
  match pairGroup p s [2] with
  | .error (st, d) => fail s st d
  | .ok g =>
    let response := par p 24 1
    done (s.updGroup g fun r => { r with response := response, divHeld := r.divHeld && decide (response = 0) })

def execPairResponse (p : Packet) (s : State) : Host.Outcome State Fault Refusal :=
  .next (command 0x0C12 p s (parCheck p [(20, 4), (24, 1)] (decide (par p 24 1 < 2))) (decide (par p 20 4 = 0)) (pairResponseOwn p s))

/-- PAIR_DIVERGE_CLEAR (R250, R253): the record but div_count is cleared, source 8 released, and compare resumes with the next
cycle: a compare that is still due does not run, nor does that of the cycle in progress. The episode ends (R421). -/
def pairDivergeClearOwn (p : Packet) (s : State) : Ans :=
  match pairGroup p s [2, 3] with
  | .error (st, d) => fail s st d
  | .ok g =>
    if (s.group g).diverged = false then fail s okAlready
    else
      let unit := clParcel (s.group g).firstCl
      let s := s.updGroup g fun r =>
        { r with diverged := false, divHeld := false, firstCl := 0, firstEnt := 0, divCycle := 0, westSig := 0, eastSig := 0, divN := 0
                 sigHold := decide (r.state = .running), sigDue := false }
      done (s.endEpisode unit 0x1010)

def execPairDivergeClear (p : Packet) (s : State) : Host.Outcome State Fault Refusal :=
  .next (command 0x0C11 p s (parCheck p [(20, 4)] true) (decide (par p 20 4 = 0)) (pairDivergeClearOwn p s))

end Sys2Proof.Machine
end

