-- ==== Sys2Proof/Machine/Session.lean ====
section
/-! DEFINITION. Sessions (R367 to R377, R385 to R392): rings and doorbells, fetch and dispatch, cancelling and resetting. -/
namespace Sys2Proof.Machine

-- functions (R368)

/-- A function is enabled (R368). -/
def State.fnEnabled (s : State) (f : Nat) : Bool := decide (f = 0) || (s.hub.vfEnable && decide (f ≤ s.hub.numVfs) && decide (f < 64))

/-- A row that names a session. -/
def sessRow (i : Nat) (s : State) (f : State → State) : Host.Outcome State Fault Refusal :=
  if i < 1024 then .next (if s.clocked then (f s).settle else s) else .fault .noSuchUnit

-- cancelling (R389, R390, R400)

/-- A RUN_STOP's codeword has not gone out on any lane: its message still waits on each (R400). -/
def State.stopUnsent (s : State) (g : Nat) (c : Word) : Bool :=
  (s.outLanes g).all fun l => (s.lane l).ctrl.contains (.stop false c)

/-- Withdraw the stop of a RUN_STOP, unless another one waits for the same cycle. -/
def State.dropStop (s : State) (g : Nat) (c : Word) : State :=
  let same := (s.hub.entries.filter fun e => decide (e.wait? = some (.runStop g c))).length
  if 1 < same then s
  else
    let s := s.updGroup g fun r =>
      { r with stops := r.stops.filter fun q => decide (q ≠ { cause := 2, cycle := c }), seenStops := r.seenStops.filter (· ≠ c) }
    forEach (s.outLanes g) (fun l t => t.updLane l fun v => { v with ctrl := v.ctrl.filter (· ≠ .stop false c) }) s

/-- Cancel a parked command (R390, R400): the state, and the outcome of R389. -/
def cancelParked (s : State) (e : Entry) (w : Wait) : State × Nat :=
  let end_ (t : State) : State × Nat := (t.finishEntry e errCancelled 0 0, 1)
  match w with
  | .runStart g => (s.disarm g, 1)
  | .runStop g c =>
    if (s.group g).joined && !s.stopUnsent g c then (s, 2) else end_ (s.dropStop g c)
  | .pauseRaise g t =>
    end_ (s.updGroup g fun r => { r with pauses := dropFirst (fun q => !q.raised && decide (q.pauseTime = t)) r.pauses })
  | .pauseRelease g =>
    end_ (s.updGroup g fun r => { r with pauses := r.pauses.map fun q => { q with again := none } })
  | .commit g _ =>
    let t := (end_ s).1
    (if t.commitWaits g fun _ => true then t else forEach (t.group g).parcels (fun p u => u.updParcel p fun v => { v with commitPend := false }) t, 1)
  | .arm g _ => end_ (s.updGroup g fun r => { r with traceArm := none, armWaits := false })
  | .survey g m =>
    match (s.group g).surveys.find? (·.named m) with
    | some q =>
      if q.taking then (s, 2)
      else end_ ((s.setSv ((s.group g).surveyed q) .idle).updGroup g fun r =>
        { r with surveys := r.surveys.filter fun x => decide (x ≠ q) })
    | none => (s, 2)
  | .join _ => end_ s
  | .pulse k => end_ (s.setTrigOut k { s.trigOutPin k with newTrain := none })
  | .domains _ | .drain _ => end_ s
  | .bank c _ n _ a id => (((s.dropAccess c id).finishEntry e errCancelled 0 (memResults n a)).pauseAfter c, 1)
  | _ => (s, 2)

/-- Cancel an entry (R389). -/
def cancelEntry (s : State) (e : Entry) : State × Nat :=
  match e.state with
  | .queued | .prefetched _ => (s.finishEntry e errCancelled 0 0, 0)
  | .executing _ c => cancelWork s e c
  | .parked w => cancelParked s e w
  | .ready _ => (s.finishEntry e errCancelled 0 0, 1)
  | .done _ => (s, 2)

/-- CMD_CANCEL (R389). A cancel that matches itself cannot be stopped. -/
def cmdCancelOwn (p : Packet) (s : State) : Ans :=
  let i := 16 * callerFn p + par p 20 1
  let tag := BitVec.ofNat 32 (par p 24 4)
  match s.hub.entries.find? fun e => decide (e.pkt.session = i) && decide (e.pkt.tag = tag) with
  | none => .reply okAlready 0 3 s
  | some e =>
    if e.waiting && decide (e.opcode = 1) && decide (e.pkt = p) then done s 2
    else let r := cancelEntry s e; done r.1 r.2

def cmdCancel (p : Packet) (s : State) : State :=
  command 0x0001 p s (parCheck p [(20, 1), (24, 4)] (decide (par p 20 1 < 16))) false (cmdCancelOwn p s)

def execCmdCancel (p : Packet) (s : State) : Host.Outcome State Fault Refusal := .next (cmdCancel p s)

def execSessionNop (p : Packet) (s : State) : Host.Outcome State Fault Refusal :=
  .next (command 0x0000 p s (parCheck p [] true) false (done s))

-- resetting (R369, R392)

/-- Cancel every command that a session has in flight. -/
def State.cancelAll (s : State) (i : Nat) : State :=
  (s.hub.entries.filter fun e => decide (e.pkt.session = i)).foldl (fun t e => (cancelEntry t e).1) s

/-- A session of a function is ENABLED. -/
def State.fnLive (s : State) (f : Nat) : Bool := (List.range 16).any fun k => decide ((s.sess (16 * f + k)).state = .enabled)

/-- A session is reset (R392): RESETTING, its commands cancelled, its locks orphaned; the group's parcels undergo R222 when it was the
last ENABLED one of its function. -/
def State.resetSession (s : State) (i : Nat) : State :=
  let st := (s.sess i).state
  if st = .disabled ∨ st = .resetting then s
  else
    let s := ((s.updSess i fun v => { v with state := .resetting }).cancelAll i).freeLocks true fun l => decide (l.session = i)
    if st = .enabled ∧ s.fnLive (i / 16) = false then s.surrender (i / 16) else s

/-- SESSION_RESET (R392). -/
def sessionResetOwn (p : Packet) (s : State) : Ans :=
  let i := 16 * callerFn p + par p 20 1
  let t := s.resetSession i
  if i = p.session then .silent t
  else if (t.sess i).state = .disabled then done t
  else .park (.sessReset i) t

def execSessionReset (p : Packet) (s : State) : Host.Outcome State Fault Refusal :=
  .next (command 0x0002 p s (parCheck p [(20, 1)] (decide (par p 20 1 < 16))) false (sessionResetOwn p s))

/-- Every session of a function is reset, and its parcels undergo R222 (R369). -/
def State.resetFunction (s : State) (f : Nat) : State :=
  (forEach (List.range 16) (fun k t => t.resetSession (16 * f + k)) s).surrender f

/-- FUNCTION_LEVEL_RESET: that of the physical function acts on all 64, and removes the others. -/
def execFunctionLevelReset (function : Nat) (s : State) : Host.Outcome State Fault Refusal :=
  if function = 0 then
    let t := forEach (List.range 64) (fun f t => t.resetFunction f) s
    .next (t.setHub { t.hub with vfEnable := false, numVfs := 0 }).settle
  else if function < 64 then .next (s.resetFunction function).settle
  else .fault .noSuchUnit

/-- VF_ENABLE_CHANGE (R369): every function that it removes is reset. -/
def vfEnableChange (s : State) (enable : Bool) (n : Nat) : State :=
  let t := s.setHub { s.hub with vfEnable := enable, numVfs := n }
  forEach ((List.range 64).filter fun f => s.fnEnabled f && !t.fnEnabled f) (fun f u => u.resetFunction f) t

def execVfEnableChange (enable : Bool) (numVfs : Nat) (s : State) : Host.Outcome State Fault Refusal :=
  if numVfs < 64 then .next (vfEnableChange s enable numVfs).settle else .fault .noSuchUnit

-- rings and doorbells (R372 to R377)

/-- A tail that moves on over fetched entries only (R375). -/
def tailOk (v : Session) (t : Nat) : Bool :=
  let n := 2 ^ v.sqLog
  decide (t < n) && decide ((v.sqTail + n - v.sqHead) % n ≤ (t + n - v.sqHead) % n)

/-- SQ_TAIL. -/
def sqTail (s : State) (i : Nat) (value : Word) : State :=
  let v := s.sess i
  let t := bitsOf value.toNat 0 12
  if v.state ≠ .enabled then s
  else if tailOk v t then s.setSess i { v with sqTail := t } else s.sessionError i 2

def execSqTail (session : Nat) (value : BitVec 64) (s : State) : Host.Outcome State Fault Refusal :=
  sessRow session s fun t => sqTail t session value

/-- A head on the path from the old head to cq_tail (R376). -/
def headOk (v : Session) (h : Nat) : Bool :=
  let n := 2 ^ v.cqLog
  decide (h < n) && decide ((h + n - v.cqHead) % n ≤ (v.cqTail + n - v.cqHead) % n)

/-- CQ_HEAD: replies that waited for room are released. -/
def cqHead (s : State) (i : Nat) (value : Word) : State :=
  let v := s.sess i
  let h := bitsOf value.toNat 0 13
  if v.ringed = false then s
  else if headOk v h then s.setSess i { v with cqHead := h }
  else s.sessionError i 2

def execCqHead (session : Nat) (value : BitVec 64) (s : State) : Host.Outcome State Fault Refusal :=
  sessRow session s fun t => cqHead t session value

/-- The configuration checks of R373. -/
def Session.configOk (v : Session) : Bool :=
  decide (v.sqBase ≠ 0) && decide (v.cqBase ≠ 0) && decide (4 ≤ v.sqLog) && decide (v.sqLog ≤ 12) && decide (v.sqLog ≤ v.cqLog)
    && decide (v.cqLog ≤ 13) && (!v.wbEn || decide (v.wbAddr ≠ 0))

/-- A write of SESS_CTL (R372, R373, R392): its fields, then a reset, or the enabling of a DISABLED session. -/
def State.writeCtl (s : State) (i : Nat) (value : Word) : State :=
  let x := value.toNat
  let s := s.updSess i fun v =>
    { v with prio := if 16 ≤ i ∧ bitsOf x 2 2 = 0 then 1 else bitsOf x 2 2
             vector := bitsOf x 4 5, coalCnt := bitsOf x 9 8, coalUs := bitsOf x 17 11, wbEn := bitOf x 28 }
  let v := s.sess i
  if bitOf x 1 || !bitOf x 0 then (s.updSess i fun v => { v with enable := v.enable && bitOf x 0 }).resetSession i
  else if v.state ≠ .disabled then s
  else if v.configOk && s.fnEnabled (i / 16) then
    s.setSess i { v with enable := true, state := .enabled, sqHead := 0, sqTail := 0, cqHead := 0, cqTail := 0, errCause := 0, unsig := 0 }
  else s.setSess i { v with enable := false, errCause := 1 }

def execSessCtlEnable (session : Nat) (value : BitVec 64) (s : State) : Host.Outcome State Fault Refusal :=
  sessRow session s fun t => t.writeCtl session value

def execSessCtlReset (session : Nat) (value : BitVec 64) (s : State) : Host.Outcome State Fault Refusal :=
  sessRow session s fun t => t.writeCtl session value

/-- The interrupts of a function that were pending and are not masked any more go out (R377). -/
def State.unmask (s : State) (f : Nat) : State :=
  forEach (List.range 32) (fun v t =>
    if bitOf (t.msixPending f) v && !bitOf (t.msixWord f (2 * v + 1)).toNat 32 then
      (t.setMsixPending f (t.msixPending f - 2 ^ v)).irq f v
    else t) s

/-- Offset `o` of a session block is written (R372). -/
def writeSess (s : State) (i o : Nat) (value : Word) : State :=
  let x := value.toNat
  let idle (f : Session → Session) : State := if (s.sess i).state = .disabled then s.updSess i f else s
  match o with
  | 0x00 => idle fun v => { v with sqBase := BitVec.ofNat 64 (x / 4096 * 4096) }
  | 0x08 => idle fun v => { v with cqBase := BitVec.ofNat 64 (x / 4096 * 4096) }
  | 0x10 => idle fun v => { v with sqLog := bitsOf x 0 4, cqLog := bitsOf x 4 4 }
  | 0x18 => idle fun v => { v with wbAddr := BitVec.ofNat 64 (x / 8 * 8) }
  | 0x20 => s.writeCtl i value
  | 0x28 => sqTail s i value
  | 0x30 => cqHead s i value
  | _ => s

/-- A half of a quadword of the MSI-X table. -/
def halfWord (old : Word) (upper : Bool) (value : Word) : Word :=
  let h := bitsOf value.toNat 0 32
  BitVec.ofNat 64 (if upper then bitsOf old.toNat 0 32 + h * 2 ^ 32 else h + bitsOf old.toNat 32 32 * 2 ^ 32)

/-- BAR0_REGISTER_WRITE (R370) of 8 bytes, or of 4 in the MSI-X table: a write to an offset that is not listed is ignored, and so is one of
another width (DESIGN CHOICE 104). -/
def bar0Write (s : State) (f o size : Nat) (value : Word) : State :=
  let q := (o - 0x8000) / 8
  if size = 8 ∧ 0x1000 ≤ o ∧ o < 0x2000 ∧ o % 8 = 0 then writeSess s (16 * f + (o - 0x1000) / 256) (o % 256) value
  else if size = 8 ∧ 0x8000 ≤ o ∧ o < 0x8200 ∧ o % 8 = 0 then (s.setMsixWord f q value).unmask f
  else if size = 4 ∧ 0x8000 ≤ o ∧ o < 0x8200 ∧ o % 4 = 0 then (s.setMsixWord f q (halfWord (s.msixWord f q) (o % 8 = 4) value)).unmask f
  else s

def execBar0RegisterWrite (function offset : Nat) (value : BarValue) (s : State) : Host.Outcome State Fault Refusal :=
  if function < 64 then .next (if s.clocked ∧ s.fnEnabled function then (bar0Write s function offset value.size value.data).settle else s)
  else .fault .noSuchUnit

/-- COALESCING_TIMER (R377). -/
def execCoalescingTimer (session : Nat) (s : State) : Host.Outcome State Fault Refusal :=
  sessRow session s fun t => if (t.sess session).coalUs ≠ 0 ∧ 0 < (t.sess session).unsig then t.signal session else t

-- fetch and dispatch (R385 to R388, R391)

/-- The packet of 64 bytes at a host address, with its opcode (R378). -/
def packetAt (m : Memory) (i a : Nat) : Nat × Packet :=
  (memNat m a 2,
   { session := i, flow := memNat m (a + 2) 1, flags := BitVec.ofNat 8 (memNat m (a + 3) 1), tag := BitVec.ofNat 32 (memNat m (a + 4) 4)
     buf := BitVec.ofNat 64 (memNat m (a + 8) 8), len := BitVec.ofNat 32 (memNat m (a + 16) 4)
     params := BitVec.ofNat 352 (memNat m (a + 20) 44) })

/-- Fetch up to `n` commands of a session. A CMD_CANCEL acts as it is fetched (R389). A ring read that fails puts the session into ERROR
(R375). -/
def fetchFrom (i : Nat) : Nat → State → State
  | 0, s => s
  | n + 1, s =>
    let v := s.sess i
    if v.state ≠ .enabled ∨ v.sqHead = v.sqTail ∨ s.entryFree i = false then s
    else if s.hostFails (v.sqBase.toNat + 64 * v.sqHead) then s.sessionError i 3
    else
      let c := packetAt s.hostMem i (v.sqBase.toNat + 64 * v.sqHead)
      let s := s.setSess i { v with sqHead := (v.sqHead + 1) % 2 ^ v.sqLog }
      let s := s.setEntries (s.hub.entries ++ [{ opcode := c.1, pkt := c.2, state := .queued }])
      fetchFrom i n (if c.1 = 1 then cmdCancel c.2 s else s)

/-- The first number of a list at or after `k`, else the first. -/
def nextFrom (k : Nat) (l : List Nat) : Option Nat :=
  match l.find? (fun i => decide (k ≤ i)) with
  | some i => some i
  | none => l.head?

/-- COMMAND_FETCH: one visit of the fetch engine (R385). While PERST_N is low the link is down. -/
def commandFetch (s : State) : State :=
  if s.hubUp = false ∨ s.boot.perstN = false then s
  else
    let waiting := s.enabledSessions.filter fun i => decide ((s.sess i).sqHead ≠ (s.sess i).sqTail)
    match nextFrom s.hub.fetchAt waiting with
    | none => s
    | some i => fetchFrom i 8 (s.setHub { s.hub with fetchAt := i + 1 })

def execCommandFetch (s : State) : Host.Outcome State Fault Refusal := .next (commandFetch s).settle

/-- The pattern of 15 turns (R386). DEDUCED 28: interleaved so that each level's turns are evenly spread. -/
def turnLevel (t : Nat) : Nat :=
  [0, 1, 0, 2, 0, 1, 0, 3, 0, 1, 0, 2, 0, 1, 0].getD t 0

/-- Choose a session for a turn: the first level from the turn's own on that has an eligible one, and the next in its rotation. -/
def State.chooseSession (s : State) : Option (Nat × Nat) :=
  let ready := ((s.hub.entries.map fun e => e.pkt.session).eraseDups.mergeSort (fun a b => decide (a ≤ b))).filter fun i => (s.eligible i).isSome
  ((List.range 4).map fun k => (turnLevel s.hub.turn + k) % 4).findSome? fun lv =>
    (nextFrom (s.hub.rr.getD lv 0) (ready.filter fun i => decide ((s.sess i).prio = lv))).map fun i => (lv, i)

/-- Fill the prefetch slot of one worker, if it is empty. -/
def fillSlot (w : Nat) (s : State) : State :=
  if s.hub.entries.any fun e => decide (e.state = .prefetched w) then s
  else match s.chooseSession with
    | none => s
    | some (lv, i) =>
      match s.eligible i with
      | none => s
      | some e => s.setHub { s.hub with
          entries := updFirst (fun x => decide (x = e)) (fun x => { x with state := .prefetched w }) s.hub.entries
          turn := (s.hub.turn + 1) % 15, rr := s.hub.rr.set lv (i + 1) }

-- undefined opcodes (R381, R396)

/-- The opcodes that the index defines (R396). -/
def definedOpcodes : List Nat :=
  [0x0000, 0x0001, 0x0002, 0x0100, 0x0101, 0x0102, 0x0103, 0x0110, 0x0111, 0x0112, 0x0200, 0x0201, 0x0202, 0x0203, 0x0204, 0x0210,
   0x0211, 0x0212, 0x0220, 0x0221, 0x0300, 0x0301, 0x0302, 0x0303, 0x0400, 0x0401, 0x0500, 0x0501, 0x0502, 0x0510, 0x0600, 0x0601,
   0x0602, 0x0603, 0x0604, 0x0700, 0x0701, 0x0702, 0x0703, 0x0704, 0x0705, 0x0800, 0x0801, 0x0802, 0x0803, 0x0804, 0x0810, 0x0900,
   0x0901, 0x0902, 0x0A00, 0x0A01, 0x0A02, 0x0B00, 0x0B01, 0x0B02, 0x0B10, 0x0B11, 0x0C00, 0x0C01, 0x0C02, 0x0C03, 0x0C10, 0x0C11,
   0x0C12, 0x0C20, 0x0D00, 0x0D01, 0x0D02, 0x0D03, 0x0D10]

/-- UNDEFINED_OPCODE: a defined opcode has a row of its own. -/
def execUndefinedOpcode (opcode : BitVec 16) (p : Packet) (s : State) : Host.Outcome State Fault Refusal :=
  .next (if s.hubUp = false ∨ definedOpcodes.contains opcode.toNat then s
    else gated opcode.toNat p s (conclude opcode.toNat p (fail s 0x8001)))

-- what a read of BAR0 gives (R370 to R372): it changes nothing, and the table has no row for it

/-- The sessions of a function in a state, as a mask of local numbers (R371). -/
def State.sessMask (s : State) (f : Nat) (st : SessState) : Nat :=
  listMask ((List.range 16).filter fun i => decide ((s.sess (16 * f + i)).state = st))

/-- FUNC_INFO (R371). -/
def funcInfo (f : Nat) : Nat := f + fieldAt 6 (b2n (f = 0)) + fieldAt 16 (16 * f)

/-- FUNC_STAT (R371). -/
def State.funcStat (s : State) (f : Nat) : Nat := s.sessMask f .enabled + fieldAt 16 (s.sessMask f .error)

/-- FUNC_PARCELS (R371). -/
def State.funcParcels (s : State) (f : Nat) : Nat := listMask ((List.range 32).filter fun p => decide (s.ownerOf p = some f))

/-- A session's state code (R372). -/
def SessState.code (x : SessState) : Nat := match x with | .disabled => 0 | .enabled => 1 | .error => 2 | .resetting => 3

/-- Offset `o` of a session block is read (R372); the doorbells are write-only. -/
def State.sessReg (s : State) (i o : Nat) : Nat :=
  let v := s.sess i
  let ringed := v.state ≠ .disabled
  match o with
  | 0x00 => v.sqBase.toNat
  | 0x08 => v.cqBase.toNat
  | 0x10 => v.sqLog + fieldAt 4 v.cqLog
  | 0x18 => v.wbAddr.toNat
  | 0x20 =>
    b2n v.enable + fieldAt 2 v.prio + fieldAt 4 v.vector + fieldAt 9 v.coalCnt + fieldAt 17 v.coalUs + fieldAt 28 (b2n v.wbEn)
  | 0x38 =>
    v.state.code + fieldAt 2 v.sqHead + fieldAt 14 (b2n (ringed ∧ (v.sqTail + 1) % 2 ^ v.sqLog = v.sqHead)) + fieldAt 15 v.cqTail
      + fieldAt 28 (b2n (ringed ∧ v.cqFull)) + fieldAt 32 (s.heldBy i) + fieldAt 48 v.errCause
  | _ => 0

/-- What a read of a function's BAR0 gives (R370): of 8 bytes, or of 4 in the MSI-X table. -/
def State.bar0Read (s : State) (f o : Nat) (size : Nat := 8) : Nat :=
  if size ≠ 8 then
    (if size = 4 ∧ 0x8000 ≤ o ∧ o < 0x8200 ∧ o % 4 = 0 then bitsOf (s.msixWord f ((o - 0x8000) / 8)).toNat (o % 8 * 8) 32 else 0)
  else if o = 0x0000 then s.legend
  else if o = 0x0008 then funcInfo f
  else if o = 0x0010 then s.funcStat f
  else if o = 0x0018 then s.funcParcels f
  else if 0x1000 ≤ o ∧ o < 0x2000 then s.sessReg (16 * f + (o - 0x1000) / 256) (o % 256)
  else if 0x8000 ≤ o ∧ o < 0x8200 ∧ o % 8 = 0 then (s.msixWord f ((o - 0x8000) / 8)).toNat
  else if o = 0x9000 then s.msixPending f
  else 0

end Sys2Proof.Machine
end

