-- ==== Sys2Proof/Machine/Power.lean ====
section
/-! DEFINITION. Powering domains down (R229, R360 to R365): what may sleep, the start, the cancelling and the completion of a
power-down, the routers that drain for it, and POWER_SET. -/
namespace Sys2Proof.Machine

/-- What keeps a stack out of self-refresh (R186, R364). -/
def State.keepsStack (s : State) (k : Nat) : Bool :=
  (s.runGroups.any fun g => (s.group g).busy && (s.group g).images.any fun i => i.allots.any fun a => decide (a.1 = k))
    || ((List.range 2).any fun e =>
      let v := s.engine e
      (decide (v.state = .armed) || decide (v.state = .filling)) && !v.onDie && decide (2 * e + v.side = k))
    || ((List.range 8).any fun b => s.insetEnabled b && decide (2 * (b / 4) + (s.bridge b).side = k))
    || s.claims.any fun c => s.stages.any fun g => decide (g.stack = k) && decide (c.desc.map (fun d => (d.source, d.image)) = some (1, g.handle))

/-- A PARCEL_ASSIGN waits for the parcel (R219). -/
def State.assignWaits (s : State) (i : Nat) : Bool :=
  s.anyParked fun w => match w with | .assign m _ => bitOf m i || (s.paired && decide (16 ≤ i) && bitOf m (i - 16)) | _ => false

/-- A domain's automatic rule applies now (R229, R361, R364): an unowned or failed parcel, a stack that nothing keeps awake, an unbound
trace engine, an unconfigured bridge. -/
def State.autoSleeps (s : State) (d : Domain) : Bool :=
  match d with
  | .parcel i => s.failed i || (!(s.parcel i).owned && decide ((s.parcel i).load = .unowned) && !(s.parcel i).clearing && !s.assignWaits i)
  | .stack k => !s.keepsStack k
  | .trace e => decide ((s.engine e).state = .unbound)
  | .bridge b => decide ((s.bridge b).pmd = 0) && !(s.paired && decide (4 ≤ b))
  | _ => false

/-- A quad that may not sleep: bound for cargo or to a bridge, a lane in TEST, or East's while the mode keeps it awake. -/
def State.keepsQuad (s : State) (q : Nat) : Bool :=
  s.quadBound q || ((quadLanes q).any fun l => decide ((s.lane l).state = .test)) || (s.paired && decide (18 ≤ q))

/-- What keeps a domain awake now, whatever began its power-down (R229, R242, R255, R364, R365). -/
def State.staysUp (s : State) (d : Domain) : Bool :=
  match d with
  | .parcel i => !s.failed i && decide ((s.parcel i).load ≠ .unowned) && decide ((s.parcel i).load ≠ .blank)
  | .stack k => s.keepsStack k
  | .quad q => s.keepsQuad q
  | _ => !s.autoSleeps d

/-- A power-down begins (R360, R363): its routers start to drain. -/
def State.startDown (s : State) (d : Domain) : State :=
  if s.isAsleep d || s.isDown d then s
  else s.setNet { s.net with down := s.net.down ++ [d], draining := s.net.draining ++ (domainRouters d).map fun r => (d, r) }

/-- The supply of a domain is removed (R229, R361): what it loses. A quad keeps its equaliser settings, a stack its data. Its lanes that
carry traffic announce their silence first (R319). -/
def State.powerOff (s : State) (d : Domain) : State :=
  match d with
  | .parcel i => (s.clearClusters (parcelClusters i)).updParcel i fun v => { v with asleep := true, clearing := false }
  | .stack k => s.updStack k fun v => { v with asleep := true }
  | .quad q =>
    State.endTrain (State.endDown (forEach (quadLanes q) (fun l t => t.updLane l fun v =>
      { v.endTest.noCargo with state := .off, trainDue := false, phase := 0, burst := 0, relink := false, ctrl := [], echoes := [], echoTag := none, flits := []
                               unacked := [], replayAt := none, replayN := 0, txSeq := 0, rxSeq := 0, timeQ := [], rxFlits := [] })
      (State.updQuad (forEach (quadLanes q) (fun l t => if (t.lane l).linked then t.sendCtrl l [.sleep] else t) s) q fun v =>
        { v with awake := false })) q)
  | .trace e => s.setEngine e { Engine.init with awake := false }
  | .bridge b => s.updBridge b fun v => { Bridge.init with awake := false, link := v.link, rg := v.rg, group := v.group }

/-- A packet waits at the domain's router, or has called the domain (R362, R363). -/
def State.packetWaits (s : State) (d : Domain) : Bool :=
  s.net.called.contains d || s.net.held.any fun k => decide ((nodeOf k.dst).bind Node.domain = some d)

/-- A power-down completes (R363). A packet that came after isolation wakes the domain at once. -/
def State.completeDown (s : State) (d : Domain) : State :=
  let t := ((s.leaveDown d).powerOff d).tellPower d true true
  if s.packetWaits d then t.startWake d true else t

/-- DOMAIN_POWER_DOWN (R363): one whose automatic rule applies begins (R361); one that an early packet meets before isolation, or whose domain
must stay awake now, is cancelled; one that is isolated completes. -/
def powerDown (s : State) (d : Domain) (early : Bool) : State :=
  let auto : Bool := s.autoSleeps d && (match d with | .parcel i => s.failed i | .stack _ => false | _ => true)
  if s.isAsleep d || s.isWaking d then s
  else if s.isDown d = false then (if auto then s.startDown d else s)
  else if s.staysUp d || (early && !s.net.isolated.contains d) then s.cancelDown d
  else if s.net.isolated.contains d then s.completeDown d
  else s

/-- A row that names a domain. -/
def domainRow (d : Domain) (s : State) (f : State → State) : Host.Outcome State Fault Refusal :=
  if domainOk d then .next (f s).settle else .fault .noSuchUnit

def execDomainPowerDown (d : Domain) (early : Bool) (s : State) : Host.Outcome State Fault Refusal :=
  domainRow d s fun t => powerDown t d early

/-- PARCEL_AUTO_SLEEP (R229): 1 ms after a parcel became UNOWNED its power-down begins. -/
def execParcelAutoSleep (parcel : Nat) (s : State) : Host.Outcome State Fault Refusal :=
  domainRow (.parcel parcel) s fun t => if t.autoSleeps (.parcel parcel) then t.startDown (.parcel parcel) else t

/-- POWER_DOWN_RETRY (R360): an abandoned automatic power-down is tried again, when its rule still applies. -/
def execPowerDownRetry (d : Domain) (s : State) : Host.Outcome State Fault Refusal :=
  domainRow d s fun t =>
    if t.net.retry.contains d then
      let u := t.setNet { t.net with retry := t.net.retry.filter fun x => decide (x ≠ d) }
      if u.autoSleeps d then u.startDown d else u
    else t

/-- HBM_SELF_REFRESH_ENTRY (R363, R364): 100 µs after the last access the stack's four ports begin to drain (R360); once they have, it enters
self-refresh. -/
def enterRefresh (s : State) (k : Nat) : State :=
  if s.keepsStack k || s.isWaking (.stack k) || (s.stack k).asleep || !((s.stack k).trained || (s.stack k).s3Trained) then s
  else if s.net.isolated.contains (.stack k) then s.completeDown (.stack k)
  else s.startDown (.stack k)

def execHbmSelfRefreshEntry (stack : Nat) (s : State) : Host.Outcome State Fault Refusal :=
  domainRow (.stack stack) s fun t => enterRefresh t stack

-- routers (R349, R360)

/-- Power-downs that drain at a router. -/
def State.drainsAt (s : State) (router : Nat) : List Domain :=
  s.net.down.filter fun d => s.net.draining.contains (d, router)

/-- A command waits for the power-down of a domain. -/
def Wait.wantsDown (w : Wait) (d : Domain) : Bool :=
  match w, d with
  | .sleep m _, .parcel i => bitOf m i
  | .power 0 m false _, .stack i => bitOf m i
  | .power 1 m false _, .quad i => bitOf m i
  | _, _ => false

/-- An abandoned reconfiguration (R360): nothing changes; the command that asked ends with ERR_BUSY_DRAIN; an automatic power-down is
tried again later. -/
def State.abandonDown (s : State) (d : Domain) : State :=
  let asked := s.anyParked fun w => w.wantsDown d
  let s := s.leaveDown d
  if asked then s.finishParked fun _ w => if w.wantsDown d then some (errBusyDrain, 0, 0) else none
  else s.setNet { s.net with retry := s.net.retry ++ [d] }

/-- What asked for the reconfiguration of a router ends as R360 states: power-downs, and commands that wait for its drain. -/
def abandonDrain (s : State) (router drain : Nat) : State :=
  ((s.drainsAt router).foldl (fun t d => t.abandonDown d) (s.noteDrain router drain)).finishParked fun _ w => match w with
    | .drain rs => if rs.contains router then some (errBusyDrain, 0, 0) else none
    | _ => none

/-- ROUTER_RECONFIGURATION (R360, R366): the ports have drained in `drain` NOC cycles. What powers down at them, and drains at no other router,
is isolated next; a command that waits for no other goes on. -/
def reconfigure (s : State) (router drain : Nat) : State :=
  if drainLimit < drain then abandonDrain s router drain
  else
    let t := (s.noteDrain router drain).tellDrained router
    let left := s.net.draining.filter fun x => decide (x.2 ≠ router)
    t.setNet { t.net with draining := left, isolated := t.net.isolated ++ (s.drainsAt router).filter fun d => !left.any fun x => decide (x.1 = d) }

def execRouterReconfiguration (router drain : Nat) (s : State) : Host.Outcome State Fault Refusal :=
  if router < 40 then .next (reconfigure s router drain).settle else .fault .noSuchUnit

/-- RECONFIGURATION_ABANDON (R360): the drain took more than the limit. -/
def execReconfigurationAbandon (router : Nat) (s : State) : Host.Outcome State Fault Refusal :=
  if router < 40 then .next (abandonDrain s router (drainLimit + 1)).settle else .fault .noSuchUnit

-- POWER_SET (R365)

def powerUnit (kind i : Nat) : Domain := if kind = 0 then .stack i else .quad i

def powerSetOwn (p : Packet) (s : State) : Ans :=
  let kind := par p 20 1
  let units := maskList 36 (par p 24 8)
  let wake := decide (par p 21 1 = 1)
  let change := units.filter fun i => s.isAsleep (powerUnit kind i) = wake
  checks s
    [(!callerPf p, errOwner, 0),
     (decide (kind = 1) && units.any fun q => s.quadLocked p.session q, errLock, 0),
     (!wake && units.any fun i => if kind = 0 then s.keepsStack i else s.keepsQuad i, errState, 0),
     (wake && change.isEmpty, okAlready, 0)]
    (if change = [] then done s 1
     else
       let t := change.foldl (fun u i => if wake then u.startWake (powerUnit kind i) false else u.startDown (powerUnit kind i)) s
       .park (.power kind (listMask change) wake true) t)

def execPowerSet (p : Packet) (s : State) : Host.Outcome State Fault Refusal :=
  .next (command 0x0C20 p s
    (parCheck p [(20, 1), (21, 1), (24, 8)]
      (decide (par p 20 1 < 2) && decide (par p 21 1 < 2) && decide (par p 24 8 < if par p 20 1 = 0 then 16 else 2 ^ 36)))
    (decide (par p 24 8 = 0)) (powerSetOwn p s))

end Sys2Proof.Machine
end

