-- ==== Sys2Proof/Machine/Parcel.lean ====
section
/-! DEFINITION. Parcels: owners, caps and sleep (R217 to R221, R228, R229, R244). -/
namespace Sys2Proof.Machine

/-- The parcels that a mask selects; in MIRRORED and DIFFERENTIAL pairing a bit acts on both sheets (R244). -/
def State.maskParcels (s : State) (m : Nat) : List Nat :=
  let ps := maskList 32 m
  if s.paired then ps ++ ps.map (· + 16) else ps

/-- A mask that the pairing mode admits (R244). -/
def State.maskFits (s : State) (m : Nat) : Bool := !s.paired || decide (m < 65536)

/-- Give parcels to a function (R219): BLANK, with the new tag, their fault records clear (R419). -/
def State.assign (s : State) (ps : List Nat) (fn : Nat) : State :=
  forEach ps (fun i t => (t.updParcel i fun v => { v with owned := true, group := fn, load := .blank }).clearRec i) s

/-- A parcel accepts an assignment: awake, its clear done, and not isolated to power down (R229, R363). -/
def State.ready (s : State) (i : Nat) : Bool := !s.unready (.parcel i)

/-- PARCEL_ASSIGN (R219): its packets call the parcels, which ends a power-down that is not isolated and wakes one that sleeps. -/
def parcelAssignOwn (p : Packet) (s : State) : Ans :=
  let ps := s.maskParcels (par p 20 4)
  let fn := par p 24 1
  checks s
    [(!callerPf p, errOwner, 0), (ps.any s.failed, errResource, 0),
     (ps.any fun i => decide ((s.parcel i).load ≠ .unowned) || (s.parcel i).owned, errState, 0)]
    (let t := ps.foldl (fun t i => t.callDomain (.parcel i)) s
     if ps.all t.ready then done (t.assign ps fn) else .park (.assign (par p 20 4) fn) t)

def execParcelAssign (p : Packet) (s : State) : Host.Outcome State Fault Refusal :=
  .next (command 0x0C00 p s (parCheck p [(20, 4), (24, 1)] (s.maskFits (par p 20 4) && s.fnEnabled (par p 24 1)))
    (decide (par p 20 4 = 0)) (parcelAssignOwn p s))

/-- The PARCEL_ASSIGN commands that waited, oldest first, when every one of their parcels is ready. One whose parcels another command
took meanwhile ends with ERR_STATE. -/
def State.endAssigns : List Entry → State → State
  | [], s => s
  | e :: l, s =>
    match e.wait? with
    | some (.assign m fn) =>
      let ps := s.maskParcels m
      if ps.all s.ready = false then State.endAssigns l s
      else if ps.any fun i => (s.parcel i).owned then State.endAssigns l (s.finishEntry e errState 0 0)
      else State.endAssigns l ((s.assign ps fn).finishEntry e 0 0 0)
    | _ => State.endAssigns l s

/-- PARCEL_CLEAR_DONE (R229): the woken parcel is clear and accepts loads and assignments. -/
def clearDone (s : State) (i : Nat) : State :=
  if (s.parcel i).clearing = false then s
  else
    let t := ((s.clearClusters (parcelClusters i)).updParcel i fun v => { v with clearing := false }).tellReady (.parcel i)
    State.endAssigns t.hub.entries t

def execParcelClearDone (parcel : Nat) (s : State) : Host.Outcome State Fault Refusal :=
  if parcel < 32 then .next (clearDone s parcel).settle else .fault .noSuchUnit

/-- Take parcels from their owner (R220): UNOWNED and clear; pin bindings that name them end (R296). -/
def State.disown (s : State) (ps : List Nat) : State :=
  let s := s.clearClusters (clustersOf ps)
  let s := forEach ps (fun i t => (t.updParcel i fun v => { v with owned := false, group := 0, load := .unowned }).clearRec i) s
  let hit (v : TrigPin) : Bool := ps.any fun i => bitOf v.parcels i
  forEach (List.range 4) (fun k t =>
    let t := if hit (t.trigOutPin k) then t.unbindPin true k else t
    if hit (t.trigInPin k) then t.unbindPin false k else t) s

/-- PARCEL_RELEASE (R220): by the owner or the physical function. -/
def parcelReleaseOwn (p : Packet) (s : State) : Ans :=
  let ps := s.maskParcels (par p 20 4)
  let fail1 := if callerPf p then
      (if ps.any fun i => !s.unusable i && (s.ownerOf i).isNone then some errOwner
       else if ps.any s.unusable then some errResource else none)
    else s.ownCheck (callerFn p) ps
  match fail1 with
  | some e => fail s e
  | none =>
    checks s [(s.parcelLocked p.session ps, errLock, 0), (ps.any fun i => decide ((s.parcel i).load ≠ .blank), errState, 0)]
      (done (s.disown ps))

def execParcelRelease (p : Packet) (s : State) : Host.Outcome State Fault Refusal :=
  .next (command 0x0C01 p s (parCheck p [(20, 4)] (s.maskFits (par p 20 4))) (decide (par p 20 4 = 0)) (parcelReleaseOwn p s))

/-- The class that the loaded image of a parcel declares; 0 where none is loaded. -/
def State.loadedClass (s : State) (i : Nat) : Nat :=
  match s.rgOf i with
  | none => 0
  | some g => match (s.group g).imageOf i with | some x => x.cls | none => 0

/-- PARCEL_CAP (R228). -/
def parcelCapOwn (p : Packet) (s : State) : Ans :=
  let ps := s.maskParcels (par p 20 4)
  let cls := par p 24 1
  let w := par p 26 2
  checks s
    [(!callerPf p, errOwner, 0), (ps.any s.failed, errResource, 0), (ps.any fun i => decide (cls < s.loadedClass i), errState, 0)]
    (done (forEach ps (fun i t => State.noteCommit (t.updParcel i fun v =>
      { v with capClass := cls, capW := w, stgClass := cls, stgW := w }) 0x10 i 0) s))

def execParcelCap (p : Packet) (s : State) : Host.Outcome State Fault Refusal :=
  .next (command 0x0C02 p s
    (parCheck p [(20, 4), (24, 1), (26, 2)] (s.maskFits (par p 20 4) && capOk (par p 24 1) (par p 26 2)))
    (decide (par p 20 4 = 0)) (parcelCapOwn p s))

/-- PARCEL_SLEEP (R229, R363): the reply waits for the power-downs. -/
def parcelSleepOwn (p : Packet) (s : State) : Ans :=
  let ps := s.maskParcels (par p 20 4)
  match s.ownCheck (callerFn p) ps with
  | some e => fail s e
  | none =>
    let go := ps.filter fun i => !(s.parcel i).asleep
    checks s [(s.parcelLocked p.session ps, errLock, 0), (ps.any fun i => decide ((s.parcel i).load ≠ .blank), errState, 0)]
      (if go = [] then done s 1
       else .park (.sleep (listMask go) true) (go.foldl (fun t i => t.startDown (.parcel i)) s))

def execParcelSleep (p : Packet) (s : State) : Host.Outcome State Fault Refusal :=
  .next (command 0x0C03 p s (parCheck p [(20, 4)] (s.maskFits (par p 20 4))) (decide (par p 20 4 = 0)) (parcelSleepOwn p s))

end Sys2Proof.Machine
end

