-- ==== Sys2Proof/Machine/Net.lean ====
section
/-! DEFINITION. The rows of the packet network (R354, R357) and the wakes that packets and commands cause (R361, R362). -/
namespace Sys2Proof.Machine

/-- Pauses that have waited for a mirrored write end with it (R251). -/
def State.pausesEnd (s : State) : State := forEach s.runGroups (fun g t => t.pauseEnds g) s

def execRead (pk : NetPacket) (s : State) : Host.Outcome State Fault Refusal := .next (enter s 0 pk).settle
def execWrite (pk : NetPacket) (s : State) : Host.Outcome State Fault Refusal := .next (enter s 1 pk).settle
def execPosted (pk : NetPacket) (s : State) : Host.Outcome State Fault Refusal := .next (enter s 2 pk).settle
def execAtomic (pk : NetPacket) (s : State) : Host.Outcome State Fault Refusal := .next (enter s 3 pk).settle
def execMessage (pk : NetPacket) (s : State) : Host.Outcome State Fault Refusal := .next (enter s 4 pk).settle
def execReadResponse (pk : NetPacket) (s : State) : Host.Outcome State Fault Refusal := .next (respond s 6 pk).pausesEnd.settle
def execAck (pk : NetPacket) (s : State) : Host.Outcome State Fault Refusal := .next (respond s 7 pk).settle
def execErrorResponse (pk : NetPacket) (s : State) : Host.Outcome State Fault Refusal := .next (respond s 9 pk).settle
def execTime (pk : NetPacket) (s : State) : Host.Outcome State Fault Refusal := .next (enter s 10 pk).settle
def execWake (pk : NetPacket) (s : State) : Host.Outcome State Fault Refusal := .next (enter s 11 pk).settle

def execTagTimeout (tag : Nat) (s : State) : Host.Outcome State Fault Refusal :=
  if tag < 4096 then .next (tagTimeout s tag).pausesEnd.settle else .fault .noSuchUnit

-- wakes (R362)

/-- The supply of a domain is back. A parcel still has to clear its stores (R229). -/
def State.powerOn (s : State) (d : Domain) : State :=
  match d with
  | .parcel i => s.updParcel i fun v => { v with asleep := false, clearing := true }
  | .stack k => s.updStack k fun v => { v with asleep := false }
  | .quad q => s.wakeQuad q
  | .trace e =>
    let s := s.updEngine e fun v => { v with awake := true }
    s.finishParked fun _ w => match w with
      | .traceWake g => if (s.groupEngines (s.group g)).all fun x => (s.engine x).awake then some (0, 0, 0) else none
      | _ => none
  | .bridge b => (s.updBridge b fun v => { v with awake := true }).relink b

/-- DOMAIN_WAKE_DONE (R362): the domain is up, the packets held for it are delivered, and the commands that waited for it reply or go on. -/
def wakeDone (s : State) (d : Domain) : State :=
  if s.isWaking d = false then s
  else
    let s := s.setNet { s.net with waking := s.net.waking.filter fun x => decide (x ≠ d) }
    let s := ((s.powerOn d).deliverHeld d).tellPower d false true
    let s := if s.unready d then s else s.tellReady d
    if eastReplicas.any s.unready then s else s.endWaits 0 0 fun w => decide (w = .pairWake)

def execDomainWakeDone (d : Domain) (s : State) : Host.Outcome State Fault Refusal := domainRow d s fun t => wakeDone t d

end Sys2Proof.Machine
end

