-- ==== Sys2Proof/Machine/Link.lean ====
section
/-! DEFINITION. Received Fjarlek codewords and messages (R306, R311 to R314, R316, R319), and the joining of a design (R321). -/
namespace Sys2Proof.Machine

/-- Packets that an ack covers leave the replay buffer, and the replay goes on behind them (R312). -/
def Lane.takeAck (v : Lane) (ack : Nat) : Lane :=
  match v.unacked.findIdx? fun x => decide (x.1 = ack) with
  | none => v
  | some i =>
    let left := v.unacked.drop (i + 1)
    { v with unacked := left, replayN := 0
             replayAt := match v.replayAt with
               | some j => if left = [] then none else some (j - (i + 1))
               | none => none }

/-- What a decoded codeword counts (R305, R320, R326). -/
def Lane.decoded (v : Lane) (c : Codeword) : Lane :=
  { v with uncorr64 := (false :: v.uncorr64).take 64, farSleep := false
           cwCorr := if c.corr = 0 then v.cwCorr else satAdd 48 v.cwCorr 1, symCorr := satAdd 48 v.symCorr c.corr }

/-- What a correctly decoded header brings (R306, R311, R314): TRAIN alone has no hold bit. -/
def Lane.header (v : Lane) (c : Codeword) : Lane :=
  let w : Lane := v.decoded c
  let fix : Lane :=
    { w with holdIn := if c.type = 5 then v.holdIn else c.hold
             credits := (List.range 3).map fun k => min 16 (v.credits.getD k 0 + bitsOf c.credit (2 * k) 2) }
  fix.takeAck c.ack

/-- Count a codeword of RS(544,514) on a lane of a bridge whose link is enabled (R347): corrected, 14, or uncorrectable, 15. -/
def State.countFec (s : State) (l k : Nat) : State :=
  match (s.quad (laneQuad l)).bridge with
  | some b => if (s.bridge b).link = .up ∨ (s.bridge b).link = .training then s.insetCount b k 1 else s
  | none => s

/-- A codeword of a row's type arrives on a lane that is UP, or TRAIN on one that trains. One of a reserved type, with a nonzero zero-field
or the reserved VC is discarded and counted (R306). A lane that is held in electrical idle receives nothing (R242, R329, R423). In FEC mode
1 it is one of RS(544,514), counted for the bridge (R347). -/
def receive (s : State) (l type : Nat) (c : Codeword) (f : State → State) : State :=
  let v := s.lane l
  if s.pairHeld l && (decide (v.fec ≠ 1) || s.boot.sheetsHeld || (s.paired && decide (72 ≤ l))) then s
  else if v.fec = 1 then (if c.corr = 0 then s else s.countFec l 14)
  else if v.linked = false ∧ (v.trainDue = false ∨ type ≠ 5) then s
  else if c.zero ≠ 0 ∨ 3 ≤ c.vc ∨ 6 ≤ c.type then
    let w : Lane := v.decoded c
    s.setLane l { w with cwBad := satAdd 48 v.cwBad 1 }
  else if c.type ≠ type then s
  else f (s.setLane l (v.header c))

/-- IDLE (R306). -/
def execIdle (lane : Nat) (cw : Codeword) (s : State) : Host.Outcome State Fault Refusal :=
  laneRow lane s fun t => receive t lane 0 cw fun u => u

-- cargo (R126, R127, R313)

/-- The full sending cycle of a four-bit cycle number: the one nearest to the receiver's cycle. -/
def fullCycle (r : RunGroup) (cyc : Nat) : Word :=
  let k := (cyc + 16 - r.cycle.toNat % 16) % 16
  if k < 8 then r.cycle + BitVec.ofNat 64 k else r.cycle - BitVec.ofNat 64 (16 - k)

/-- Codewords of a receive buffer of a declared class limit (R126). -/
def rxBufSize (d : Nat) : Nat := (3 * d + 32) / 4

/-- Put a codeword into a receive buffer (R126). DESIGN CHOICE 100: the lead before the first executed step. DESIGN CHOICE 91: a full buffer
drops it, which a link within its class never meets. -/
def State.putCargoCw (s : State) (l : Nat) (r : RunGroup) (w : SchedCw) : State :=
  let d := classLimit (s.quad (laneQuad l)).cls
  s.updLane l fun v =>
    if rxBufSize d ≤ v.rxBuf.length then v
    else
      let u : Lane := { v with rxBuf := v.rxBuf ++ [w], wanted := v.wanted.filter fun x => !(decide (x.stepTag = w.stepTag) && decide (x.cyc = w.cyc)) }
      u.watchLead r.n d (r.cycle.toNat * r.n + r.step - 1)

/-- Put a codeword into a receive buffer and, in paired modes, into that of East's replica (R245). -/
def State.putCargoBoth (s : State) (l : Nat) (r : RunGroup) (w : SchedCw) : State :=
  let s := s.putCargoCw l r w
  if s.paired && decide (l < 72) then s.updLane (l + 72) fun v =>
    if rxBufSize (classLimit (s.quad (laneQuad l)).cls) ≤ v.rxBuf.length then v else { v with rxBuf := v.rxBuf ++ [w] }
  else s

/-- A received SCHED codeword (R313): the first copy of a step-frame that is still due is kept. In paired modes East's replica gets a
copy (R245). -/
def takeSched (s : State) (l : Nat) (c : Codeword) : State :=
  match (s.quad (laneQuad l)).rg with
  | none => s
  | some g =>
    let r := s.group g
    let d := classLimit (s.quad (laneQuad l)).cls
    let w : SchedCw :=
      { stepTag := c.stepTag / 4 * 4, cyc := c.cyc % 16, cycle := fullCycle r c.cyc
        words := (List.range 8).map fun j => BitVec.ofNat 72 (bitsOf c.body.toNat (72 * j) 72) }
    let known := (s.lane l).rxBuf.any fun x => decide (x.stepTag = w.stepTag) && decide (x.cycle = w.cycle)
    if known || decide (w.due r.n d 3 < r.cycle.toNat * r.n + r.step) then s else s.putCargoBoth l r w

def execSched (lane : Nat) (cw : Codeword) (s : State) : Host.Outcome State Fault Refusal :=
  laneRow lane s fun t => receive t lane 1 cw fun u => takeSched u lane cw

/-- A RESEND message: a codeword that was sent and is still kept is sent again (R127, R313); the first request after the lane came UP again
takes those of all later step-frames with it, in order (R320). -/
def takeResend (s : State) (l stepTag cyc : Nat) : State :=
  let v := s.lane l
  let kept := (v.retained.filter fun x => decide (s.opp / 4 ≤ x.1 + s.keepFrames l)).map (·.2)
  let named (w : SchedCw) : Bool := decide (w.stepTag = stepTag) && decide (w.cyc = cyc)
  let from_ := match (s.quad (laneQuad l)).rg with | some g => (fullCycle (s.group g) cyc).toNat * 4096 + stepTag | none => 0
  let again := if v.relink then kept.filter fun w => decide (from_ ≤ w.cycle.toNat * 4096 + w.stepTag) else (kept.find? named).toList
  s.setLane l { v with reqIn := satAdd 16 v.reqIn 1, relink := false, reTx := v.reTx ++ again }

/-- RESEND_RETRY: the request that was sent longest ago is repeated; after eight, X is delivered and LANE_UNCORR raised (R127). -/
def resendRetry (s : State) (l : Nat) : State :=
  let v := s.lane l
  match v.wanted, (s.quad (laneQuad l)).rg with
  | w :: rest, some g =>
    let r := s.group g
    let d := classLimit (s.quad (laneQuad l)).cls
    if w.count < 8 then
      s.setLane l { v with wanted := rest ++ [{ w with count := w.count + 1 }], ctrl := v.ctrl ++ [.resend w.stepTag w.cyc]
                           reqOut := satAdd 16 v.reqOut 1 }
    else
      let c := fullCycle r w.cyc
      let x : SchedCw := { stepTag := w.stepTag, cyc := w.cyc, cycle := c, words := List.replicate 8 allX }
      let lost := (s.quadAct.filter fun e => decide (e.1 / 32768 = laneQuad l) && decide (e.1 % 8 / 2 = l % 4)
        && (List.range 5).any fun k => decide (frameOf r d e (laneQuad l) (c + BitVec.ofNat 64 k) = some (c, w.stepTag))).length
      let s := (s.putCargoBoth l r x).updLane l fun u => { u with wanted := rest, xWords := satAdd 16 u.xWords lost }
      s.raise (laneFault s 0x3001 l (fieldAt 8 w.stepTag + fieldAt 20 w.cyc))
  | _, _ => s

def execResendRetry (lane : Nat) (s : State) : Host.Outcome State Fault Refusal := laneRow lane s fun t => resendRetry t lane

-- packets (R311, R312, R359)

/-- One NAK for each gap in 256 frames (R312). -/
def State.askReplay (s : State) (l : Nat) : State :=
  s.updLane l fun v =>
    if v.gap.any fun f => decide (s.opp / 4 < f + 256) then v
    else { v with gap := some (s.opp / 4), ctrl := v.ctrl ++ [.nak v.rxSeq], naks := satAdd 16 v.naks 1 }

/-- A whole packet from another part (R359): delivered to the mailbox, or discarded and counted. A MESSAGE is answered with ACK, and an
answer frees its request's tag (R357, DEDUCED 32). -/
def remotePacket (s : State) (l vc : Nat) (flits : List (BitVec 576)) : State :=
  let rw := bitsOf ((flits.headD 0).toNat) 512 64
  let type := bitsOf rw 25 4
  let ok := decide (some (bitsOf rw 0 10) = s.boot.part) && (decide (type = 4) || decide (type = 7) || decide (type = 9))
    && flits.all fun f => decide (bitsOf f.toNat 553 23 = 0)
  if ok = false then s.setNet { s.net with remote := satAdd 16 s.net.remote 1 }
  else if typeVc type ≠ some vc then s.setNet { s.net with badType := satAdd 16 s.net.badType 1 }
  else
    let pk : NetPacket :=
      { vc := vc, prio := false, dst := mailboxNode, src := quadNode (laneQuad l), type := type, tag := bitsOf rw 29 12, group := 0
        internal := true, addr := 0, data := flits.flatMap fun f => leBytes 64 f.toNat, ue := 0
        fixed := 0, badSide := false }
    if type = 4 then
      let ack : NetPacket := { pk with vc := 1, dst := pk.src, src := mailboxNode, type := 7, data := [] }
      State.setSent (s.setNet { s.net with mail := s.net.mail ++ [pk] }) { s.sent with packets := s.sent.packets ++ [ack] }
    else State.freeTag (s.setNet { s.net with mail := s.net.mail ++ [pk] }) pk.tag fun r => decide (r.dst = pk.src)

/-- A received PKT codeword (R312): only the expected number is taken. Its flit joins the packet of its VC. -/
def takePkt (s : State) (l : Nat) (c : Codeword) : State :=
  let v := s.lane l
  if c.pseq ≠ v.rxSeq then s.askReplay l
  else
    let head := bitOf c.body.toNat 532
    let tail := bitOf c.body.toNat 533
    let part := (if head then [] else mget [] c.vc v.rxFlits) ++ [c.body]
    let s := s.setLane l { v with rxSeq := (v.rxSeq + 1) % 256, gap := none, freed := v.freed.modify c.vc (· + 1)
                                  rxFlits := mset [] c.vc (if tail then [] else part) v.rxFlits }
    if tail then remotePacket s l c.vc part else s

def execPkt (lane : Nat) (cw : Codeword) (s : State) : Host.Outcome State Fault Refusal :=
  laneRow lane s fun t => receive t lane 2 cw fun u => takePkt u lane cw

/-- CODEWORD_UNCORRECTABLE (R312, R313, R320, R347). -/
def uncorrectable (s : State) (l : Nat) : State :=
  let v := s.lane l
  if v.fec = 1 then s.countFec l 15
  else if v.linked = false then s
  else
    let seen := (true :: v.uncorr64).take 64
    let s := s.setLane l { v with cwUncorr := satAdd 48 v.cwUncorr 1, uncorr64 := seen }
    if 32 ≤ seen.count true then s.laneDown l else (s.askResend l).askReplay l

def execCodewordUncorrectable (lane : Nat) (s : State) : Host.Outcome State Fault Refusal :=
  laneRow lane s fun t => uncorrectable t lane

-- stop messages (R133, R134)

/-- A stop codeword (R133, R134): the first one for a cycle, and the first fault stop, is forwarded on the design's other links, whether the
run group runs or not. A run group that runs, or is about to, takes the stop. DESIGN CHOICE 100: one that is ARMED halts for a fault stop as
one that runs does, at the end of the first cycle it executes or in the first opportunity in which it holds on source 1 or 3. -/
def takeStop (s : State) (l : Nat) (faultStop : Bool) (c : Word) : State :=
  match (s.quad (laneQuad l)).rg with
  | none => s
  | some g =>
    let r := s.group g
    if (if faultStop then r.faultSent else r.seenStops.contains c) then s
    else if faultStop then
      let s := s.setGroup g { r with faultSent := true, halting := if r.busy ∧ r.halting = none then some 0 else r.halting }
      (if r.state = .running then s.releasePause g else s).sendStop g true c (some (laneQuad l))
    else
      (s.setGroup g { r with
        seenStops := r.seenStops ++ [c]
        stops := if r.busy then r.stops ++ [{ cause := 4, cycle := c }] else r.stops }).sendStop g false c (some (laneQuad l))

-- training (R303, R315 to R317)

/-- The phase that follows once the far end reports a phase done (R315): phase 3 lasts for 16 echoes, and rates 1 and 2 skip it. -/
def Lane.nextPhase (v : Lane) : Nat :=
  if v.farDone + 1 < v.phase ∨ (v.phase = 3 ∧ v.echoes.length < 16) then v.phase
  else if v.phase = 2 ∧ v.rate ≠ 0 then 4 else min 4 (v.phase + 1)

/-- TRAIN (R303, R315 to R317): the far end's identity is recorded, a phase it reports done lets the next begin, and an echo is measured or
noted for its answer. A precoding request that this end's transmitter does not grant fails the lane. DEDUCED 25: an answer is told by its
turnaround, and a tag to echo by itself: neither is 0. -/
def takeTrain (s : State) (l : Nat) (c : Codeword) : State :=
  let w := bitsOf c.body.toNat 0 72
  let done := bitsOf w 21 2
  let tag := bitsOf w 36 12
  let turn := bitsOf w 48 12
  let v : Lane :=
    { s.lane l with farPart := bitsOf w 0 10, farValid := bitOf w 10, farQuad := bitsOf w 11 6, farLane := bitsOf w 17 2 }
  let s := s.setLane l v
  if v.trainDue = false ∨ 0 < v.burst then s
  else if 2 ≤ done ∧ bitOf w 23 ≠ v.preTx then s.failTrain l
  else
    let round := (s.opp % 4096 + 4096 - tag) % 4096
    let v : Lane :=
      { v with farDone := done
               echoTag := if turn = 0 ∧ done = 2 ∧ tag ≠ 0 ∧ 3 ≤ v.phase then some (tag, s.opp) else v.echoTag
               echoes := if turn ≠ 0 ∧ v.phase = 3 ∧ 2 ≤ done then (v.echoes ++ [ceilDiv (round - turn) 2]).take 16 else v.echoes }
    s.setLane l { v with phase := v.nextPhase }

def execTrain (lane : Nat) (cw : Codeword) (s : State) : Host.Outcome State Fault Refusal :=
  laneRow lane s fun t => receive t lane 5 cw fun u => takeTrain u lane cw

-- joining (R321)

/-- The quads of a design that reach other parts. -/
def State.linkQuads (s : State) (g : Nat) : List Nat := (s.cargoQuads g).filter fun q => !(s.paired && decide (18 ≤ q))

/-- The byte of a bitmap for a step: bit `k` for cargo slot `k`. -/
def slotByte (f : Nat → Bool) : Byte := BitVec.ofNat 8 (bitsNat ((List.range 8).map f))

/-- The out bitmap of a quad, and its in bitmap in the sender's step numbering, as CRCs. -/
def State.joinCrcs (s : State) (n q : Nat) : Nat × Nat :=
  let d := classLimit (s.quad q).cls
  let ins := (s.quadAct.filter fun e => decide (e.1 / 32768 = q) && decide (e.1 % 32768 / 8 < n)).filterMap fun e =>
    match cargoIn q e.2 with
    | some i => (sendingStep n d (e.1 % 32768 / 8) i.lag).map fun sp => (sp, e.1 % 8)
    | none => none
  (crc32c ((List.range n).map fun p => slotByte fun k => (cargoOut q (mget 0 (q * 32768 + 8 * p + k) s.quadAct)).isSome),
   crc32c ((List.range n).map fun p => slotByte fun k => ins.contains (p, k)))

/-- The code of a cycle length (R310). -/
def stepsCode (n : Nat) : Nat := if n = 256 then 0 else if n = 512 then 1 else if n = 1024 then 2 else if n = 2048 then 3 else 4

/-- The two words of this part's JOIN on a quad. -/
def State.joinWords (s : State) (n q k : Nat) : BitVec 72 × BitVec 72 :=
  let v := s.quad q
  (BitVec.ofNat 72 (6 + fieldAt 4 v.outCrc + fieldAt 36 v.inCrc),
   BitVec.ofNat 72 (6 + fieldAt 4 (stepsCode n) + fieldAt 7 v.cls + fieldAt 9 k + fieldAt 17 s.datum.gmPart
     + fieldAt 27 (s.boot.part.getD 0)))

/-- The failure of a far JOIN against the local side: status and detail. -/
def State.joinFault (s : State) (n q k : Nat) (m : BitVec 72 × BitVec 72) : Option (Nat × Nat) :=
  let v := s.quad q
  let a := m.1.toNat
  let b := m.2.toNat
  if bitsOf b 17 10 ≠ s.datum.gmPart then some (errState, 0x0803)
  else if bitsOf a 4 32 ≠ v.inCrc ∨ bitsOf a 36 32 ≠ v.outCrc ∨ bitsOf b 4 3 ≠ stepsCode n ∨ bitsOf b 7 2 ≠ v.cls ∨ bitsOf b 9 8 ≠ k then
    some (errMismatch, 0x0801)
  else none

/-- Forget the far JOINs of a design that did not join. -/
def State.dropJoins (s : State) (g : Nat) : State := forEach (s.linkQuads g) (fun q t => t.updQuad q fun v => { v with joinMsg := none }) s

/-- Decide a join that waits: the first far JOIN that fails, or success once all have come. -/
def State.judgeJoin (s : State) (g : Nat) : State :=
  match s.hub.entries.find? fun e => decide (e.wait? = some (.join g)) with
  | none => s
  | some e =>
    let r := s.group g
    let qs := s.linkQuads g
    let k := par e.pkt 24 1
    match qs.findSome? fun q => (s.quad q).joinMsg.bind (s.joinFault r.n q k) with
    | some (st, d) => (s.dropJoins g).finishParked fun _ w => if w = .join g then some (st, d, 0) else none
    | none =>
      if qs.any fun q => (s.quad q).joinMsg.isNone then s
      else
        let s := s.setGroup g { r with joined := true, stopLead := k, hops := par e.pkt 25 1 }
        let s := forEach (s.cargoQuads g) (fun q t => t.updQuad q fun v => { v with joined := true, joinMsg := none }) s
        s.finishParked fun _ w => if w = .join g then some (0, 0, qs.length) else none

/-- A JOIN message (R321). -/
def takeJoin (s : State) (l : Nat) (w0 w1 : BitVec 72) : State :=
  let s := s.updQuad (laneQuad l) fun v => { v with joinMsg := some (w0, w1) }
  match (s.quad (laneQuad l)).rg with
  | some g => s.judgeJoin g
  | none => s

-- CTRL codewords (R310)

/-- The kind of a message, as its words name it (R310). -/
def CtrlMsg.kind (m : CtrlMsg) : Nat :=
  match m with | .xoff => 1 | .xon => 2 | .resend _ _ => 3 | .stop _ _ => 4 | .nak _ => 5 | .join _ _ => 6 | .sleep => 7

/-- The message of one word, if any (R310); none where the word is discarded: a reserved kind, or half a JOIN. -/
def wordMsg (w : Nat) : Option (List CtrlMsg) :=
  match bitsOf w 0 4 with
  | 0 => some []
  | 1 => some [.xoff]
  | 2 => some [.xon]
  | 3 => some [.resend (bitsOf w 4 12) (bitsOf w 16 4)]
  | 4 => some [.stop (bitOf w 4) (BitVec.ofNat 64 (bitsOf w 8 64))]
  | 5 => some [.nak (bitsOf w 4 8)]
  | 7 => some [.sleep]
  | _ => none

/-- The messages of the eight words of a CTRL body, in order (R310): a JOIN takes two words from an even one on. -/
def ctrlMsgs (body : Nat) : List (Option (List CtrlMsg)) :=
  (List.range 4).flatMap fun k =>
    let a := bitsOf body (144 * k) 72
    let b := bitsOf body (144 * k + 72) 72
    if bitsOf a 0 4 = 6 ∧ bitsOf b 0 4 = 6 then [some [.join (BitVec.ofNat 72 a) (BitVec.ofNat 72 b)]] else [wordMsg a, wordMsg b]

/-- What one message does (R312 to R314, R319, R321, R133). -/
def takeMsg (s : State) (l : Nat) (m : CtrlMsg) : State :=
  match m with
  | .xoff => s.updLane l fun v => { v with holdIn := true }
  | .xon => s.updLane l fun v => { v with holdIn := false }
  | .resend tag cyc => takeResend s l tag cyc
  | .stop f c => takeStop s l f c
  | .nak p => (s.updLane l fun v => v.takeAck ((p + 255) % 256)).startReplay l
  | .join a b => takeJoin s l a b
  | .sleep => s.updLane l fun v => { v with farSleep := true }

/-- A CTRL codeword arrives (R310): its messages act in the order of its words, and a word that is discarded is counted. -/
def takeCtrl (s : State) (l : Nat) (c : Codeword) : State :=
  (ctrlMsgs c.body.toNat).foldl (fun t m => match m with
    | some ms => ms.foldl (fun u x => takeMsg u l x) t
    | none => t.updLane l fun v => { v with cwBad := satAdd 48 v.cwBad 1 }) s

/-- A CTRL codeword arrives whole, with all its messages, as the row of one of them: of a kind that it holds, in a word where the row names
one. One without a message may come as any row. -/
def ctrlRow (kind lane : Nat) (cw : Codeword) (word : Option Nat) (s : State) : Host.Outcome State Fault Refusal :=
  laneRow lane s fun t =>
    let ms := (ctrlMsgs cw.body.toNat).filterMap id |>.flatten
    let named := ms.any (fun m => decide (m.kind = kind)) && word.all fun k => decide (bitsOf cw.body.toNat (72 * k) 4 = kind)
    if ms = [] ∨ named then receive t lane 4 cw fun u => takeCtrl u lane cw else t

def execXoff (rx : LaneRx) (s : State) : Host.Outcome State Fault Refusal := ctrlRow 1 rx.lane rx.cw none s
def execXon (rx : LaneRx) (s : State) : Host.Outcome State Fault Refusal := ctrlRow 2 rx.lane rx.cw none s
def execResend (lane : Nat) (cw : Codeword) (word : Nat) (s : State) : Host.Outcome State Fault Refusal := ctrlRow 3 lane cw (some word) s
def execStopCodeword (lane : Nat) (cw : Codeword) (word : Nat) (s : State) : Host.Outcome State Fault Refusal :=
  ctrlRow 4 lane cw (some word) s
def execNak (lane : Nat) (cw : Codeword) (s : State) : Host.Outcome State Fault Refusal := ctrlRow 5 lane cw none s
def execJoin (lane : Nat) (cw : Codeword) (word : Nat) (s : State) : Host.Outcome State Fault Refusal := ctrlRow 6 lane cw (some word) s
def execSleep (rx : LaneRx) (s : State) : Host.Outcome State Fault Refusal := ctrlRow 7 rx.lane rx.cw none s

def execJoinTimeout (g : Nat) (s : State) : Host.Outcome State Fault Refusal :=
  groupRow g s fun t =>
    ((if t.anyParked fun w => decide (w = .join g) then t.dropJoins g else t).finishParked fun _ w =>
      if w = .join g then some (errTimeout, 0, 0) else none).settle

/-- The least stop lead (R133). -/
def leastLead (hops d n : Nat) : Nat := ceilDiv (hops * (2 * d + 40)) n + 1

/-- FJ_JOIN (R321). -/
def fjJoinOwn (p : Packet) (s : State) : Ans :=
  match ownedGroup p s with
  | .error (st, d) => fail s st d
  | .ok g =>
    let r := s.group g
    let qs := s.linkQuads g
    let k := par p 24 1
    let d := qs.foldl (fun a q => max a (classLimit (s.quad q).cls)) 0
    let ready (l : Nat) : Bool := (s.lane l).linked && decide ((s.lane l).rate = 0) && !(s.lane l).crossed
    checks s
      [(qs.isEmpty, errParam, 0), (decide (k < leastLead (par p 25 1) d r.n), errParam, 0x0802),
       (qs.any (fun q => s.quadLocked p.session q), errLock, 0), (decide (s.phase = 1), errState, 0x20),
       (r.joined && decide (k = r.stopLead), okAlready, 0), (r.joined, errState, 0),
       ((decide (r.state ≠ .loaded) && decide (r.state ≠ .stopped)) || s.boot.part.isNone, errState, 0),
       (decide (s.datum.lock ≠ 2), errState, 0x0803),
       (qs.any (fun q => (quadLanes q).any fun l => !ready l), errDelay, 0x0302)]
      (let s := forEach (s.cargoQuads g) (fun q t =>
         let c := t.joinCrcs r.n q
         t.updQuad q fun v => { v with outCrc := c.1, inCrc := c.2 }) s
       let s := forEach qs (fun q t => let w := t.joinWords r.n q k; t.queueCtrl (4 * q) (.join w.1 w.2)) s
       .park (.join g) s)

def execFjJoin (p : Packet) (s : State) : Host.Outcome State Fault Refusal :=
  let t := command 0x0810 p s
    (parCheck p [(20, 4), (24, 1), (25, 1)] (decide (0 < par p 24 1) && decide (0 < par p 25 1)))
    (decide (par p 20 4 = 0)) (fjJoinOwn p s)
  .next (forEach t.runGroups (fun g u => u.judgeJoin g) t).settle

end Sys2Proof.Machine
end

