-- ==== Sys2Proof/Machine/Time.lean ====
section
/-! DEFINITION. Time between parts (R287 to R290, R300, R318): SYNC, the follower's servo, peer delay. -/
namespace Sys2Proof.Machine

/-- The lane that carries a quad's TIME codewords: its lowest one that is UP. DEDUCED 26: a link of the datum is a quad, as its
registers are. -/
def State.timeLane (s : State) (q : Nat) : Option Nat := (quadLanes q).find? fun l => (s.lane l).linked

/-- Queue a TIME body on a quad's link. -/
def State.queueTime (s : State) (q : Nat) (b : Nat) : State :=
  match s.timeLane q with
  | some l => s.updLane l fun v => { v with timeQ := v.timeQ ++ [BitVec.ofNat 576 b] }
  | none => s

/-- The mean delay of a quad in du, asymmetry included (R288, R293): half the average of the last exchanges; 0 before the first one.
DEDUCED 27: parts of a du of the mean are cut. -/
def Quad.meanDelay (q : Quad) : Int :=
  if q.delays = [] then 0 else q.delays.sum / (2 * q.delays.length : Nat) + q.asym * 65536 / 1000

/-- A TIME codeword is discarded and counted (R287, R289). -/
def State.discardTime (s : State) : State := s.setDatum { s.datum with discarded := satAdd 16 s.datum.discarded 1 }

/-- The body's reserved fields are zero, and its kind is the expected one (R287). -/
def timeBodyOk (b kind : Nat) : Bool :=
  decide (bitsOf b 0 4 = kind) && decide (bitsOf b 18 14 = 0) && decide (bitsOf b 48 16 = 0) && decide (bitsOf b 288 288 = 0)

/-- A received TIME codeword of a kind. -/
def timeRow (l : Nat) (c : Codeword) (kind : Nat) (s : State) (f : Nat → State → State) : Host.Outcome State Fault Refusal :=
  laneRow l s fun t => receive t l 3 c fun u => if timeBodyOk c.body.toNat kind then f c.body.toNat u else u.discardTime

-- SYNC (R289, R290)

/-- A seq joins those seen of a grandmaster, modulo 2^16: `b` follows `a` where it is less than half a period ahead. Those that lie half a
period back are forgotten. -/
def noteSeq (seq : Nat) (seen : List Nat) : List Nat :=
  let ahead (a b : Nat) : Nat := (b + 65536 - a) % 65536
  match seen with
  | [] => [seq]
  | n :: l => if ahead n seq < 32768 then seq :: seen.filter fun x => decide (ahead x seq < 32768) else n :: seq :: l

/-- SYNC_ORIGINATE: a grandmaster sends SYNC on every link. Its own seq counts as seen, so that a copy that comes round is a later
one. -/
def syncOriginate (s : State) : State :=
  if s.datum.role ≠ 1 ∧ s.datum.role ≠ 2 then s
  else
    let own := s.boot.part.getD 0
    let seq := (s.datum.txSeq + 1) % 65536
    let s := s.setDatum { s.datum with txSeq := seq, seqs := mset [] own (noteSeq seq (mget [] own s.datum.seqs)) s.datum.seqs }
    forEach (List.range 36) (fun q t => t.queueTime q (fieldAt 8 own + fieldAt 32 seq)) s

def execSyncOriginate (s : State) : Host.Outcome State Fault Refusal := .next (syncOriginate s)

/-- The servo of a FOLLOWER takes an error θ in du (R290, R300). 100 ps are 6,553.6 du. Up to the first lock its steps are those that bring
the part to the grandmaster's time (DEDUCED 64). -/
def servoTake (s : State) (th : Int) : State :=
  let d := s.datum
  let big := decide (th < -65536000) || decide (65536000 < th)
  let s := s.setDatum { d with offLast := BitVec.ofInt 64 th }
  if big then (s.setDatum { s.datum with lock := 1, good := 0, bad := 0 }).servoStep (-th) (!d.firstLock)
  else if d.lock = 2 then
    let bad := if th < -65536 ∨ 65536 < th then d.bad + 1 else 0
    if 8 ≤ bad then (s.unlock 1).servoSlew th else (s.setDatum { s.datum with bad := bad }).servoSlew th
  else
    let good := if -6553 ≤ th ∧ th ≤ 6553 then d.good + 1 else 0
    if 64 ≤ good then
      let s := ((s.setDatum { s.datum with lock := 2, good := 0, bad := 0 }).endEpisode 80 0x4001).endS5
      if d.firstLock then s.servoSlew th else (s.servoSlew th).servoStep (-th) true
    else (s.setDatum { s.datum with lock := 1, good := good, bad := 0 }).servoSlew th

/-- A SYNC arrives (R289, R290): its first copy is forwarded on every other link, and used by a FOLLOWER in full service. -/
def takeSync (s : State) (l : Nat) (at_ : Word) (b : Nat) : State :=
  let d := s.datum
  let hops := bitsOf b 4 4
  let part := bitsOf b 8 10
  let seq := bitsOf b 32 16
  let seen := mget [] part d.seqs
  if d.role = 0 then s
  else if seen.contains seq ∨ hops = 15 then s.discardTime
  else
    let din := (s.quad (laneQuad l)).meanDelay
    let corr := BitVec.ofNat 64 (bitsOf b 128 64)
    let fwd := putBits (putBits b 4 4 (hops + 1)) 128 64 (corr + BitVec.ofInt 64 din - at_).toNat
    let s := s.setDatum { d with seqs := mset [] part (noteSeq seq seen) d.seqs }
    let s := forEach ((List.range 36).filter fun q => decide (q ≠ laneQuad l)) (fun q t => t.queueTime q fwd) s
    if d.role ≠ 3 then s
    else if part ≠ d.gmPart then s.discardTime
    else if s.phase ≠ 2 then s
    else
      let far := (bitsOf b 64 64 : Int) + (BitVec.ofNat 32 (bitsOf b 256 32) - d.epoch).toInt * 2 ^ 64
      let th := (d.now.toNat : Int) + signed64 at_ d.now - far - corr.toInt - din
      servoTake (s.setDatum { s.datum with hops := hops }) th

def execSync (lane : Nat) (cw : Codeword) (s : State) : Host.Outcome State Fault Refusal :=
  timeRow lane cw 0 s fun b t => takeSync t lane cw.time b

/-- SYNC_TIMEOUT (R290): no usable SYNC for 256 intervals. The servo starts in S5 (R445). -/
def execSyncTimeout (s : State) : Host.Outcome State Fault Refusal :=
  .next (if s.datum.role = 3 ∧ s.phase = 2 ∧ (s.datum.lock = 1 ∨ s.datum.lock = 2) then s.unlock 3 else s)

-- peer delay (R288)

/-- PEER_DELAY_EXCHANGE: a link end sends PDELAY_REQ. -/
def execPeerDelayExchange (quad : Nat) (s : State) : Host.Outcome State Fault Refusal :=
  if quad < 36 then
    .next (match s.timeLane quad with
      | none => s
      | some _ =>
        let seq := ((s.quad quad).reqSeq + 1) % 65536
        let s := s.updQuad quad fun v => { v with reqSeq := seq, reqTime := none }
        s.queueTime quad (1 + fieldAt 8 (s.boot.part.getD 0) + fieldAt 32 seq))
  else .fault .noSuchUnit

/-- PDELAY_REQ: the responder notes the arrival and answers. -/
def execPdelayReq (lane : Nat) (cw : Codeword) (s : State) : Host.Outcome State Fault Refusal :=
  timeRow lane cw 1 s fun b t =>
    t.updLane lane fun v =>
      { v with timeQ := v.timeQ ++ [BitVec.ofNat 576
        (2 + fieldAt 8 (t.boot.part.getD 0) + fieldAt 32 (bitsOf b 32 16) + fieldAt 192 cw.time.toNat)] }

/-- The live delay of a lane for a mean delay `m` (R318). -/
def Lane.takeMean (v : Lane) (m : Int) : Lane :=
  if v.linked = false then v
  else
    let d0 : Int := v.d0.getD m
    { v with d0 := some d0, live := ((v.trained : Int) - (-((m - d0) * 10)) / 524288).toNat }

/-- PDELAY_RESP: the requester updates the mean delay and the live delays (R288, R318). -/
def takeResp (s : State) (l : Nat) (t4 : Word) (b : Nat) : State :=
  let q := laneQuad l
  let v := s.quad q
  match v.reqTime with
  | none => s
  | some t1 =>
    if bitsOf b 32 16 ≠ v.reqSeq then s
    else
      let t3 := BitVec.ofNat 64 (bitsOf b 64 64)
      let t2 := BitVec.ofNat 64 (bitsOf b 192 64)
      let one := signed64 t4 t1 - signed64 t3 t2
      let s := s.setQuad q { v with delays := (one :: v.delays).take 16, reqTime := none }
      forEach (quadLanes q) (fun k t => (t.updLane k fun w => w.takeMean (t.quad q).meanDelay).watchDrift k) s

def execPdelayResp (lane : Nat) (cw : Codeword) (s : State) : Host.Outcome State Fault Refusal :=
  timeRow lane cw 2 s fun b t => takeResp t lane cw.time b

end Sys2Proof.Machine
end

