-- ==== Sys2Proof/Machine/RegMap.lean ====
section
/-! DEFINITION. The register space (R407, R408, R451 to R458): handles, readers, what each register reads, and what reading it
clears. -/
namespace Sys2Proof.Machine

/-- The fields of a handle (R451). -/
def hBlock (h : Nat) : Nat := bitsOf h 24 8
def hInst (h : Nat) : Nat := bitsOf h 12 12
def hOff (h : Nat) : Nat := bitsOf h 0 12

/-- Instances of a block (R452); 0 for a code that names none. -/
def blockSize (b : Nat) : Nat :=
  match b with
  | 0x01 | 0x02 | 0x50 | 0x60 | 0x70 | 0x78 => 1
  | 0x10 => 32
  | 0x20 => 144
  | 0x28 => 36
  | 0x30 => 4
  | 0x38 => 8
  | 0x40 => 2
  | _ => 0

/-- The handle may be read or written (R453). -/
def handleOk (h : Nat) : Bool := decide (hInst h < blockSize (hBlock h)) && decide (hOff h % 8 = 0)

/-- The unit's faults are visible to a function (R418). -/
def State.seesUnit (s : State) (fn u : Nat) : Bool := decide (fn = 0) || decide (s.unitOwner u = some fn)

/-- The callers that may read a register (R407, R430). -/
def State.mayRead (s : State) (fn h : Nat) : Bool :=
  let i := hInst h
  decide (fn = 0) || (match hBlock h with
    | 0x02 | 0x50 => true
    | 0x10 => decide (hOff h = 0x150) || decide (s.ownerOf i = some fn)
    | 0x20 => (s.quad (laneQuad i)).rg.isSome && decide ((s.quad (laneQuad i)).group = fn)
    | 0x28 => (s.quad i).rg.isSome && decide ((s.quad i).group = fn)
    | 0x38 => (s.bridge i).rg.isSome && decide ((s.bridge i).group = fn)
    | 0x40 => (s.engine i).rg.isSome && decide ((s.engine i).group = fn)
    | 0x60 => decide (hOff h < 0x20)
    | _ => false)

/-- Field `k` of an array of registers at `base`, in steps of 8, none outside it. -/
def regIndex (base n off : Nat) : Option Nat := if base ≤ off ∧ off < base + 8 * n then some ((off - base) / 8) else none

-- PARCEL, block 0x10

def loadCode (l : LoadState) : Nat :=
  match l with | .unowned => 0 | .blank => 1 | .checking => 2 | .loading => 3 | .loaded => 4 | .unloading => 5

def runCode (r : RunState) : Nat :=
  match r with | .idle => 0 | .loaded => 1 | .armed => 2 | .running => 3 | .stopped => 4 | .faultHalted => 5

def surveyCode (v : SurveyState) : Nat := match v with | .idle => 0 | .pending => 1 | .capturing => 2 | .restoring => 3

/-- The registers of a parcel's run group (R136); 0 in none. -/
def State.runReg (s : State) (g off : Nat) : Nat :=
  let r := s.group g
  if off = 0x0C8 then runCode r.state + fieldAt 3 r.stopCause + fieldAt 6 (b2n r.stopLate) + fieldAt 16 r.stopLead
  else if off = 0x0D0 then r.cycle.toNat
  else if off = 0x0D8 then s.holdLive g
  else match regIndex 0x0E0 9 off with
    | some k => mget 0 k r.holdCnt
    | none => 0

/-- The divergence registers (R253). -/
def State.pairReg (s : State) (g off : Nat) : Nat :=
  let r := s.group g
  if off = 0x170 then
    fieldAt 2 (if s.boot.pairMode = 2 then r.response else 0) + fieldAt 3 (b2n r.diverged) + fieldAt 4 (b2n r.divHeld)
      + fieldAt 16 r.firstCl + fieldAt 32 r.firstEnt + fieldAt 48 r.divCount
  else if off = 0x178 then r.divCycle.toNat
  else if off = 0x180 then r.westSig + fieldAt 32 r.eastSig
  else if off = 0x188 then r.divN
  else 0

/-- A register of parcel `i` in block 0x10. In MIRRORED and DIFFERENTIAL pairing the registers that R244 and R253 name read West's. -/
def State.parcelReg (s : State) (i off : Nat) : Nat :=
  let v := s.parcel i
  let w := if s.paired then s.parcel (i % 16) else v
  if off = 0x0C0 then b2n v.commitPend + fieldAt 1 (b2n v.copyBusy) + fieldAt 16 v.lastCommit
  else if off < 0x128 then (match v.rg with | some g => if off = 0x0C8 ∧ s.live i = false then 0 else s.runReg g off | none => 0)
  else if off = 0x128 then
    let cls := s.loadedClass i
    v.peak + fieldAt 16 (if cls = 0 then 0 else heavyLimit cls) + fieldAt 32 cls + fieldAt 48 v.excess
  else if off = 0x130 then v.conf.getD 0 0 + fieldAt 32 (v.conf.getD 1 0)
  else if off = 0x138 then v.conf.getD 2 0 + fieldAt 32 (v.conf.getD 3 0)
  else if off = 0x140 then
    loadCode v.load + fieldAt 3 (b2n v.framesBusy) + fieldAt 16 v.lastStatus + fieldAt 32 v.lastDetail
  else if off = 0x148 then
    (match v.rg.bind fun g => (s.group g).imageOf i with
      | some x => if s.live i then x.hdrCrc + fieldAt 32 x.imageId else 0
      | none => 0)
  else if off = 0x150 then
    w.group + fieldAt 6 (b2n w.owned) + fieldAt 7 (b2n w.asleep)
      + fieldAt 8 (b2n (w.clearing || s.isWaking (.parcel (if s.paired then i % 16 else i))))
      + fieldAt 9 (b2n (s.failed (if s.paired then i % 16 else i)))
  else if off = 0x158 then w.capClass + fieldAt 16 w.capW
  else if off = 0x160 then v.stgClass + fieldAt 16 v.stgW
  else if off = 0x168 then surveyCode v.svState + fieldAt 2 (b2n v.restoreBad) + fieldAt 16 v.svLast
  else if off ≤ 0x188 then
    (if off = 0x170 then s.boot.pairMode else 0) + (match w.rg with | some g => s.pairReg g off | none => 0)
  else 0

-- LANE and QUAD, blocks 0x20 and 0x28

def laneCode (l : LaneState) : Nat :=
  match l with | .off => 0 | .idleUntrained => 1 | .training => 2 | .up => 3 | .idleTrained => 4 | .down => 5 | .test => 6

/-- The lane belongs to the PHY of a bridge (R328). -/
def State.laneInset (s : State) (l : Nat) : Bool :=
  match (s.quad (laneQuad l)).bridge with
  | some b => (phyLanes (laneQuad l) (s.bridge b).pmd).contains l
  | none => false

def modeImage (rate fec : Nat) (tx rx : Bool) : Nat := rate + fieldAt 2 fec + fieldAt 4 (b2n tx) + fieldAt 5 (b2n rx)

/-- A register of a lane (R326). -/
def State.laneReg (s : State) (l off : Nat) : Nat :=
  let v := s.lane l
  match off with
  | 0x000 => modeImage v.rate v.fec v.preTx v.preRx
  | 0x008 => modeImage v.stgRate v.stgFec v.stgPreTx v.stgPreRx
  | 0x010 =>
    laneCode v.state + fieldAt 3 (b2n (s.quad (laneQuad l)).rg.isSome) + fieldAt 4 (b2n (s.laneInset l)) + fieldAt 5 (b2n v.drift)
      + fieldAt 6 (b2n v.crossed) + fieldAt 7 (b2n v.holdIn) + fieldAt 8 (b2n v.holdOut) + fieldAt 16 v.farPart
      + fieldAt 26 (b2n v.farValid) + fieldAt 27 v.farQuad + fieldAt 33 v.farLane
  | 0x018 => v.trained % 4096 + fieldAt 16 (v.live % 4096) + fieldAt 28 v.cls + fieldAt 30 (b2n v.clsValid)
  | 0x020 => v.eqPre.toNat + fieldAt 8 v.eqMain.toNat + fieldAt 16 v.eqPost.toNat + fieldAt 24 (b2n v.stored)
  | 0x028 => v.cwCorr
  | 0x030 => v.cwUncorr
  | 0x038 => v.symCorr
  | 0x040 => v.cwBad
  | 0x048 => v.reqOut + fieldAt 16 v.reqIn + fieldAt 32 v.xWords
  | 0x050 => v.replays + fieldAt 32 v.naks
  | 0x058 => v.gen + fieldAt 3 v.chk + fieldAt 6 (b2n v.chkLock)
  | 0x060 => bitsOf v.user.toNat 0 64
  | 0x068 => bitsOf v.user.toNat 64 16
  | 0x070 => v.errCnt
  | 0x078 => v.injKind + fieldAt 2 v.injBurst
  | 0x080 => v.injRate
  | 0x088 => v.testSym
  | _ => 0

/-- A register of a quad (R327). -/
def State.quadReg (s : State) (q off : Nat) : Nat :=
  let v := s.quad q
  let l := s.lane (4 * q)
  if off = 0 then
    b2n v.rg.isSome + fieldAt 1 (b2n v.joined) + fieldAt 2 (b2n v.awake) + fieldAt 8 v.group + fieldAt 14 v.cls + fieldAt 16 l.farPart
      + fieldAt 26 l.farQuad
  else if off = 8 then v.outCrc + fieldAt 32 v.inCrc
  else 0

-- HBM, block 0x30

/-- A register of a stack (R189). -/
def State.hbmReg (s : State) (k off : Nat) : Nat :=
  let v := s.stack k
  if off = 0 then
    v.designEnd + fieldAt 16 v.traceEnd + fieldAt 32 v.insetEnd + fieldAt 48 (largestFree (s.designUsed k) 0 v.designEnd)
  else if off = 8 then v.ce + fieldAt 32 v.ondieCe + fieldAt 48 v.ue
  else if off = 16 then
    b2n v.trained + fieldAt 1 (b2n v.asleep) + fieldAt 2 (b2n (s.isWaking (.stack k))) + fieldAt 8 v.temp + fieldAt 16 v.refresh
  else 0

-- INSET, block 0x38

/-- A register of a bridge (R347). -/
def State.insetReg (s : State) (b off : Nat) : Nat :=
  let v := s.bridge b
  if off = 0x000 then v.pmd + fieldAt 3 v.quad
  else if off = 0x008 then v.stgPmd + fieldAt 3 v.stgQuad
  else if off = 0x010 then v.fc + fieldAt 2 v.pfcMask + fieldAt 10 (b2n v.deliverBad) + fieldAt 11 v.side + fieldAt 16 v.maxLen
  else if off = 0x018 then
    v.rxBase + fieldAt 10 v.rxUnits + fieldAt 20 v.txBase + fieldAt 30 v.txUnits + fieldAt 37 v.hiWm + fieldAt 45 v.loWm
  else if off = 0x020 then
    linkCode v.link + fieldAt 3 (b2n v.rg.isSome) + fieldAt 4 v.group + fieldAt 10 (b2n v.overRx) + fieldAt 11 (b2n v.overTx)
      + fieldAt 12 (b2n !v.paused.isEmpty) + fieldAt 13 (b2n v.pauseSent) + fieldAt 16 v.rxQ.length
      + fieldAt 24 (16 - v.txQ.length - b2n v.txOpen.isSome)
  else if off = 0x028 then occupancy v.rxBuf
  else if off = 0x030 then occupancy v.txBuf
  else if off = 0x0C0 then v.rxLog.length + fieldAt 16 v.txLog.length + fieldAt 32 v.lost
  else match regIndex 0x040 16 off with
    | some k => mget 0 k v.cnt
    | none => 0

-- TRACE, block 0x40

def engineCode (e : EngineState) : Nat := match e with | .unbound => 0 | .bound => 1 | .armed => 2 | .filling => 3 | .done => 4

/-- The trigger record's registers (R273). -/
def TrigRec.reg (r : TrigRec) (off : Nat) : Nat :=
  match off with
  | 0x100 => r.cycle.toNat
  | 0x108 =>
    r.step + fieldAt 16 r.trans + fieldAt 22 (b2n r.seq) + fieldAt 23 (b2n r.contour) + fieldAt 24 (b2n r.div) + fieldAt 25 (b2n r.auto)
      + fieldAt 26 (b2n r.force) + fieldAt 27 (b2n r.partner) + fieldAt 32 r.pre
  | 0x110 => r.stamp.toNat
  | 0x118 => r.cmp
  | 0x120 =>
    r.masks + fieldAt 16 r.amatch + fieldAt 24 r.trigIn + fieldAt 28 (b2n r.divIn) + fieldAt 29 (b2n r.autoIn) + fieldAt 30 (b2n r.forceIn)
  | 0x128 => r.extTime.toNat
  | 0x130 => r.extCycle.toNat
  | 0x138 => r.extStep + fieldAt 12 r.extFrac + fieldAt 22 r.extPin + fieldAt 24 (b2n r.extHeld) + fieldAt 25 (b2n r.extValid)
  | _ => 0

/-- A register of a trace engine (R273, R274). -/
def State.traceReg (s : State) (e off : Nat) : Nat :=
  let v := s.engine e
  if off = 0x000 then
    let both := v.rg.isSome && decide ((s.engine (1 - e)).rg = v.rg)
    engineCode v.state + fieldAt 3 (b2n v.onDie) + fieldAt 4 (b2n v.wrapped) + fieldAt 8 v.seqState + fieldAt 16 v.group
      + fieldAt 22 (b2n both) + fieldAt 32 v.extra
  else if off = 0x008 then v.base + fieldAt 10 v.units + fieldAt 20 v.side + fieldAt 32 v.capacity
  else if off = 0x010 then v.stored + fieldAt 32 v.postLeft
  else if off = 0x280 then v.events.length + fieldAt 32 v.lost
  else match regIndex 0x200 16 off, regIndex 0x400 64 off, regIndex 0x600 16 off with
    | some k, _, _ => mget 0 k v.counters
    | _, some k, _ => mget 0 k v.hits
    | _, _, some k => mget 0 k v.viols
    | _, _, _ => v.record.reg off

-- DATUM, block 0x50

/-- A register of the datum (R301). -/
def State.datumReg (s : State) (off : Nat) : Nat :=
  let d := s.datum
  match off with
  | 0x000 => d.now.toNat
  | 0x008 => d.epoch.toNat + fieldAt 32 d.lat.toNat
  | 0x010 => d.addend.toNat + fieldAt 60 d.tag
  | 0x018 => d.stgAddend.toNat + fieldAt 60 d.stgTag
  | 0x020 => d.offset.toNat + fieldAt 60 d.offTag
  | 0x028 => d.originS
  | 0x030 => d.originNs
  | 0x038 =>
    d.role + fieldAt 2 d.lock + fieldAt 4 (b2n d.firstLock) + fieldAt 5 (b2n d.ppsOk) + fieldAt 8 d.gmPart + fieldAt 18 d.hops
  | 0x040 => d.offLast.toNat
  | 0x048 => d.steps + fieldAt 16 d.unlocks + fieldAt 32 d.discarded
  | 0x050 => d.ppsIn.toNat
  | 0x058 =>
    let bits (f : Nat → Bool) : Nat := listMask ((List.range 4).filter f)
    bits (fun k => decide ((s.trigInPin k).parcels ≠ 0)) + fieldAt 4 (bits fun k => decide ((s.trigOutPin k).parcels ≠ 0))
      + fieldAt 8 (bits fun k => (s.trigOutPin k).train.isSome || (s.trigOutPin k).newTrain.isSome)
  | _ =>
    match regIndex 0x100 36 off with
    | some q => bitsOf (BitVec.ofInt 64 (s.quad q).meanDelay).toNat 0 40 + fieldAt 48 (BitVec.ofInt 16 (s.quad q).asym).toNat
    | none => 0

-- FAULT, block 0x60

/-- The bits of the units that satisfy `f` and that a function may see, from unit `lo` on. -/
def State.unitBits (s : State) (fn lo n : Nat) (f : Nat → Bool) : Nat :=
  listMask ((List.range n).filter fun k => s.seesUnit fn (lo + k) && f (lo + k))

/-- The record of a unit as it reads now: 64 bytes, or 0 when nothing is latched (R425). -/
def State.recImage (s : State) (u : Nat) : Nat :=
  match s.faultRec u with
  | some r => r.image (s.isLive u r.code)
  | none => 0

/-- A fault register (R430) as a function sees it. -/
def State.faultReg (s : State) (fn off : Nat) : Nat :=
  let latched (u : Nat) : Bool := (s.faultRec u).isSome
  let live (u : Nat) : Bool := decide (s.liveBits u ≠ 0)
  match off with
  | 0x000 => s.unitBits fn 0 64 latched
  | 0x008 => s.unitBits fn 64 19 latched
  | 0x010 => s.unitBits fn 0 64 live
  | 0x018 => s.unitBits fn 64 19 live
  | 0x020 => listMask ((List.range 7).filter fun k => (List.range 83).any fun u => bitOf (s.liveBits u) k)
  | 0x028 => s.faults.pinLevel + fieldAt 1 (b2n s.faults.pulsing) + fieldAt 2 (if s.faults.pulled then 0 else s.faults.driven)
  | 0x030 => s.faults.sel
  | _ =>
    match regIndex 0x038 8 off, regIndex 0x080 24 off with
    | some k, _ => if s.faults.sel < 83 then bitsOf (s.recImage s.faults.sel) (64 * k) 64 else 0
    | _, some k => mget 0 k s.faults.cnt
    | _, _ => 0

-- NOC, POWER and HUB, blocks 0x70, 0x78 and 0x01

/-- A register of the packet network (R366). -/
def State.nocReg (s : State) (off : Nat) : Nat :=
  let n := s.net
  match off with
  | 0x000 => n.tags.length + fieldAt 16 n.peak + fieldAt 32 n.waits
  | 0x008 => n.ce + fieldAt 32 n.ueData + fieldAt 48 n.ueSide
  | 0x010 => n.badDst + fieldAt 16 n.badType + fieldAt 32 n.timeouts + fieldAt 48 n.remote
  | 0x018 => n.router + fieldAt 6 (b2n (n.down.any fun d => !n.isolated.contains d)) + fieldAt 7 (b2n n.lastAband) + fieldAt 16 n.abandoned + fieldAt 32 n.drainMax
  | _ => 0

/-- A power register (R366). -/
def State.powerReg (s : State) (off : Nat) : Nat :=
  let bits (n : Nat) (d : Nat → Domain) : Nat := listMask ((List.range n).filter fun i => !s.isAsleep (d i))
  match off with
  | 0x000 => bits 32 .parcel + fieldAt 32 (bits 4 .stack) + fieldAt 36 (bits 2 .trace) + fieldAt 38 (bits 8 .bridge)
  | 0x008 => bits 36 .quad
  | 0x010 => s.net.wakes + fieldAt 32 s.net.cancelled
  | _ => 0

/-- A register of the hub (R450, R468). -/
def State.hubReg (s : State) (off : Nat) : Nat :=
  let b := s.boot
  match off with
  | 0x000 =>
    s.phase + fieldAt 2 (b2n b.s5Done) + fieldAt 3 b.bootCopy + fieldAt 4 (b2n b.fellBack)
      + fieldAt 8 (if s.phase = 2 then b.s3Stacks else 0) + fieldAt 16 b.lanesUp
      + fieldAt 24 b.cause
  | 0x008 => b.s1Ms + fieldAt 16 b.s2Ms + fieldAt 32 b.fullMs + fieldAt 48 b.s5Ms
  | 0x010 => b.lastHandle + fieldAt 32 b.lastStatus + fieldAt 48 b.mismatches
  | _ => 0

/-- S4 has begun: it starts the blocks of the lanes and quads, whose registers read their reset values, all zero, before (R457). -/
def BootStage.lanesBegun (b : BootStage) : Bool :=
  match b with | .s0 | .s1 | .s2 | .failed => false | .s3s4 | .s5 | .full => true

/-- What the register of a handle reads for a function (R408). An offset that holds no register reads 0 (R453). -/
def State.regValue (s : State) (fn h : Nat) : Nat :=
  let i := hInst h
  let off := hOff h
  match hBlock h with
  | 0x01 => s.hubReg off
  | 0x02 => if off = 0 then s.legend else 0
  | 0x10 => s.parcelReg i off
  | 0x20 => if s.boot.stage.lanesBegun then s.laneReg i off else 0
  | 0x28 => if s.boot.stage.lanesBegun then s.quadReg i off else 0
  | 0x30 => s.hbmReg i off
  | 0x38 => s.insetReg i off
  | 0x40 => s.traceReg i off
  | 0x50 => s.datumReg off
  | 0x60 => s.faultReg fn off
  | 0x70 => s.nocReg off
  | 0x78 => s.powerReg off
  | _ => 0

-- what a read clears (R408, R456)

/-- DATUM_NOW latches the epoch as it is read (R278). -/
def State.latchEpoch (s : State) : State := s.setDatum { s.datum with lat := s.datum.epoch }

def Lane.readClear (v : Lane) (off : Nat) : Lane :=
  match off with
  | 0x028 => { v with cwCorr := 0 }
  | 0x030 => { v with cwUncorr := 0 }
  | 0x038 => { v with symCorr := 0 }
  | 0x040 => { v with cwBad := 0 }
  | 0x048 => { v with reqOut := 0, reqIn := 0, xWords := 0 }
  | 0x050 => { v with replays := 0, naks := 0 }
  | 0x070 => { v with errCnt := 0 }
  | 0x088 => { v with testSym := 0 }
  | _ => v

def Net.readClear (n : Net) (off : Nat) : Net :=
  match off with
  | 0x000 => { n with peak := 0, waits := 0 }
  | 0x008 => { n with ce := 0, ueData := 0, ueSide := 0 }
  | 0x010 => { n with badDst := 0, badType := 0, timeouts := 0, remote := 0 }
  | 0x018 => { n with abandoned := 0, drainMax := 0 }
  | _ => n

/-- The RC fields of a register clear as it is read. -/
def State.regClear (s : State) (h : Nat) : State :=
  let i := hInst h
  let off := hOff h
  match hBlock h with
  | 0x01 => if off = 0x010 then s.setBoot { s.boot with mismatches := 0 } else s
  | 0x10 =>
    if off = 0x130 then s.updParcel i fun v => { v with conf := [0, 0, v.conf.getD 2 0, v.conf.getD 3 0] }
    else if off = 0x138 then s.updParcel i fun v => { v with conf := [v.conf.getD 0 0, v.conf.getD 1 0, 0, 0] }
    else s
  | 0x20 => s.updLane i fun v => v.readClear off
  | 0x30 => if off = 0x008 then s.updStack i fun v => { v with ce := 0, ondieCe := 0, ue := 0 } else s
  | 0x38 =>
    if off = 0x0C0 then s.updBridge i fun v => { v with lost := 0 }
    else match regIndex 0x040 16 off with
      | some k => s.updBridge i fun v => { v with cnt := mset 0 k 0 v.cnt }
      | none => s
  | 0x40 => if off = 0x280 then s.updEngine i fun v => { v with lost := 0 } else s
  | 0x50 => if off = 0 then s.latchEpoch else s
  | 0x60 =>
    match regIndex 0x080 24 off with
    | some k => { s with faults := { s.faults with cnt := mset 0 k 0 s.faults.cnt } }
    | none => s
  | 0x70 => s.setNet (s.net.readClear off)
  | 0x78 => if off = 0x010 then s.setNet { s.net with wakes := 0, cancelled := 0 } else s
  | _ => s

end Sys2Proof.Machine
end

