-- ==== Sys2Proof/Machine/Regs.lean ====
section
/-! DEFINITION. Identity and register commands (R403 to R410, R428, R465 to R468). -/
namespace Sys2Proof.Machine

-- identity (R403 to R406)

def execIdentRead (p : Packet) (s : State) : Host.Outcome State Fault Refusal :=
  let good := listMask ((List.range 32).filter fun i => !s.failed i)
  .next (command 0x0100 p s (parCheck p [] true) false
    (done s (s.legend + resAt 24 (s.boot.part.getD 0xFFFF) + resAt 26 s.phase + resAt 27 (s.boot.pairMode + 4 * s.boot.bootCopy)
      + resAt 28 good)))

/-- IDENT_CERT (R404). -/
def identCertOwn (p : Packet) (s : State) : Ans :=
  let n := Config.certLenPred.val + 1
  if p.len.toNat < 2048 then .reply errParam 0x13 (resAt 24 2048) s
  else
    let head := leBytes 8 Config.uid.toNat ++ leBytes 4 n ++ leBytes 4 0 ++ leBytes 97 Config.devicePublic.toNat ++ leBytes 15 0
    done (bufPut s p 0 (head ++ leBytes n Config.cert)) (128 + n)

def execIdentCert (p : Packet) (s : State) : Host.Outcome State Fault Refusal :=
  .next (command 0x0101 p s (parCheck p [] true) (decide (p.len = 0)) (identCertOwn p s))

/-- The boot copy of the flash (R411). -/
def Flash.copy (f : Flash) (k : Nat) : FwCopy := if k = 0 then f.copy0 else f.copy1

/-- The statement that an attestation signs (R405): "SKVATT", the nonce, LEGEND, the part number, the digest. -/
def attestText (s : State) (nonce : Nat) : List Byte :=
  [0x53, 0x4B, 0x56, 0x41, 0x54, 0x54] ++ leBytes 32 nonce ++ leBytes 8 s.legend ++ leBytes 2 (s.boot.part.getD 0xFFFF)
    ++ leBytes 48 (s.flash.copy s.boot.bootCopy).digest.toNat

/-- IDENT_ATTEST (R405). -/
def identAttestOwn (p : Packet) (s : State) : Ans :=
  let text := attestText s (par p 20 32)
  let sig := Config.deviceSign (leNat text) text.length
  done (bufPut s p 0 (leBytes 48 (s.flash.copy s.boot.bootCopy).digest.toNat ++ leBytes 96 sig.toNat)) 144

def execIdentAttest (p : Packet) (s : State) : Host.Outcome State Fault Refusal :=
  .next (command 0x0102 p s (match parCheck p [(20, 32)] true with
    | some d => some d
    | none => if p.len ≠ 0 ∧ p.len.toNat < 144 then some 0x13 else none) (decide (p.len = 0)) (identAttestOwn p s))

/-- PART_NUMBER_SET (R406). -/
def partNumberSetOwn (p : Packet) (s : State) : Ans :=
  let n := par p 20 2
  let old := s.boot.part.getD 0xFFFF
  checks s
    [(!callerPf p, errOwner, 0),
     (decide (s.datum.role ≠ 0) || (s.runGroups.any fun g => (s.group g).joined), errState, 0)]
    (if n = old then .reply okAlready 0 old s
     else
       done ((s.setBoot { s.boot with part := if n = 0xFFFF then none else some n }).logHub 0x60 0 (configEvent 1 old n)) old)

def execPartNumberSet (p : Packet) (s : State) : Host.Outcome State Fault Refusal :=
  .next (command 0x0103 p s (parCheck p [(20, 2)] (decide (par p 20 2 < 1024) || decide (par p 20 2 = 0xFFFF))) false
    (partNumberSetOwn p s))

-- reading (R408)

/-- The handles of a REG_READ. -/
def readHandles (p : Packet) : List Nat := (List.range (par p 24 2)).map fun k => par p 20 4 + 8 * k

/-- Read registers one after another; each RC field clears as it is read. -/
def readRegs (fn : Nat) : List Nat → State → List Nat × State
  | [], s => ([], s)
  | h :: l, s =>
    let r := readRegs fn l (s.regClear h)
    (s.regValue fn h :: r.1, r.2)

def regReadBad (p : Packet) : Option Nat :=
  let count := par p 24 2
  let direct := decide (p.buf = 0) && decide (p.len = 0)
  match parCheck p [(20, 4), (24, 2)]
      (decide (count ≤ 512) && (if direct then decide (count ≤ 2) else decide (p.buf ≠ 0) && decide (p.len.toNat = 8 * count))) with
  | some d => some d
  | none =>
    if handleOk (par p 20 4) && decide (hOff (par p 20 4) + 8 * (count - 1) ≤ 0xFF8) then none else some 0x12

def regReadOwn (p : Packet) (s : State) : Ans :=
  let fn := callerFn p
  let hs := readHandles p
  if hs.all fun h => s.mayRead fn h then
    let r := readRegs fn hs s
    if p.len = 0 then done r.2 (r.1.getD 0 0 + resAt 24 (r.1.getD 1 0))
    else done (bufPut r.2 p 0 (r.1.flatMap fun v => leBytes 8 v))
  else fail s errOwner

def execRegRead (p : Packet) (s : State) : Host.Outcome State Fault Refusal :=
  .next (command 0x0110 p s (regReadBad p) (decide (par p 24 2 = 0)) (regReadOwn p s))

/-- A read of DATUM_NOW latches the epoch (R278). -/
def execDatumNowRead (s : State) : Host.Outcome State Fault Refusal := .next s.latchEpoch

-- writing (R409, R458)

/-- A field of `w` bits at bit `lo` of a register, as a write under a mask leaves it. -/
def maskedField (old value mask lo w : Nat) : Nat :=
  let m := bitsOf mask lo w
  old - (old &&& m) + (bitsOf value lo w &&& m)

/-- Write 1 to the bits of units from `lo` on: their records empty (R428). -/
def State.clearLatched (s : State) (lo n bits : Nat) : State := s.clearRecs ((maskList n bits).map (lo + ·))

/-- The effect of a write under a mask; only the fields of R458 change. -/
def State.regStore (s : State) (h value mask : Nat) : State :=
  let i := hInst h
  let f (old lo w : Nat) : Nat := maskedField old value mask lo w
  match hBlock h, hOff h with
  | 0x10, 0x160 => s.updParcel i fun v => { v with stgClass := f v.stgClass 0 3, stgW := f v.stgW 16 16 }
  | 0x20, 0x008 => s.updLane i fun v =>
    { v with stgRate := f v.stgRate 0 2, stgFec := f v.stgFec 2 2, stgPreTx := decide (f (b2n v.stgPreTx) 4 1 = 1)
             stgPreRx := decide (f (b2n v.stgPreRx) 5 1 = 1) }
  | 0x38, 0x008 => s.updBridge i fun v => { v with stgPmd := f v.stgPmd 0 3, stgQuad := f v.stgQuad 3 6 }
  | 0x50, 0x018 => s.setDatum { s.datum with stgAddend := BitVec.ofNat 60 (f s.datum.stgAddend.toNat 0 60), stgTag := f s.datum.stgTag 60 4 }
  | 0x50, 0x020 => s.setDatum { s.datum with offset := BitVec.ofNat 60 (f s.datum.offset.toNat 0 60), offTag := f s.datum.offTag 60 4 }
  | 0x60, 0x030 => { s with faults := { s.faults with sel := f s.faults.sel 0 7 } }
  | 0x60, 0x000 => s.clearLatched 0 64 (value &&& mask)
  | 0x60, 0x008 => s.clearLatched 64 19 (value &&& mask)
  | _, _ => s

/-- REG_WRITE (R409): the result is the register after the write, its RC fields as 0. -/
def regWriteOwn (p : Packet) (s : State) : Ans :=
  let h := par p 20 4
  let t := s.regStore h (par p 24 8) (par p 32 8)
  checks s [(!callerPf p, errOwner, 0)] (done t ((t.regClear h).regValue 0 h))

def execRegWrite (p : Packet) (s : State) : Host.Outcome State Fault Refusal :=
  .next (command 0x0111 p s (match parCheck p [(20, 4), (24, 8), (32, 8)] true with
    | some d => some d
    | none => if handleOk (par p 20 4) then none else some 0x12) (decide (par p 32 8 = 0)) (regWriteOwn p s))

/-- FAULT_LATCHED_CLEAR (R428): 1s written to FAULT_LATCHED_LO and FAULT_LATCHED_HI. -/
def execFaultLatchedClear (lo hi : BitVec 64) (s : State) : Host.Outcome State Fault Refusal :=
  .next ((s.clearLatched 0 64 lo.toNat).clearLatched 64 19 hi.toNat)

-- committing (R410, R465 to R468)

/-- Finish a commit: it is noted, and byte 16 tells whether active fields changed. -/
def committed (s : State) (block i status changed : Nat) : Ans := .reply status 0 changed (s.noteCommit block i status)

/-- The parcel cap (R228): an inconsistent pair is taken all the same. In paired modes both sheets take it (R244). -/
def commitCap (p : Packet) (s : State) (i : Nat) : Ans :=
  let v := s.parcel i
  let ps := if s.paired then [i % 16, i % 16 + 16] else [i]
  let reserved := decide (v.stgClass = 0) || decide (4 < v.stgClass)
  let changed := decide (v.stgClass ≠ v.capClass) || decide (v.stgW ≠ v.capW)
  let t := forEach ps (fun k u => u.updParcel k fun w => { w with capClass := v.stgClass, capW := v.stgW }) s
  checks s
    [(s.failed i, errResource, 0), (s.parcelLocked p.session [i], errLock, 0),
     (!reserved && decide (v.stgClass < s.loadedClass i), errState, 0)]
    (if capOk v.stgClass v.stgW = false then committed t 0x10 i errMismatch (b2n changed)
     else if changed then committed t 0x10 i 0 1
     else committed s 0x10 i okAlready 0)

/-- The lane mode (R325). DEDUCED 37: a consistent pair equal to the active one releases a held lane. -/
def commitLane (p : Packet) (s : State) (l : Nat) : Ans :=
  let v := s.lane l
  let q := laneQuad l
  let same := decide (v.stgRate = v.rate) && decide (v.stgFec = v.fec) && decide (v.stgPreTx = v.preTx) && decide (v.stgPreRx = v.preRx)
  checks s
    [(s.quadLocked p.session q, errLock, 0), (decide (s.phase = 1), errState, 0x20), (s.quadBound q, errState, 0)]
    (if modeOk v.stgRate v.stgFec = false then
       let t := s.updLane l fun w =>
         { w with held := true, trainDue := false, phase := 0, burst := 0, ctrl := []
                  state := if w.state = .off ∨ w.state = .test then w.state else if w.stored then .idleTrained else .idleUntrained }
       committed ((t.endDown q).endTrain) 0x20 l errMismatch 0
     else if same && !v.held then committed s 0x20 l okAlready 0
     else awaken s [.quad q] fun s =>
       committed (s.laneMode l v.stgRate v.stgFec v.stgPreTx v.stgPreRx) 0x20 l (if same then okAlready else 0) (b2n !same))

/-- The inset pair (R330): an inconsistent one holds the link down. -/
def commitInset (p : Packet) (s : State) (b : Nat) : Ans :=
  let v := s.bridge b
  let same := decide (v.stgPmd = v.pmd) && decide (v.stgQuad = v.quad)
  checks s
    [(s.quadLocked p.session v.stgQuad || (decide (v.pmd ≠ 0) && s.quadLocked p.session v.quad), errLock, 0),
     (v.rg.isSome || s.bridgeHeld b || (s.paired && decide (4 ≤ b)), errState, 0),
     (decide (v.stgPmd ≠ 0) && decide (v.rxUnits ≠ 0) && !(s.stack (2 * (b / 4) + v.side)).trained, errResource, 0x0502)]
    (if s.insetPairOk b v.stgPmd v.stgQuad = false then
       committed ((s.updBridge b fun w => { w with bad := true }).relink b) 0x38 b errMismatch 0
     else if same then committed ((s.updBridge b fun w => { w with bad := false }).relink b) 0x38 b okAlready 0
     else committed ((s.insetBind b v.stgPmd v.stgQuad).relink b) 0x38 b 0 1)

/-- The datum pair (R285): it applies at the next FRAME edge, and the staged offset clears (R466). -/
def commitDatum (s : State) : Ans :=
  let d := s.datum
  if d.servo then fail s errState
  else if d.stgTag ≠ d.offTag ∨ addendOk d.stgAddend.toNat = false then committed s 0x50 0 errMismatch 0
  else if d.stgAddend = d.nextAddend ∧ d.stgTag = d.nextTag ∧ d.offset = 0 then committed s 0x50 0 okAlready 0
  else
    let t := s.setDatum { d with offset := 0 }
    .park .datumEdge ((t.askDatum d.stgAddend d.offset.toInt d.stgTag false).noteCommit 0x50 0 0)

/-- REG_COMMIT (R410). In BOOT the four configuring commands fail with detail 0x0020 (R397), and so does it. -/
def regCommitOwn (p : Packet) (s : State) : Ans :=
  let h := par p 20 4
  let i := hInst h
  if callerPf p = false then fail s errOwner
  else if s.phase = 0 then fail s errState 0x20
  else match hBlock h with
    | 0x10 => commitCap p s i
    | 0x20 => commitLane p s i
    | 0x38 => commitInset p s i
    | _ => commitDatum s

def execRegCommit (p : Packet) (s : State) : Host.Outcome State Fault Refusal :=
  .next (command 0x0112 p s (match parCheck p [(20, 4)] true with
    | some d => some d
    | none =>
      if handleOk (par p 20 4) && decide (hOff (par p 20 4) = 0) && [0x10, 0x20, 0x38, 0x50].contains (hBlock (par p 20 4)) then none
      else some 0x12) false (regCommitOwn p s))

end Sys2Proof.Machine
end

