-- ==== Sys2Proof/Machine/FaultCmd.lean ====
section
/-! DEFINITION. Reading and clearing faults, and the FAULT_N pin (R427 to R429). -/
namespace Sys2Proof.Machine

/-- The units that a FAULT_READ or FAULT_CLEAR names: one, or all of 0xFF. -/
def faultUnits (u : Nat) : List Nat := if u = 0xFF then List.range 83 else [u]

def faultUnitOk (u : Nat) : Bool := decide (u < 83) || decide (u = 0xFF)

/-- FAULT_READ (R429): the records the caller may read, as many as fit. Reading clears nothing. -/
def faultReadOwn (p : Packet) (s : State) : Ans :=
  let fn := callerFn p
  let u := par p 20 1
  if u ≠ 0xFF ∧ s.seesUnit fn u = false then fail s errOwner
  else
    let us := (faultUnits u).filter fun k => s.seesUnit fn k && (s.faultRec k).isSome
    let out := us.take (p.len.toNat / 64)
    done (bufPut s p 0 (out.flatMap fun k => leBytes 64 (s.recImage k))) (out.length + resAt 20 us.length)

def execFaultRead (p : Packet) (s : State) : Host.Outcome State Fault Refusal :=
  .next (command 0x0B00 p s (parCheck p [(20, 1)] (faultUnitOk (par p 20 1) && decide (p.len.toNat % 64 = 0))) (decide (p.len = 0))
    (faultReadOwn p s))

/-- FAULT_CLEAR (R428). -/
def faultClearOwn (p : Packet) (s : State) : Ans :=
  let us := faultUnits (par p 20 1)
  checks s [(!callerPf p, errOwner, 0), (us.all fun u => (s.faultRec u).isNone, okAlready, 0)]
    (done (s.clearRecs us))

def execFaultClear (p : Packet) (s : State) : Host.Outcome State Fault Refusal :=
  .next (command 0x0B01 p s (parCheck p [(20, 1)] (faultUnitOk (par p 20 1))) false (faultClearOwn p s))

/-- Drive FAULT_N to a level: a change is an output. -/
def State.driveFault (s : State) (level : Nat) : State :=
  let s : State := if s.faults.driven = level then s else s.setSent { s.sent with pins := s.sent.pins ++ [(5, decide (level = 1))] }
  { s with faults := { s.faults with driven := level } }

/-- FAULT_PIN_SET (R427): during a pulse it takes effect when the pulse ends. -/
def faultPinSetOwn (p : Packet) (s : State) : Ans :=
  let level := par p 20 1
  checks s [(!callerPf p, errOwner, 0), (decide (level = s.faults.pinLevel), okAlready, 0)]
    (let t : State := { s with faults := { s.faults with pinLevel := level } }
     done (if s.faults.pulsing then t else t.driveFault level))

def execFaultPinSet (p : Packet) (s : State) : Host.Outcome State Fault Refusal :=
  .next (command 0x0B02 p s (parCheck p [(20, 1)] (decide (par p 20 1 < 2))) false (faultPinSetOwn p s))

/-- FAULT_N_PULSE_END (R427): the pin returns to the level last set. -/
def execFaultNPulseEnd (s : State) : Host.Outcome State Fault Refusal :=
  .next (if s.faults.pulsing then State.driveFault { s with faults := { s.faults with pulsing := false } } s.faults.pinLevel else s)

end Sys2Proof.Machine
end

