-- ==== Sys2Proof/Machine/Logbook.lean ====
section
/-! DEFINITION. The logbook (R431 to R438): committing records, LOG_READ, LOG_INFO, and the management port's reads. -/
namespace Sys2Proof.Machine

/-- Slots of the ring, and of the pinned area beside first power-on (R431, R432). -/
def ringSlots : Nat := 61440
def pinnedSlots : Nat := 255

/-- The newest `n` of a list. -/
def lastOf {α : Type} (n : Nat) (l : List α) : List α := l.drop (l.length - n)

/-- The pinned area after a record: slot 0 is first power-on, the others the newest 255 (R432). -/
def pinRecord (pinned : List LogRec) (r : LogRec) : List LogRec :=
  if r.flags % 2 = 0 then pinned
  else
    let first := pinned.filter fun x => decide (x.kind = 1)
    let rest := pinned.filter fun x => decide (x.kind ≠ 1)
    if r.kind = 1 then (if first = [] then r :: rest else pinned) else first ++ lastOf pinnedSlots (rest ++ [r])

/-- The payload of kind 0x0011 (R434): the count, the first and the last stamp. DESIGN CHOICE 29. -/
def lostEvent (l : Logbook) : BitVec 1664 := BitVec.ofNat 1664 (l.dropped + fieldAt 64 l.dropFirst.toNat + fieldAt 128 l.dropLast.toNat)

/-- The slot of a ring record (R431): the banks fill alternately, 32,768 slots to a bank. -/
def ringSlot (seq : Nat) : Nat := seq % 2 * 32768 + 2048 + seq / 2 % 30720

/-- Spares of a bank (R431). -/
def spareSlots : Nat := 1912

/-- A slot that fails its verification twice is retired to the next spare of its bank (R435); whether it does is a free value. DESIGN
CHOICE 105. -/
def State.verifySlot (s : State) (slot : Nat) : State :=
  let r := s.fresh 1
  let used := (s.log.retired.filter fun e => decide (e.1 / 32768 = slot / 32768)).length
  r.2.setLog { s.log with retired :=
    if r.1 = 1 ∧ used < spareSlots then mset 0 slot (slot / 32768 * 32768 + 136 + used) s.log.retired else s.log.retired }

/-- The older copy of the control block is written, with the higher sequence (R431; DESIGN CHOICE 105). -/
def nextControl (c : List Nat) : List Nat :=
  let a := c.getD 0 0
  let b := c.getD 1 0
  if a ≤ b then [b + 1, b] else [a, a + 1]

/-- LOGBOOK_COMMIT (R431, R432, R435, R436): the head of the queue is written into its slot, in two phases, and committed; a records-lost
record counts the drops so far. An entry that frees after drops takes a records-lost record. -/
def logCommit (s : State) : State :=
  let l := s.log
  match l.queue with
  | [] => s
  | h :: rest =>
    let lost := decide (h.kind = 0x11)
    let r : LogRec := { h with seq := l.nextSeq, payload := if lost then lostEvent l else h.payload }
    let l : Logbook :=
      { l with nextSeq := (l.nextSeq + 1) % 2 ^ 32, ring := lastOf ringSlots (l.ring ++ [r]), pinned := pinRecord l.pinned r, queue := rest
               control := nextControl l.control, dropped := if lost then 0 else l.dropped
               dropFirst := if lost then 0 else l.dropFirst, dropLast := if lost then 0 else l.dropLast }
    let s := (s.setLog l).verifySlot (ringSlot r.seq)
    if l.dropped = 0 ∨ rest.any (fun x => decide (x.kind = 0x11)) then s
    else if s.boot.stage = .s0 then s.logRaw 0x11 2 0 0 0
    else s.logRaw 0x11 0 s.datum.now s.datum.epoch 0

def execLogbookCommit (s : State) : Host.Outcome State Fault Refusal :=
  .next (if s.boot.vstby && s.log.usable then logCommit s else s)

/-- The 256 bytes of a committed record (R433, R435). -/
def LogRec.bytes (r : LogRec) : List Byte :=
  let b := leBytes 4 r.seq ++ leBytes 2 r.kind ++ leBytes 2 r.flags ++ leBytes 8 r.stamp.toNat ++ leBytes 4 r.epoch.toNat
    ++ leBytes 4 r.boots ++ leBytes 8 r.stbyUs.toNat ++ leBytes 8 r.legend.toNat ++ leBytes 208 r.payload.toNat
  b ++ leBytes 4 (crc32c b) ++ leBytes 4 0x5A5AC3C3

/-- The four values of LOG_INFO (R437). -/
def Logbook.info (l : Logbook) : List Nat := [l.ring.length, l.pinned.length, l.nextSeq, (l.ring.head?.map (·.seq)).getD 0]

/-- The records that LOG_READ copies, each as its bytes. -/
def logCopies (p : Packet) (s : State) : List (List Byte) :=
  ((s.log.from (par p 20 1) (par p 24 8)).take (p.len.toNat / 256)).map fun x => x.2.bytes

/-- LOG_READ (R437). -/
def logReadOwn (p : Packet) (s : State) : Ans :=
  let out := logCopies p s
  checks s [(!callerPf p, errOwner, 0)] (done (bufPut s p 0 out.flatten) (logResults s p out.length))

def logReadBad (p : Packet) : Option Nat := parCheck p [(20, 1), (24, 8)] (decide (par p 20 1 < 2) && decide (p.len.toNat % 256 = 0))

def execLogRead (p : Packet) (s : State) : Host.Outcome State Fault Refusal :=
  .next (command 0x0B10 p s (logReadBad p) (decide (p.len = 0)) (logReadOwn p s))

/-- LOG_INFO (R437). -/
def logInfoOwn (p : Packet) (s : State) : Ans :=
  let v := s.log.info
  checks s [(!callerPf p, errOwner, 0)]
    (done s (v.getD 0 0 + resAt 20 (v.getD 1 0) + resAt 24 (v.getD 2 0) + resAt 28 (v.getD 3 0)))

def execLogInfo (p : Packet) (s : State) : Host.Outcome State Fault Refusal :=
  .next (command 0x0B11 p s (parCheck p [] true) false (logInfoOwn p s))

-- the management port (R438)

/-- A vendor-defined MCTP message (R438): its type, the Verarus vendor identifier, the request, and the payload. DESIGN CHOICE 42. -/
def vendorMessage (request : Nat) (b : List Byte) : List Byte :=
  leBytes 1 0x7F ++ (leBytes 4 Config.mctpVendor.toNat).reverse ++ leBytes 1 request ++ b

/-- Send a response on the management port. -/
def State.mctpSend (s : State) (b : List Byte) : State := s.setSent { s.sent with mctp := s.sent.mctp ++ [b] }

/-- The controller answers on VSTBY alone, once it has scanned its slots (R435, R438). -/
def State.mgmtUp (s : State) : Bool := s.boot.vstby && s.log.usable

def execMctpLogInfo (s : State) : Host.Outcome State Fault Refusal :=
  .next (if s.mgmtUp then s.mctpSend (vendorMessage 1 (s.log.info.flatMap fun v => leBytes 4 v)) else s)

/-- The record being written takes the slot of the oldest record of a full ring. -/
def Logbook.overwrites (l : Logbook) (r : LogRec) : Bool :=
  !l.queue.isEmpty && decide (l.ring.length = ringSlots) && decide (l.ring.head? = some r)

/-- Request 0x02: one record; an empty response where there is none (DESIGN CHOICE 38). A slot that is being written gives what it held, or
the next record in order where it stands between phases: a free value tells (DESIGN CHOICE 105). -/
def mctpLogRead (area first : Nat) (s : State) : State :=
  match (if area < 2 then s.log.from area first else []) with
  | [] => s.mctpSend (vendorMessage 2 [])
  | x :: rest =>
    if area = 0 ∧ s.log.overwrites x.2 then
      let r := s.fresh 1
      r.2.mctpSend (vendorMessage 2 (if r.1 = 1 then (match rest with | y :: _ => y.2.bytes | [] => []) else x.2.bytes))
    else s.mctpSend (vendorMessage 2 x.2.bytes)

def execMctpLogRead (area first : Nat) (s : State) : Host.Outcome State Fault Refusal :=
  .next (if s.mgmtUp then mctpLogRead area first s else s)

end Sys2Proof.Machine
end

