-- ==== Sys2Proof/Machine/Firmware.lean ====
section
/-! DEFINITION. Firmware copies and updates (R411 to R415), and PART_RESET (R416). -/
namespace Sys2Proof.Machine

/-- The version of a copy as FW_INFO reports it (R414). -/
def FwCopy.version (c : FwCopy) : Nat := if c.state = 0 then 0 else c.major * 256 + c.minor

def Flash.setCopy (f : Flash) (k : Nat) (c : FwCopy) : Flash := if k = 0 then { f with copy0 := c } else { f with copy1 := c }

/-- An erased copy (R411). -/
def FwCopy.empty : FwCopy := { state := 0, major := 0, minor := 0, newFloor := 0, minSi := 0, digest := 0 }

def State.setFlash (s : State) (f : Flash) : State := { s with flash := f }

/-- pending as results report it (R414). -/
def State.pendingCode (s : State) : Nat := s.flash.pending.getD 0xFF

/-- FW_INFO (R414). -/
def fwInfoOwn (p : Packet) (s : State) : Ans :=
  let f := s.flash
  checks s [(!callerPf p, errOwner, 0)]
    (done s (s.boot.bootCopy + resAt 17 s.pendingCode + resAt 18 f.copy0.state + resAt 19 f.copy1.state
      + resAt 20 f.copy0.version + resAt 22 f.copy1.version + resAt 24 f.floor))

def execFwInfo (p : Packet) (s : State) : Host.Outcome State Fault Refusal :=
  .next (command 0x0D00 p s (parCheck p [] true) false (fwInfoOwn p s))

-- firmware images (R412)

/-- The largest body (R412). -/
def bodyMax : Nat := 134217216

/-- The body length of an image. -/
def fwBodyLen (m : Memory) : Nat := memNat m 16 8

/-- The copy that an image makes. -/
def fwCopyOf (m : Memory) : FwCopy :=
  { state := 1, major := memNat m 12 1, minor := memNat m 13 1, newFloor := memNat m 14 1, minSi := memNat m 11 1
    digest := BitVec.ofNat 384 (memNat m 32 48) }

/-- Rows 1 to 4 of R413: the failure, none where the image passes. DEDUCED 39: a body length outside its range is a format failure. -/
def fwCheck (s : State) (m : Memory) (len : Nat) : Option (Nat × Nat) :=
  let n := fwBodyLen m
  if len < 512 ∨ memNat m 0 4 ≠ 0x57464B53 ∨ memNat m 4 2 ≠ 1 ∨ memNat m 6 2 ≠ 512 ∨ zeroAt m 24 8 = false ∨ zeroAt m 80 336 = false
      ∨ n = 0 ∨ bodyMax < n then some (errFormat, 0x0D01)
  else if memNat m 8 2 ≠ 0x5C92 ∨ memNat m 10 1 ≠ 1 then some (errImageDevice, 0x0D04)
  else if 2 < memNat m 11 1 then some (errImageDevice, 0x0D05)
  else if memNat m 12 1 < s.flash.floor ∨ memNat m 12 1 < memNat m 14 1 then some (errImageDevice, 0x0D06)
  else if 3 < memNat m 15 1 ∨ Config.ecdsaVerify (memNat m 15 1) (memNat m 0 416) 416 (memNat m 416 48) (memNat m 464 48) = false then some (errAuth, 0x0D02)
  else if len < 512 + n then some (errTruncated, 0x0D07)
  else none

/-- Payload of kind 0x0031 (R434): the old and the new copy, and their versions. -/
def switchEvent (f : Flash) (old new : Nat) : Nat :=
  old + fieldAt 8 new + fieldAt 16 (f.copy old).version + fieldAt 32 (f.copy new).version

/-- A pending switch to a copy is cleared (R413). -/
def State.dropPending (s : State) (k : Nat) : State :=
  if s.flash.pending = some k then s.setFlash { s.flash with pending := none } else s

/-- A write to a copy begins (R413): the copy goes to WRITING. -/
def State.beginWriting (s : State) (k : Nat) : State :=
  (s.dropPending k).setFlash ((s.dropPending k).flash.setCopy k { (s.dropPending k).flash.copy k with state := 2 })

/-- Rows 1 to 5 of R413. `begun`: the copy's WRITING is this write's own. -/
def fwRefusal (s : State) (k : Nat) (m : Memory) (len : Nat) (begun : Bool) : Option (Nat × Nat) :=
  match fwCheck s m len with
  | some e => some e
  | none => if !begun && decide ((s.flash.copy k).state = 2) then some (errState, 0) else none

/-- Write an image into a copy (R413): status, detail, body bytes written, and the state. What the flash reads back is free: bit 0 of a
free value tells that the body reads back wrong, bit 1 that another byte does. An image that changed while its write was under way leaves
the copy EMPTY (DESIGN CHOICE 49). -/
def fwStore (s : State) (k : Nat) (m : Memory) (len : Nat) (begun : Bool := false) : Nat × Nat × Nat × State :=
  let s := s.dropPending k
  match fwRefusal s k m len begun with
  | some (st, d) =>
    let s := if begun then s.dropWriting else s
    (st, d, 0, s.logHub 0x30 0 (fwEvent k (memNat m 12 1 * 256 + memNat m 13 1) st d))
  | none =>
    let n := fwBodyLen m
    let c := fwCopyOf m
    let r := s.fresh 2
    let bad := r.1.getLsbD 0 || decide (Config.sha384 (memToNat (memSlice m 512 n)) n ≠ c.digest)
    let out : Nat × Nat := if bad then (errAuth, 0x0D03) else if r.1.getLsbD 1 then (errResource, 0x0D08) else (0, 0)
    let s := r.2.setFlash (r.2.flash.setCopy k (if out.1 = 0 then c else FwCopy.empty))
    (out.1, out.2, if out.1 = 0 then n else 0, s.logHub 0x30 0 (fwEvent k (c.major * 256 + c.minor) out.1 out.2))

/-- FW_WRITE (R413): with activate, the copy written becomes pending. -/
def fwWriteOwn (p : Packet) (s : State) : Ans :=
  if callerPf p = false then fail s errOwner
  else
    let k := s.inactive
    let w := fwStore s k (bufMem s p) p.len.toNat (s.workOf 0x0D01 p).isSome
    if w.1 ≠ 0 then .reply w.1 w.2.1 0 w.2.2.2
    else
      let t := w.2.2.2
      done (if bitOf (par p 20 1) 0 then t.setFlash { t.flash with pending := some k } else t) w.2.2.1

def fwWriteBad (p : Packet) : Option Nat := parCheck p [(20, 1)] (decide (par p 20 1 < 2))

def execFwWrite (p : Packet) (s : State) : Host.Outcome State Fault Refusal :=
  .next (command 0x0D01 p s (fwWriteBad p) (decide (p.len = 0)) (fwWriteOwn p s))

/-- FW_SWITCH (R415). -/
def fwSwitchOwn (p : Packet) (s : State) : Ans :=
  let k := par p 20 1
  let c := s.flash.copy k
  if callerPf p = false then fail s errOwner
  else if k = s.boot.bootCopy then
    (if s.flash.pending = none then .reply okAlready 0 0xFF s else done (s.setFlash { s.flash with pending := none }) 0xFF)
  else if c.state ≠ 1 then fail s errState
  else if c.major < s.flash.floor then fail s errImageDevice 0x0D06
  else done (s.setFlash { s.flash with pending := some k }) k

def execFwSwitch (p : Packet) (s : State) : Host.Outcome State Fault Refusal :=
  .next (command 0x0D02 p s (parCheck p [(20, 1)] (decide (par p 20 1 < 2))) false (fwSwitchOwn p s))

-- PART_RESET (R416)

/-- What PART_RESET without force does not end: a run that is ARMED or RUNNING, a load, a frame batch, a survey or restore, a FW_WRITE. -/
def State.resetBusy (s : State) : Bool :=
  (s.runGroups.any fun g => (s.group g).busy || !(s.group g).surveys.isEmpty)
    || ((List.range 32).any fun i =>
      let v := s.parcel i
      decide (v.load = .checking) || decide (v.load = .loading) || v.framesBusy || decide (v.svState ≠ .idle))
    || decide (s.flash.copy0.state = 2) || decide (s.flash.copy1.state = 2)

/-- Surveys and restores are abandoned (R222, R416). -/
def State.dropSurveys (s : State) : State :=
  forEach s.runGroups (fun g t => (t.setSv (t.group g).parcels .idle).updGroup g fun r => { r with surveys := [] }) s

/-- What the workers execute is abandoned (R208, R213, R238, R413, R416). -/
def State.dropWork (s : State) : State :=
  s.hub.entries.foldl (fun t e => match e.claim? with | some c => (stopWork t e c errCancelled).1 | none => t) s

/-- PART_RESET (R416): the commands still in flight get no reply, nothing more is fetched, and the hub resets 10 ms later. -/
def partResetOwn (p : Packet) (s : State) : Ans :=
  checks s [(!callerPf p, errOwner, 0), (!bitOf (par p 20 1) 0 && s.resetBusy, errState, 0)]
    (let s := s.dropWork.dropSurveys
     let s := s.setEntries (s.hub.entries.filter fun e => decide (e.pkt = p) && decide (e.opcode = 0x0D03))
     done ((s.setHub { s.hub with reset := true }).setBoot { s.boot with resetDue := some 2 }))

/-- PART_RESET: the interrupt of its reply is sent, whatever the session's coalescing says. -/
def execPartReset (p : Packet) (s : State) : Host.Outcome State Fault Refusal :=
  let t := command 0x0D03 p s (parCheck p [(20, 1)] (decide (par p 20 1 < 2))) false (partResetOwn p s)
  .next (if t.hub.reset && !s.hub.reset && decide (0 < (t.sess p.session).unsig) then t.signal p.session else t)

end Sys2Proof.Machine
end

