-- ==== Sys2Proof/Machine/Tables.lean ====
section
/-! DEFINITION. The loader's checks of relocated tables (R140 to R165): the tables of an image as they will run, and for each
detail of R162 the places at which it fails. -/
namespace Sys2Proof.Machine

/-- An HBM window as the image declares it, base relocated (R183). -/
structure Win where
  side : Nat
  log  : Nat
  base : Nat
deriving DecidableEq, Repr

/-- The tables of an image, in physical terms. -/
structure Tables where
  ins    : SMap (BitVec 72)
  port   : SMap (BitVec 72)
  send   : SMap (BitVec 512)
  quad   : SMap (BitVec 40)
  wins   : SMap (Option Win)
  fences : SMap (BitVec 32)
deriving DecidableEq, Repr

/-- A place at which a check fails (R163). -/
structure Loc where
  vp    : Nat
  cl    : Nat
  step  : Nat
  item  : Nat
  value : Nat
deriving DecidableEq, Repr

/-- The order of places (R487). -/
def Loc.rank (l : Loc) : Nat := ((l.vp * 256 + l.cl) * 65536 + l.step) * 65536 + l.item

/-- The results of a refusal (R163). -/
def Loc.results (l : Loc) : Nat :=
  l.vp + resAt 17 l.cl + resAt 18 (l.step % 65536) + resAt 20 (l.item % 65536) + resAt 22 (l.value % 65536)

/-- No place. -/
def Loc.none : Loc := { vp := 0xFF, cl := 0xFF, step := 0xFFFF, item := 0xFFFF, value := 0 }

/-- The lowest of some places. -/
def firstLoc (l : List Loc) : Option Loc :=
  match l with
  | [] => Option.none
  | a :: r => some (r.foldl (fun m x => if x.rank < m.rank then x else m) a)

/-- What the checks look at: the image, its depth, its tables; `phys` gives places in physical terms (frame mode). -/
structure LoadCtx where
  img    : Image
  n      : Nat
  joined : Bool
  phys   : Bool
  t      : Tables
deriving DecidableEq, Repr

/-- The virtual parcel of a physical one. -/
def Image.virtualOf (i : Image) (p : Nat) : Nat := (i.virtuals.find? fun v => decide (i.parcelOf v = p)).getD 0xFF

def LoadCtx.loc (x : LoadCtx) (c step item : Nat) (value : Nat := 0) : Loc :=
  { vp := if x.phys then clParcel c else x.img.virtualOf (clParcel c), cl := clIn c, step := step, item := item, value := value }

/-- The virtual quad of a physical one; a replica of East stands for the quad of West that it doubles (R245). -/
def LoadCtx.vquad (x : LoadCtx) (q : Nat) : Nat := x.img.quadBind.idxOf (if x.img.quadBind.contains q then q else q % 18)

/-- A place of a quad schedule: entry and virtual quad. -/
def LoadCtx.quadLoc (x : LoadCtx) (q e : Nat) : Loc :=
  { Loc.none with step := e, item := if x.phys then q else x.vquad q }

def noItem : Nat := 0xFFFF

/-- The entries of the tables below the depth. -/
def LoadCtx.insList (x : LoadCtx) : List (Nat × Nat × InsWord) :=
  (x.t.ins.filter fun e => decide (e.1 % 4096 < x.n)).map fun e => (e.1 / 4096, e.1 % 4096, insOf e.2)
def LoadCtx.portList (x : LoadCtx) : List (Nat × Nat × PortIns) :=
  (x.t.port.filter fun e => decide (e.1 % 4096 < x.n)).map fun e => (e.1 / 4096, e.1 % 4096, portInsOf e.2)
def LoadCtx.sendList (x : LoadCtx) : List (Nat × Nat × BitVec 512) :=
  (x.t.send.filter fun e => decide (e.1 % 4096 < x.n)).map fun e => (e.1 / 4096, e.1 % 4096, e.2)
def LoadCtx.quadList (x : LoadCtx) : List (Nat × Nat × BitVec 40) :=
  (x.t.quad.filter fun e => decide (e.1 % 32768 < 8 * x.n)).map fun e => (e.1 / 32768, e.1 % 32768, e.2)

/-- The elements of a list whose key occurs at least twice. -/
def dupBy {α : Type} (key : α → Nat) (l : List α) : List α :=
  let ks := l.map key
  l.filter fun a => decide (2 ≤ ks.count (key a))

-- instruction stores

/-- 0x0210: an operand selects a value entry at N or above (R32). -/
def LoadCtx.badOperand (x : LoadCtx) : List Loc :=
  (x.insList.filter fun e => e.2.2.reads.any fun w => match selOf w with | .value v => decide (x.n ≤ v) | _ => false).map fun e =>
    x.loc (bpCluster e.1) e.2.1 (e.1 % 64)

/-- The TAPs of the tables: cluster, step, BP, position. -/
def LoadCtx.taps (x : LoadCtx) : List (Nat × Nat × Nat × Nat) :=
  (x.insList.filter fun e => decide (e.2.2.op = 11)).map fun e => (bpCluster e.1, e.2.1, e.1 % 64, ttPair e.2.2.tt)

/-- The ship steps of a cluster. -/
def LoadCtx.ships (x : LoadCtx) (c : Nat) : List Nat :=
  (x.portList.filter fun e => decide (e.1 = c) && e.2.2.ship).map fun e => e.2.1

/-- 0x0213: a cluster with TAPs has not exactly one ship. -/
def LoadCtx.badShips (x : LoadCtx) : List Loc :=
  ((x.taps.map (·.1)).eraseDups.filter fun c => decide ((x.ships c).length ≠ 1)).map fun c => x.loc c noItem noItem

/-- 0x0214: a TAP at or after the ship step. -/
def LoadCtx.lateTaps (x : LoadCtx) : List Loc :=
  (x.taps.filter fun t => (x.ships t.1).any fun p => decide (p ≤ t.2.1)).map fun t => x.loc t.1 t.2.1 t.2.2.1

/-- 0x0215: two TAPs to one position in one step. -/
def LoadCtx.dupTaps (x : LoadCtx) : List Loc :=
  (dupBy (fun t => (t.1 * 4096 + t.2.1) * 64 + t.2.2.2) x.taps).map fun t => x.loc t.1 t.2.1 t.2.2.1

/-- LUT4X and MUX2X issues as written: BP and step. -/
def LoadCtx.evals (x : LoadCtx) : List (Nat × Nat) :=
  (x.insList.filter fun e => decide (e.2.2.op = 1) || decide (e.2.2.op = 6)).map fun e => (e.1, e.2.1)

/-- 0x0240: two of them in one X-evaluator group in one step (R48). The place names the losers. -/
def LoadCtx.evalClash (x : LoadCtx) : List Loc :=
  (x.evals.filter fun a => x.evals.any fun b => decide (b.2 = a.2 ∧ b.1 / 4 = a.1 / 4 ∧ b.1 < a.1)).map fun a =>
    x.loc (bpCluster a.1) a.2 (a.1 % 64)

-- port tables

/-- The landing steps of a port entry's loads (R79, R81). -/
def landings (budget step : Nat) (i : PortIns) : List Nat :=
  (if i.aop = 1 then [slotLanding .a step] else []) ++ (if i.bop = 1 then [slotLanding .b step] else [])
    ++ (if i.hop = 1 then [step + budget] else []) ++ (if i.iop = 1 then [step + 4] else if i.iop = 3 then [step + 1] else [])

/-- Every load of the port tables: cluster, issue step, landing step. -/
def LoadCtx.loads (x : LoadCtx) : List (Nat × Nat × Nat) :=
  (x.portList.map fun e => (landings x.img.hbmBudget e.2.1 e.2.2).map fun l => (e.1, e.2.1, l)).flatten

/-- 0x0211: a load lands after step N − 1. -/
def LoadCtx.lateLoads (x : LoadCtx) : List Loc :=
  (x.loads.filter fun l => decide (x.n ≤ l.2.2)).map fun l => x.loc l.1 l.2.1 noItem

/-- 0x0212: two loads land in one step. -/
def LoadCtx.dupLoads (x : LoadCtx) : List Loc :=
  (dupBy (fun l => l.1 * 16384 + l.2.2) x.loads).map fun l => x.loc l.1 l.2.2 noItem

/-- Inset operations: cluster, step, bridge, whether it receives, whether it sends. -/
def LoadCtx.insets (x : LoadCtx) : List (Nat × Nat × Nat × Bool × Bool) :=
  (x.portList.filter fun e => decide (1 ≤ e.2.2.iop) && decide (e.2.2.iop < 4)).map fun e =>
    (e.1, e.2.1, e.2.2.br, decide (e.2.2.iop = 1), decide (e.2.2.iop = 2))

/-- The virtual bridge of a physical one. -/
def LoadCtx.bridgeItem (x : LoadCtx) (b : Nat) : Nat := if x.phys then b else x.img.bridgeBind.idxOf b

/-- 0x0216: a bridge that the image does not bind. -/
def LoadCtx.badBridges (x : LoadCtx) : List Loc :=
  (x.insets.filter fun e => !x.img.bridgeBind.contains e.2.2.1).map fun e => x.loc e.1 e.2.1 e.2.2.1

/-- 0x0280: port entries of two clusters name one bridge (R341). -/
def LoadCtx.sharedBridges (x : LoadCtx) : List Loc :=
  (x.insets.filter fun a => x.insets.any fun b => decide (b.2.2.1 = a.2.2.1 ∧ b.1 ≠ a.1)).map fun e =>
    x.loc e.1 e.2.1 (x.bridgeItem e.2.2.1)

/-- 0x0281: more than 8 receives or 8 sends of a cluster for one bridge. -/
def LoadCtx.busyBridges (x : LoadCtx) : List Loc :=
  (x.insets.filter fun a =>
    decide (8 < (x.insets.filter fun b => decide (b.1 = a.1 ∧ b.2.2.1 = a.2.2.1) && b.2.2.2.1).length)
      || decide (8 < (x.insets.filter fun b => decide (b.1 = a.1 ∧ b.2.2.1 = a.2.2.1) && b.2.2.2.2).length)).map fun e =>
    x.loc e.1 noItem (x.bridgeItem e.2.2.1)

/-- The HBM operations of the port tables: cluster, step, whether it writes. -/
def LoadCtx.hbmOps (x : LoadCtx) : List (Nat × Nat × Bool) :=
  (x.portList.filter fun e => decide (e.2.2.hop ≠ 0)).map fun e => (e.1, e.2.1, decide (2 ≤ e.2.2.hop))

/-- 0x0203: an HBM operation in an image that declares no budget (R150). -/
def LoadCtx.undeclaredHbm (x : LoadCtx) : List Loc :=
  if x.img.hbmBudget = 0 then x.hbmOps.map fun e => x.loc e.1 e.2.1 noItem else []

/-- 0x0217: an HBM operation in a cluster that has no window (R183). -/
def LoadCtx.noWindow (x : LoadCtx) : List Loc :=
  (x.hbmOps.filter fun e => decide (mget Option.none e.1 x.t.wins = Option.none)).map fun e => x.loc e.1 e.2.1 noItem

-- send tables

/-- A global field with its valid bit, before any check. -/
structure RawGlobal where
  route : Nat
  dst   : Nat
  rsv   : Nat
  d     : Nat
  x     : Bool
deriving DecidableEq, Repr

/-- The valid global fields of an entry: field number and fields. -/
def rawGlobals (c : Nat) (e : BitVec 512) : List (Nat × RawGlobal) :=
  (List.range 8).filterMap fun j =>
    let w := bitsOf e.toNat (256 + 32 * j) 32
    let route := bitsOf w 29 2
    let dst := bitsOf w 8 5
    let a := trackPos c route
    if bitOf w 31 then
      some (16 + j, { route := route, dst := dst, rsv := bitsOf w 13 3, d := if route % 2 = 0 then dst - a else a - dst,
                      x := crosses c route dst })
    else Option.none

/-- A meridian destination beyond row 15: the send has no path (R96). -/
def RawGlobal.noRow (g : RawGlobal) : Bool := decide (g.route < 2) && decide (16 ≤ g.dst)

def RawGlobal.malformed (g : RawGlobal) : Bool := decide (g.rsv ≠ 0) || g.noRow

/-- The valid mesh fields of an entry: field number, direction, clusters travelled. -/
def rawMesh (e : BitVec 512) : List (Nat × Nat × Nat) :=
  (List.range 16).filterMap fun j =>
    let w := bitsOf e.toNat (16 * j) 16
    if bitOf w 15 then some (j, j / 4, if bitOf w 14 then 2 else 1) else Option.none

/-- Places of the fields of send entries that satisfy a test. -/
def LoadCtx.meshWhere (x : LoadCtx) (f : Nat → Nat → Nat → Nat → Bool) : List Loc :=
  (x.sendList.map fun e => ((rawMesh e.2.2).filter fun m => f e.1 e.2.1 m.2.1 m.2.2).map fun m => x.loc e.1 e.2.1 m.1).flatten
def LoadCtx.globalWhere (x : LoadCtx) (f : Nat → RawGlobal → Bool) : List Loc :=
  (x.sendList.map fun e => ((rawGlobals e.1 e.2.2).filter fun g => f e.2.1 g.2).map fun g => x.loc e.1 e.2.1 g.1).flatten

/-- 0x0220: a send arrives after step N − 1 (R90). -/
def LoadCtx.lateSends (x : LoadCtx) : List Loc :=
  x.meshWhere (fun _ p _ k => decide (x.n ≤ p + 2 * k))
    ++ x.globalWhere (fun p g => !g.noRow && decide (1 ≤ g.d) && decide (x.n ≤ p + globalLat g.d g.x))

/-- 0x0221: a mesh send beyond the sheet edge (R91). -/
def LoadCtx.offSheet (x : LoadCtx) : List Loc := x.meshWhere fun c _ dir k => (meshMove c dir k).isNone

/-- 0x0222: a global send against its track, or across the bridge outside JOINED (R92). -/
def LoadCtx.wrongWay (x : LoadCtx) : List Loc :=
  x.globalWhere fun _ g => !g.noRow && (decide (g.d = 0) || (g.x && !x.joined))

/-- 0x0226: a malformed field (R96). -/
def LoadCtx.malformedSends (x : LoadCtx) : List Loc := x.globalWhere fun _ g => g.malformed

/-- An entry with the reserved field of each global field zero: what it holds there is a failure of its own, 0x0226, and comes after those
of the paths (R487). -/
def plainEntry (e : BitVec 512) : BitVec 512 :=
  BitVec.ofNat 512 ((List.range 8).foldl (fun w j => putBits w (256 + 32 * j + 13) 3 0) e.toNat)

/-- The sends that have a path: source cluster, step, field. -/
def LoadCtx.fields (x : LoadCtx) : List (Nat × Nat × SendField) :=
  (x.sendList.map fun e => (sendFields (b2n x.joined) (plainEntry e.2.2) e.1 e.2.1 x.n).map fun f => (e.1, e.2.1, f)).flatten

/-- The flight of a send. -/
def flightOf (c : Nat) (f : SendField) : Flight :=
  { group := 0, owner := 0, cl := c, mesh := f.mesh, route := f.route, chan := f.chan, age := 0, dist := f.dist, slot := f.slot,
    val := .x }

/-- The track segments that the sends occupy: identity and step as one number, entered cluster, step, track (R93). -/
def LoadCtx.segments (x : LoadCtx) : List (Nat × Nat × Nat × Nat) :=
  (x.fields.map fun e =>
    let f := flightOf e.1 e.2.2
    if f.mesh then [] else (List.range f.dist).map fun i =>
      (segKey f i * 16384 + (e.2.1 + segAge f i), f.at (i + 1), e.2.1 + segAge f i, f.chan)).flatten

/-- 0x0223: two sends on one segment in one step (R94). -/
def LoadCtx.segClash (x : LoadCtx) : List Loc := (dupBy (·.1) x.segments).map fun e => x.loc e.2.1 e.2.2.1 e.2.2.2

/-- The arrivals of sends: destination cluster, step, slot, whether it is a drop. -/
def LoadCtx.sendArrivals (x : LoadCtx) : List (Nat × Nat × Nat × Bool) :=
  x.fields.map fun e =>
    let f := flightOf e.1 e.2.2
    (f.at f.dist, e.2.1 + f.latency, f.slot, !f.mesh)

/-- 0x0224: more than 8 drops into one cluster in one step (R94). -/
def LoadCtx.manyDrops (x : LoadCtx) : List Loc :=
  let drops := (x.sendArrivals.filter fun a => a.2.2.2).map fun a => a.1 * 16384 + a.2.1
  (drops.filter fun k => decide (8 < drops.count k)).map fun k => x.loc (k / 16384) (k % 16384) noItem

/-- 0x0227: a path or destination outside the image's parcels (R111). -/
def LoadCtx.offImage (x : LoadCtx) : List Loc :=
  (x.fields.filter fun e =>
    let f := flightOf e.1 e.2.2
    (List.range f.dist).any fun i => !x.img.parcels.contains (clParcel (f.at (i + 1)))).map fun e =>
    x.loc e.1 e.2.1 e.2.2.tag

-- quad schedules (R106)

/-- 0x0230: a source or destination outside the image's parcels, in an entry of whatever form. -/
def LoadCtx.quadOutside (x : LoadCtx) : List Loc :=
  let outside (q lo : Nat) (w : BitVec 40) : Bool :=
    !x.img.parcels.contains (clParcel (clAt (quadSheet q) (bitsOf w.toNat lo 4) (bitsOf w.toNat (lo + 4) 4)))
  (x.quadList.filter fun e => (e.2.2.getLsbD 39 && outside e.1 31 e.2.2) || (e.2.2.getLsbD 19 && outside e.1 11 e.2.2)).map fun e =>
    x.quadLoc e.1 e.2.1

/-- 0x0231: i_base above 220, or a reserved field nonzero. -/
def LoadCtx.quadFormat (x : LoadCtx) : List Loc :=
  (x.quadList.filter fun e => !quadWordOk e.2.2).map fun e => x.quadLoc e.1 e.2.1

/-- 0x0232: two outbound words from one cluster in one step. -/
def LoadCtx.dupOut (x : LoadCtx) : List Loc :=
  let l := x.quadList.filterMap fun e => (cargoOut e.1 e.2.2).map fun o => (o.cl * 4096 + e.2.1 / 8, e.1, e.2.1)
  (dupBy (·.1) l).map fun e => x.quadLoc e.2.1 e.2.2

/-- 0x0233: two inbound words into one cluster in one step. -/
def LoadCtx.dupIn (x : LoadCtx) : List Loc :=
  let l := x.quadList.filterMap fun e => (cargoIn e.1 e.2.2).map fun d => (d.cl * 4096 + e.2.1 / 8, e.1, e.2.1)
  (dupBy (·.1) l).map fun e => x.quadLoc e.2.1 e.2.2

/-- The class limit of a bound quad: that of its virtual quad (R151). -/
def LoadCtx.limitOf (x : LoadCtx) (q : Nat) : Nat :=
  classLimit (bitsOf x.img.quadClass (2 * x.vquad q) 2)

/-- 0x0234: i_lag disagrees with the class. -/
def LoadCtx.badLag (x : LoadCtx) : List Loc :=
  (x.quadList.filter fun e => match cargoIn e.1 e.2.2 with
    | some d => (match sendingStep x.n (x.limitOf e.1) (e.2.1 / 8) d.lag with | some sp => decide (x.n ≤ sp) | Option.none => true)
    | Option.none => false).map fun e => x.quadLoc e.1 e.2.1

/-- The frames in which a lane sends a SCHED codeword. -/
def LoadCtx.cargoFrames (x : LoadCtx) (lane : Nat) : List Nat :=
  ((x.quadList.filter fun e => decide (e.1 = lane / 4 ∧ e.2.1 % 8 / 2 = lane % 4) && (cargoOut e.1 e.2.2).isSome).map fun e =>
    e.2.1 / 32).eraseDups

/-- 0x0235: a lane carries cargo in more than 60 of 64 consecutive frames, across the cycle boundary. DESIGN CHOICE 102: the place is the
lane's first entry of the first frame of the 64. -/
def LoadCtx.fullLanes (x : LoadCtx) : List Loc :=
  let f := x.n / 4
  (((x.quadList.map (·.1)).eraseDups.map quadLanes).flatten.map fun lane =>
    let used := x.cargoFrames lane
    ((List.range f).filter fun a => decide (60 < (used.filter fun u => decide ((u + f - a) % f < 64)).length)).map fun a =>
      x.quadLoc (lane / 4) (32 * a + 2 * (lane % 4))).flatten

/-- 0x0225: two arrivals in one receive slot in one step (R109). A reserved field or an i_base beyond its range is a failure of its own,
0x0231, and comes after it (R487). -/
def LoadCtx.slotClash (x : LoadCtx) : List Loc :=
  let cargo := (x.quadList.filterMap fun e =>
    let w := e.2.2.toNat
    (cargoIn e.1 (BitVec.ofNat 40 (putBits (putBits w 20 10 0) 0 8 0))).map fun d =>
      ((List.range 36).filter fun k => decide (bitsOf w 0 8 + k < 256)).map fun k => (d.cl, e.2.1 / 8, bitsOf w 0 8 + k)).flatten
  let all := (x.sendArrivals.map fun a => (a.1, a.2.1, a.2.2.1)) ++ cargo
  (dupBy (fun a => (a.1 * 16384 + a.2.1) * 256 + a.2.2) all).map fun a => x.loc a.1 a.2.1 a.2.2

-- fences

/-- Whether a cluster has a parcel edge in a direction of R225: 0 north, 1 east, 2 south, 3 west. -/
def parcelEdge (c edge : Nat) : Bool :=
  match edge with
  | 0 => decide (clRow c % 4 = 3)
  | 1 => decide (clCol c % 4 = 3)
  | 2 => decide (clRow c % 4 = 0)
  | _ => decide (clCol c % 4 = 0)

/-- 0x0260: a reserved fence default, or a nonzero reserved bit. -/
def LoadCtx.badFences (x : LoadCtx) : List Loc :=
  (x.t.fences.filter fun e => (List.range 4).any fun k => parcelEdge e.1 k && decide (4 < bitsOf e.2.toNat (8 * k) 8)).map fun e =>
    x.loc e.1 noItem noItem

-- budget and queues

/-- The heavy units of the tables as written: parcel, step, weight (R141, R144). -/
def LoadCtx.heavyUnits (x : LoadCtx) : List (Nat × Nat × Nat) :=
  (x.evals.map fun e => (bpParcel e.1, e.2, 1)) ++ (x.portList.map fun e => (clParcel e.1, e.2.1, e.2.2.heavy))

/-- 0x0241: a window count above the limit of the class. -/
def LoadCtx.overBudget (x : LoadCtx) : List Loc :=
  let u := x.heavyUnits
  (x.img.parcels.map fun p => (List.range (x.n / 64)).filterMap fun w =>
    let n := ((u.filter fun e => decide (e.1 = p ∧ e.2.1 / 64 = w)).map (·.2.2)).sum
    if heavyLimit x.img.cls < n then some { x.loc (clOf p 0) w noItem n with cl := 0xFF } else Option.none).flatten

/-- 0x0250: the clusters of a row-pair issue too many HBM operations in `hbm_budget` consecutive steps (R154). DESIGN CHOICE
102: the place is the first of these steps, with no parcel. -/
def LoadCtx.overHbm (x : LoadCtx) : List Loc :=
  let ops := x.hbmOps
  (List.range 16).flatMap fun rp =>
    let mine := ops.filter fun e => decide (clSheet e.1 * 8 + clRow e.1 / 2 = rp)
    let limit := 16 * (x.img.parcels.filter fun p => decide (p / 16 = rp / 8 ∧ p % 16 / 4 = rp % 8 / 2)).length
    if mine = [] then [] else (List.range x.n).filterMap fun a =>
      let n := (mine.filter fun e => decide ((e.2.1 + x.n - a) % x.n < x.img.hbmBudget)).length
      if limit < n then some { Loc.none with step := a, value := n } else Option.none

/-- The modelled occupancy of a port staging queue after the entries of each step, from `occ` on: the steps at which it exceeds 8, with
it, earliest first (R155). -/
def stagingModel (adds : Nat → Nat) (n : Nat) : Nat → Nat → Nat → List (Nat × Nat)
  | 0, _, _ => []
  | fuel + 1, step, occ =>
    let v := occ + adds (step % n)
    let rest := stagingModel adds n fuel (step + 1) (if step % n % 2 = 0 then v - 1 else v)
    if 8 < v then (step % n, v) :: rest else rest

/-- 0x0251: the model exceeds 8 (R155). DESIGN CHOICE 102: a step that exceeds it in both cycles gives its occupancy in the first. -/
def LoadCtx.overStaging (x : LoadCtx) : List Loc :=
  let entries := x.portList.filter fun e => decide (2 ≤ e.2.2.hop) || decide (e.2.2.iop = 2)
  (entries.map (·.1)).eraseDups.flatMap fun c =>
    let adds (p : Nat) : Nat := ((entries.filter fun e => decide (e.1 = c ∧ e.2.1 = p)).map fun e =>
      b2n (decide (2 ≤ e.2.2.hop)) + b2n (decide (e.2.2.iop = 2))).sum
    (stagingModel adds x.n (2 * x.n) 0 0).map fun v => x.loc c v.1 noItem v.2

/-- The first of some checks that fails: status, detail, place. -/
def firstFail (l : List (Nat × Nat × List Loc)) : Option (Nat × Nat × Loc) :=
  l.findSome? fun c => (firstLoc c.2.2).map fun x => (c.1, c.2.1, x)

/-- Group 5 of R487 up to the trace checks. `unbound` and `misfit` are the places of fields that could not be relocated. -/
def LoadCtx.tableChecks (x : LoadCtx) (unbound misfit : List Loc) : List (Nat × Nat × List Loc) :=
  [(errFormat, 0x0210, x.badOperand), (errFormat, 0x0211, x.lateLoads), (errFormat, 0x0212, x.dupLoads),
   (errFormat, 0x0213, x.badShips), (errFormat, 0x0214, x.lateTaps), (errFormat, 0x0215, x.dupTaps),
   (errFormat, 0x0216, unbound ++ x.badBridges), (errFormat, 0x0217, x.noWindow), (errFormat, 0x0220, x.lateSends),
   (errFormat, 0x0221, x.offSheet), (errFormat, 0x0222, x.wrongWay), (errFormat, 0x0223, x.segClash),
   (errFormat, 0x0224, x.manyDrops), (errFormat, 0x0225, x.slotClash), (errFormat, 0x0226, x.malformedSends),
   (errFormat, 0x0227, misfit ++ x.offImage), (errFormat, 0x0230, x.quadOutside), (errFormat, 0x0231, x.quadFormat),
   (errFormat, 0x0232, x.dupOut), (errFormat, 0x0233, x.dupIn), (errFormat, 0x0234, x.badLag), (errFormat, 0x0235, x.fullLanes),
   (errFormat, 0x0240, x.evalClash), (errFormat, 0x0260, x.badFences)]

/-- Group 6. -/
def LoadCtx.budgetChecks (x : LoadCtx) : List (Nat × Nat × List Loc) :=
  [(errFormat, 0x0241, x.overBudget), (errFormat, 0x0250, x.overHbm), (errFormat, 0x0251, x.overStaging)]

end Sys2Proof.Machine
end

