-- ==== Sys2Proof/Machine/Image.lean ====
section
/-! DEFINITION. Images (R190 to R209): the cartouche, sections, the gazetteer and relocation, the checks of a load in the order
of R161 and R487, and IMAGE_LOAD. -/
namespace Sys2Proof.Machine

-- the cartouche and the section table (R191, R192)

/-- A section table entry. -/
structure Sect where
  type : Nat
  crc  : Nat
  off  : Nat
  len  : Nat
  vp   : Nat
deriving DecidableEq, Repr

/-- The cartouche. -/
structure Cart where
  footW     : Nat
  footE     : Nat
  n         : Nat
  budget    : Nat
  cls       : Nat
  nVquads   : Nat
  nVbridges : Nat
  nSects    : Nat
  enc       : Nat
  total     : Nat
  quadClass : Nat
  classMask : Nat
  gazOff    : Nat
  gazLen    : Nat
  imageId   : Nat
  hdrCrc    : Nat
  sects     : List Sect
deriving DecidableEq, Repr

def sectAt (h : Memory) (k : Nat) : Sect :=
  let o := 0x200 + 32 * k
  { type := memNat h o 2, crc := memNat h (o + 4) 4, off := memNat h (o + 8) 8, len := memNat h (o + 16) 8, vp := memNat h (o + 24) 4 }

def cartOf (h : Memory) : Cart :=
  { footW := memNat h 0x10 2, footE := memNat h 0x12 2, n := memNat h 0x14 2, budget := memNat h 0x16 2, cls := memNat h 0x18 1
    nVquads := memNat h 0x1E 1, nVbridges := memNat h 0x1F 1, nSects := memNat h 0x20 2, enc := memNat h 0x22 1
    total := memNat h 0x28 8, quadClass := memNat h 0x30 16, classMask := memNat h 0x40 8, gazOff := memNat h 0x48 8
    gazLen := memNat h 0x50 8, imageId := memNat h 0x58 4, hdrCrc := memNat h 0xFFC 4
    sects := (List.range (min 111 (memNat h 0x20 2))).map (sectAt h) }

/-- The virtual parcels of the footprint, as a mask. -/
def Cart.foot (c : Cart) : Nat := c.footW + 65536 * c.footE

/-- The sections of a type, in table order. -/
def Cart.ofType (c : Cart) (t : Nat) : List Sect := c.sects.filter fun x => decide (x.type = t)

/-- The virtual quads that carry cargo. -/
def Cart.cargoQuads (c : Cart) : List Nat := maskList 36 c.classMask

/-- Section types that cover parcels (R193). -/
def parcelTypes : List Nat := [1, 2, 3, 5, 6, 7, 8, 9, 10]

/-- Masks are disjoint and make up a footprint. -/
def coverOk (foot : Nat) (vps : List Nat) : Bool :=
  decide ((vps.map (maskList 32)).flatten.length = (maskList 32 foot).length) && decide (vps.foldl (· ||| ·) 0 = foot)

/-- The section table and the cartouche's fields are well formed (detail 0x0603). -/
def cartOk (h : Memory) (c : Cart) : Bool :=
  zeroAt h 0x0E 2 && zeroAt h 0x23 5 && zeroAt h 0x5C 4 && zeroAt h 0x6C 4 && zeroAt h 0x80 384 && zeroAt h 0xFE0 28
    && decide (bitsOf (memNat h 0x0D 1) 3 5 = 0) && decide (c.nVquads ≤ 36) && decide (c.nVbridges ≤ 8) && decide (1 ≤ c.nSects)
    && decide (c.nSects ≤ 111) && decide (c.enc ≤ 1) && decide (0x1000 ≤ c.total) && decide (c.total ≤ 2 ^ 36)
    && (decide (c.enc = 1) || (zeroAt h 0x60 12 && zeroAt h 0x70 16))
    && zeroAt h (0x200 + 32 * c.nSects) (32 * (111 - c.nSects))
    && ((List.range c.nSects).all fun k => zeroAt h (0x200 + 32 * k + 2) 2 && zeroAt h (0x200 + 32 * k + 28) 4)
    && (c.sects.all fun x => ([1, 2, 3, 4, 5, 6, 7, 8, 9, 10, 11, 12, 0xF0].contains x.type) && decide (x.off % 64 = 0)
      && decide (0x1000 ≤ x.off) && decide (x.off + x.len ≤ c.total))
    && disjointRanges (c.sects.map fun x => (x.off, x.len))
    && ([1, 2, 3, 0xF0].all fun t => !(c.ofType t).isEmpty)
    && (decide (c.classMask = 0) || !(c.ofType 4).isEmpty) && (decide (c.budget = 0) || !(c.ofType 8).isEmpty)
    && ([4, 11, 12, 0xF0].all fun t => decide ((c.ofType t).length ≤ 1)) && ((c.ofType 4).all fun x => decide (x.vp = 0))
    && (parcelTypes.all fun t => (c.ofType t).isEmpty || coverOk c.foot ((c.ofType t).map (·.vp)))

-- runs of initial data (R193, types 0x0007 and 0x0009)

/-- A run: its head fields, whether they are legal, and where its data lie in the section. -/
structure Run where
  a     : Nat
  b     : Nat
  ok    : Bool
  first : Nat
  count : Nat
  data  : Nat
deriving DecidableEq, Repr

/-- Parse the runs of a bank section of length `len` from offset `o` on; none where a run does not fit. -/
def bankRuns (m : Memory) (len : Nat) : Nat → Nat → Option (List Run)
  | 0, o => if o = len then some [] else none
  | fuel + 1, o =>
    if o = len then some []
    else
      let r : Run := { a := memNat m o 1, b := 0, ok := zeroAt m (o + 1) 3, first := memNat m (o + 4) 2, count := memNat m (o + 6) 2
                       data := o + 8 }
      if o + 8 + 8 * r.count ≤ len ∧ r.first + r.count ≤ 65536 then
        (bankRuns m len fuel (o + 8 + 8 * r.count)).map (r :: ·)
      else none

/-- The same for an HBM section. -/
def hbmRuns (m : Memory) (len : Nat) : Nat → Nat → Option (List Run)
  | 0, o => if o = len then some [] else none
  | fuel + 1, o =>
    if o = len then some []
    else
      let r : Run := { a := memNat m o 1, b := memNat m (o + 1) 1, ok := zeroAt m (o + 2) 6 && decide (memNat m o 1 ≤ 1)
                         && decide (memNat m (o + 1) 1 ≤ 1)
                       first := memNat m (o + 8) 8, count := memNat m (o + 16) 8, data := o + 24 }
      if o + 24 + 8 * r.count ≤ len then
        (hbmRuns m len fuel (o + 24 + 8 * r.count)).map (r :: ·)
      else none

-- the gazetteer (R195)

/-- A gazetteer entry. -/
structure Gaz where
  sec    : Nat
  kind   : Nat
  width  : Nat
  count  : Nat
  bitpos : Nat
  stride : Nat
deriving DecidableEq, Repr

def gazAt (m : Memory) (k : Nat) : Gaz :=
  let o := 16 * k
  { sec := memNat m o 1, kind := memNat m (o + 1) 1, width := memNat m (o + 2) 1, count := memNat m (o + 4) 4
    bitpos := memNat m (o + 8) 6, stride := memNat m (o + 14) 2 }

/-- The entries of a gazetteer section. -/
def gazList (pl : Memory) (x : Sect) : List Gaz := (List.range (x.len / 16)).map (gazAt (memSlice pl x.off x.len))

/-- The bit positions of the fields of an entry, in its section. -/
def Gaz.fields (g : Gaz) : List Nat := (List.range g.count).map fun k => g.bitpos + k * g.stride

/-- The gazetteer is well formed (detail 0x0605). -/
def gazOk (c : Cart) (pl : Memory) (x : Sect) : Bool :=
  let l := gazList pl x
  decide (x.off = c.gazOff) && decide (x.len = c.gazLen)
    && ((List.range l.length).all fun k => zeroAt pl (x.off + 16 * k + 3) 1)
    && (l.all fun g => decide (1 ≤ g.kind) && decide (g.kind ≤ 11) && decide (1 ≤ g.width) && decide (g.width ≤ 64)
      && (decide (g.count ≤ 1) || decide (g.width ≤ g.stride))
      && (match c.sects[g.sec]? with
        | none => false
        | some y => decide (g.count = 0) || decide (g.bitpos + (g.count - 1) * g.stride + g.width ≤ 8 * y.len)))
    && disjointRanges ((l.map fun g => g.fields.map fun b => (g.sec * 2 ^ 40 + b, g.width)).flatten)

-- section lengths (R193)

/-- The number of parcels a section covers. -/
def Sect.parcels (x : Sect) : Nat := (maskList 32 x.vp).length

/-- A section of HBM windows has zero reserved bytes and sides that R193 names. -/
def windowsOk (m : Memory) (x : Sect) : Bool :=
  (List.range (x.len / 16)).all fun k =>
    let o := x.off + 16 * k
    zeroAt m (o + 2) 6 && (decide (memNat m o 1 ≤ 1) || decide (memNat m o 1 = 255))

/-- The length of a section agrees with its type (detail 0x0604). A run of virtual sheet E in a one-sheet image has detail 0x0603; DESIGN
CHOICE 62: so has a reserved field of a run or a window that is not zero, and a side or sheet that R193 does not name. -/
def sectFail (c : Cart) (pl : Option Memory) (x : Sect) : Option Nat :=
  let p := x.parcels
  let fixed (n : Nat) : Option Nat := if x.len = n then none else some 0x0604
  match x.type with
  | 1 => fixed (p * 1024 * c.n * 9)
  | 2 => fixed (p * 16 * c.n * 9)
  | 3 => fixed (p * 16 * c.n * 64)
  | 4 => fixed (c.cargoQuads.length * 8 * c.n * 5)
  | 5 => fixed (p * 1024 * c.n / 4)
  | 6 => fixed (p * 262144)
  | 8 => match fixed (p * 256), pl with
    | some d, _ => some d
    | none, none => none
    | none, some m => if windowsOk m x then none else some 0x0603
  | 10 => fixed (p * 64)
  | 7 => match pl with
    | none => none
    | some m =>
      match bankRuns (memSlice m x.off x.len) x.len x.len 0 with
      | none => some 0x0604
      | some l => if l.all (·.ok) then none else some 0x0603
  | 9 => match pl with
    | none => none
    | some m =>
      match hbmRuns (memSlice m x.off x.len) x.len x.len 0 with
      | none => some 0x0604
      | some l => if (l.all (·.ok)) = false ∨ (c.footE = 0 ∧ (l.any fun r => decide (r.b = 1))) then some 0x0603 else none
  | 0xF0 => if x.len % 16 ≠ 0 then some 0x0604 else match pl with
    | none => none
    | some m => if gazOk c m x then none else some 0x0605
  | _ => none

-- placement (R156 to R158)

/-- The load descriptor in a command's buffer (R201). -/
def descOf (d : Memory) : Desc :=
  { source := memNat d 0 1, slot := memNat d 1 1, named := decide (memNat d 2 1 = 1), sheet := memNat d 3 1, dx := memNat d 4 1
    dy := memNat d 5 1, image := memNat d 8 8, length := memNat d 16 8
    quads := (List.range 36).map fun q => memNat d (24 + q) 1, bridges := (List.range 8).map fun b => memNat d (60 + b) 1 }

/-- The image record of a cartouche at a placement. -/
def imageOf (s : State) (c : Cart) (d : Desc) (sheet dx dy : Nat) : Image :=
  let i : Image :=
    { hdrCrc := c.hdrCrc, imageId := c.imageId, parcels := [], spanning := decide (c.footE ≠ 0), sheet := sheet, dx := dx, dy := dy
      footW := c.footW, footE := c.footE, hbmBudget := c.budget, cls := c.cls, nVquads := c.nVquads, nVbridges := c.nVbridges
      quadClass := c.quadClass, classMask := c.classMask, keySlot := if c.enc = 1 then some d.slot else none
      quadBind := (List.range 36).map fun q => if bitOf c.classMask q then d.quads.getD q 255 else 255
      bridgeBind := (List.range 8).map fun b => if b < c.nVbridges then d.bridges.getD b 255 else 255
      allots := [], compare := [], tracks := s.trackMap }
  let west := i.virtuals.map i.parcelOf
  { i with parcels := if s.boot.pairMode = 2 then west ++ west.map (· + 16) else west }

/-- Every parcel of the footprint lies on the sheet when it is shifted. -/
def onSheet (c : Cart) (dx dy : Nat) : Bool :=
  (maskList 16 c.footW ++ maskList 16 c.footE).all fun v => decide (v % 4 + dx < 4) && decide (v / 4 + dy < 4)

/-- The parcels that a placement depends on: in paired modes also the twins, which have to be good and owned. -/
def State.twins (s : State) (i : Image) : List Nat :=
  if s.boot.pairMode = 3 then i.parcels ++ i.parcels.map fun p => (p + 16) % 32 else i.parcels

/-- A parcel that can take an image of a function: good, owned and BLANK. -/
def State.canTake (s : State) (fn p : Nat) : Bool :=
  !s.failed p && decide (s.ownerOf p = some fn) && decide ((s.parcel p).load = .blank)

/-- The virtual parcels whose target cannot take the image (R157). -/
def State.badTargets (s : State) (fn : Nat) (i : Image) : List Nat :=
  i.virtuals.filter fun v =>
    let p := i.parcelOf v
    !(s.canTake fn p) || (decide (s.boot.pairMode = 2) && !(s.canTake fn (p + 16)))
      || (decide (s.boot.pairMode = 3) && (s.failed ((p + 16) % 32) || decide (s.ownerOf ((p + 16) % 32) ≠ some fn)))

def State.badCap (s : State) (i : Image) : List Nat :=
  i.parcels.filter fun p => !capOk (s.parcel p).capClass (s.parcel p).capW
def State.lowCap (s : State) (i : Image) (cls : Nat) : List Nat := i.parcels.filter fun p => decide ((s.parcel p).capClass < cls)

/-- The placements that the loader tries, in order (R158). -/
def candidates (s : State) (c : Cart) : List (Nat × Nat × Nat) :=
  let dys := List.range 4
  if c.footE ≠ 0 then dys.map fun dy => (0, 0, dy)
  else (if s.boot.pairMode = 2 then [0] else [0, 1]).flatMap fun sh => dys.flatMap fun dy => (List.range 4).map fun dx => (sh, dx, dy)

/-- A placement that the loader may choose: in DIFFERENTIAL pairing one whose other sheet is free too. -/
def State.admits (s : State) (fn : Nat) (c : Cart) (d : Desc) (p : Nat × Nat × Nat) : Bool :=
  let i := imageOf s c d p.1 p.2.1 p.2.2
  onSheet c p.2.1 p.2.2 && (s.badTargets fn i).isEmpty && (s.badCap i).isEmpty && (s.lowCap i c.cls).isEmpty
    && (s.twins i).all (s.canTake fn)

/-- The run group of the other revision of a DIFFERENTIAL placement: the one that holds a twin of its parcels. -/
def State.twinGroup (s : State) (i : Image) : Option Nat :=
  if s.boot.pairMode ≠ 3 then none else i.parcels.findSome? fun p => (s.parcel ((p + 16) % 32)).rg

/-- A second revision agrees with the first (R252). -/
def State.revisionFits (s : State) (g : Nat) (i : Image) (n : Nat) : Bool :=
  let r := s.group g
  match r.images with
  | [a] => decide (a.sheet ≠ i.sheet ∧ a.dx = i.dx ∧ a.dy = i.dy ∧ a.footW = i.footW ∧ r.n = n ∧ a.quadClass = i.quadClass
      ∧ a.classMask = i.classMask ∧ a.quadBind = i.quadBind ∧ a.bridgeBind = i.bridgeBind)
  | _ => false

/-- The places of bindings that cannot be granted (R158, R202, R243, R244): the wrong sheet, in use, held by a load, bound twice, or
locked. `uses` are the clusters and bound bridges of the port entries that name a bridge: in a spanning image the portion of a bridge lies
where those clusters do. A spanning image has a portion on both sheets, and a quad's clusters are those of the sheet it is bound on. -/
def State.badBinds (s : State) (session : Nat) (c : Cart) (i : Image) (uses : List (Nat × Nat)) : List Loc :=
  let quadBad (v : Nat) : Bool :=
    let q := i.quadBind.getD v 255
    let sheet := if s.paired then decide (q < 18) else i.spanning || decide (q / 18 = i.sheet)
    !decide (q < 36) || !sheet || decide (i.quadBind.count q ≠ 1)
      || (s.boundUnits i 18 [q]).any fun u =>
        (s.quad u).rg.isSome || (s.quad u).bridge.isSome || s.quadHeld u || s.quadLocked session u
  let bridgeBad (v : Nat) : Bool :=
    let b := i.bridgeBind.getD v 255
    let sheet := if s.paired then decide (b < 4)
      else if i.spanning then uses.all fun e => decide (e.2 ≠ b) || decide (clSheet e.1 = b / 4)
      else decide (b / 4 = i.sheet)
    decide (b ≠ 255) && (!decide (b < 8) || !sheet || decide (i.bridgeBind.count b ≠ 1)
      || (s.boundUnits i 4 [b]).any fun u => (s.bridge u).rg.isSome || s.bridgeHeld u || s.quadLocked session (s.bridge u).quad)
  ((c.cargoQuads.filter quadBad).map fun v => { Loc.none with item := v })
    ++ (((List.range c.nVbridges).filter bridgeBad).map fun v => { Loc.none with item := v })

-- HBM allotments (R183, R247)

/-- The windows of a section as declared: cluster and window, base still virtual. -/
def windowsOf (i : Image) (pl : Memory) (x : Sect) : List (Nat × Option Win) :=
  let vs := maskList 32 x.vp
  (List.range (16 * vs.length)).map fun k =>
    let o := x.off + 16 * k
    let side := memNat pl o 1
    (clOf (i.parcelOf (vs.getD (k / 16) 0)) (k % 16),
      if side = 255 then none else some { side := side % 2, log := memNat pl (o + 1) 1, base := memNat pl (o + 8) 8 })

/-- Words that an image needs on a stack: its windows and the runs of its initial data. -/
def needWords (i : Image) (c : Cart) (pl : Memory) (k : Nat) : Nat :=
  let wins := ((c.ofType 8).map (windowsOf i pl)).flatten.filterMap fun e => match e.2 with
    | some w => if 2 * clSheet e.1 + w.side = k then some (w.base + 2 ^ w.log) else none
    | none => none
  let runs := ((c.ofType 9).map fun x => (hbmRuns (memSlice pl x.off x.len) x.len x.len 0).getD []).flatten.filterMap fun r =>
    if 2 * (if i.spanning then r.b else i.sheet) + r.a = k then some (r.first + r.count) else none
  (wins ++ runs).foldl max 0

/-- The allotments of an image: the lowest that fit; in paired modes at the address of the other sheet. None: one does not fit. -/
def State.allotsOf (s : State) (i : Image) (c : Cart) (pl : Memory) : Option (List (Nat × Nat × Nat)) :=
  let fits (k base n : Nat) : Bool :=
    (s.stack k).trained && decide (base + n ≤ (s.stack k).designEnd) && rangeFree (s.designUsed k) base n
  let other (k : Nat) : Option Nat := if s.boot.pairMode = 3 then
      (s.twinGroup i).bind fun g => ((s.group g).images.map (·.allots)).flatten.findSome? fun a =>
        if a.1 = (k + 2) % 4 then some a.2.1 else none
    else none
  (List.range 4).foldl (fun acc k =>
    acc.bind fun l =>
      let n := ceilDiv (needWords i c pl k) unitWords
      if n = 0 then some l
      else match (match other k with | some b => some b | none => firstFit (s.designUsed k) 0 (s.stack k).designEnd n) with
        | none => none
        | some b =>
          if !fits k b n then none
          else if s.boot.pairMode = 2 then (if fits (k + 2) b n then some (l ++ [(k, b, n), (k + 2, b, n)]) else none)
          else some (l ++ [(k, b, n)])) (some [])

-- relocation (R159, R160)

/-- The base word of an image's allotment on a stack. -/
def Image.baseWord (i : Image) (k : Nat) : Nat :=
  ((i.allots.find? fun a => decide (a.1 = k)).map fun a => a.2.1 * unitWords).getD 0

/-- A relocated field value (R159); none where a virtual unit is not bound. `k` is the stack of an HBM address, and for a track the key of
track 0 of its landing column or row; `list` tells that a probe position is an entry of a trace cluster list. -/
def relocValue (i : Image) (kind width k : Nat) (list : Bool) (v : Nat) : Option Nat :=
  let east := if i.spanning then 0 else 16 * i.sheet
  match kind with
  | 1 => some (v + 4 * i.dx)
  | 2 => some (v + 4 * i.dy)
  | 3 => some (if i.spanning then v else v + 4 * i.dx + east)
  | 4 => some (mget v (k + v) i.tracks)
  | 5 => some (if width < 16 then i.parcelOf v else listMask ((maskList 32 v).map i.parcelOf))
  | 6 => if i.quadBind.getD v 255 = 255 then none else i.quadBind[v]?
  | 7 => if i.quadBind.getD (v / 4) 255 = 255 then none else (i.quadBind[v / 4]?).map fun q => 4 * q + v % 4
  | 8 => if i.bridgeBind.getD v 255 = 255 then none else i.bridgeBind[v]?
  | 9 => some (if v = 255 ∨ i.spanning then v else 2 * i.sheet + v % 2)
  | 10 => some (v + i.baseWord k)
  | 11 => some (if list then v + 4 * i.dx + 64 * i.dy else v)
  | _ => some v

/-- Write `width` bits at bit position `pos` of a byte memory. -/
def memPutBits (m : Memory) (pos width v : Nat) : Memory :=
  let lo := pos / 8
  let n := ceilDiv (pos % 8 + width) 8
  memSetBytes lo (leBytes n (putBits (memNat m lo n) (pos % 8) width v)) m

def memGetBits (m : Memory) (pos width : Nat) : Nat := bitsOf (memNat m (pos / 8) (ceilDiv (pos % 8 + width) 8)) (pos % 8) width

/-- The plaintext with its listed fields relocated, and the places of the fields that could not be. -/
structure Reloc where
  m       : Memory
  unbound : List Loc
  misfit  : List Loc
deriving DecidableEq, Repr

/-- The place of a bit of a section, where its items belong to clusters and steps. -/
def sectLoc (c : Cart) (x : Sect) (bit : Nat) : Loc :=
  let vs := maskList 32 x.vp
  let at_ (per w : Nat) : Loc :=
    let k := bit / (8 * w)
    { Loc.none with vp := vs.getD (k / (per * c.n) / 16) 0xFF, cl := k / (per * c.n) % 16, step := k % c.n }
  match x.type with
  | 1 => { at_ 64 9 with item := bit / 72 / c.n % 64 }
  | 2 => at_ 1 9
  | 3 =>
    let b := bit % 512
    { at_ 1 64 with item := if b < 256 then b / 16 else 16 + (b - 256) / 32 }
  | 4 => { Loc.none with step := bit / 40 % (8 * c.n), item := c.cargoQuads.getD (bit / 40 / (8 * c.n)) 0xFFFF }
  | _ => Loc.none

/-- A bit of a trace configuration section that lies in the cluster list of its first or its second block (R256, R257). -/
def inTraceList (m : Memory) (x : Sect) (bit : Nat) : Bool :=
  let second := 8 * (ceilDiv (0xE00 + memNat m (x.off + 20) 4) 64 * 64)
  let at_ (b : Nat) : Bool := decide (0x200 ≤ b) && decide (b < 0x1200)
  at_ bit || (decide (second ≤ bit) && at_ (bit - second))

/-- Relocate one field. -/
def relocField (i : Image) (c : Cart) (x : Sect) (g : Gaz) (a : Reloc) (bit : Nat) : Reloc :=
  let pos := 8 * x.off + bit
  let v := memGetBits a.m pos g.width
  let vs := maskList 32 x.vp
  let k := bit / 128
  let stack := 2 * (if i.spanning then vs.getD (k / 16) 0 / 16 else i.sheet) + memNat a.m (x.off + 16 * k) 1 % 2
  let list := decide (x.type = 11) && inTraceList a.m x bit
  let at_ := if g.kind = 4 ∧ x.type = 3 then
      let u := bit / 512 / c.n
      trackKey (clOf (i.parcelOf (vs.getD (u / 16) 0)) (u % 16)) (memGetBits a.m (pos + 13) 2) 0
    else stack
  match relocValue i (if g.kind = 4 ∧ x.type ≠ 3 then 0 else g.kind) g.width at_ list v with
  | none =>
    if g.kind = 8 then { a with unbound := { sectLoc c x bit with item := v } :: a.unbound } else { a with misfit := sectLoc c x bit :: a.misfit }
  | some w =>
    if w < 2 ^ g.width then { a with m := memPutBits a.m pos g.width w } else { a with misfit := sectLoc c x bit :: a.misfit }

/-- Relocate every field that the gazetteer lists. -/
def relocate (i : Image) (c : Cart) (pl : Memory) : Reloc :=
  ((c.ofType 0xF0).map (gazList pl)).flatten.foldl (fun a g =>
    match c.sects[g.sec]? with
    | none => a
    | some x => g.fields.foldl (relocField i c x g) a) { m := pl, unbound := [], misfit := [] }

-- the tables of an image

/-- The items of `w` bytes of a sparse byte string that are not zero: index and value. -/
def groupItems (w : Nat) : Memory → List (Nat × Nat)
  | [] => []
  | (a, b) :: r =>
    let v := b.toNat * 256 ^ (a % w)
    match groupItems w r with
    | (k, u) :: t => if k = a / w then (k, u + v) :: t else (a / w, v) :: (k, u) :: t
    | [] => [(a / w, v)]

/-- The items of a section with the cluster, the unit within the cluster and the entry of each; `per` units a cluster. -/
def sectItems (i : Image) (n : Nat) (m : Memory) (x : Sect) (w per : Nat) : List (Nat × Nat × Nat × Nat) :=
  let vs := maskList 32 x.vp
  (groupItems w (memSlice m x.off x.len)).map fun e =>
    let u := e.1 / n
    (clOf (i.parcelOf (vs.getD (u / per / 16) 0)) (u / per % 16), u % per, e.1 % n, e.2)

/-- The tables of an image from its relocated plaintext. -/
def tablesOf (s : State) (i : Image) (c : Cart) (m : Memory) : Tables :=
  let all (t w per : Nat) := ((c.ofType t).map fun x => sectItems i c.n m x w per).flatten
  let east := if s.boot.pairMode = 3 ∧ i.sheet = 1 then 18 else 0
  let quads := ((c.ofType 4).map fun x => groupItems 5 (memSlice m x.off x.len)).flatten.map fun e =>
    ((i.quadBind.getD (c.cargoQuads.getD (e.1 / (8 * c.n)) 0) 255 + east) * 32768 + e.1 % (8 * c.n), BitVec.ofNat 40 e.2)
  let fences := ((c.ofType 10).map fun x =>
    let vs := maskList 32 x.vp
    (groupItems 4 (memSlice m x.off x.len)).map fun e =>
      (clOf (i.parcelOf (vs.getD (e.1 / 16) 0)) (e.1 % 16), BitVec.ofNat 32 e.2)).flatten
  { ins := msetMany 0 ((all 1 9 64).map fun e => ((e.1 * 64 + e.2.1) * 4096 + e.2.2.1, BitVec.ofNat 72 e.2.2.2)) []
    port := msetMany 0 ((all 2 9 1).map fun e => (e.1 * 4096 + e.2.2.1, BitVec.ofNat 72 e.2.2.2)) []
    send := msetMany 0 ((all 3 64 1).map fun e => (e.1 * 4096 + e.2.2.1, BitVec.ofNat 512 e.2.2.2)) []
    quad := msetMany 0 quads [], wins := msetMany none ((c.ofType 8).map (windowsOf i m)).flatten []
    fences := msetMany 0 fences [] }

/-- The initial codes of a value or state section: key and value (R49, R193). `span` is the key span of a BP, `n` its entries. -/
def initCodes (i : Image) (m : Memory) (x : Sect) (n span : Nat) : List (Nat × V4) :=
  let vs := maskList 32 x.vp
  (List.range (vs.length * 1024 * n)).map fun k =>
    let u := k / n
    ((clOf (i.parcelOf (vs.getD (u / 1024) 0)) (u / 64 % 16) * 64 + u % 64) * span + k % n, codeAt m x.off k)

/-- The cluster that a bank run names: row and column on the sheet where the section's parcels lie. None: outside them. -/
def runCluster? (i : Image) (x : Sect) (b : Nat) : Option Nat :=
  let ps := (maskList 32 x.vp).map i.parcelOf
  [clAt 0 (b / 16) (b % 16), clAt 1 (b / 16) (b % 16)].find? fun c => ps.contains (clParcel c)

/-- The bank runs of an image: cluster, run, and where its data lie in the image. None: a run outside the image's parcels. -/
def bankInit (i : Image) (c : Cart) (m : Memory) : Option (List (Nat × Run)) :=
  allSome ((c.ofType 7).map fun x => ((bankRuns (memSlice m x.off x.len) x.len x.len 0).getD []).map fun r =>
    (runCluster? i x r.a).map fun cl => (cl, { r with data := x.off + r.data })).flatten

/-- The HBM runs of an image: stack and run. -/
def hbmInit (i : Image) (c : Cart) (m : Memory) : List (Nat × Run) :=
  ((c.ofType 9).map fun x => ((hbmRuns (memSlice m x.off x.len) x.len x.len 0).getD []).map fun r =>
    (2 * (if i.spanning then r.b else i.sheet) + r.a, { r with data := x.off + r.data })).flatten

-- trace and compare sections at load (R252, R255)

/-- A block whose cluster list is in physical terms, brought back to the terms of `Image.clusterOf`. -/
def virtualBlock (i : Image) (b : TraceBlock) : TraceBlock :=
  { b with clusters := b.clusters.map fun rc =>
      if 4 * i.dy ≤ rc.1 ∧ 4 * i.dx ≤ rc.2 then (rc.1 - 4 * i.dy, rc.2 - 4 * i.dx) else (99, 99) }

/-- The trace section of an image: none where there is none; `some none` where it is malformed. -/
def traceSect (i : Image) (c : Cart) (m : Memory) : Option (Option (List TraceBlock)) :=
  match c.ofType 11 with
  | [] => none
  | x :: _ => some ((parseBlocks (memSlice m x.off x.len) x.len).map fun l => l.map (virtualBlock i))

/-- The engines that a run group of the image needs (R254): both in paired modes and for a spanning image. -/
def State.neededEngines (s : State) (i : Image) : List Nat := if s.paired ∨ i.spanning then [0, 1] else [i.sheet]

/-- The engines that the blocks of an image configure (R256): in DIFFERENTIAL pairing that of its own sheet. -/
def State.loadEngines (s : State) (i : Image) : List Nat :=
  if s.boot.pairMode = 2 ∨ i.spanning then [0, 1] else [i.sheet]

/-- The block for an engine at load. -/
def loadBlock (s : State) (i : Image) (bs : List TraceBlock) (e : Nat) : Option TraceBlock :=
  if i.spanning then bs.find? fun b => decide (b.vsheet = e)
  else match bs with
    | [b] => if b.vsheet = 0 ∨ (s.boot.pairMode = 3 ∧ b.vsheet = e) then some { b with vsheet := 0 } else none
    | _ => none

/-- The compare map of revision A (R252), none where it is malformed. -/
def compareSect (s : State) (i : Image) (c : Cart) (m : Memory) (words : Option Nat) : Option (List (BitVec 64)) :=
  if s.boot.pairMode ≠ 3 ∨ i.sheet ≠ 0 then some []
  else match c.ofType 12 with
    | [] => some []
    | x :: _ =>
      if x.len % 8 ≠ 0 ∨ 8192 < x.len ∨ x.len = 0 then none
      else
        let l := (List.range (x.len / 8)).map fun k => memNat m (x.off + 8 * k) 8
        let east := if (s.engine 1).rg.isSome ∧ (s.engine 1).rg = s.twinGroup i then some (sampleWords (s.engine 1).clusters.length) else none
        if l.all fun e => decide (bitsOf e 0 9 < words.getD 456) && decide (bitsOf e 9 9 < east.getD 456) && decide (bitsOf e 18 2 < 2)
            && decide (bitsOf e 56 8 = 0) then some (l.map (BitVec.ofNat 64)) else none

-- the checks of a load

/-- What a load that passes its checks will write. -/
structure Plan where
  c      : Cart
  img    : Image
  t      : Tables
  m      : Memory
  bank   : List (Nat × Run)
  blocks : List TraceBlock
deriving DecidableEq, Repr

/-- A refused load: status, detail, place, and the parcels that it named. -/
structure Refused where
  status : Nat
  detail : Nat
  loc    : Loc
  ps     : List Nat
deriving DecidableEq, Repr

def refuse {α : Type} (status detail : Nat) (loc : Loc := Loc.none) (ps : List Nat := []) : Except Refused α :=
  .error { status := status, detail := detail, loc := loc, ps := ps }

/-- The first group of R161 and the checks of step 1 before it. -/
def identityFail (s : State) (h : Memory) : Option (Nat × Nat) :=
  if memNat h 0 4 ≠ 0x54434B53 ∨ memNat h 4 2 ≠ 1 ∨ memNat h 6 2 ≠ 4096 then some (errFormat, 0x0601)
  else if memNat h 0xFFC 4 ≠ crcSparse (memSlice h 0 0xFFC) 0xFFC then some (errFormat, 0x0602)
  else if memNat h 8 2 ≠ 0x5C92 ∨ memNat h 0xA 1 ≠ 1 then some (errImageDevice, 0x0101)
  else if 2 < memNat h 0xB 1 then some (errImageDevice, 0x0102)
  else if s.boot.fwMajor < memNat h 0xC 1 then some (errImageDevice, 0x0103)
  else if bitOf (memNat h 0xD 1) (if s.grade = 24 then 0 else if s.grade = 28 then 1 else 2) = false then some (errImageDevice, 0x0104)
  else if memNat h 0x19 1 ≠ 8 ∨ memNat h 0x1A 1 ≠ 64 ∨ memNat h 0x1B 1 ≠ 16 ∨ memNat h 0x1C 1 ≠ 32 ∨ memNat h 0x1D 1 ≠ 16 then
    some (errImageDevice, 0x0105)
  else none

/-- The sections in image order. -/
def Cart.ordered (c : Cart) : List Sect := sortBy (·.off) c.sects

/-- The first failure of a section in image order: its CRC, then its length and its content (R202, step 3; R207). -/
def sectionFail (c : Cart) (b : Memory) (pl : Option Memory) : Option (Nat × Nat) :=
  c.ordered.findSome? fun x =>
    if crcSparse (memSlice b x.off x.len) x.len ≠ x.crc then
      (if (c.ordered.getLast?).map (·.off) = some x.off then some (errTruncated, 0x0612) else some (errFormat, 0x0606))
    else (sectFail c pl x).map fun d => (errFormat, d)

/-- The plaintext of an image, its positions unchanged; none where the tag does not verify (R198). -/
def plainOf (s : State) (c : Cart) (h b : Memory) (slot : Nat) : Option Memory :=
  if c.enc = 0 then some b
  else
    let n := c.total - 0x1000
    let aad := memNat h 0 0x70 + memNat h 0x80 0xF7C * 256 ^ 0x70
    (Config.gcmOpen (s.key slot).key (BitVec.ofNat 96 (memNat h 0x60 12)) aad (0x70 + 0xF7C)
      (memToNat (memSlice b 0x1000 n) + memNat h 0x70 16 * 256 ^ n) (n + 16)).map fun t => cellsAt 0x1000 (leBytes n t)

/-- Group 3 of R161: the declarations. DESIGN CHOICE 102: every virtual quad below n_vquads carries cargo, so 0x0205 names the first without a
bit of class_mask. -/
def declFail (s : State) (c : Cart) (d : Desc) (pl : Memory) : Option (Nat × Nat × Loc) :=
  let i := imageOf s c d 0 0 0
  let x : LoadCtx := { img := i, n := c.n, joined := false, phys := false, t := tablesOf s i c pl }
  if c.n = 0 then some (errParam, 0x0200, Loc.none)
  else if [256, 512, 1024, 2048, 4096].contains c.n = false then some (errFormat, 0x0201, Loc.none)
  else if c.budget ≠ 0 ∧ (c.budget < 160 ∨ c.n ≤ c.budget) then some (errFormat, 0x0202, Loc.none)
  else match firstLoc x.undeclaredHbm with
    | some l => some (errFormat, 0x0203, l)
    | none =>
      if c.cls = 0 ∨ 4 < c.cls then some (errFormat, 0x0204, Loc.none)
      else match (List.range c.nVquads).find? fun q => !bitOf c.classMask q with
        | some q => some (errFormat, 0x0205, { Loc.none with item := q })
        | none => none

def vpLoc (v : Nat) : Loc := { Loc.none with vp := v }

/-- Another load is at work on a parcel that the caller owns (R209). -/
def State.loadAt (s : State) (fn p : Nat) : Bool :=
  decide (s.ownerOf p = some fn) && (decide ((s.parcel p).load = .checking) || decide ((s.parcel p).load = .loading))

/-- The placement of a load (R157, R158): the image placed, or the failure. A second load that names a parcel in CHECKING or LOADING answers
ERR_STATE (R209). `caps`: the power caps are checked; those of a load whose placement has passed are not checked again (R228). -/
def placeImage (s : State) (fn : Nat) (c : Cart) (d : Desc) (caps : Bool) : Except Refused Image :=
  let anchored := (maskList 16 c.footW).any (fun v => decide (v % 4 = 0)) && (maskList 16 c.footW).any fun v => decide (v / 4 = 0)
  if c.footW = 0 ∨ (c.footE = 0 ∧ anchored = false) then refuse errFootprint 0x0401
  else if c.footE ≠ 0 ∧ s.boot.pairMode ≠ 1 then refuse errFootprint 0x0404
  else if d.named then
    let i := imageOf s c d d.sheet d.dx d.dy
    let off (v : Nat) : Bool := decide (4 ≤ v % 4 + d.dx) || decide (4 ≤ v % 16 / 4 + d.dy)
    let astray := decide ((c.footE ≠ 0 ∧ (d.dx ≠ 0 ∨ d.sheet ≠ 0)) ∨ (s.boot.pairMode = 2 ∧ d.sheet = 1))
    let bad := if astray then [] else s.badTargets fn i
    if i.virtuals.any fun v => !off v && s.loadAt fn (i.parcelOf v) then refuse errState 0
    else match i.virtuals.find? fun v => off v || bad.contains v with
      | some v => refuse errFootprint 0x0403 (vpLoc v) (if i.virtuals.any off then [] else i.parcels)
      | none =>
        if astray then refuse errFootprint 0x0403
        else match (if caps then s.badCap i else []) with
          | p :: _ => refuse errMismatch 0x0504 (vpLoc (i.virtualOf p)) i.parcels
          | [] =>
            match (if caps then s.lowCap i c.cls else []) with
            | p :: _ => refuse errResource 0x0501 (vpLoc (i.virtualOf p)) i.parcels
            | [] => .ok i
  else match (candidates s c).find? (s.admits fn c d) with
    | none => refuse errFootprint 0x0402
    | some p => .ok (imageOf s c d p.1 p.2.1 p.2.2)

/-- The rest of group 4: locks, bindings, the other revision, HBM, trace engines. -/
def resourceFail (s : State) (p : Packet) (c : Cart) (i : Image) (pl : Memory) : Option (Nat × Nat × Loc) :=
  let es := s.loadEngines i
  let need := s.neededEngines i
  let tg := s.twinGroup i
  let r := relocate i c pl
  let bs : List TraceBlock := ((traceSect i c r.m).bind id).getD []
  let x : LoadCtx := { img := i, n := c.n, joined := false, phys := false, t := tablesOf s i c r.m }
  let taken (e : Nat) : Bool := ((s.engine e).rg.isSome && decide ((s.engine e).rg ≠ tg)) || s.engineHeld e
  let noRoom (e : Nat) : Bool := match loadBlock s i bs e with
    | none => false
    | some b =>
      let k := 2 * e + b.side
      decide (s.phase ≠ 1)
        && (!(s.stack k).trained || (firstFit (s.traceUsed k) (s.stack k).designEnd (s.stack k).traceEnd b.units).isNone)
  if s.parcelLocked p.session i.parcels then some (errLock, 0, Loc.none)
  else match firstLoc (s.badBinds p.session c i (x.insets.map fun e => (e.1, e.2.2.1))) with
    | some l => some (errFootprint, 0x0405, l)
    | none =>
      if (match tg with | some g => !s.revisionFits g i c.n | none => false) then some (errMismatch, 0x0270, Loc.none)
      else if (s.allotsOf i c pl).isNone then some (errResource, 0x0502, Loc.none)
      else if (traceSect i c r.m).isNone then none
      else if es.any noRoom then some (errResource, 0x0502, Loc.none)
      else if bs.any fun b => (maskList 4 b.trigUse).any fun k =>
          decide ((s.trigInPin k).parcels = 0) || decide ((s.trigInPin k).owner ≠ callerFn p) then some (errOwner, 0, Loc.none)
      else if need.any taken then some (errResource, 0x0503, Loc.none)
      else if need.any (s.engineLocked p.session) then some (errLock, 0, Loc.none)
      else none

/-- The trace checks of group 5: details 0x0262 and 0x0263. -/
def traceFail (s : State) (i : Image) (t : Tables) (sect : Option (Option (List TraceBlock))) : Option (Nat × Nat × Loc) :=
  match sect with
  | none => none
  | some none => some (errFormat, 0x0262, Loc.none)
  | some (some bs) =>
    let es := s.loadEngines i
    let parts := es.map fun e => loadBlock s i bs e
    let ships (c : Nat) : Bool := t.port.any fun e => decide (e.1 / 4096 = c) && e.2.getLsbD 8
    let place (b : TraceBlock) (rc : Nat × Nat) : Loc := if 16 ≤ rc.1 ∨ 16 ≤ rc.2 then Loc.none
      else { Loc.none with vp := 16 * b.vsheet + 4 * (rc.1 / 4) + rc.2 / 4, cl := 4 * (rc.1 % 4) + rc.2 % 4 }
    let bad (b : TraceBlock) : List Loc := (b.clusters.filter fun rc => decide (1 < b.clusters.count rc)
      || !((i.clusterOf b.vsheet rc.1 rc.2).map ships).getD false).map (place b)
    if parts.any Option.isNone ∨ (i.spanning = false ∧ bs.length ≠ 1) then some (errFormat, 0x0262, Loc.none)
    else (firstLoc (parts.flatMap fun b => (b.map bad).getD [])).map fun l => (errFormat, 0x0263, l)

/-- Group 7: the links (R151, R246); in PROVISIONAL no image with cargo quads loads (R445). -/
def linkFail (s : State) (c : Cart) (i : Image) : Option (Nat × Nat × Loc) :=
  let extra := if s.paired then 8 else 0
  let lanes := (c.cargoQuads.map fun v => (quadLanes (i.quadBind.getD v 0)).map fun l => (v, l)).flatten
  let ready (l : Lane) : Bool := (decide (l.state = .up) || decide (l.state = .idleTrained)) && decide (l.rate = 0) && decide (l.fec = 0) && !l.crossed
  if s.phase = 1 ∧ c.cargoQuads ≠ [] then some (errDelay, 0x0302, { Loc.none with item := c.cargoQuads.headD 0 }) else
  match lanes.find? fun x => decide (classLimit (bitsOf c.quadClass (2 * x.1) 2) < (s.lane x.2).trained + extra) with
  | some x => some (errDelay, 0x0301, { Loc.none with item := x.1, value := (s.lane x.2).trained + extra })
  | none =>
    match lanes.find? fun x => !ready (s.lane x.2) with
    | some x => some (errDelay, 0x0302, { Loc.none with item := x.1 })
    | none => none

/-- Group 4: the image placed, with its allotments, or the failure. -/
def grantOf (s : State) (p : Packet) (c : Cart) (d : Desc) (pl : Memory) (caps : Bool) : Except Refused Image :=
  match placeImage s (callerFn p) c d caps with
  | .error e => .error e
  | .ok i =>
    match resourceFail s p c i pl with
    | some (st, dt, l) => refuse st dt l i.parcels
    | none => .ok { i with allots := (s.allotsOf i c pl).getD [] }

/-- The compare map of revision A, where revision B is loaded after it, lies within B's sample (R252). DESIGN CHOICE 94: B is refused. -/
def State.mapFits (s : State) (i : Image) (words : Option Nat) : Bool :=
  decide (s.boot.pairMode ≠ 3) || decide (i.sheet ≠ 1) || match s.twinGroup i with
    | none => true
    | some g => (s.group g).images.all fun a => a.compare.all fun e => decide (bitsOf e.toNat 9 9 < words.getD 456)

/-- The checks of groups 4 to 7 on a cartouche and its plaintext. A load whose placement or whose links have passed does not check the caps
or the links again (R209, R228). -/
def planOf (s : State) (p : Packet) (c : Cart) (d : Desc) (pl : Memory) (links caps : Bool) : Except Refused Plan :=
  match grantOf s p c d pl caps with
  | .error e => .error e
  | .ok i =>
      let r := relocate i c pl
      let t := tablesOf s i c r.m
      let x : LoadCtx := { img := i, n := c.n, joined := decide (s.boot.pairMode = 1), phys := false, t := t }
      let bank := bankInit i c r.m
      let misfit := if bank.isNone then Loc.none :: r.misfit else r.misfit
      let sect := traceSect i c r.m
      let words := (sect.bind id).bind fun bs => (loadBlock s i bs i.sheet).map fun b => sampleWords b.clusters.length
      let cmp := compareSect s i c r.m words
      match firstFail (x.tableChecks r.unbound misfit) with
      | some (st, dt, l) => refuse st dt l i.parcels
      | none =>
        if cmp.isNone ∨ s.mapFits i words = false then refuse errFormat 0x0261 Loc.none i.parcels
        else match traceFail s i t sect with
          | some (st, dt, l) => refuse st dt l i.parcels
          | none =>
            match firstFail ([(errFormat, 0x0280, x.sharedBridges), (errFormat, 0x0281, x.busyBridges)] ++ x.budgetChecks) with
            | some (st, dt, l) => refuse st dt l i.parcels
            | none =>
              match (if links then linkFail s c i else none) with
              | some (st, dt, l) => refuse st dt l i.parcels
              | none => .ok { c := c, img := { i with compare := cmp.getD [] }, t := t, m := r.m, bank := bank.getD [],
                              blocks := (sect.bind id).getD [] }

/-- The source of a load: its bytes, numbered from 0, and how many there are. A load from HBM finds no stage in PROVISIONAL while a stack is
not trained (R398). -/
def loadSource (s : State) (fn : Nat) (d : Desc) : Except (Nat × Nat) (Memory × Nat) :=
  if d.source = 0 then .ok (memSlice s.hostMem d.image (min d.length (2 ^ 36)), d.length)
  else match s.stages.find? fun g => decide (g.handle = d.image) with
    | none =>
      if s.phase = 1 ∧ (List.range 4).any (fun k => !(s.stack k).trained) then .error (errResource, 0x0502) else .error (errParam, 0)
    | some g =>
      if g.owner ≠ fn then .error (errOwner, 0)
      else .ok (memSlice s.hbm (g.stack * 2 ^ 36 + g.base * unitBytes) (min d.length g.length), min d.length g.length)

/-- The parcels of a named placement that the caller owns: a refusal once the footprint is read names them (R200). -/
def namedParcels (s : State) (fn : Nat) (c : Cart) (d : Desc) : List Nat :=
  if d.named ∧ onSheet c d.dx d.dy then (imageOf s c d d.sheet d.dx d.dy).parcels.filter fun q => decide (s.ownerOf q = some fn) else []

/-- Step 1 of a load (R202), with the checks of its source, its key slot and its section table (R161, R193, R198, R399): the bytes of the
image and its cartouche. -/
def loadHead (s : State) (p : Packet) (d : Desc) : Except Refused (Memory × Cart) :=
  let fn := callerFn p
  match loadSource s fn d with
    | .error (st, dt) => refuse st dt
    | .ok (b, len) =>
      if len < 4096 then refuse errTruncated 0x0611
      else
        let h := memSlice b 0 4096
        let c := cartOf h
        let ps := namedParcels s fn c d
        match identityFail s h with
        | some (st, dt) => refuse st dt
        | none =>
          if (c.enc = 1 ∧ d.slot = 255) ∨ (c.enc ≠ 1 ∧ d.slot ≠ 255) then refuse errAuth 0x0623 Loc.none ps
          else if d.slot < 64 ∧ (s.key d.slot).bound ≠ some fn then refuse errAuth 0x0622 Loc.none ps
          else if d.slot < 64 ∧ s.keyLocked p.session d.slot then refuse errLock 0 Loc.none ps
          else if len < c.total then refuse errTruncated 0x0611 Loc.none ps
          else if cartOk h c = false then refuse errFormat 0x0603 Loc.none ps
          else .ok (b, c)

/-- The sections of an image whose cartouche has passed (R202, step 3): their CRCs, its tag and its declarations; its plaintext. -/
def loadBody (s : State) (p : Packet) (d : Desc) (b : Memory) (c : Cart) : Except Refused Memory :=
  let pl := plainOf s c (memSlice b 0 4096) b d.slot
  let ps := namedParcels s (callerFn p) c d
  match sectionFail c b pl with
  | some (st, dt) => refuse st dt Loc.none ps
  | none =>
    match pl with
    | none => refuse errAuth 0x0621 Loc.none ps
    | some m =>
      match declFail s c d m with
      | some (st, dt, l) => refuse st dt l ps
      | none => .ok m

/-- The first three groups of a load's checks (R161, R202, R487): the cartouche and the plaintext. -/
def loadImage (s : State) (p : Packet) (d : Desc) : Except Refused (Cart × Memory) :=
  match loadHead s p d with
  | .error e => .error e
  | .ok (b, c) =>
    match loadBody s p d b c with
    | .error e => .error e
    | .ok m => .ok (c, m)

/-- Every check of a load (R161, R202, R487). -/
def loadCheck (s : State) (p : Packet) (d : Desc) (links : Bool := true) (caps : Bool := true) : Except Refused Plan :=
  match loadImage s p d with
  | .error e => .error e
  | .ok (c, m) => planOf s p c d m links caps

-- the write pass (R202, R203)

/-- A table with a copy of its entries one sheet up, where the image is mirrored (R248). -/
def withTwin {α : Type} (mirrored : Bool) (off : Nat) (l : List (Nat × α)) : List (Nat × α) :=
  if mirrored then l ++ l.map fun e => (e.1 + off, e.2) else l

/-- Write the tables, initial values, banks and HBM of a plan. Every word of the parcels' stores and banks and of the bound quads' schedules
is written, with valid check bits (R166, R172); the loader, master 1, was the last to access each bank (R173, DESIGN CHOICE 107). -/
def writePlan (s : State) (q : Plan) : State :=
  let mi := decide (s.boot.pairMode = 2)
  let i := q.img
  let s := (s.clearClusters (clustersOf i.parcels)).clearSchedules (s.boundQuads i)
  let vals := ((q.c.ofType 5).map fun x => initCodes i q.m x q.c.n 4096).flatten
  let sts := ((q.c.ofType 6).map fun x => initCodes i q.m x 1024 1024).flatten
  let port := withTwin mi (256 * 4096) q.t.port
  let send := withTwin mi (256 * 4096) q.t.send
  let quad := withTwin mi (18 * 32768) q.t.quad
  let s := { s with istore := msetMany 0 (withTwin mi (16384 * 4096) q.t.ins) s.istore
                    values := msetMany .x (withTwin mi (16384 * 4096) vals) s.values
                    cur := msetMany .x (withTwin mi (16384 * 1024) sts) s.cur
                    ptable := msetMany 0 port s.ptable
                    busyMap := msetMany false (port.map fun e => (e.1, decide ((portInsOf e.2).bop ≠ 0))) s.busyMap
                    sendAct := msetMany 0 send s.sendAct, sendShd := msetMany 0 send s.sendShd
                    quadAct := msetMany 0 quad s.quadAct, quadShd := msetMany 0 quad s.quadShd }
  let s := forEach (clustersOf i.parcels) (fun c t =>
    let w := mget none (if mi then c % 256 else c) q.t.wins
    t.setCluster c { Cluster.init with
      owner := 1, fence := mget 0 (if mi then c % 256 else c) q.t.fences, winSide := (w.map (·.side)).getD 255, winLog := (w.map (·.log)).getD 0
      winBase := (w.map (·.base)).getD 0 }) s
  let s := q.bank.foldl (fun t r =>
    (if mi then [r.1, r.1 + 256] else [r.1]).foldl (fun u c =>
      { u with bank := memPaste (bankAddr c r.2.first) (8 * r.2.count) (memSlice q.m r.2.data (8 * r.2.count)) u.bank }) t) s
  let s := i.allots.foldl (fun t a => t.zeroUnits a.1 a.2.1 a.2.2) s
  (hbmInit i q.c q.m).foldl (fun t r =>
    (if mi then [r.1, r.1 + 2] else [r.1]).foldl (fun u k =>
      { u with hbm := memPaste (hbmAddr k (i.baseWord k + r.2.first)) (8 * r.2.count) (memSlice q.m r.2.data (8 * r.2.count)) u.hbm }) t) s

/-- Bind the quads and bridges of an image to a run group (R203): the lanes exit idle at GSR release, and one that has not yet announced
its silence stays on the air. -/
def State.bindUnits (s : State) (g fn : Nat) (i : Image) : State :=
  let s := forEach (List.range 36) (fun v t =>
    let q := i.quadBind.getD v 255
    if q = 255 then t else
    let cls := bitsOf i.quadClass (2 * v) 2
    forEach (t.boundUnits i 18 [q]) (fun u w =>
      forEach (quadLanes u) (fun l x => x.updLane l fun y =>
          { (if y.state = .idleTrained ∧ x.pairHeld l = false then y.noCargo.exitIdle
             else if x.pairHeld l then y.noCargo
             else { y.noCargo with ctrl := y.ctrl.filter fun m => decide (m ≠ .sleep) }) with cls := cls, clsValid := true })
        ((w.updQuad u fun y => { y with rg := some g, group := fn, cls := cls, joined := false }).clearRec (36 + u))) t) s
  forEach (s.boundBridges i) (fun b t => ((t.emptyBridge b).updBridge b fun v => { v with rg := some g, group := fn }).relink b |>.clearRec (72 + b)) s

/-- The number of the run group of an image: its lowest parcel; in paired modes the lowest pair. -/
def State.groupNumber (s : State) (i : Image) : Nat :=
  let ps := if s.paired then i.parcels.map (· % 16) else i.parcels
  match ps with
  | [] => 0
  | a :: l => l.foldl min a

/-- GSR release: the parcels are LOADED, run_state LOADED, the cycle counter 0 (R49, R202). -/
def State.releaseGsr (s : State) (g : Nat) (i : Image) (n : Nat) : State :=
  let s := forEach i.parcels (fun p t => t.updParcel p fun v =>
    { v with load := .loaded, asleep := false, rg := some g, heavy := 0, peak := 0, excess := 0, conf := [0, 0, 0, 0], svState := .idle
             restoreBad := false, svLast := 0, commitPend := false, copyBusy := false }) s
  let r := s.group g
  s.setGroup g { RunGroup.init with
    parcels := sortBy id (r.parcels ++ i.parcels), images := r.images ++ [i], n := n, state := .loaded
    restores := r.restores.filter fun x => decide (x.1 ≠ i.sheet) }

/-- An engine wakes within a command (DESIGN CHOICE 30). -/
def State.touchEngine (s : State) (e : Nat) : State :=
  let s := s.leaveDown (.trace e)
  (s.setNet { s.net with waking := s.net.waking.filter fun d => decide (d ≠ .trace e) }).updEngine e fun v => { v with awake := true }

/-- Bind the trace engines of a load; each wakes (R255). In DIFFERENTIAL pairing both are bound together (R254): the other sheet's, where it
is free, with no configuration until its own image or TRACE_CONFIG gives one. -/
def State.bindEngines (s : State) (g fn : Nat) (i : Image) (bs : List TraceBlock) : State :=
  if bs = [] then s else
  let s := forEach (s.loadEngines i) (fun e t => match loadBlock t i bs e with
    | none => t
    | some b =>
      match bindEngine t g fn e i b with
      | none => t
      | some u => u.touchEngine e) s
  forEach (s.neededEngines i) (fun e t =>
    if (t.engine e).rg.isSome then t
    else (t.setEngine e { Engine.init with state := .bound, rg := some g, group := fn, awake := (t.engine e).awake }).touchEngine e) s

/-- How the write pass of a load may end (R208): as its check pass did, with bytes that differ, or with an uncorrectable error of the tier
that it reads or writes. `v` is a free value (DESIGN CHOICE 90). -/
def writeEnd (v : BitVec 3) (enc : Bool) : Option (Nat × Nat) :=
  if v.getLsbD 2 ∧ v ≠ 4 then some (errDevice, 0x2002) else rereadFail (v.setWidth 2) enc 0x0613 0x0621

/-- The whole write pass of a load, up to GSR release, at which the links of its bridges are enabled (R331) and entry 0 is fetched (R37). -/
def loadWrite (s : State) (fn : Nat) (q : Plan) : State :=
  let g := s.groupNumber q.img
  let s := writePlan s q
  let s := s.bindUnits g fn q.img
  let s := s.releaseGsr g q.img q.c.n
  let s := forEach (s.boundBridges q.img) (fun b t => t.relink b) s
  (s.bindEngines g fn q.img q.blocks).fetchNext g 0 0

/-- What a load with a plan claims (R202, R209). -/
def claimOf (s : State) (phase : WorkPhase) (d : Desc) (i : Image) (bs : List TraceBlock) : Claim :=
  let buffer (e : Nat) : Option (Nat × Nat × Nat) := match loadBlock s i bs e with
    | none => none
    | some b =>
      let k := 2 * e + b.side
      (firstFit (s.traceUsed k) (s.stack k).designEnd (s.stack k).traceEnd b.units).map fun base => (k, base, b.units)
  { phase := phase, parcels := i.parcels, quads := s.boundQuads i, bridges := s.boundBridges i, allots := i.allots
    engines := if bs = [] then [] else s.neededEngines i
    buffers := if s.phase = 1 then [] else (s.loadEngines i).filterMap buffer
    desc := some { d with named := true, sheet := i.sheet, dx := i.dx, dy := i.dy }, hdrCrc := i.hdrCrc, fault := none
    moved := 0 }

/-- The stage that a load reads. -/
def State.stageOf (s : State) (d : Desc) : Option Stage :=
  if d.source = 1 then s.stages.find? fun g => decide (g.handle = d.image) else none

/-- The stack from which a load reads. -/
def State.sourceStack (s : State) (d : Desc) : List Domain := ((s.stageOf d).map fun g => Domain.stack g.stack).toList

/-- What a load writes has to be awake (R209): its parcels and the stacks of its allotments. -/
def loadDomains (ps : List Nat) (allots : List (Nat × Nat × Nat)) : List Domain :=
  ps.map Domain.parcel ++ allots.map fun a => Domain.stack a.1

def imageLoadBad (p : Packet) (s : State) : Option Nat :=
  let m := bufMem s p
  parCheck p [] (decide (p.len = 256) && decide (memNat m 0 1 < 2) && (decide (memNat m 1 1 < 64) || decide (memNat m 1 1 = 255))
    && decide (memNat m 2 1 < 2) && decide (memNat m 3 1 < 2) && decide (memNat m 4 1 < 4) && decide (memNat m 5 1 < 4)
    && zeroAt m 6 2 && zeroAt m 68 188 && (decide (memNat m 0 1 = 0) || zeroAt m 12 4)
    && ((List.range 36).all fun q => decide (memNat m (24 + q) 1 < 36) || decide (memNat m (24 + q) 1 = 255))
    && ((List.range 8).all fun b => decide (memNat m (60 + b) 1 < 8) || decide (memNat m (60 + b) 1 = 255)))

/-- An uncorrectable word that the write pass of a load reads (R171, R208, R425): the place of the word is free. -/
def State.tierError (s : State) (i : Image) : State :=
  let a := s.fresh 64
  let p := i.parcels.headD 0
  a.2.raise { code := 0x2002, unit := p, access := 1, master := nodeMaster surveyorNode, address := a.1.toNat, cycle := 0 }

/-- A write pass that fails (R208): what it wrote is cleared, and the reply tells why. -/
def loadSpoil (s : State) (c : Claim) (status detail : Nat) : Ans :=
  .reply status detail Loc.none.results ((s.endClaim { c with phase := .write }).noteLoad c.parcels status detail)

/-- The write pass of a load with a plan, to the load's end. -/
def loadFinish (p : Packet) (d : Desc) (q : Plan) (s : State) : Ans :=
  let f := s.fresh 32
  let v := f.2.fresh 3
  let u := v.2
  match writeEnd v.1 (decide (q.c.enc = 1)) with
  | some (st, dt) => loadSpoil (if st = errDevice then u.tierError q.img else u) (claimOf u .write d q.img q.blocks) st dt
  | none => done ((loadWrite u (callerFn p) q).noteLoad q.img.parcels (s.okStatus 0) 0)
    (q.img.sheet + resAt 17 q.img.dx + resAt 18 q.img.dy + resAt 20 (listMask q.img.parcels) + resAt 24 q.img.hdrCrc
    + resAt 28 f.1.toNat)

/-- The reads of the source of a load, in a stage on a stack, through the code's check (R182): the words that do not read right, and the
state. -/
def State.readStage (s : State) (p : Packet) (d : Desc) : List Nat × State :=
  match s.stageOf d with
  | none => ([], s)
  | some g => s.hbmScan g.stack (g.base * unitWords) (ceilDiv (min d.length g.length) 8) (32 + g.stack) 1 (sessionMaster p.session) 0

/-- The check pass and the write pass read the source of a load (R202): an uncorrectable word of a stage ends it, as DEVICE faults do (R208). -/
def readSource (p : Packet) (d : Desc) (s : State) (ok : State → Ans) (bad : State → Ans) : Ans :=
  let r := s.readStage p d
  if r.1 = [] then ok r.2 else bad r.2

/-- IMAGE_LOAD (R201, R205, R208): it reads the source twice. -/
def imageLoadOwn (p : Packet) (s : State) : Ans :=
  let d := descOf (bufMem s p)
  match loadHead s p d with
  | .error e => .reply e.status e.detail e.loc.results (s.noteLoad e.ps e.status e.detail)
  | .ok (_, k) => awaken s (s.sourceStack d) fun s =>
    readSource p d s (bad := fun t => .reply errDevice 0x2004 Loc.none.results (t.noteLoad (namedParcels s (callerFn p) k d) errDevice 0x2004)) fun s =>
    match loadCheck s p d with
    | .error e => .reply e.status e.detail e.loc.results (s.noteLoad e.ps e.status e.detail)
    | .ok q => awaken s (loadDomains q.img.parcels q.img.allots) fun s => loadFinish p d q (s.readStage p d).2

/-- A load that its worker has begun comes to its end (R202, steps 3 to 7; R208): a DEVICE-class fault meanwhile ends it; in the write
pass an image that no longer passes, or whose header differs, is one that changed. -/
def loadResume (p : Packet) (x : Entry × Nat × Claim) (s : State) : Ans :=
  let c := x.2.2
  let read := match c.fault, c.desc with | none, some d => (s.readStage p d) | _, _ => ([], s)
  let c := if read.1 = [] then c else { c with fault := some (c.fault.getD 0x2004) }
  let t := read.2.unclaimed x
  let writing := decide (c.phase = .write)
  match c.fault, c.desc with
  | some f, _ => .reply errDevice f Loc.none.results ((t.endClaim c).noteLoad c.parcels errDevice f)
  | none, none => fail t errState
  | none, some d =>
    match loadCheck t p d (!writing) false with
    | .error e =>
      if writing then loadSpoil t c (if e.status = errAuth then errAuth else errTruncated) (if e.status = errAuth then 0x0621 else 0x0613)
      else .reply e.status e.detail e.loc.results (t.noteLoad c.parcels e.status e.detail)
    | .ok q => if writing ∧ q.img.hdrCrc ≠ c.hdrCrc then loadSpoil t c errTruncated 0x0613 else loadFinish p d q t

/-- What a load under way needs, from its source on, takes its packets (R209, R362). -/
def State.loadAwake (s : State) (c : Claim) : Bool :=
  !(((c.desc.map s.sourceStack).getD []) ++ loadDomains c.parcels c.allots).any s.unready

/-- IMAGE_LOAD: one that its worker has not begun runs from its start; one that it has begun ends once what it needs is awake. -/
def execImageLoad (p : Packet) (s : State) : Host.Outcome State Fault Refusal :=
  .next (match s.workOf 0x0200 p with
    | some x => if x.2.2.fault = none ∧ s.loadAwake x.2.2 = false then s else conclude 0x0200 p (loadResume p x s)
    | none => command 0x0200 p s (imageLoadBad p s) (decide (memNat (bufMem s p) 16 8 = 0)) (imageLoadOwn p s))

end Sys2Proof.Machine
end

