-- ==== Sys2Proof/Machine/Frames.lean ====
section
/-! DEFINITION. Frame mode (R210 to R213), stages (R206) and unloading (R214). -/
namespace Sys2Proof.Machine

-- the batch (R211)

/-- A record: its frame's address, its header, and where its items lie. -/
structure FrameRec where
  vsheet : Nat
  vcol   : Nat
  vrow   : Nat
  op     : Nat
  sel    : Nat
  count  : Nat
  first  : Nat
  data   : Nat
deriving DecidableEq, Repr

/-- Bytes of an item. -/
def itemBytes (op sel : Nat) : Nat :=
  match op with
  | 1 | 2 => 9
  | 3 => 64
  | 4 => if sel < 16 then 2 else 4
  | 5 => 5
  | 6 => 16
  | _ => 8

/-- A record header is well formed (detail 0x0633). -/
def recordOk (m : Memory) (o rowMask : Nat) : Bool :=
  let op := memNat m o 1
  let row := memNat m (o + 1) 1
  let sel := memNat m (o + 2) 1
  let n := memNat m (o + 4) 2
  let first := memNat m (o + 8) 4
  decide (1 ≤ op) && decide (op ≤ 7) && zeroAt m (o + 3) 1 && zeroAt m (o + 6) 2 && zeroAt m (o + 12) 4 && decide (1 ≤ n)
    && decide (n ≤ 4096) && (if op = 5 then decide (row = 0) else decide (row < 16) && bitOf rowMask row)
    && (match op with
      | 1 => decide (sel < 64) && decide (first + n ≤ 4096)
      | 2 | 3 => decide (sel = 0) && decide (first + n ≤ 4096)
      | 4 => decide (sel < 24) && decide (first + n ≤ 4096)
      | 5 => decide (sel < 36) && decide (first + n ≤ 32768)
      | _ => decide (sel = 0) && decide (n = 1) && decide (first = 0))

/-- The records between two offsets; none where one is malformed. -/
def recordsOf (m : Memory) (vsheet vcol rowMask : Nat) : Nat → Nat → Nat → Option (List FrameRec)
  | 0, o, stop => if o = stop then some [] else none
  | fuel + 1, o, stop =>
    if o = stop then some []
    else
      let r : FrameRec := { vsheet := vsheet, vcol := vcol, vrow := memNat m (o + 1) 1, op := memNat m o 1, sel := memNat m (o + 2) 1
                            count := memNat m (o + 4) 2, first := memNat m (o + 8) 4, data := o + 16 }
      let next := o + 16 + ceilDiv (r.count * itemBytes r.op r.sel) 8 * 8
      if recordOk m o rowMask ∧ next ≤ stop then (recordsOf m vsheet vcol rowMask fuel next stop).map (r :: ·) else none

/-- The frames of a batch from offset `o` on: their records, or the failure (R213). `k` counts frames. -/
def framesOf (m : Memory) (len : Nat) : Nat → Nat → Nat → Except (Nat × Nat) (List FrameRec)
  | 0, _, _ => .ok []
  | left + 1, k, o =>
    let n := memNat m o 4
    if len < o + 24 then .error (errTruncated, 0x0611)
    else if n % 8 ≠ 0 ∨ n < 24 ∨ len < o + n then .error (errFormat, 0x0633)
    else if memNat m (o + 4) 4 ≠ k then .error (errTruncated, 0x0614)
    else if crcSparse (memSlice m o (n - 8)) (n - 8) ≠ memNat m (o + n - 8) 4 ∨ zeroAt m (o + 12) 4 = false ∨ zeroAt m (o + n - 4) 4 = false
        ∨ 1 < memNat m (o + 8) 1 ∨ 15 < memNat m (o + 9) 1 then .error (errFormat, 0x0633)
    else match recordsOf m (memNat m (o + 8) 1) (memNat m (o + 9) 1) (memNat m (o + 10) 2) n (o + 16) (o + n - 8) with
      | none => .error (errFormat, 0x0633)
      | some l =>
        match framesOf m len left (k + 1) (o + n) with
        | .error e => .error e
        | .ok r => .ok (l ++ r)

-- relocation of entries (R212)

/-- A port word with its bridge relocated; none where the bridge is not bound. -/
def relocPort (i : Image) (w : Nat) : Option Nat :=
  let op := bitsOf w 12 3
  if op = 0 ∨ 3 < op then some w
  else (relocValue i 8 3 0 false (bitsOf w 9 3)).map fun b => putBits w 9 3 b

/-- A global field of cluster `c` with its destination and its track relocated; none where one does not fit. -/
def relocGlobal (i : Image) (c w : Nat) : Option Nat :=
  if bitOf w 31 = false then some w
  else
    match relocValue i (if bitsOf w 29 2 < 2 then 2 else 3) 5 0 false (bitsOf w 8 5),
      relocValue i 4 7 (trackKey c (bitsOf w 29 2) 0) false (bitsOf w 16 7) with
    | some d, some t => if d < 32 ∧ t < 128 then some (putBits (putBits w 8 5 d) 16 7 t) else none
    | _, _ => none

/-- A whole send entry relocated. -/
def relocEntry (i : Image) (c w : Nat) : Option Nat :=
  (List.range 8).foldl (fun a j => a.bind fun v =>
    (relocGlobal i c (bitsOf v (256 + 32 * j) 32)).map fun f => putBits v (256 + 32 * j) 32 f) (some w)

/-- A quad entry relocated; none where a cluster leaves the sheet. -/
def relocQuad (i : Image) (w : Nat) : Option Nat :=
  let move (lo d v : Nat) : Option Nat := if bitsOf v lo 4 + 4 * d < 16 then some (putBits v lo 4 (bitsOf v lo 4 + 4 * d)) else none
  let out : Option Nat := if bitOf w 39 then (move 35 i.dx w).bind (move 31 i.dy) else some w
  out.bind fun v => if bitOf w 19 then (move 15 i.dx v).bind (move 11 i.dy) else some v

-- applying a record

/-- The number of item `k` of a record. -/
def FrameRec.item (m : Memory) (r : FrameRec) (k : Nat) : Nat := memNat m (r.data + k * itemBytes r.op r.sel) (itemBytes r.op r.sel)

/-- The items of a record of cluster `c`, relocated: entry and value; the first that cannot be relocated. -/
def FrameRec.items (i : Image) (c : Nat) (m : Memory) (r : FrameRec) : Except Nat (List (Nat × Nat)) :=
  let go (f : Nat → Option Nat) : Except Nat (List (Nat × Nat)) :=
    match (List.range r.count).find? fun k => (f (r.item m k)).isNone with
    | some k => .error (r.first + k)
    | none => .ok ((List.range r.count).map fun k => (r.first + k, (f (r.item m k)).getD 0))
  match r.op with
  | 2 => go (relocPort i)
  | 3 => go (relocEntry i c)
  | 4 => if r.sel < 16 then go some else go (relocGlobal i c)
  | 5 => go (relocQuad i)
  | _ => go some

/-- The detail of an entry that cannot be relocated. -/
def relocDetail (op : Nat) : Nat := if op = 2 then 0x0216 else if op = 5 then 0x0230 else 0x0227

/-- Write the items of a record into tables. `u` is the cluster, or the quad for op 0x05. -/
def applyRec (i : Image) (t : Tables) (u : Nat) (r : FrameRec) (l : List (Nat × Nat)) : Tables :=
  match r.op with
  | 1 => { t with ins := msetMany 0 (l.map fun e => ((u * 64 + r.sel) * 4096 + e.1, BitVec.ofNat 72 e.2)) t.ins }
  | 2 => { t with port := msetMany 0 (l.map fun e => (u * 4096 + e.1, BitVec.ofNat 72 e.2)) t.port }
  | 3 => { t with send := msetMany 0 (l.map fun e => (u * 4096 + e.1, BitVec.ofNat 512 e.2)) t.send }
  | 4 =>
    let at_ := if r.sel < 16 then (16 * r.sel, 16) else (256 + 32 * (r.sel - 16), 32)
    { t with send := l.foldl (fun a e => mupd 0 (u * 4096 + e.1) (fun w => BitVec.ofNat 512 (putBits w.toNat at_.1 at_.2 e.2)) a) t.send }
  | 5 => { t with quad := msetMany 0 (l.map fun e => (u * 32768 + e.1, BitVec.ofNat 40 e.2)) t.quad }
  | 6 =>
    let v := (l.map (·.2)).headD 0
    let side := bitsOf v 0 8
    let w : Option Win := if side = 255 then none
      else some { side := side % 2, log := bitsOf v 8 8, base := bitsOf v 64 64 + i.baseWord (2 * clSheet u + side % 2) }
    { t with wins := mset none u w t.wins }
  | _ => { t with fences := mset 0 u (BitVec.ofNat 32 ((l.map (·.2)).headD 0)) t.fences }

/-- The tables of a loaded image, as frames write them: stores and shadow pages. -/
def State.tables (s : State) (i : Image) : Tables :=
  let cs := clustersOf i.parcels
  let qs := s.boundQuads i
  { ins := s.istore.filter fun e => cs.contains (e.1 / 262144), port := s.ptable.filter fun e => cs.contains (e.1 / 4096)
    send := s.sendShd.filter fun e => cs.contains (e.1 / 4096), quad := s.quadShd.filter fun e => qs.contains (e.1 / 32768)
    wins := msetMany none (cs.map fun c =>
      let v := s.cluster c
      (c, if v.winSide = 255 then none else some { side := v.winSide, log := v.winLog, base := v.winBase })) []
    fences := msetMany 0 (cs.map fun c => (c, (s.cluster c).fence)) [] }

/-- The entry checks of one record (R81, R109, R183, R212), on the tables with the record applied. -/
def recordFail (x : LoadCtx) (i : Image) (u : Nat) (r : FrameRec) (l : List (Nat × Nat)) : Option (Nat × Nat × Loc) :=
  let only := { x with t := applyRec i { ins := [], port := [], send := [], quad := [], wins := [], fences := [] } u r l }
  let here (ls : List Loc) : List Loc := ls.filter fun a => decide (a.vp = clParcel u ∧ a.cl = clIn u)
  let mine (ls : List Loc) : List Loc := ls.filter fun a => decide (a.item = u) && l.any fun e => decide (e.1 = a.step)
  match r.op with
  | 1 => firstFail [(errFormat, 0x0210, only.badOperand), (errFormat, 0x0213, here x.badShips), (errFormat, 0x0214, here x.lateTaps),
      (errFormat, 0x0215, here x.dupTaps)]
  | 2 => firstFail [(errFormat, 0x0203, only.undeclaredHbm), (errFormat, 0x0211, here x.lateLoads), (errFormat, 0x0212, here x.dupLoads),
      (errFormat, 0x0213, here x.badShips), (errFormat, 0x0214, here x.lateTaps), (errFormat, 0x0216, only.badBridges),
      (errFormat, 0x0217, here x.noWindow)]
  | 3 | 4 => firstFail [(errFormat, 0x0220, only.lateSends), (errFormat, 0x0221, only.offSheet), (errFormat, 0x0222, only.wrongWay),
      (errFormat, 0x0226, only.malformedSends)]
  | 5 => firstFail [(errFormat, 0x0230, only.quadOutside), (errFormat, 0x0231, only.quadFormat), (errFormat, 0x0232, mine x.dupOut),
      (errFormat, 0x0233, mine x.dupIn), (errFormat, 0x0234, only.badLag),
      (errFormat, 0x0235, x.fullLanes.filter fun a => decide (a.item = u))]
  | 6 => firstFail [(errFormat, 0x0217, here x.noWindow)]
  | _ => firstFail [(errFormat, 0x0260, only.badFences)]

/-- The cluster of a record, or its quad: none outside the image (detail 0x0634). -/
def recordUnit (s : State) (i : Image) (r : FrameRec) : Option Nat :=
  if r.op = 5 then s.physOf i 18 i.quadBind r.sel else i.clusterOf r.vsheet r.vrow r.vcol

/-- A window item is one of type 0x0008: its side is 0, 1 or 255, its reserved bytes are zero (R193, R211). -/
def windowItemOk (v : Nat) : Bool := decide (bitsOf v 16 48 = 0) && (decide (bitsOf v 0 8 ≤ 1) || decide (bitsOf v 0 8 = 255))

/-- A single-paged record (R212). -/
def singlePaged (op : Nat) : Bool := decide (op = 1) || decide (op = 2) || decide (op = 6) || decide (op = 7)

/-- Check and apply records in order: the tables, and the keys that each record wrote. -/
def applyRecords (s : State) (i : Image) (m : Memory) (busy : Bool) :
    List FrameRec → LoadCtx → Except (Nat × Nat × Loc) (LoadCtx × List (Nat × FrameRec × List (Nat × Nat)))
  | [], x => .ok (x, [])
  | r :: rest, x =>
    match recordUnit s i r with
    | none => .error (errFormat, 0x0634, Loc.none)
    | some u =>
      if busy && singlePaged r.op then .error (errState, 0, Loc.none)
      else if (r.op = 7 ∧ r.item m 0 / 2 ^ 32 ≠ 0) ∨ (r.op = 6 ∧ windowItemOk (r.item m 0) = false) then .error (errFormat, 0x0633, Loc.none)
      else match r.items i u m with
        | .error e => .error (errFormat, relocDetail r.op, if r.op = 5 then { Loc.none with step := e, item := u } else x.loc u e noItem)
        | .ok l =>
          let y := { x with t := applyRec i x.t u r l }
          match recordFail y i u r l with
          | some f => .error f
          | none =>
            match applyRecords s i m busy rest y with
            | .error f => .error f
            | .ok (z, w) => .ok (z, (u, r, l) :: w)

/-- Write one record into the machine: stores, shadow pages, window and fence registers; both copies in MIRRORED pairing. A word in
uncorrectable error stays so until a reload (R53, R216). -/
def writeRecord (mirrored : Bool) (i : Image) (s : State) (w : Nat × FrameRec × List (Nat × Nat)) : State :=
  let r := w.2.1
  let l := w.2.2
  let base := if r.op = 5 then 18 else 256
  (if mirrored then [w.1, w.1 + base] else [w.1]).foldl (fun t u =>
    let all : Tables := { ins := t.istore, port := t.ptable, send := t.sendShd, quad := t.quadShd, wins := [], fences := [] }
    let n := applyRec i all u r l
    let t := { t with istore := n.ins, ptable := n.port, sendShd := n.send, quadShd := n.quad
                      busyMap := if r.op = 2 then msetMany false (l.map fun e =>
                        (u * 4096 + e.1, decide ((portInsOf (BitVec.ofNat 72 e.2)).bop ≠ 0))) t.busyMap else t.busyMap }
    let groups : List Nat := if r.op = 3 then List.range 8 else [if r.sel < 16 then r.sel / 4 else 4 + (r.sel - 16) / 2]
    let t := match r.op with
      | 1 => l.foldl (fun a e => a.eccMerge 0 (insWord (u * 64 + r.sel) e.1)) t
      | 2 => l.foldl (fun a e => (a.eccMerge 5 (u * 4096 + e.1)).eccMerge 7 (u * 4096 + e.1)) t
      | 3 | 4 => l.foldl (fun a e => groups.foldl (fun b k => b.eccMerge 10 ((u * 4096 + e.1) * 8 + k)) a) t
      | 5 => l.foldl (fun a e => a.eccMerge 11 (u * 32768 + e.1)) t
      | _ => t
    if r.op = 6 then
      let v := mget none u n.wins
      t.updCluster u fun x => { x with
        winSide := (v.map (·.side)).getD 255, winLog := (v.map (·.log)).getD 0, winBase := (v.map (·.base)).getD 0 }
    else if r.op = 7 then t.updCluster u fun x => { x with fence := mget 0 u n.fences }
    else t) s

-- IMAGE_FRAMES

/-- The header of a batch (R211): the failure, none where it is well formed. -/
def batchFail (m : Memory) (len : Nat) (i : Image) : Option (Nat × Nat) :=
  if len < 64 then some (errTruncated, 0x0611)
  else if memNat m 0 4 ≠ 0x4D464B53 ∨ memNat m 60 4 ≠ crcSparse (memSlice m 0 60) 60 ∨ zeroAt m 12 4 = false ∨ zeroAt m 28 4 = false
      ∨ zeroAt m 56 4 = false ∨ (i.keySlot = none ∧ (zeroAt m 16 12 = false ∨ zeroAt m 32 16 = false)) then some (errFormat, 0x0631)
  else if memNat m 8 4 ≠ i.hdrCrc then some (errFormat, 0x0632)
  else if len < memNat m 48 8 ∨ memNat m 48 8 < 64 then some (errTruncated, 0x0611)
  else none

/-- The plaintext of a batch (R211). -/
def batchPlain (s : State) (m : Memory) (i : Image) : Option Memory :=
  match i.keySlot with
  | none => some m
  | some k =>
    let n := memNat m 48 8 - 64
    (Config.gcmOpen (s.key k).key (BitVec.ofNat 96 (memNat m 16 12)) (memNat m 0 32 + memNat m 48 12 * 256 ^ 32) 44
      (memToNat (memSlice m 64 n) + memNat m 32 16 * 256 ^ n) (n + 16)).map fun t => cellsAt 64 (leBytes n t)

/-- Every check of a batch on an image: the records to write, or the failure with its place. -/
def framesCheck (s : State) (g : Nat) (i : Image) (m : Memory) (len : Nat) :
    Except (Nat × Nat × Loc) (List (Nat × FrameRec × List (Nat × Nat))) :=
  let r := s.group g
  match batchFail m len i with
  | some (st, d) => .error (st, d, Loc.none)
  | none =>
    match batchPlain s m i with
    | none => .error (errAuth, 0x0621, Loc.none)
    | some pl =>
      match framesOf pl (memNat m 48 8) (memNat m 4 4) 0 64 with
      | .error (st, d) => .error (st, d, Loc.none)
      | .ok recs =>
        let x : LoadCtx := { img := i, n := r.n, joined := decide (s.boot.pairMode = 1), phys := true, t := s.tables i }
        match applyRecords s i pl r.busy recs x with
        | .error f => .error f
        | .ok (_, w) => .ok w

/-- A batch whose write pass fails (R213): the shadow pages it touched are copies of the active ones again; where it wrote a
single-paged entry, the image is unloaded. -/
def framesSpoil (s : State) (g : Nat) (i : Image) (w : List (Nat × FrameRec × List (Nat × Nat))) : State :=
  if w.any fun x => [1, 2, 6, 7].contains x.2.1.op then (s.endWaits errCancelled 0 (Wait.ofGroup g)).unloadImage g i
  else
    let two (off u : Nat) : List Nat := if s.boot.pairMode = 2 then [u, u + off] else [u]
    s.copyPages ((w.filter fun x => decide (x.2.1.op ≠ 5)).flatMap fun x => two 256 x.1)
      ((w.filter fun x => decide (x.2.1.op = 5)).flatMap fun x => two 18 x.1)

/-- A batch that wrote instruction 0 of some BP has it fetched again: the run group does not run (R37). -/
def State.refetch (s : State) (g : Nat) (w : List (Nat × FrameRec × List (Nat × Nat))) : State :=
  if w.any fun x => decide (x.2.1.op = 1) && decide (x.2.1.first = 0) then s.fetchNext g 0 (s.group g).cycle else s

/-- Parcels of a mask that a refusal of a frame batch or an unload names (R200): those that the caller owns. -/
def namedOf (s : State) (p : Packet) : List Nat := (maskList 32 (par p 20 4)).filter fun q => decide (s.ownerOf q = some (callerFn p))

/-- A failure of a frame batch or an unload, which its parcels record (R200). -/
def failNoted (p : Packet) (s : State) (status : Nat) (detail : Nat := 0) : Ans :=
  fail (s.noteLoad (namedOf s p) status detail) status detail

/-- The checks of IMAGE_FRAMES before its batch (R209, R210, R381): the image, or the failure. -/
def framesFront (p : Packet) (s : State) : Except (Nat × Nat) (Nat × Image) :=
  let ps := maskList 32 (par p 20 4)
  match s.ownCheck (callerFn p) ps with
  | some e => .error (e, 0)
  | none =>
    if ps.any s.inWork then .error (errState, 0)
    else match s.imageOfMask ps with
      | none => .error (if ps.all s.live then errParam else errState, 0)
      | some (g, i) =>
        if s.parcelLocked p.session ps ∨ (par p 24 1 < 64 ∧ s.keyLocked p.session (par p 24 1)) then .error (errLock, 0)
        else if slotMatches i (par p 24 1) = false then .error (errAuth, 0x0623)
        else .ok (g, i)

/-- IMAGE_FRAMES (R210). A batch waits for a copy of pages in progress, and for the one of the swap that waited for it (R112). -/
def imageFramesOwn (p : Packet) (s : State) : Ans :=
    match framesFront p s with
    | .error (st, d) => failNoted p s st d
    | .ok (g, i) =>
        let s := tableCopyDone (tableCopyDone s g) g
        match framesCheck s g i (bufMem s p) p.len.toNat with
        | .error (st, d, l) => .reply st d l.results (s.noteLoad i.parcels st d)
        | .ok w =>
          let v := s.fresh 2
          match rereadFail v.1 i.keySlot.isSome 0x0613 0x0621 with
          | some (st, dt) => .reply st dt Loc.none.results ((framesSpoil v.2 g i w).noteLoad i.parcels st dt)
          | none => done (((w.foldl (writeRecord (decide (s.boot.pairMode = 2)) i) v.2).refetch g w).noteLoad i.parcels (s.okStatus 0) 0)

/-- Parameters of IMAGE_FRAMES (R210). -/
def imageFramesBad (p : Packet) : Option Nat :=
  parCheck p [(20, 4), (24, 1)] (decide (par p 24 1 < 64) || decide (par p 24 1 = 255))

/-- The zero rule of IMAGE_FRAMES (R210, R383). -/
def imageFramesZero (p : Packet) (s : State) : Bool :=
  decide (par p 20 4 = 0) || decide (p.len = 0) || decide (64 ≤ p.len.toNat ∧ memNat (bufMem s p) 4 4 = 0)

def execImageFrames (p : Packet) (s : State) : Host.Outcome State Fault Refusal :=
  let t := s.resumed 0x0201 p
  .next (command 0x0201 p t (imageFramesBad p) (imageFramesZero p t) (imageFramesOwn p t))

-- stages (R206)

/-- IMAGE_STAGE: the bytes as given, in the lowest run of units that fits. -/
def imageStageOwn (p : Packet) (s : State) : Ans :=
  let k := par p 20 1
  let n := ceilDiv p.len.toNat unitBytes
  if (s.stack k).trained = false then fail s errResource 0x0502
  else match firstFit (s.designUsed k) 0 (s.stack k).designEnd n with
    | none => fail s errResource 0x0502
    | some base =>
      let h := s.nextStage
      let b := bufMem s p
      let st : Stage := { handle := h, stack := k, base := base, units := n, owner := callerFn p, length := p.len.toNat }
      awaken s [.stack k] fun s =>
      let t := s.zeroUnits k base n
      let t := { t with nextStage := h + 1, stages := t.stages ++ [st] }
      done { t with hbm := memPaste (k * 2 ^ 36 + base * unitBytes) p.len.toNat b t.hbm } (h + resAt 20 n)

def execImageStage (p : Packet) (s : State) : Host.Outcome State Fault Refusal :=
  .next (command 0x0202 p s (parCheck p [(20, 1)] (decide (par p 20 1 < 4))) (decide (p.len = 0)) (imageStageOwn p s))

/-- IMAGE_UNSTAGE: the stage's units are free again. -/
def imageUnstageOwn (p : Packet) (s : State) : Ans :=
  match s.stages.find? fun g => decide (g.handle = par p 20 4) with
  | none => fail s errParam
  | some g =>
    if g.owner ≠ callerFn p then fail s errOwner
    else if s.claims.any fun c => decide (c.desc.map (fun d => (d.source, d.image)) = some (1, g.handle)) then fail s errState
    else done { s with stages := s.stages.filter fun x => decide (x.handle ≠ g.handle) }

def execImageUnstage (p : Packet) (s : State) : Host.Outcome State Fault Refusal :=
  .next (command 0x0203 p s (parCheck p [(20, 4)] true) false (imageUnstageOwn p s))

-- unloading (R214)

/-- The checks of IMAGE_UNLOAD (R209, R214): the image, or the failure. -/
def unloadFront (p : Packet) (s : State) : Except Nat (Nat × Image) :=
  let ps := maskList 32 (par p 20 4)
  match s.ownCheck (callerFn p) ps with
  | some e => .error e
  | none =>
    if ps.any s.inWork then .error errState
    else match s.imageOfMask ps with
      | none => .error errParam
      | some (g, i) =>
        if s.parcelLocked p.session ps then .error errLock else if (s.group g).busy then .error errState else .ok (g, i)

/-- IMAGE_UNLOAD: surveys, arms and commits that wait on the run group end when it goes. -/
def imageUnloadOwn (p : Packet) (s : State) : Ans :=
  match unloadFront p s with
  | .error e => failNoted p s e
  | .ok (g, i) =>
    let t := (s.endWaits errCancelled 0 (Wait.ofGroup g)).unloadImage g i
    done (t.noteLoad i.parcels (s.okStatus 0) 0)

def execImageUnload (p : Packet) (s : State) : Host.Outcome State Fault Refusal :=
  let t := s.resumed 0x0204 p
  .next (command 0x0204 p t (parCheck p [(20, 4)] true) (decide (par p 20 4 = 0)) (imageUnloadOwn p t))

end Sys2Proof.Machine
end

