-- ==== Sys2Proof/Machine/Keys.lean ====
section
/-! DEFINITION. Keys (R196, R197): KEY_LOAD, KEY_CLEAR and KEK_AGREE. -/
namespace Sys2Proof.Machine

/-- The payload of a key event (R434): opcode, slot (0xFF where the event names none) and session group. DESIGN CHOICE 29: the
places of the fields. -/
def keyEvent (opcode slot group : Nat) : Nat := opcode + fieldAt 16 slot + fieldAt 32 group

/-- KEY_LOAD (R197): the key is unwrapped under the caller's KEK, the slot is bound, and its IV starts from a fresh value (R235). -/
def keyLoadOwn (p : Packet) (s : State) : Ans :=
  let k := par p 20 1
  let fn := callerFn p
  let key := s.key k
  if key.bound.isSome ∧ key.bound ≠ some fn then fail s errOwner
  else if s.keyLocked p.session k then fail s errLock
  else match mget none fn s.keks with
    | none => fail s errState
    | some kek =>
      match Config.keyUnwrap kek (par p 24 40) with
      | none => fail s errAuth 0x0624
      | some v =>
        let r := s.fresh 32
        done ((r.2.setKey k { bound := some fn, key := v, ivHi := r.1, ivCount := 0 }).logHub 0x40 0 (keyEvent 0x0210 k fn))

def execKeyLoad (p : Packet) (s : State) : Host.Outcome State Fault Refusal :=
  .next (command 0x0210 p s (parCheck p [(20, 1), (24, 40)] (decide (par p 20 1 < 64))) false (keyLoadOwn p s))

/-- KEY_CLEAR (R197). -/
def keyClearOwn (p : Packet) (s : State) : Ans :=
  let k := par p 20 1
  let fn := callerFn p
  checks s
    [(decide ((s.key k).bound ≠ some fn), errOwner, 0), (s.keyLocked p.session k, errLock, 0),
     ((s.images.any fun i => decide (i.keySlot = some k)) || s.claims.any fun c => decide (c.desc.map (·.slot) = some k), errState, 0)]
    (done ((s.setKey k KeySlot.init).logHub 0x40 0 (keyEvent 0x0211 k fn)))

def execKeyClear (p : Packet) (s : State) : Host.Outcome State Fault Refusal :=
  .next (command 0x0211 p s (parCheck p [(20, 1)] (decide (par p 20 1 < 64))) false (keyClearOwn p s))

/-- The HKDF info of R196: "SKVKEK", the session group number in two bytes, the eight bytes of LEGEND. -/
def kekInfo (s : State) (fn : Nat) : Nat :=
  leNat ([0x53, 0x4B, 0x56, 0x4B, 0x45, 0x4B] ++ leBytes 2 fn ++ leBytes 8 s.legend)

/-- KEK_AGREE (R196): a point that is not on the curve is ERR_PARAM, and the KEK stays. -/
def kekAgreeOwn (p : Packet) (s : State) : Ans :=
  let fn := callerFn p
  match Config.kekDerive (memToNat (bufMem s p)) (kekInfo s fn) with
  | none => fail s errParam
  | some k => done (State.logHub { s with keks := mset none fn (some k) s.keks } 0x40 0 (keyEvent 0x0212 0xFF fn))

def execKekAgree (p : Packet) (s : State) : Host.Outcome State Fault Refusal :=
  .next (command 0x0212 p s (parCheck p [] (decide (p.len.toNat = 97))) false (kekAgreeOwn p s))

end Sys2Proof.Machine
end

