-- ==== Sys2Proof/Machine/Reset.lean ====
section
/-! DEFINITION. Power-up, resets and bring-up (R24, R423, R439 to R450, R472 to R476). -/
namespace Sys2Proof.Machine

-- the pins and the test access port (R471, R478, R483, R484)

/-- What the part puts on an output pin of its own: 0 to 3 TRIG_OUT, 4 PPS_OUT, 5 FAULT_N, 6 SMB_ALERT_N. -/
def State.pinLevel (s : State) (k : Nat) : Bool :=
  if k < 4 then (s.trigOutPin k).seqHigh || (s.trigOutPin k).trainHigh
  else if k = 4 then s.ppsHigh
  else if k = 5 then decide (s.faults.driven ≠ 0)
  else !s.alert

/-- The boundary cell of an output pin. The chain is PERST_N, TRIG_IN 0 to 3, TRIG_OUT 0 to 3, PPS_IN, PPS_OUT, RESET_N, FAULT_N, SMB_SCL,
SMB_SDA, SMB_ALERT_N, TEST_MODE (DESIGN CHOICE 106). -/
def pinCell (k : Nat) : Nat := if k < 4 then 5 + k else if k = 4 then 10 else if k = 5 then 12 else 15

/-- What stands on an output pin: the part's own level, or the preloaded one under EXTEST and CLAMP, or none in high impedance under HIGHZ
(R483, R484). -/
def State.pinOut (s : State) (k : Nat) : Option Bool :=
  if s.tap.taken = false then some (s.pinLevel k)
  else if s.tap.ir = 5 then none
  else some (s.tap.preload.getD (pinCell k) false)

/-- The output pins whose level has changed since `old` are outputs. -/
def State.pinsSince (s old : State) : State :=
  let changed := (List.range 7).filterMap fun k =>
    if s.pinOut k = old.pinOut k then none else (s.pinOut k).map fun v => (k, v)
  if changed = [] then s else s.setSent { s.sent with pins := s.sent.pins ++ changed }

/-- EXTEST, CLAMP and HIGHZ (R483). -/
def takesPins (ir : BitVec 8) : Bool := decide (ir = 0) || decide (ir = 4) || decide (ir = 5)

/-- The port works while VIO_1V8, rail 7, and VSTBY are within tolerance (R484). -/
def State.tapUp (s : State) : Bool := s.boot.vstby && s.boot.rails.getLsbD 7

def State.setTap (s : State) (t : Tap) : State := { s with tap := t }

/-- The test access port with the pins taken or given back: what changes on them is an output. -/
def State.moveTap (s : State) (t : Tap) : State := (s.setTap t).pinsSince s

/-- What the boundary cells capture (R483): the levels of the pins. Those of TRIG_IN, PPS_IN, the SMBus and TEST_MODE, whose levels the part
does not hold, are free values. -/
def State.captured (s : State) : List Bool × State :=
  let r := s.fresh 17
  let free (k : Nat) : Bool := r.1.getLsbD k
  ([s.boot.perstN, free 1, free 2, free 3, free 4] ++ (List.range 4).map (fun k => (s.pinOut k).getD (free (5 + k)))
    ++ [free 9, (s.pinOut 4).getD (free 10), s.boot.resetN, (s.pinOut 5).getD true && !s.faults.pulled, free 13, free 14, (s.pinOut 6).getD true,
        free 16], r.2)

-- what a hub reset leaves (R444)

/-- Outputs that a reset of the hub changes: FAULT_N and SMB_ALERT_N are released (R427, R449), PPS_OUT and TRIG_OUT are low (R295,
R478). -/
def State.releasePins (s : State) : State :=
  let high := (List.range 4).filter fun k => (s.trigOutPin k).seqHigh || (s.trigOutPin k).trainHigh
  let pins := (if s.faults.driven = 0 then [(5, true)] else []) ++ (if s.alert then [(6, true)] else [])
    ++ (if s.ppsHigh then [(4, false)] else []) ++ high.map fun k => (k, false)
  s.setSent { s.sent with pins := s.sent.pins ++ pins }

/-- Everything volatile at its reset value, and every domain awake but the parcels that failed factory test (R3, R361). The logbook, the
flash, the grade, the pins' levels and the standby state are kept. The part stands in S0 (R443, R444). -/
def State.cleared (s : State) : State :=
  let b := s.boot
  let asleep : SMap Parcel := s.factory.foldr (fun i m => mset Parcel.init i { Parcel.init with asleep := true } m) []
  { State.reset with
    parcels := asleep, pending := s.pending, hostMem := s.hostMem, log := s.log, flash := s.dropWriting.flash, tap := s.tap, grade := s.grade, factory := s.factory
    trackMap := s.trackMap, hostBad := s.hostBad, freeCtr := s.freeCtr, sent := s.sent, faults := { Faults.init with pulled := s.faults.pulled }
    boot := { Boot.init with stage := .s0, bootCopy := b.bootCopy, cause := b.cause, rails := b.rails, vstby := b.vstby
                             railHold := b.railHold, resetN := b.resetN, perstN := b.perstN, testMode := b.testMode
                             pllLock := b.pllLock, afterVstby := b.afterVstby } }

/-- The conditions of S1 (R440, R472, R475). -/
def State.canStart (s : State) : Bool :=
  let b := s.boot
  b.vstby && b.resetN && !b.testMode && decide (b.rails = 0xFF) && !b.railHold && b.pllLock

/-- The boot ROM's checks of a copy (R447). Its signature and digest were checked as it was written. -/
def State.bootable (s : State) (k : Nat) : Bool :=
  let c := s.flash.copy k
  decide (c.state = 1) && decide (c.minSi ≤ 2) && decide (s.flash.floor ≤ c.major)

/-- S1 starts on a copy. -/
def State.startCopy (s : State) (k cause : Nat) (fell : Bool) : State :=
  s.setBoot { s.boot with stage := .s1, bootCopy := k, cause := cause, fellBack := fell }

/-- The hub stops: both copies have failed, and the controller holds FAULT_N low (R448, R449). -/
def State.bothFailed (s : State) : State :=
  State.driveFault ((s.setBoot { s.boot with stage := .failed }).alertOut s.alert) 0

/-- The hub has reset itself onto a copy (R447, R448): S1 starts on it, or once its conditions hold (R440). -/
def State.fallOnto (s : State) (k : Nat) : State :=
  if s.canStart then s.startCopy k 5 true
  else s.setBoot { s.boot with stage := .s0, fallTo := some k, fellBack := true, cause := 5 }

/-- A copy fails its boot (R447, R448): the hub resets itself onto the other copy, unless that one has failed too. -/
def bootFail (s : State) : State :=
  let old := s.boot.bootCopy
  let new := 1 - old
  let fell := s.boot.fellBack
  let s := s.releasePins.cleared
  let s := (s.setBoot { s.boot with stage := .s1, afterVstby := false, cause := 5 }).logCtl 3 5
  if fell then s.bothFailed
  else
    let t := (s.logHub 0x31 1 (switchEvent s.flash old new)).fallOnto new
    if t.boot.stage = .s0 ∨ s.bootable new then t else (t.logCtl 3 5).bothFailed

/-- S1 starts where its conditions hold (R440, R447): the copy that a fallback waits to boot, else the pending one, else the one that
booted last. A switch that takes effect is pinned in the logbook (R415). What the part was held in reset with is clear (R24). -/
def State.enterS1 (s : State) (cause : Nat) : State :=
  if s.boot.stage ≠ .s0 ∨ s.canStart = false then s
  else
    let old := s.flash.lastBoot
    let fall := s.boot.fallTo
    let k := fall.getD (s.flash.pending.getD old)
    let s := s.cleared
    let t := (s.setFlash { s.flash with pending := none }).startCopy k (if fall.isSome then 5 else cause) fall.isSome
    let t := if fall.isSome ∨ k = old then t else t.logHub 0x31 1 (switchEvent s.flash old k)
    if t.bootable k then t else bootFail t

/-- Some key slot or KEK holds a key. -/
def State.keysHeld (s : State) : Bool := s.keys.any (fun e => e.2.bound.isSome) || s.keks.any fun e => e.2.isSome

/-- A hub reset of a cause (R443, R444): recorded, and the keys' zeroization with it (R434); then S1 where it may start. DEDUCED 40: the
records follow the reset, so that they carry no datum time. -/
def State.hubReset (s : State) (cause : Nat) : State :=
  let keys := s.keysHeld
  let s := s.releasePins.cleared
  let s := s.setBoot { s.boot with cause := cause, afterVstby := false, stage := if s.canStart then .s1 else .s0 }
  let s := if s.boot.vstby then s.logCtl 3 cause else s
  let s := if keys && s.boot.vstby then s.logCtl 0x40 (keyEvent 0 0xFF 0xFF) else s
  (s.setBoot { s.boot with stage := .s0 }).enterS1 cause

/-- HUB_RESET: the reset that PART_RESET or the watchdog brings 10 ms later (R416, R423). -/
def execHubReset (cause : Nat) (s : State) : Host.Outcome State Fault Refusal :=
  .next (if 5 < cause ∨ s.boot.stage = .s0 then s else s.hubReset (s.boot.resetDue.getD cause))

-- reset pins and power (R443, R472 to R475)

/-- A part that stands in S0 since VSTBY was applied has had no hub reset (R450). -/
def State.fresh0 (s : State) : Bool := decide (s.boot.stage = .s0) && s.boot.afterVstby

/-- RESET_N (R443, R472, R484): low resets, and an instruction that takes the pins takes them; the rise samples TEST_MODE, gives the pins back
from the test access port, which goes to Test-Logic-Reset, and starts S1. -/
def resetN (s : State) (level testMode : Bool) : State :=
  if level = s.boot.resetN then s
  else if level then
    let s := s.setBoot { s.boot with resetN := true, testMode := testMode }
    let s : State := if s.tap.taken then s.moveTap { s.tap with ir := 1, taken := false } else s
    s.enterS1 (if s.boot.afterVstby then 6 else s.boot.cause)
  else
    let t := s.setBoot { s.boot with resetN := false }
    let t := if t.boot.vstby = false ∨ t.fresh0 then t else t.hubReset 0
    if t.tapUp ∧ takesPins t.tap.ir then t.moveTap { t.tap with taken := true } else t

def execResetN (level testMode : Bool) (s : State) : Host.Outcome State Fault Refusal := .next (resetN s level testMode)

/-- PERST_N falls (R443). A part in S0 has no hub to reset. -/
def execPerstN (s : State) : Host.Outcome State Fault Refusal :=
  .next (if s.boot.perstN = false then s
    else
      let t := s.setBoot { s.boot with perstN := false }
      if t.boot.stage = .s0 then t else t.hubReset 1)

/-- PERST_N rises (R440): the link trains. -/
def execPerstNRelease (s : State) : Host.Outcome State Fault Refusal := .next (s.setBoot { s.boot with perstN := true })

/-- Payload of kind 0x0002 (R434): event, rail mask, rail. -/
def railEvent (event mask rail : Nat) : Nat := event + fieldAt 8 mask + fieldAt 16 rail

/-- The lowest rail of a mask. -/
def firstRail (m : Nat) : Nat := ((maskList 8 m).head?).getD 0

/-- VSTBY_APPLIED (R435, R443): everything volatile is clear, and the controller scans its slots: a torn one is free. Main rails that stand
already rose before they were allowed to, and hold the part in S0 (R474, R475). -/
def vstbyApplied (s : State) : State :=
  if s.boot.vstby then s
  else
    let t := s.cleared
    let t := t.setBoot { t.boot with vstby := true, afterVstby := true, railHold := decide (t.boot.rails ≠ 0), cause := 6 }
    let t := t.setLog { t.log with usable := true, torn := none, boots := (t.log.boots + 1) % 2 ^ 32 }
    let t := t.logCtl 2 (railEvent 0 t.boot.rails.toNat 0)
    if t.boot.railHold then t.logCtl 2 (railEvent 3 t.boot.rails.toNat (firstRail t.boot.rails.toNat)) else t

def execVstbyApplied (s : State) : Host.Outcome State Fault Refusal := .next (vstbyApplied s)

/-- VSTBY_REMOVED (R435, R443): the controller's queue is lost. Whether its head is just being written is a free value: then its slot is torn,
and the oldest record of a full ring, which held the slot, is gone. -/
def vstbyRemoved (s : State) : State :=
  if s.boot.vstby = false then s
  else
    let t := s.releasePins.cleared
    let r := t.fresh 1
    let torn := if r.1 = 1 then t.log.queue.head? else none
    let u := r.2
    (u.setBoot { u.boot with vstby := false }).setLog
      { u.log with queue := [], dropped := 0, dropFirst := 0, dropLast := 0, usable := false, torn := torn
                   ring := if torn.isSome ∧ u.log.ring.length = ringSlots then u.log.ring.drop 1 else u.log.ring }

def execVstbyRemoved (s : State) : Host.Outcome State Fault Refusal := .next (vstbyRemoved s)

/-- The group of a main rail (R474): 0 is A, 1 is B, 2 is C; and the rails of a group. -/
def railGroup (i : Nat) : Nat := if i = 4 ∨ i = 7 then 0 else if i = 3 ∨ i = 6 then 2 else 1
def groupRails (g : Nat) : List Nat := (List.range 8).filter fun i => decide (railGroup i = g)

/-- The first rail that a change moves out of order (R474, R475): it rises and one of the groups before it is not within tolerance, or it
falls and one of the groups after it is. Rails that one change moves together move in order, unless the row names one (DESIGN CHOICE 41). -/
def disordered (old new : BitVec 8) : Option Nat :=
  (List.range 8).find? fun i =>
    (new.getLsbD i && !old.getLsbD i && (List.range (railGroup i)).any fun g => (groupRails g).any fun j => !new.getLsbD j)
      || (old.getLsbD i && !new.getLsbD i && (List.range (2 - railGroup i)).any fun g =>
        (groupRails (railGroup i + 1 + g)).any fun j => new.getLsbD j)

/-- MAIN_RAILS_CHANGE (R434, R475): the new set of rails within tolerance, and the rail that moved out of order, if the row names one. A rail out of
order holds the part in S0 until all have fallen; rails that fall while RESET_N is high lose the design state. DESIGN CHOICE 41: the
hub itself stops with VDD_HUB, rail 2. -/
def mainRails (s : State) (rails : BitVec 8) (marked : Option Nat) : State :=
  let bad := marked.or (disordered s.boot.rails rails)
  if s.boot.vstby = false then s.setBoot { s.boot with rails := rails }
  else
    let fell := (s.boot.rails &&& ~~~rails).toNat
    let up := decide (rails = 0xFF) && decide (s.boot.rails ≠ 0xFF)
    let hold := (s.boot.railHold || bad.isSome) && decide (rails ≠ 0)
    let runsOn := s.running && bad.isNone && !bitOf fell 2
    let unordered := decide (fell ≠ 0) && s.boot.resetN
    let event : Option (Nat × Nat) :=
      match bad with
      | some i => some (3, i)
      | none => if unordered then some (3, firstRail fell) else if fell ≠ 0 then some (2, 0) else if up then some (1, 0) else none
    let s := s.setBoot { s.boot with rails := rails, railHold := hold }
    let s : State := match event with
      | some (e, i) => if runsOn then s.logHub 2 0 (railEvent e rails.toNat i) else s.logCtl 2 (railEvent e rails.toNat i)
      | none => s
    let s := if unordered ∧ s.boot.stage ≠ .s0 ∧ s.boot.sheetsHeld = false then s.holdSheets 0x6003 else s
    let s := if s.boot.stage ≠ .s0 ∧ (bad.isSome ∨ bitOf fell 2) then s.releasePins.cleared else s
    s.enterS1 (if s.boot.afterVstby then 6 else s.boot.cause)

def execMainRailsChange (rails : BitVec 8) (outOfOrder : Option Nat) (s : State) : Host.Outcome State Fault Refusal :=
  if outOfOrder.all (fun i => decide (i < 8)) then .next (mainRails s rails outOfOrder).settle else .fault .noSuchUnit

/-- Nominal voltage in mV, and half the width of the window in per cent: the operating tolerance and 3 points (R473, R476). -/
def railLimits (i : Nat) : Nat × Nat :=
  [(750, 6), (750, 6), (750, 6), (1100, 6), (1800, 8), (850, 5), (1200, 6), (1800, 8)].getD i (0, 0)

/-- A reading outside the watched window. -/
def railOut (i mv : Nat) : Bool :=
  let l := railLimits i
  decide (mv * 100 < l.1 * (100 - l.2)) || decide (l.1 * (100 + l.2) < mv * 100)

/-- RAIL_EXCURSION (R423, R476): run groups stop at once. -/
def railExcursion (s : State) (rail : Nat) (reading : BitVec 16) : State :=
  if s.running && railOut rail reading.toNat then
    let t := s.raise { code := 0x6003, unit := 81, access := 0, master := 0, address := rail + fieldAt 16 reading.toNat, cycle := 0 }
    if t.boot.sheetsHeld then t else t.holdSheets 0x6003
  else s

def execRailExcursion (rail : Nat) (reading : BitVec 16) (s : State) : Host.Outcome State Fault Refusal :=
  if rail < 8 then .next (railExcursion s rail reading).settle else .fault .noSuchUnit

/-- REFERENCE_LOSS (R24): every derived clock stops, and the part is held in reset. -/
def execReferenceLoss (s : State) : Host.Outcome State Fault Refusal :=
  .next (if s.boot.pllLock = false then s
    else
      let t := s.setBoot { s.boot with pllLock := false }
      if t.boot.stage = .s0 then t else t.hubReset 4)

/-- PLL_RELOCK (R24, R440). -/
def execPllRelock (s : State) : Host.Outcome State Fault Refusal :=
  .next (if s.boot.pllLock then s
    else
      let t := s.setBoot { s.boot with pllLock := true }
      t.enterS1 (if t.boot.afterVstby then 6 else t.boot.cause))

/-- FW_WATCHDOG (R423, R427, R447): the hub resets 10 ms later; during S1 the copy fails its boot. -/
def fwWatchdog (s : State) (core : Nat) : State :=
  if s.boot.stage = .s1 then bootFail s
  else if s.running then
    let t := s.raise { code := 0x5001, unit := 82, access := 0, master := 0, address := core, cycle := 0 }
    t.setBoot { t.boot with resetDue := some 3 }
  else s

def execFwWatchdog (core : Nat) (s : State) : Host.Outcome State Fault Refusal :=
  if core < 9 then .next (fwWatchdog s core) else .fault .noSuchUnit

-- stages (R439 to R446)

/-- S1_READY (R411, R439, R460): the firmware reports ready; a copy that boots raises the floor. -/
def s1Ready (s : State) (ms : Nat) : State :=
  if s.boot.stage ≠ .s1 then s
  else
    let k := s.boot.bootCopy
    let c := s.flash.copy k
    let s := s.setFlash { s.flash with lastBoot := k, floor := max s.flash.floor c.newFloor }
    s.setBoot { s.boot with stage := .s2, s1Ms := ms % 65536, fwMajor := c.major, fwMinor := c.minor }

def execS1Ready (ms : Nat) (s : State) : Host.Outcome State Fault Refusal := .next (s1Ready s ms)

/-- BOOT_FAILURE (R447). -/
def execBootFailure (s : State) : Host.Outcome State Fault Refusal := .next (if s.boot.stage = .s1 then bootFail s else s)

/-- A parcel fails S2 (R442): it is powered down, and SRAM_UE is raised in its unit. The spec does not state the entry that failed: the
address is a free value but for its parcel. -/
def State.failParcel (s : State) (i : Nat) : State :=
  let r := s.fresh 64
  let s := { r.2 with s2Failed := r.2.s2Failed ++ [i] }
  (s.updParcel i fun v => { v with asleep := true }).raise
    { code := 0x2002, unit := i, access := 0, master := 0, address := putBits r.1.toNat 4 6 i, cycle := 0 }

/-- The lanes that S4 trains (R315): every Fjarlek lane whose quad is awake. -/
def State.startLanes (s : State) : State :=
  forEach (List.range 144) (fun l t =>
    if (t.quad (laneQuad l)).awake && decide ((t.lane l).fec = 0) && !(t.lane l).held && !t.pairHeld l then t.updLane l Lane.startTraining else t) s

/-- S2 ends (R439, R442): the parcels outside `good` fail; S3 and S4 start. -/
def s2Complete (s : State) (good : BitVec 32) (ms : Nat) : State :=
  if s.boot.stage ≠ .s2 then s
  else
    let bad := (List.range 32).filter fun i => !bitOf good.toNat i && !s.factory.contains i
    let s := forEach bad (fun i t => t.failParcel i) s
    let s := forEach s.factory (fun i t => t.updParcel i fun v => { v with asleep := true }) s
    (s.setBoot { s.boot with stage := .s3s4, s2Ms := ms % 65536 }).startLanes

def execS2Complete (good : BitVec 32) (ms : Nat) (s : State) : Host.Outcome State Fault Refusal := .next (s2Complete s good ms).settle

/-- Full service begins once S3 and S4 have ended (R446). S5 starts, and ends where it may (R439). -/
def State.fullService (s : State) (ms : Nat) : State :=
  if s.boot.s3Done && s.boot.s4Done then
    let s := forEach (List.range 4) (fun k t => t.updStack k fun v => { v with trained := v.s3Trained }) s
    let s := s.setBoot { s.boot with stage := .s5, fullMs := ms % 65536 }
    let s := if s.datum.role = 1 then (s.setDatum { s.datum with lock := 2 }).endEpisode 80 0x4001 else s
    s.endS5 true
  else s

/-- S3 ends with some stacks trained. -/
def s3Complete (s : State) (trained : BitVec 4) (ms : Nat) : State :=
  if s.boot.stage ≠ .s3s4 ∨ s.boot.s3Done then s
  else
    let s := forEach (List.range 4) (fun k t => t.updStack k fun v => { v with s3Trained := bitOf trained.toNat k && !t.boot.sheetsHeld }) s
    (s.setBoot { s.boot with s3Done := true, s3Stacks := listMask ((List.range 4).filter fun k => (s.stack k).s3Trained) }).fullService ms

def execS3Complete (trained : BitVec 4) (ms : Nat) (s : State) : Host.Outcome State Fault Refusal := .next (s3Complete s trained ms).settle

/-- S4 ends (R441): lanes not UP stay idle and untrained. -/
def s4Complete (s : State) (ms : Nat) : State :=
  if s.boot.stage ≠ .s3s4 ∨ s.boot.s4Done then s
  else
    let s := forEach (List.range 144) (fun l t =>
      if (t.lane l).state = .training then t.updLane l fun v => { v with state := .idleUntrained, trainDue := false, phase := 0 } else t) s
    let up := ((List.range 144).filter fun l => decide ((s.lane l).state = .up)).length
    (s.setBoot { s.boot with s4Done := true, lanesUp := up }).fullService ms

def execS4Complete (ms : Nat) (s : State) : Host.Outcome State Fault Refusal := .next (s4Complete s ms).settle

/-- STAGE_BOUND_EXPIRY (R441). The spec gives no record of which parcels have passed S2, or which stacks have trained, before the bound:
those are free values. -/
def stageBound (s : State) (st : StageName) : State :=
  match st with
  | .s1 => if s.boot.stage = .s1 then bootFail s else s
  | .s2 =>
    if s.boot.stage = .s2 then let r := s.fresh 32; s2Complete r.2 r.1 (s.boot.s1Ms + 8000) else s
  | .s3 =>
    if s.boot.stage = .s3s4 ∧ s.boot.s3Done = false then let r := s.fresh 4; s3Complete r.2 r.1 (s.boot.s2Ms + 3000) else s
  | .s4 => s4Complete s (s.boot.s2Ms + 20000)
  | .s5 =>
    if s.boot.stage = .s5 then
      s.setBoot { s.boot with stage := .full, s5Done := true, s5Ms := (s.boot.fullMs + 10000) % 65536 }
    else s

def execStageBoundExpiry (st : StageName) (s : State) : Host.Outcome State Fault Refusal := .next (stageBound s st).settle

/-- PLDM_FIRMWARE_UPDATE (R413, R448, R449): into the inactive copy, or by the boot ROM into copy 0 where both have failed; then a success
resets the hub onto that copy. DESIGN CHOICE 42: the response holds the status and the detail. -/
def pldmUpdate (s : State) (image : List Byte) : State :=
  let m := cellsAt 0 image
  if s.boot.stage = .failed then
    let w := fwStore s 0 m image.length
    let t := w.2.2.2.mctpSend (leBytes 2 w.1 ++ leBytes 2 w.2.1)
    if w.1 ≠ 0 then t
    else
      let t := t.releasePins.cleared
      let t := (t.setBoot { t.boot with stage := .s1, cause := 5 }).logCtl 3 5
      t.fallOnto 0
  else if s.running then
    let w := fwStore s s.inactive m image.length
    w.2.2.2.mctpSend (leBytes 2 w.1 ++ leBytes 2 w.2.1)
  else s

def execPldmFirmwareUpdate (image : List Byte) (s : State) : Host.Outcome State Fault Refusal := .next (pldmUpdate s image)

end Sys2Proof.Machine
end

