-- ==== Sys2Proof/Machine/Thermal.lean ====
section
/-! DEFINITION. Temperature, power and throttling (R417, R479, R480), and platform monitoring (R449). -/
namespace Sys2Proof.Machine

/-- Thresholds of a sensor in 0.1 °C (R479): throttle, release, operating maximum, trip. Sensors 36 to 39 are the stacks. -/
def sensorLimits (i : Nat) : Int × Int × Int × Int := if i < 36 then (950, 920, 1050, 1100) else (900, 870, 950, 1050)

/-- The hottest of some sensors. -/
def Thermal.hottest (t : Thermal) (lo n : Nat) : Int :=
  ((t.temps.drop lo).take n).foldl max (t.temps.getD lo 0)

/-- A temperature as 16 bits. -/
def temp16 (t : Int) : Nat := (BitVec.ofInt 16 t).toNat

/-- The results of PART_SENSORS from byte 16 on (R417). DEDUCED 43: junction sensors are those of the sheets and the hub. -/
def State.sensors (s : State) : Nat :=
  let t := s.thermal
  temp16 (t.hottest 0 36) + resAt 18 t.applied + resAt 19 (b2n (s.isLive 81 0x6001) + 2 * b2n t.capLim) + resAt 20 (t.power % 2 ^ 32)
    + resAt 24 (temp16 (t.hottest 0 16)) + resAt 26 (temp16 (t.hottest 16 16)) + resAt 28 (temp16 (t.hottest 32 4))

def partSensorsOwn (p : Packet) (s : State) : Ans := checks s [(!callerPf p, errOwner, 0)] (done s s.sensors)

def execPartSensors (p : Packet) (s : State) : Host.Outcome State Fault Refusal :=
  .next (command 0x0D10 p s (parCheck p [] true) false (partSensorsOwn p s))

/-- PLDM_PLATFORM_MONITORING (R449): from the end of S1 on. DESIGN CHOICE 42: the response holds the values as PART_SENSORS lays them out. -/
def execPldmPlatformMonitoring (s : State) : Host.Outcome State Fault Refusal :=
  .next (if s.running then s.mctpSend (leBytes 14 s.sensors) else s)

/-- Payload of kind 0x0020 (R434): event (0 level change, 1 trip, 2 operating maximum crossed, 3 THERM_THROTTLE raised), sensor, old and new level,
reading. -/
def thermalEvent (event sensor old new : Nat) (reading : Int) : Nat :=
  event + fieldAt 8 sensor + fieldAt 16 old + fieldAt 24 new + fieldAt 32 (temp16 reading)

/-- The fault of a sensor (R426). -/
def thermalFault (code sensor : Nat) (reading : Int) : FaultEv :=
  { code := code, unit := 81, access := 0, master := 0, address := sensor + fieldAt 16 (temp16 reading), cycle := 0 }

/-- The 40 readings of a sample; a sensor that the list leaves out keeps its reading. -/
def takeTemps (old new : List Int) : List Int := (List.range 40).map fun i => (new[i]?).getD (old.getD i 0)

/-- THERM_TRIP (R423): every run group halts at the end of its cycle, then the reset is applied. It is raised and recorded where the sheets
are held already, too (R476). -/
def State.trip (s : State) (sensor : Nat) (reading : Int) : State :=
  let s := (s.raise (thermalFault 0x6002 sensor reading)).logHub 0x20 0 (thermalEvent 1 sensor s.thermal.demand s.thermal.demand reading)
  if s.boot.sheetsHeld then s else (s.setBoot { s.boot with tripDue := true }).tripHold

/-- SENSOR_SAMPLE (R479, R480). The stacks report once S3 has started them (R439). A sensor trips as it reaches its threshold. -/
def sensorSample (s : State) (temps : List Int) : State :=
  if s.running = false then s
  else
    let old := s.thermal
    let now := takeTemps old.temps (if s.boot.stage = .s2 then temps.take 36 else temps)
    let t (i : Nat) : Int := now.getD i 0
    let idx := List.range 40
    let hot := idx.filter fun i => decide ((sensorLimits i).1 ≤ t i)
    let warm := idx.any fun i => decide ((sensorLimits i).2.1 < t i)
    let excess (i : Nat) : Bool := decide ((sensorLimits i).2.2.1 < t i)
    let tripped := idx.filter fun i => decide ((sensorLimits i).2.2.2 ≤ t i) && decide (old.temps.getD i 0 < (sensorLimits i).2.2.2)
    let first := hot.head?.map fun i => (i, t i)
    let s := s.setThermal
      { old with temps := now, hotSeen := old.hotSeen || !hot.isEmpty, hotAt := old.hotAt.or first, warmSeen := old.warmSeen || warm, crossed := idx.map excess }
    let s := forEach (List.range 4) (fun k u =>
      if s.boot.stage = .s2 then u else u.updStack k fun v => { v with temp := (t (36 + k) / 10).toNat % 256 }) s
    let s := forEach (idx.filter fun i => excess i && !old.crossed.getD i false) (fun i u =>
      u.logHub 0x20 0 (thermalEvent 2 i u.thermal.demand u.thermal.demand (t i))) s
    let s : State := match hot with
      | i :: _ => if s.isLive 81 0x6001 then s else
        (s.beginEpisode (thermalFault 0x6001 i (t i))).logHub 0x20 0 (thermalEvent 3 i s.thermal.demand s.thermal.demand (t i))
      | [] => s
    forEach tripped (fun i u => u.trip i (t i)) s

def execSensorSample (temps : List Int) (s : State) : Host.Outcome State Fault Refusal := .next (sensorSample s temps).settle

/-- The class that a window count falls into (R142). -/
def countClass (n : Nat) : Nat := if n ≤ heavyLimit 1 then 1 else if n ≤ heavyLimit 2 then 2 else if n ≤ heavyLimit 3 then 3 else 4

/-- A parcel has exceeded its cap in the period (R480): one with no window in it has not. -/
def Parcel.overCap (v : Parcel) : Bool := decide (v.msWindow ≠ 0) && decide (v.capW < classPower (countClass v.msWindow))

/-- A level and its count of cool periods after a period (R480). -/
def nextLevel (level cool : Nat) (raised calm : Bool) : Nat × Nat :=
  if raised then (min 3 (level + 1), 0)
  else if calm then (if 99 ≤ cool then (level - 1, 0) else (level, cool + 1))
  else (level, 0)

/-- THROTTLE_PERIOD (R480): `power` is the package power averaged over the period, in 0.1 W. -/
def throttlePeriod (s : State) (power : Nat) : State :=
  if s.running = false then s
  else
    let t := s.thermal
    let cap := (List.range 32).any fun i => (s.parcel i).overCap
    let lt := nextLevel t.lt t.coolT t.hotSeen (!t.warmSeen)
    let lp := nextLevel t.lp t.coolP (decide (9500 < power) || cap) (decide (power ≤ 9000) && !cap)
    let demand := max lt.1 lp.1
    let s := s.setThermal
      { t with power := power, lt := lt.1, coolT := lt.2, lp := lp.1, coolP := lp.2, hotSeen := false, hotAt := none, warmSeen := false
               capLim := cap || (t.capLim && decide (0 < lp.1)), demand := demand }
    let s := forEach ((List.range 32).filter fun i => decide ((s.parcel i).msWindow ≠ 0)) (fun i u =>
      u.updParcel i fun v => { v with msWindow := 0 }) s
    let top := t.temps.foldl max (t.temps.getD 0 0)
    let at_ := if t.lt < lt.1 then t.hotAt.getD (t.temps.idxOf top, top) else (t.temps.idxOf top, top)
    let s := if demand = t.demand then s else s.logHub 0x20 0 (thermalEvent 0 at_.1 t.demand demand at_.2)
    if lt.1 = 0 then s.endEpisode 81 0x6001 else s

def execThrottlePeriod (power : Nat) (s : State) : Host.Outcome State Fault Refusal := .next (throttlePeriod s power).settle

end Sys2Proof.Machine
end

