-- ==== Sys2Proof/Machine/Jtag.lean ====
section
/-! DEFINITION. The test access port (R483, R484): its commands are instructions shifted into the instruction register. It reaches no
configuration, store, table, key or logbook content. -/
namespace Sys2Proof.Machine

/-- An instruction enters the register. One that takes the pins does so only while RESET_N is low (R484; `resetN` has it take them when
RESET_N falls), and any other gives them back. -/
def State.tapLoad (s : State) (code : BitVec 8) (takes : Bool) : State :=
  if s.tapUp then s.moveTap { s.tap with ir := code, taken := takes && !s.boot.resetN } else s

/-- IDCODE (R483): version 2, part 0x5C92, manufacturer 0x2B7. -/
def idcodeValue : Nat := 0x25C9256F

/-- The data register that an instruction selects: IDCODE, the boundary chain, or the bypass bit (R483, R484). -/
inductive TapReg where
  | idcode | boundary | bypass
deriving DecidableEq, Repr

def State.tapReg (s : State) : TapReg :=
  if s.tap.ir = 1 then .idcode
  else if s.tap.ir = 2 ∨ (s.tap.ir = 0 ∧ s.tap.taken) then .boundary
  else .bypass

/-- The boundary cells capture the pins (R483). -/
def State.capture (s : State) : State :=
  let r := s.captured
  r.2.setTap { r.2.tap with cells := r.1 }

/-- EXTEST: while RESET_N is low the cells drive the pins from the preload, and capture them. -/
def execExtest (s : State) : Host.Outcome State Fault Refusal :=
  let t := s.tapLoad 0 true
  .next (if t.tapUp && t.tap.taken then t.capture else t)

def execIdcode (s : State) : Host.Outcome State Fault Refusal := .next (s.tapLoad 1 false)

/-- SAMPLE/PRELOAD: the cells capture the pins, and the values shifted in are held for EXTEST and CLAMP; the pins are not disturbed. -/
def execSamplePreload (values : List Bool) (s : State) : Host.Outcome State Fault Refusal :=
  let t := s.tapLoad 2 false
  .next (if s.tapUp then (t.setTap { t.tap with preload := values }).capture else t)

def execClamp (s : State) : Host.Outcome State Fault Refusal := .next (s.tapLoad 4 true)

def execHighz (s : State) : Host.Outcome State Fault Refusal := .next (s.tapLoad 5 true)

/-- BYPASS, and every unlisted code, which acts as it. A code that the table lists is that instruction's, and does nothing here. -/
def execBypass (code : BitVec 8) (s : State) : Host.Outcome State Fault Refusal :=
  .next (if code.toNat ∈ [0, 1, 2, 4, 5] then s else s.tapLoad code false)

end Sys2Proof.Machine
end

