-- ==== Sys2Proof/Machine/Mem.lean ====
section
/-! DEFINITION. The memory backdoor (R179 to R181, R251) and HBM_PARTITION (R187, R188). -/
namespace Sys2Proof.Machine

/-- 64-bit words of a stack of 36 GiB (R182). -/
def stackWords : Nat := 36 * 2 ^ 27

/-- The range of a MEM_READ or MEM_WRITE lies in its bank or stack (R179, R180). In MIRRORED pairing East is not written (R251). -/
def memRangeOk (p : Packet) (s : State) (write : Bool) : Bool :=
  let unit := par p 21 1
  let word := par p 24 8
  let n := p.len.toNat / 8
  let mirrored := decide (s.boot.pairMode = 2) && write
  decide (p.len.toNat % 8 = 0) && (match par p 20 1 with
    | 0 => decide (unit < 32) && decide (par p 22 1 < 16) && decide (word < 65536) && decide (word + n ≤ 65536)
        && !(mirrored && decide (16 ≤ unit))
    | 1 => decide (unit < 4) && decide (par p 22 1 = 0) && decide (word < stackWords) && decide (word + n ≤ stackWords)
        && !(mirrored && decide (2 ≤ unit))
    | _ => false)

def memBad (p : Packet) (s : State) (write : Bool) : Option Nat :=
  parCheck p [(20, 1), (21, 1), (22, 1), (24, 8)] (memRangeOk p s write)

/-- The image of a function that holds a unit of a stack, with its run group. -/
def State.imageAt (s : State) (fn k unit : Nat) : Option (Nat × Image) :=
  (s.runGroups.flatMap fun g => (s.group g).images.map fun i => (g, i)).find? fun (x : Nat × Image) =>
    (x.2.parcels.any fun p => decide (s.ownerOf p = some fn))
      && x.2.allots.any fun a => decide (a.1 = k) && decide (a.2.1 ≤ unit) && decide (unit < a.2.1 + a.2.2)

/-- The units that `n` words from `word` on touch. -/
def unitsOf (word n : Nat) : List Nat :=
  (List.range ((word + n - 1) / unitWords + 1 - word / unitWords)).map (word / unitWords + ·)

/-- A run group that MIRRORED pairing lets a dynamic write reach: it does not run, or it is paused (R251). -/
def State.writable (s : State) (g : Nat) : Bool :=
  decide (s.boot.pairMode ≠ 2) || decide ((s.group g).state ≠ .running) || (s.group g).paused

/-- Read `n` words of a stack into the buffer, until one is uncorrectable: words moved, and whether all were. A fault's unit is the
lowest parcel of the image whose memory is read (R418). -/
def hbmReadWords (k : Nat) (p : Packet) : Nat → Nat → Nat → State → Nat × Bool × State
  | 0, _, moved, s => (moved, true, s)
  | n + 1, w, moved, s =>
    let at_ := s.imageAt (callerFn p) k (w / unitWords)
    let unit := match at_ with | some x => x.2.parcels.headD 0 | none => 32 + k
    let cycle := match at_ with | some x => (s.group x.1).cycle | none => 0
    let r := s.hbmRead k w unit 1 (sessionMaster p.session) cycle
    match r.1 with
    | some d => hbmReadWords k p n (w + 1) (moved + 1) (bufPutNat r.2 p (8 * moved) 8 d.toNat)
    | none => (moved, false, r.2)

/-- Write `n` words of the buffer to a stack, and to the twin word of each where there is one. -/
def hbmWriteWords (k : Nat) (p : Packet) (twin : Option (Nat × Int)) : Nat → Nat → Nat → State → State
  | 0, _, _, s => s
  | n + 1, w, moved, s =>
    let d := BitVec.ofNat 64 (memNat (bufMem s p) (8 * moved) 8)
    let s := s.hbmStore k w d
    let s := match twin with
      | some t => s.hbmStore t.1 ((w : Int) + t.2).toNat d
      | none => s
    hbmWriteWords k p twin n (w + 1) (moved + 1) s

/-- A backdoor transfer on a bank (R179, R180): the command waits for its slots. -/
def memBank (p : Packet) (s : State) (write : Bool) : Ans :=
  let parcel := par p 21 1
  let c := clOf parcel (par p 22 1)
  let word := par p 24 8
  let n := p.len.toNat / 8
  match s.ownCheck (callerFn p) [parcel] with
  | some e => fail s e
  | none =>
    checks s
      [(decide ((s.parcel parcel).load ≠ .loaded), errOwner, 0),
       (s.lockedBy p.session fun l => l.onBank c word n, errLock, 0),
       (write && !(match s.rgOf parcel with | some g => s.writable g | none => true), errState, 0)]
      (let id := (s.cluster c).accessNo
       .park (.bank c write 0 n word id) (s.raiseLine c fun v =>
        { v with accessNo := id + 1, host := v.host ++ [nextAccess s p write 0 word id] }))

/-- The twin of a MIRRORED write to stack `k` (R251): its stack, and how far its words lie from the words named. -/
def memTwin (s : State) (k : Nat) (imgs : List (Nat × Image)) : Option (Nat × Int) :=
  match imgs.head? with
  | some x => if s.boot.pairMode = 2 then some (k + 2, (x.2.baseWord (k + 2) : Int) - x.2.baseWord k) else none
  | none => none

/-- The images of the caller that hold the words of a transfer, unit by unit. -/
def memImages (s : State) (p : Packet) : List (Option (Nat × Image)) :=
  (unitsOf (par p 24 8) (p.len.toNat / 8)).map fun u => s.imageAt (callerFn p) (par p 21 1) u

/-- The rest of a transfer on a stack of which `m` words are moved (R180). -/
def memMove (p : Packet) (write : Bool) (m : Nat) (s : State) : Ans :=
  let k := par p 21 1
  let word := par p 24 8
  let n := p.len.toNat / 8
  if write then done (hbmWriteWords k p (memTwin s k ((memImages s p).filterMap id)) (n - m) (word + m) m s) (memResults n memComplete)
  else
    let r := hbmReadWords k p (n - m) (word + m) m s
    if r.2.1 then done r.2.2 (memResults n memComplete)
    else .reply errDevice 0x2004 (memResults r.1 (word + r.1)) r.2.2

/-- A backdoor transfer on a stack. DEDUCED 31: a lock covers an HBM word through the parcel set of the image it belongs to. One that its
worker has begun has passed its checks. -/
def memHbm (p : Packet) (s : State) (write : Bool) : Ans :=
  let k := par p 21 1
  let found := memImages s p
  let imgs := found.filterMap id
  let twins := if write && decide (s.boot.pairMode = 2) then [Domain.stack (k + 2)] else []
  match s.workOf (if write then 0x0501 else 0x0500) p with
  | some x => awaken s (.stack k :: twins) fun t => memMove p write x.2.2.moved t
  | none => checks s
    [(decide (s.phase = 1) && !(s.stack k).trained, errResource, 0x0502),
     (found.any (·.isNone), errOwner, 0),
     (imgs.any fun x => s.parcelLocked p.session x.2.parcels, errLock, 0),
     (write && imgs.any fun x => !s.writable x.1, errState, 0)]
    (awaken s (.stack k :: twins) fun t => memMove p write 0 t)

def execMemRead (p : Packet) (s : State) : Host.Outcome State Fault Refusal :=
  .next (command 0x0500 p s (memBad p s false) (decide (p.len = 0))
    (if par p 20 1 = 0 then memBank p s false else memHbm p s false))

def execMemWrite (p : Packet) (s : State) : Host.Outcome State Fault Refusal :=
  .next (command 0x0501 p s (memBad p s true) (decide (p.len = 0))
    (if par p 20 1 = 0 then memBank p s true else memHbm p s true))

/-- MEM_ATOMIC (R181). -/
def memAtomicOwn (p : Packet) (s : State) : Ans :=
  let parcel := par p 21 1
  let c := clOf parcel (par p 22 1)
  let word := par p 24 2
  let v := BitVec.ofNat 64 (par p 28 8)
  match s.ownCheck (callerFn p) [parcel] with
  | some e => fail s e
  | none =>
    checks s
      [(decide ((s.parcel parcel).load ≠ .loaded), errOwner, 0),
       (s.lockedBy p.session fun l => l.onBank c word 1, errLock, 0),
       (!(match s.rgOf parcel with | some g => s.writable g | none => true), errState, 0)]
      (let id := (s.cluster c).accessNo
       .park (.atomicOp c word id) (s.raiseLine c fun x =>
        { x with accessNo := id + 1, atomics := x.atomics ++ [if par p 23 1 = 0 then .add word v id else .swap word v id] }))

def execMemAtomic (p : Packet) (s : State) : Host.Outcome State Fault Refusal :=
  .next (command 0x0502 p s
    (parCheck p [(20, 1), (21, 1), (22, 1), (23, 1), (24, 2), (28, 8)]
      (decide (p.buf = 0) && decide (p.len = 0) && decide (par p 20 1 = 0) && decide (par p 21 1 < 32) && decide (par p 22 1 < 16)
        && decide (par p 23 1 < 2) && !(decide (s.boot.pairMode = 2) && decide (16 ≤ par p 21 1))))
    false (memAtomicOwn p s))

-- the partition (R187, R188)

/-- The region of a unit under boundaries: 0 design, 1 trace, 2 inset, 3 unused. -/
def regionOf (d t i u : Nat) : Nat := if u < d then 0 else if u < t then 1 else if u < i then 2 else 3

/-- Some unit of a list of ranges changes region. -/
def regionMoves (old new : Nat → Nat) (used : List (Nat × Nat)) : Bool :=
  used.any fun r => (List.range r.2).any fun k => decide (old (r.1 + k) ≠ new (r.1 + k))

/-- HBM_PARTITION. The stack may sleep and is not woken; the boundaries apply with the release of the reply (R188). -/
def hbmPartitionOwn (p : Packet) (s : State) : Ans :=
  let k := par p 20 1
  let v := s.stack k
  let old := regionOf v.designEnd v.traceEnd v.insetEnd
  let new := regionOf (par p 24 2) (par p 26 2) (par p 28 2)
  checks s
    [(!callerPf p, errOwner, 0), (regionMoves old new (s.designUsed k ++ s.traceUsed k ++ s.insetUsed k), errState, 0)]
    (done s)

def execHbmPartition (p : Packet) (s : State) : Host.Outcome State Fault Refusal :=
  .next (command 0x0510 p s
    (parCheck p [(20, 1), (24, 2), (26, 2), (28, 2)] (decide (par p 20 1 < 4) && decide (par p 24 2 ≤ par p 26 2)
      && decide (par p 26 2 ≤ par p 28 2) && decide (par p 28 2 ≤ 576))) false (hbmPartitionOwn p s))

end Sys2Proof.Machine
end

