-- ==== Sys2Proof/Machine/Loader.lean ====
section
/-! DEFINITION. The dispatcher and its workers (R386): COMMAND_DISPATCH, and the loads, frame batches, unloads, restores, transfers and firmware
writes that a worker has begun and not finished (R199, R202, R203, R209, R390, R413). DESIGN CHOICE 54: such a command begins in the CTRL cycle
after the one that put it into a prefetch slot, a load goes on to its write pass in the next one, and its row of the table is its end. A
command whose row comes without dispatch begins and ends in it. -/
namespace Sys2Proof.Machine

/-- A claim on some parcels, with nothing more. -/
def plainClaim (phase : WorkPhase) (ps : List Nat) : Claim :=
  { phase := phase, parcels := ps, quads := [], bridges := [], allots := [], engines := [], buffers := [], desc := none, hdrCrc := 0
    fault := none, moved := 0 }

/-- A load begins (R202, step 2; R203): its parcels are CHECKING, what it needs is held and awake, its lanes go idle, its pins are low. -/
def State.beginLoad (s : State) (d : Desc) (c : Claim) (i : Image) : State :=
  let s := (s.sourceStack d ++ loadDomains c.parcels c.allots).foldl (fun t x => t.callDomain x) s
  let s := forEach i.parcels (fun p t => t.updParcel p fun v => { v with load := .checking }) s
  (forEach (c.quads.map quadLanes).flatten (fun l t => t.updLane l Lane.holdIdle) s).endTrain.lowerPins i.parcels

/-- An unload begins (R214): GSR is asserted, which lowers the pins and holds the links of the bridges down (R203). -/
def State.beginUnload (s : State) (i : Image) : State :=
  let s := (forEach i.parcels (fun q t => t.updParcel q fun v => { v with load := .unloading }) s).lowerPins i.parcels
  forEach (s.boundBridges i) (fun b t => t.relink b) s

/-- A transfer begins where its own checks let it move something (R390). -/
def beginTransfer (s : State) (a : Ans) : Option (Claim × State) :=
  match a with
  | .reply st d _ _ => if st = 0 ∨ (st = errDevice ∧ d = 0x2004) then some (plainClaim .transfer [], s) else none
  | _ => none

/-- What a command would claim, were its worker to begin it now (a load whose sections fail claims what its cartouche asks for, R202), and
the part's state then; none where its own checks end it at once, or where nothing shows that it is under way. -/
def beginWork (opcode : Nat) (p : Packet) (s : State) : Option (Claim × State) :=
  match opcode with
  | 0x0200 =>
    if commandStarts opcode p s (imageLoadBad p s) (decide (memNat (bufMem s p) 16 8 = 0)) = false then none
    else
      let d := descOf (bufMem s p)
      match loadHead s p d with
      | .error _ => none
      | .ok (b, k) =>
        let granted : Except Refused (Image × List TraceBlock) := match loadBody s p d b k with
          | .error _ => match placeImage s (callerFn p) k d true with
            | .error e => .error e
            | .ok i =>
              if s.parcelLocked p.session i.parcels then refuse errLock 0
              else if (firstLoc (s.badBinds p.session k i [])).isSome then refuse errFootprint 0x0405
              else .ok (i, [])
          | .ok m => (grantOf s p k d m true).map fun i => (i, ((traceSect i k (relocate i k m).m).bind id).getD [])
        match granted with
        | .error _ => none
        | .ok (i, bs) =>
          let c := claimOf s .check d i bs
          some (c, s.beginLoad d c i)
  | 0x0201 =>
    if commandStarts opcode p s (imageFramesBad p) (imageFramesZero p s) = false then none
    else match framesFront p s with
      | .error _ => none
      | .ok (_, i) => some (plainClaim .frames i.parcels, forEach i.parcels (fun q t => t.updParcel q fun v => { v with framesBusy := true }) s)
  | 0x0204 =>
    if commandStarts opcode p s (parCheck p [(20, 4)] true) (decide (par p 20 4 = 0)) = false then none
    else match unloadFront p s with
      | .error _ => none
      | .ok (_, i) => some (plainClaim .unload i.parcels, s.beginUnload i)
  | 0x0500 =>
    if commandStarts opcode p s (memBad p s false) (decide (p.len = 0)) = false ∨ par p 20 1 = 0 then none
    else beginTransfer s (memHbm p s false)
  | 0x0501 =>
    if commandStarts opcode p s (memBad p s true) (decide (p.len = 0)) = false ∨ par p 20 1 = 0 then none
    else beginTransfer s (memHbm p s true)
  | 0x0603 =>
    if commandStarts opcode p s (traceReadBad p) (traceReadZero p) = false then none else beginTransfer s (traceReadOwn p s)
  | 0x0902 => if commandStarts opcode p s (insetStampsBad p) (decide (p.len = 0)) = false then none else beginTransfer s (insetStampsOwn p s)
  | 0x0B10 => if commandStarts opcode p s (logReadBad p) (decide (p.len = 0)) = false then none else beginTransfer s (logReadOwn p s)
  | 0x0D01 =>
    if commandStarts opcode p s (fwWriteBad p) (decide (p.len = 0)) = false ∨ callerPf p = false
      ∨ (fwRefusal s s.inactive (bufMem s p) p.len.toNat false).isSome then none
    else some (plainClaim .firmware [], s.beginWriting s.inactive)
  | 0x0401 =>
    if commandStarts opcode p s (surveyRestoreBad p s) (surveyRestoreZero p s) = false then none
    else match restoreFront p s with
      | .error _ => none
      | .ok (_, i) => some (plainClaim .restore i.parcels, forEach i.parcels (fun q t => t.updParcel q fun v => { v with svState := .restoring }) s)
  | _ => none

/-- Set the state of an entry. -/
def State.putEntry (s : State) (e : Entry) (st : EntryState) : State :=
  s.setEntries (updFirst (fun x => decide (x = e)) (fun x => { x with state := st }) s.hub.entries)

/-- The records that a transfer copies, each as its bytes. -/
def transferRecords (opcode : Nat) (p : Packet) (s : State) : List (List Byte) :=
  match opcode with
  | 0x0603 =>
    let e := par p 24 1
    if readsSamples p && !(s.bufferMarks e (s.engine e)).isEmpty then [] else traceCopies p (s.engine e)
  | 0x0902 => stampCopies p s
  | _ => logCopies p s

/-- A transfer moves on by a free number of words or records, short of a word that does not read right (R390; DESIGN CHOICE 54). -/
def State.transferOn (s : State) (e : Entry) (w : Nat) (c : Claim) : State :=
  let r := s.fresh 32
  let p := e.pkt
  let k := par p 21 1
  let left (all : Nat) : Nat := min r.1.toNat (all - c.moved)
  let moved (n : Nat) (t : State) : State := t.putEntry e (.executing w { c with moved := c.moved + n })
  match e.opcode with
  | 0x0500 =>
    let n := left (p.len.toNat / 8)
    let x := hbmReadWords k p n (par p 24 8 + c.moved) c.moved r.2
    if (s.stack k).asleep = false ∧ x.2.1 then moved n x.2.2 else r.2
  | 0x0501 =>
    let n := left (p.len.toNat / 8)
    if ((s.stack k).asleep || (decide (s.boot.pairMode = 2) && (s.stack (k + 2)).asleep)) then r.2
    else moved n (hbmWriteWords k p (memTwin s k ((memImages s p).filterMap id)) n (par p 24 8 + c.moved) c.moved r.2)
  | _ =>
    let recs := transferRecords e.opcode p s
    let n := left recs.length
    moved n (bufPut r.2 p 0 (recs.take (c.moved + n)).flatten)

/-- One CTRL cycle of the workers for one entry: a prefetched command that can begin begins; a load whose check pass has passed goes on to
its write pass; a load that a DEVICE-class fault has met ends (R208); a transfer moves on. -/
def State.workOn (s : State) (e : Entry) : State :=
  match e.state with
  | .prefetched w =>
    if s.workerBusy w then s
    else match beginWork e.opcode e.pkt s with
      | none => s
      | some (c, t) => t.putEntry e (.executing w c)
  | .executing w c =>
    match c.fault, c.phase, c.desc with
    | some f, .check, some _ | some f, .write, some _ =>
      (((s.endClaim c).noteLoad c.parcels errDevice f).finishEntry e errDevice f Loc.none.results).settle
    | none, .check, some d =>
      if s.loadAwake c = false then s else
      match loadCheck (s.unclaimed (e, w, c)) e.pkt d true false with
      | .error _ => s
      | .ok _ =>
        (forEach c.parcels (fun p t => t.updParcel p fun v => { v with load := .loading }) s).putEntry e
          (.executing w { c with phase := .write })
    | _, .transfer, _ => s.transferOn e w c
    | _, _, _ => s
  | _ => s

/-- COMMAND_DISPATCH: one CTRL cycle of the workers and of the dispatcher (R386). -/
def execCommandDispatch (s : State) : Host.Outcome State Fault Refusal :=
  .next (if s.hubUp then forEach (List.range 8) fillSlot (s.hub.entries.foldl (fun t e => t.workOn e) s) else s)

end Sys2Proof.Machine
end

