-- ==== Sys2Proof/Machine/Locks.lean ====
section
/-! DEFINITION. Locks (R393 to R395): LOCK_ACQUIRE, LOCK_RELEASE and LOCK_QUERY. -/
namespace Sys2Proof.Machine

/-- The lock that a LOCK_ACQUIRE asks for. -/
def lockOf (p : Packet) (handle : Nat) : Lock :=
  { handle := handle, session := p.session, kind := par p 20 1, unit := par p 21 1, cluster := par p 22 1, mask := par p 24 4
    first := par p 28 4, count := par p 32 4 }

/-- Parameter ranges of R394: the fields a kind does not use are 0. A count of 0 goes to the zero rule. -/
def lockFieldsOk (l : Lock) : Bool :=
  match l.kind with
  | 0 => decide (l.unit = 0) && decide (l.cluster = 0) && decide (l.first = 0) && decide (l.count = 0)
  | 1 => decide (l.unit < 32) && decide (l.cluster < 16) && decide (l.mask = 0) && decide (l.first < 65536) && decide (l.first + l.count ≤ 65536)
  | k => decide (k < 5) && decide (l.unit < if k = 2 then 36 else if k = 3 then 2 else 64)
      && decide (l.cluster = 0) && decide (l.mask = 0) && decide (l.first = 0) && decide (l.count = 0)

/-- A quad is bound to a run group or, through a bridge, to an image of a function. -/
def State.ownsQuad (s : State) (fn q : Nat) : Bool :=
  let v := s.quad q
  (v.rg.isSome && decide (v.group = fn))
    || (match v.bridge with | some b => (s.bridge b).rg.isSome && decide ((s.bridge b).group = fn) | none => false)

/-- The caller's rights of R394: the status it fails with, or none. -/
def lockRights (p : Packet) (s : State) (kind unit : Nat) (ps : List Nat) : Option Nat :=
  let fn := callerFn p
  match kind with
  | 0 | 1 => s.ownCheck fn ps
  | 2 => if callerPf p || s.ownsQuad fn unit then none else some errOwner
  | 3 => if callerPf p || ((s.engine unit).rg.isSome && decide ((s.engine unit).group = fn)) then none else some errOwner
  | _ => if (s.key unit).bound = some fn then none else some errOwner

/-- Two locks cover one unit; word ranges of one bank only where they overlap (R394). -/
def Lock.meets (a b : Lock) : Bool :=
  match a.kind, b.kind with
  | 0, 0 => decide (a.mask &&& b.mask ≠ 0)
  | 0, 1 => bitOf a.mask b.unit
  | 1, 0 => bitOf b.mask a.unit
  | 1, 1 => decide (a.unit = b.unit) && decide (a.cluster = b.cluster) && decide (a.first < b.first + b.count) && decide (b.first < a.first + a.count)
  | j, k => decide (j = k) && decide (a.unit = b.unit)

/-- The locks of a session and of the part (R394). -/
def sessionLocks : Nat := 16
def partLocks : Nat := 1024

/-- The result bytes of a granted lock (R394). DEDUCED 36: old_gen is the generation of the orphaned lock that held the unit last. -/
def lockResults (s : State) (l : Lock) : Nat :=
  let us := sortBy id l.units
  let orphaned := us.filter fun u => (s.lockUnit u).orphan
  let report := (orphaned ++ us).headD 0
  let gen := (s.lockUnit report).gen
  let old := if (s.lockUnit report).orphan then (s.lockUnit report).held else gen
  let bits := if l.kind = 0 then listMask (orphaned.filter (· < 32)) else b2n !orphaned.isEmpty
  l.handle + resAt 20 gen.toNat + resAt 24 old.toNat + resAt 28 bits

/-- LOCK_ACQUIRE (R394): the orphan flags of the covered units clear (R393). -/
def lockAcquireOwn (p : Packet) (s : State) : Ans :=
  let l := lockOf p s.hub.nextLock
  match lockRights p s l.kind l.unit (if l.kind = 0 then maskList 32 l.mask else [l.unit]) with
  | some e => fail s e
  | none =>
    match s.hub.locks.find? fun m => decide (m.session ≠ p.session) && l.meets m with
    | some m => .reply errLock 0 m.session s
    | none =>
      if sessionLocks ≤ (s.hub.locks.filter fun m => decide (m.session = p.session)).length ∨ partLocks ≤ s.hub.locks.length then
        fail s errResource
      else
        let orphan := l.units.any fun u => (s.lockUnit u).orphan
        let t := s.setHub { s.hub with locks := s.hub.locks ++ [l], nextLock := s.hub.nextLock + 1 }
        let t := forEach l.units (fun u x => x.setLockUnit u { x.lockUnit u with orphan := false }) t
        .reply (if orphan then 3 else 0) 0 (lockResults s l) t

def execLockAcquire (p : Packet) (s : State) : Host.Outcome State Fault Refusal :=
  .next (command 0x0A00 p s
    (parCheck p [(20, 1), (21, 1), (22, 1), (24, 4), (28, 4), (32, 4)] (lockFieldsOk (lockOf p 0)))
    ((decide (par p 20 1 = 0) && decide (par p 24 4 = 0)) || (decide (par p 20 1 = 1) && decide (par p 32 4 = 0))) (lockAcquireOwn p s))

/-- LOCK_RELEASE (R395): the generations of the covered units rise. -/
def lockReleaseOwn (p : Packet) (s : State) : Ans :=
  let h := par p 20 4
  let mine (l : Lock) : Bool := decide (l.handle = h) && decide (l.session = p.session)
  if s.hub.locks.any mine then done (s.freeLocks false mine) else fail s errParam

def execLockRelease (p : Packet) (s : State) : Host.Outcome State Fault Refusal :=
  .next (command 0x0A01 p s (parCheck p [(20, 4)] true) false (lockReleaseOwn p s))

/-- The lock unit that a query names (R393). DESIGN CHOICE 35: for kind 0, which has no mask here, `unit` is the parcel. -/
def queryUnit (kind unit cluster : Nat) : Nat :=
  match kind with
  | 0 => unit
  | 1 => bankUnit (clOf unit cluster)
  | 2 => quadUnit unit
  | 3 => engineUnit unit
  | _ => keyUnit unit

/-- LOCK_QUERY (R395). -/
def lockQueryOwn (p : Packet) (s : State) : Ans :=
  let u := queryUnit (par p 20 1) (par p 21 1) (par p 22 1)
  match lockRights p s (par p 20 1) (par p 21 1) [par p 21 1] with
  | some e => fail s e
  | none =>
    let holder := match s.hub.locks.find? fun l => l.units.contains u with | some l => l.session | none => 0xFFFF
    done s (holder + resAt 20 (s.lockUnit u).gen.toNat + resAt 24 (b2n (s.lockUnit u).orphan))

def execLockQuery (p : Packet) (s : State) : Host.Outcome State Fault Refusal :=
  .next (command 0x0A02 p s
    (parCheck p [(20, 1), (21, 1), (22, 1)]
      (match par p 20 1 with
        | 0 => decide (par p 21 1 < 32) && decide (par p 22 1 = 0)
        | 1 => decide (par p 21 1 < 32) && decide (par p 22 1 < 16)
        | k => decide (k < 5) && decide (par p 22 1 = 0) && decide (par p 21 1 < if k = 2 then 36 else if k = 3 then 2 else 64)))
    false (lockQueryOwn p s))

end Sys2Proof.Machine
end

