-- ==== Sys2Proof/Machine/Dispatch.lean ====
section
/-! DEFINITION. Every command of the table, sent to its meaning. -/
namespace Sys2Proof.Machine

def exec (i : Instr) (s : State) : Host.Outcome State Fault Refusal :=
  match i with
  | .stepExecute g => Sys2Proof.Machine.execStepExecute g s
  | .nop bp => Sys2Proof.Machine.execNop bp s
  | .lut4x bp tt a b c d => Sys2Proof.Machine.execLut4x bp tt a b c d s
  | .lut4p bp tt a b c d => Sys2Proof.Machine.execLut4p bp tt a b c d s
  | .lut2s bp tt a b c d => Sys2Proof.Machine.execLut2s bp tt a b c d s
  | .resolve bp tt a b c d => Sys2Proof.Machine.execResolve bp tt a b c d s
  | .caseq bp tt a b => Sys2Proof.Machine.execCaseq bp tt a b s
  | .mux2x bp a b c => Sys2Proof.Machine.execMux2x bp a b c s
  | .latch bp tt a b d => Sys2Proof.Machine.execLatch bp tt a b d s
  | .ffnext bp tt a b d => Sys2Proof.Machine.execFfnext bp tt a b d s
  | .portrd bp tt => Sys2Proof.Machine.execPortrd bp tt s
  | .portwr bp tt a => Sys2Proof.Machine.execPortwr bp tt a s
  | .tap bp tt a => Sys2Proof.Machine.execTap bp tt a s
  | .const bp tt => Sys2Proof.Machine.execConst bp tt s
  | .assert bp tt a => Sys2Proof.Machine.execAssert bp tt a s
  | .stop bp tt a => Sys2Proof.Machine.execStop bp tt a s
  | .reservedOpcode bp w => Sys2Proof.Machine.execReservedOpcode bp w s
  | .bankRead cl slot ad => Sys2Proof.Machine.execBankRead cl slot ad s
  | .bankWrite cl slot ad => Sys2Proof.Machine.execBankWrite cl slot ad s
  | .bankWriteIfEnable cl slot ad => Sys2Proof.Machine.execBankWriteIfEnable cl slot ad s
  | .hbmRead cl ad => Sys2Proof.Machine.execHbmRead cl ad s
  | .hbmWrite cl ad => Sys2Proof.Machine.execHbmWrite cl ad s
  | .hbmWriteIfEnable cl ad => Sys2Proof.Machine.execHbmWriteIfEnable cl ad s
  | .insetReceive cl bridge => Sys2Proof.Machine.execInsetReceive cl bridge s
  | .insetSend cl bridge => Sys2Proof.Machine.execInsetSend cl bridge s
  | .insetStatus cl bridge => Sys2Proof.Machine.execInsetStatus cl bridge s
  | .probeShip cl => Sys2Proof.Machine.execProbeShip cl s
  | .portLoadLanding cl => Sys2Proof.Machine.execPortLoadLanding cl s
  | .receiveSlotArrival cl slot => Sys2Proof.Machine.execReceiveSlotArrival cl slot s
  | .cargoDelivery quad slot => Sys2Proof.Machine.execCargoDelivery quad slot s
  | .stagingQueueDrain cl => Sys2Proof.Machine.execStagingQueueDrain cl s
  | .hbmWriteAccept cl => Sys2Proof.Machine.execHbmWriteAccept cl s
  | .hbmDataArrival cl => Sys2Proof.Machine.execHbmDataArrival cl s
  | .powerWindowEnd parcel => Sys2Proof.Machine.execPowerWindowEnd parcel s
  | .cycleBoundary g => Sys2Proof.Machine.execCycleBoundary g s
  | .autoTimeout engine => Sys2Proof.Machine.execAutoTimeout engine s
  | .mirrorCompare g => Sys2Proof.Machine.execMirrorCompare g s
  | .surveyCapture g => Sys2Proof.Machine.execSurveyCapture g s
  | .tableCopyDone g => Sys2Proof.Machine.execTableCopyDone g s
  | .timedEventDue e => Sys2Proof.Machine.execTimedEventDue e s
  | .traceSampleStore engine => Sys2Proof.Machine.execTraceSampleStore engine s
  | .assertionEventDrain engine => Sys2Proof.Machine.execAssertionEventDrain engine s
  | .dynamicSlotGrant cl slot => Sys2Proof.Machine.execDynamicSlotGrant cl slot s
  | .eccWriteback cl => Sys2Proof.Machine.execEccWriteback cl s
  | .backdoorGrantTimeout cl master => Sys2Proof.Machine.execBackdoorGrantTimeout cl master s
  | .sessionNop p => Sys2Proof.Machine.execSessionNop p s
  | .cmdCancel p => Sys2Proof.Machine.execCmdCancel p s
  | .sessionReset p => Sys2Proof.Machine.execSessionReset p s
  | .identRead p => Sys2Proof.Machine.execIdentRead p s
  | .identCert p => Sys2Proof.Machine.execIdentCert p s
  | .identAttest p => Sys2Proof.Machine.execIdentAttest p s
  | .partNumberSet p => Sys2Proof.Machine.execPartNumberSet p s
  | .regRead p => Sys2Proof.Machine.execRegRead p s
  | .datumNowRead => Sys2Proof.Machine.execDatumNowRead s
  | .regWrite p => Sys2Proof.Machine.execRegWrite p s
  | .faultLatchedClear lo hi => Sys2Proof.Machine.execFaultLatchedClear lo hi s
  | .regCommit p => Sys2Proof.Machine.execRegCommit p s
  | .datumPairApply => Sys2Proof.Machine.execDatumPairApply s
  | .imageLoad p => Sys2Proof.Machine.execImageLoad p s
  | .imageFrames p => Sys2Proof.Machine.execImageFrames p s
  | .imageStage p => Sys2Proof.Machine.execImageStage p s
  | .imageUnstage p => Sys2Proof.Machine.execImageUnstage p s
  | .imageUnload p => Sys2Proof.Machine.execImageUnload p s
  | .keyLoad p => Sys2Proof.Machine.execKeyLoad p s
  | .keyClear p => Sys2Proof.Machine.execKeyClear p s
  | .kekAgree p => Sys2Proof.Machine.execKekAgree p s
  | .tableCommit p => Sys2Proof.Machine.execTableCommit p s
  | .tablePokeActive p => Sys2Proof.Machine.execTablePokeActive p s
  | .runAt p => Sys2Proof.Machine.execRunAt p s
  | .runStop p => Sys2Proof.Machine.execRunStop p s
  | .pauseAt p => Sys2Proof.Machine.execPauseAt p s
  | .resumeAt p => Sys2Proof.Machine.execResumeAt p s
  | .survey p => Sys2Proof.Machine.execSurvey p s
  | .surveyRestore p => Sys2Proof.Machine.execSurveyRestore p s
  | .memRead p => Sys2Proof.Machine.execMemRead p s
  | .memWrite p => Sys2Proof.Machine.execMemWrite p s
  | .memAtomic p => Sys2Proof.Machine.execMemAtomic p s
  | .hbmPartition p => Sys2Proof.Machine.execHbmPartition p s
  | .traceConfig p => Sys2Proof.Machine.execTraceConfig p s
  | .traceArm p => Sys2Proof.Machine.execTraceArm p s
  | .traceForce p => Sys2Proof.Machine.execTraceForce p s
  | .traceRead p => Sys2Proof.Machine.execTraceRead p s
  | .traceRelease p => Sys2Proof.Machine.execTraceRelease p s
  | .datumRole p => Sys2Proof.Machine.execDatumRole p s
  | .datumAdjust p => Sys2Proof.Machine.execDatumAdjust p s
  | .datumOrigin p => Sys2Proof.Machine.execDatumOrigin p s
  | .datumLinkCal p => Sys2Proof.Machine.execDatumLinkCal p s
  | .trigBind p => Sys2Proof.Machine.execTrigBind p s
  | .trigPulse p => Sys2Proof.Machine.execTrigPulse p s
  | .trigOutEdge pin => Sys2Proof.Machine.execTrigOutEdge pin s
  | .ppsOutEdge => Sys2Proof.Machine.execPpsOutEdge s
  | .trigInEdge pin falling time => Sys2Proof.Machine.execTrigInEdge pin falling time s
  | .ppsInEdge time => Sys2Proof.Machine.execPpsInEdge time s
  | .ppsTimeout => Sys2Proof.Machine.execPpsTimeout s
  | .syncOriginate => Sys2Proof.Machine.execSyncOriginate s
  | .sync lane cw => Sys2Proof.Machine.execSync lane cw s
  | .syncTimeout => Sys2Proof.Machine.execSyncTimeout s
  | .peerDelayExchange quad => Sys2Proof.Machine.execPeerDelayExchange quad s
  | .pdelayReq lane cw => Sys2Proof.Machine.execPdelayReq lane cw s
  | .pdelayResp lane cw => Sys2Proof.Machine.execPdelayResp lane cw s
  | .laneConfig p => Sys2Proof.Machine.execLaneConfig p s
  | .laneTrain p => Sys2Proof.Machine.execLaneTrain p s
  | .laneIdle p => Sys2Proof.Machine.execLaneIdle p s
  | .lanePattern p => Sys2Proof.Machine.execLanePattern p s
  | .laneInject p => Sys2Proof.Machine.execLaneInject p s
  | .fjJoin p => Sys2Proof.Machine.execFjJoin p s
  | .joinTimeout g => Sys2Proof.Machine.execJoinTimeout g s
  | .codewordTransmit lane => Sys2Proof.Machine.execCodewordTransmit lane s
  | .schedCodewordQueue lane => Sys2Proof.Machine.execSchedCodewordQueue lane s
  | .sched lane cw => Sys2Proof.Machine.execSched lane cw s
  | .pkt lane cw => Sys2Proof.Machine.execPkt lane cw s
  | .idle lane cw => Sys2Proof.Machine.execIdle lane cw s
  | .train lane cw => Sys2Proof.Machine.execTrain lane cw s
  | .codewordUncorrectable lane => Sys2Proof.Machine.execCodewordUncorrectable lane s
  | .xoff rx => Sys2Proof.Machine.execXoff rx s
  | .xon rx => Sys2Proof.Machine.execXon rx s
  | .resend lane cw word => Sys2Proof.Machine.execResend lane cw word s
  | .stopCodeword lane cw word => Sys2Proof.Machine.execStopCodeword lane cw word s
  | .nak lane cw => Sys2Proof.Machine.execNak lane cw s
  | .join lane cw word => Sys2Proof.Machine.execJoin lane cw word s
  | .sleep rx => Sys2Proof.Machine.execSleep rx s
  | .resendRetry lane => Sys2Proof.Machine.execResendRetry lane s
  | .replayTimeout lane => Sys2Proof.Machine.execReplayTimeout lane s
  | .laneLockLoss lane => Sys2Proof.Machine.execLaneLockLoss lane s
  | .headerTimeout lane => Sys2Proof.Machine.execHeaderTimeout lane s
  | .laneRetry lane => Sys2Proof.Machine.execLaneRetry lane s
  | .laneTrainingDone lane => Sys2Proof.Machine.execLaneTrainingDone lane s
  | .trainingTimeout lane => Sys2Proof.Machine.execTrainingTimeout lane s
  | .insetConfig p => Sys2Proof.Machine.execInsetConfig p s
  | .insetFlush p => Sys2Proof.Machine.execInsetFlush p s
  | .insetStamps p => Sys2Proof.Machine.execInsetStamps p s
  | .insetFrameArrival bridge length => Sys2Proof.Machine.execInsetFrameArrival bridge length s
  | .insetFrameReceived bridge f => Sys2Proof.Machine.execInsetFrameReceived bridge f s
  | .pauseFrame bridge pfc mask quanta => Sys2Proof.Machine.execPauseFrame bridge pfc mask quanta s
  | .pauseExpiry bridge prio => Sys2Proof.Machine.execPauseExpiry bridge prio s
  | .pauseRepeat bridge => Sys2Proof.Machine.execPauseRepeat bridge s
  | .insetFrameMove bridge => Sys2Proof.Machine.execInsetFrameMove bridge s
  | .insetOutboundComplete bridge => Sys2Proof.Machine.execInsetOutboundComplete bridge s
  | .insetFrameDepart bridge => Sys2Proof.Machine.execInsetFrameDepart bridge s
  | .insetLinkUp bridge => Sys2Proof.Machine.execInsetLinkUp bridge s
  | .insetLinkDown bridge => Sys2Proof.Machine.execInsetLinkDown bridge s
  | .insetTrainingRetry bridge => Sys2Proof.Machine.execInsetTrainingRetry bridge s
  | .lockAcquire p => Sys2Proof.Machine.execLockAcquire p s
  | .lockRelease p => Sys2Proof.Machine.execLockRelease p s
  | .lockQuery p => Sys2Proof.Machine.execLockQuery p s
  | .faultRead p => Sys2Proof.Machine.execFaultRead p s
  | .faultClear p => Sys2Proof.Machine.execFaultClear p s
  | .faultPinSet p => Sys2Proof.Machine.execFaultPinSet p s
  | .faultNPulseEnd => Sys2Proof.Machine.execFaultNPulseEnd s
  | .logRead p => Sys2Proof.Machine.execLogRead p s
  | .logInfo p => Sys2Proof.Machine.execLogInfo p s
  | .logbookCommit => Sys2Proof.Machine.execLogbookCommit s
  | .parcelAssign p => Sys2Proof.Machine.execParcelAssign p s
  | .parcelRelease p => Sys2Proof.Machine.execParcelRelease p s
  | .parcelCap p => Sys2Proof.Machine.execParcelCap p s
  | .parcelSleep p => Sys2Proof.Machine.execParcelSleep p s
  | .parcelAutoSleep parcel => Sys2Proof.Machine.execParcelAutoSleep parcel s
  | .pairSet p => Sys2Proof.Machine.execPairSet p s
  | .pairDivergeClear p => Sys2Proof.Machine.execPairDivergeClear p s
  | .pairResponse p => Sys2Proof.Machine.execPairResponse p s
  | .powerSet p => Sys2Proof.Machine.execPowerSet p s
  | .domainPowerDown d early => Sys2Proof.Machine.execDomainPowerDown d early s
  | .powerDownRetry d => Sys2Proof.Machine.execPowerDownRetry d s
  | .hbmSelfRefreshEntry stack => Sys2Proof.Machine.execHbmSelfRefreshEntry stack s
  | .domainWakeDone d => Sys2Proof.Machine.execDomainWakeDone d s
  | .parcelClearDone parcel => Sys2Proof.Machine.execParcelClearDone parcel s
  | .routerReconfiguration router drain => Sys2Proof.Machine.execRouterReconfiguration router drain s
  | .reconfigurationAbandon router => Sys2Proof.Machine.execReconfigurationAbandon router s
  | .read pk => Sys2Proof.Machine.execRead pk s
  | .write pk => Sys2Proof.Machine.execWrite pk s
  | .posted pk => Sys2Proof.Machine.execPosted pk s
  | .atomic pk => Sys2Proof.Machine.execAtomic pk s
  | .message pk => Sys2Proof.Machine.execMessage pk s
  | .hbmDesignRequest req => Sys2Proof.Machine.execHbmDesignRequest req s
  | .readResponse pk => Sys2Proof.Machine.execReadResponse pk s
  | .ack pk => Sys2Proof.Machine.execAck pk s
  | .hbmDesignReturn ret => Sys2Proof.Machine.execHbmDesignReturn ret s
  | .errorResponse pk => Sys2Proof.Machine.execErrorResponse pk s
  | .time pk => Sys2Proof.Machine.execTime pk s
  | .wake pk => Sys2Proof.Machine.execWake pk s
  | .tagTimeout tag => Sys2Proof.Machine.execTagTimeout tag s
  | .fwInfo p => Sys2Proof.Machine.execFwInfo p s
  | .fwWrite p => Sys2Proof.Machine.execFwWrite p s
  | .fwSwitch p => Sys2Proof.Machine.execFwSwitch p s
  | .partReset p => Sys2Proof.Machine.execPartReset p s
  | .partSensors p => Sys2Proof.Machine.execPartSensors p s
  | .hubReset cause => Sys2Proof.Machine.execHubReset cause s
  | .fwWatchdog core => Sys2Proof.Machine.execFwWatchdog core s
  | .sqTail session value => Sys2Proof.Machine.execSqTail session value s
  | .cqHead session value => Sys2Proof.Machine.execCqHead session value s
  | .sessCtlEnable session value => Sys2Proof.Machine.execSessCtlEnable session value s
  | .sessCtlReset session value => Sys2Proof.Machine.execSessCtlReset session value s
  | .bar0RegisterWrite function offset value => Sys2Proof.Machine.execBar0RegisterWrite function offset value s
  | .commandFetch => Sys2Proof.Machine.execCommandFetch s
  | .commandDispatch => Sys2Proof.Machine.execCommandDispatch s
  | .coalescingTimer session => Sys2Proof.Machine.execCoalescingTimer session s
  | .functionLevelReset function => Sys2Proof.Machine.execFunctionLevelReset function s
  | .vfEnableChange enable numVfs => Sys2Proof.Machine.execVfEnableChange enable numVfs s
  | .resetN level testMode => Sys2Proof.Machine.execResetN level testMode s
  | .perstN => Sys2Proof.Machine.execPerstN s
  | .vstbyApplied => Sys2Proof.Machine.execVstbyApplied s
  | .mainRailsChange rails outOfOrder => Sys2Proof.Machine.execMainRailsChange rails outOfOrder s
  | .railExcursion rail reading => Sys2Proof.Machine.execRailExcursion rail reading s
  | .referenceLoss => Sys2Proof.Machine.execReferenceLoss s
  | .pllRelock => Sys2Proof.Machine.execPllRelock s
  | .sensorSample temps => Sys2Proof.Machine.execSensorSample temps s
  | .throttlePeriod power => Sys2Proof.Machine.execThrottlePeriod power s
  | .s1Ready ms => Sys2Proof.Machine.execS1Ready ms s
  | .bootFailure => Sys2Proof.Machine.execBootFailure s
  | .s2Complete good ms => Sys2Proof.Machine.execS2Complete good ms s
  | .s3Complete trained ms => Sys2Proof.Machine.execS3Complete trained ms s
  | .s4Complete ms => Sys2Proof.Machine.execS4Complete ms s
  | .stageBoundExpiry st => Sys2Proof.Machine.execStageBoundExpiry st s
  | .mctpLogInfo => Sys2Proof.Machine.execMctpLogInfo s
  | .mctpLogRead area first => Sys2Proof.Machine.execMctpLogRead area first s
  | .pldmFirmwareUpdate image => Sys2Proof.Machine.execPldmFirmwareUpdate image s
  | .pldmPlatformMonitoring => Sys2Proof.Machine.execPldmPlatformMonitoring s
  | .extest => Sys2Proof.Machine.execExtest s
  | .idcode => Sys2Proof.Machine.execIdcode s
  | .samplePreload values => Sys2Proof.Machine.execSamplePreload values s
  | .clamp => Sys2Proof.Machine.execClamp s
  | .highz => Sys2Proof.Machine.execHighz s
  | .bypass code => Sys2Proof.Machine.execBypass code s
  | .datumTick => Sys2Proof.Machine.execDatumTick s
  | .perstNRelease => Sys2Proof.Machine.execPerstNRelease s
  | .vstbyRemoved => Sys2Proof.Machine.execVstbyRemoved s
  | .hbmRefresh stack => Sys2Proof.Machine.execHbmRefresh stack s
  | .checkerLock rx => Sys2Proof.Machine.execCheckerLock rx s
  | .checkerLockLoss rx => Sys2Proof.Machine.execCheckerLockLoss rx s
  | .undefinedOpcode opcode p => Sys2Proof.Machine.execUndefinedOpcode opcode p s

end Sys2Proof.Machine
end

