-- ==== Sys2Proof/WellFormed.lean ====
section
/-! DEFINITION. Well-formed commands: every unit a command names exists, and every field lies in its width. -/
namespace Sys2Proof

/-- A packet of one of the 1,024 sessions; its flow is a byte (R368, R378). -/
def packetWf (p : Packet) : Bool := decide (p.session < 1024) && decide (p.flow < 256)

/-- The header fields of a codeword in their widths (R306), and at most two corrected symbols (R305). -/
def codewordWf (c : Codeword) : Bool :=
  decide (c.type < 16) && decide (c.vc < 4) && decide (c.stepTag < 4096) && decide (c.cyc < 16) && decide (c.pseq < 256) && decide (c.ack < 256)
    && decide (c.credit < 64) && decide (c.zero < 512) && decide (c.corr ≤ 2)

/-- The sideband fields of a network packet in their widths, and at most 512 bytes of data in eight flits of eight words (R353); at
most one error corrected in each word and each sideband (R358). -/
def netPacketWf (k : NetPacket) : Bool :=
  decide (k.vc < 4) && decide (k.dst < 1024) && decide (k.src < 1024) && decide (k.type < 16) && decide (k.tag < 4096)
    && decide (k.group < 64) && decide (k.addr < 2 ^ 36) && decide (k.data.length ≤ 512)
    && decide (k.ue < 2 ^ 64) && decide (k.fixed ≤ 72)

/-- A domain that exists (R361). -/
def domainWf (d : Domain) : Bool :=
  match d with
  | .parcel i => decide (i < 32)
  | .stack i => decide (i < 4)
  | .quad i => decide (i < 36)
  | .trace i => decide (i < 2)
  | .bridge i => decide (i < 8)

/-- A timed event of a run group that can exist (R116, R281). -/
def timedWf (e : TimedEvent) : Bool :=
  match e with
  | .runStart g => decide (g < 32)
  | .pauseBegin g => decide (g < 32)
  | .pauseEnd g => decide (g < 32)
  | .traceArm g => decide (g < 32)
  | .surveyAt g => decide (g < 32)

/-- The units of a command exist, and its operands lie in their ranges (R13, R18, R116, R350, R361, R368). -/
def Instr.wf (c : Instr) : Bool :=
  match c with
  | .stepExecute g => decide (g < 32)
  | .nop bp => decide (bp < 32768)
  | .lut4x bp _ _ _ _ _ => decide (bp < 32768)
  | .lut4p bp _ _ _ _ _ => decide (bp < 32768)
  | .lut2s bp _ _ _ _ _ => decide (bp < 32768)
  | .resolve bp _ _ _ _ _ => decide (bp < 32768)
  | .caseq bp _ _ _ => decide (bp < 32768)
  | .mux2x bp _ _ _ => decide (bp < 32768)
  | .latch bp _ _ _ _ => decide (bp < 32768)
  | .ffnext bp _ _ _ _ => decide (bp < 32768)
  | .portrd bp _ => decide (bp < 32768)
  | .portwr bp _ _ => decide (bp < 32768)
  | .tap bp _ _ => decide (bp < 32768)
  | .const bp _ => decide (bp < 32768)
  | .assert bp _ _ => decide (bp < 32768)
  | .stop bp _ _ => decide (bp < 32768)
  | .reservedOpcode bp _ => decide (bp < 32768)
  | .bankRead cl _ _ => decide (cl < 512)
  | .bankWrite cl _ _ => decide (cl < 512)
  | .bankWriteIfEnable cl _ _ => decide (cl < 512)
  | .hbmRead cl _ => decide (cl < 512)
  | .hbmWrite cl _ => decide (cl < 512)
  | .hbmWriteIfEnable cl _ => decide (cl < 512)
  | .insetReceive cl b => decide (cl < 512) && decide (b < 8)
  | .insetSend cl b => decide (cl < 512) && decide (b < 8)
  | .insetStatus cl b => decide (cl < 512) && decide (b < 8)
  | .probeShip cl => decide (cl < 512)
  | .portLoadLanding cl => decide (cl < 512)
  | .receiveSlotArrival cl slot => decide (cl < 512) && decide (slot < 256)
  | .cargoDelivery q slot => decide (q < 36) && decide (slot < 8)
  | .stagingQueueDrain cl => decide (cl < 512)
  | .hbmWriteAccept cl => decide (cl < 512)
  | .hbmDataArrival cl => decide (cl < 512)
  | .powerWindowEnd i => decide (i < 32)
  | .cycleBoundary g => decide (g < 32)
  | .autoTimeout e => decide (e < 2)
  | .mirrorCompare g => decide (g < 32)
  | .surveyCapture g => decide (g < 32)
  | .tableCopyDone g => decide (g < 32)
  | .timedEventDue e => timedWf e
  | .traceSampleStore e => decide (e < 2)
  | .assertionEventDrain e => decide (e < 2)
  | .dynamicSlotGrant cl _ => decide (cl < 512)
  | .eccWriteback cl => decide (cl < 512)
  | .backdoorGrantTimeout cl m => decide (cl < 512) && decide (m < 4)
  | .sessionNop p => packetWf p
  | .cmdCancel p => packetWf p
  | .sessionReset p => packetWf p
  | .identRead p => packetWf p
  | .identCert p => packetWf p
  | .identAttest p => packetWf p
  | .partNumberSet p => packetWf p
  | .regRead p => packetWf p
  | .datumNowRead => true
  | .regWrite p => packetWf p
  | .faultLatchedClear _ _ => true
  | .regCommit p => packetWf p
  | .datumPairApply => true
  | .imageLoad p => packetWf p
  | .imageFrames p => packetWf p
  | .imageStage p => packetWf p
  | .imageUnstage p => packetWf p
  | .imageUnload p => packetWf p
  | .keyLoad p => packetWf p
  | .keyClear p => packetWf p
  | .kekAgree p => packetWf p
  | .tableCommit p => packetWf p
  | .tablePokeActive p => packetWf p
  | .runAt p => packetWf p
  | .runStop p => packetWf p
  | .pauseAt p => packetWf p
  | .resumeAt p => packetWf p
  | .survey p => packetWf p
  | .surveyRestore p => packetWf p
  | .memRead p => packetWf p
  | .memWrite p => packetWf p
  | .memAtomic p => packetWf p
  | .hbmPartition p => packetWf p
  | .traceConfig p => packetWf p
  | .traceArm p => packetWf p
  | .traceForce p => packetWf p
  | .traceRead p => packetWf p
  | .traceRelease p => packetWf p
  | .datumRole p => packetWf p
  | .datumAdjust p => packetWf p
  | .datumOrigin p => packetWf p
  | .datumLinkCal p => packetWf p
  | .trigBind p => packetWf p
  | .trigPulse p => packetWf p
  | .trigOutEdge k => decide (k < 4)
  | .ppsOutEdge => true
  | .trigInEdge k _ _ => decide (k < 4)
  | .ppsInEdge _ => true
  | .ppsTimeout => true
  | .syncOriginate => true
  | .sync l cw => decide (l < 144) && codewordWf cw
  | .syncTimeout => true
  | .peerDelayExchange q => decide (q < 36)
  | .pdelayReq l cw => decide (l < 144) && codewordWf cw
  | .pdelayResp l cw => decide (l < 144) && codewordWf cw
  | .laneConfig p => packetWf p
  | .laneTrain p => packetWf p
  | .laneIdle p => packetWf p
  | .lanePattern p => packetWf p
  | .laneInject p => packetWf p
  | .fjJoin p => packetWf p
  | .joinTimeout g => decide (g < 32)
  | .codewordTransmit l => decide (l < 144)
  | .schedCodewordQueue l => decide (l < 144)
  | .sched l cw => decide (l < 144) && codewordWf cw
  | .pkt l cw => decide (l < 144) && codewordWf cw
  | .idle l cw => decide (l < 144) && codewordWf cw
  | .train l cw => decide (l < 144) && codewordWf cw
  | .codewordUncorrectable l => decide (l < 144)
  | .xoff r => decide (r.lane < 144) && codewordWf r.cw
  | .xon r => decide (r.lane < 144) && codewordWf r.cw
  | .resend l cw k => decide (l < 144) && codewordWf cw && decide (k < 8)
  | .stopCodeword l cw k => decide (l < 144) && codewordWf cw && decide (k < 8)
  | .nak l cw => decide (l < 144) && codewordWf cw
  | .join l cw k => decide (l < 144) && codewordWf cw && decide (k < 8)
  | .sleep r => decide (r.lane < 144) && codewordWf r.cw
  | .resendRetry l => decide (l < 144)
  | .replayTimeout l => decide (l < 144)
  | .laneLockLoss l => decide (l < 144)
  | .headerTimeout l => decide (l < 144)
  | .laneRetry l => decide (l < 144)
  | .laneTrainingDone l => decide (l < 144)
  | .trainingTimeout l => decide (l < 144)
  | .insetConfig p => packetWf p
  | .insetFlush p => packetWf p
  | .insetStamps p => packetWf p
  | .insetFrameArrival b _ => decide (b < 8)
  | .insetFrameReceived b _ => decide (b < 8)
  | .pauseFrame b _ mask quanta => decide (b < 8) && decide (mask < 256) && decide (quanta < 65536)
  | .pauseExpiry b prio => decide (b < 8) && decide (prio ≤ 8)
  | .pauseRepeat b => decide (b < 8)
  | .insetFrameMove b => decide (b < 8)
  | .insetOutboundComplete b => decide (b < 8)
  | .insetFrameDepart b => decide (b < 8)
  | .insetLinkUp b => decide (b < 8)
  | .insetLinkDown b => decide (b < 8)
  | .insetTrainingRetry b => decide (b < 8)
  | .lockAcquire p => packetWf p
  | .lockRelease p => packetWf p
  | .lockQuery p => packetWf p
  | .faultRead p => packetWf p
  | .faultClear p => packetWf p
  | .faultPinSet p => packetWf p
  | .faultNPulseEnd => true
  | .logRead p => packetWf p
  | .logInfo p => packetWf p
  | .logbookCommit => true
  | .parcelAssign p => packetWf p
  | .parcelRelease p => packetWf p
  | .parcelCap p => packetWf p
  | .parcelSleep p => packetWf p
  | .parcelAutoSleep i => decide (i < 32)
  | .pairSet p => packetWf p
  | .pairDivergeClear p => packetWf p
  | .pairResponse p => packetWf p
  | .powerSet p => packetWf p
  | .domainPowerDown d _ => domainWf d
  | .powerDownRetry d => domainWf d
  | .hbmSelfRefreshEntry k => decide (k < 4)
  | .domainWakeDone d => domainWf d
  | .parcelClearDone i => decide (i < 32)
  | .routerReconfiguration r _ => decide (r < 40)
  | .reconfigurationAbandon r => decide (r < 40)
  | .read k => netPacketWf k
  | .write k => netPacketWf k
  | .posted k => netPacketWf k
  | .atomic k => netPacketWf k
  | .message k => netPacketWf k
  | .hbmDesignRequest r => decide (r.stack < 4)
  | .readResponse k => netPacketWf k
  | .ack k => netPacketWf k
  | .hbmDesignReturn r => decide (r.cl < 512)
  | .errorResponse k => netPacketWf k
  | .time k => netPacketWf k
  | .wake k => netPacketWf k
  | .tagTimeout tag => decide (tag < 4096)
  | .fwInfo p => packetWf p
  | .fwWrite p => packetWf p
  | .fwSwitch p => packetWf p
  | .partReset p => packetWf p
  | .partSensors p => packetWf p
  | .hubReset cause => decide (cause ≤ 5)
  | .fwWatchdog core => decide (core < 9)
  | .sqTail i _ => decide (i < 1024)
  | .cqHead i _ => decide (i < 1024)
  | .sessCtlEnable i _ => decide (i < 1024)
  | .sessCtlReset i _ => decide (i < 1024)
  | .bar0RegisterWrite f _ v => decide (f < 64) && (decide (v.size = 4) || decide (v.size = 8))
  | .commandFetch => true
  | .commandDispatch => true
  | .coalescingTimer i => decide (i < 1024)
  | .functionLevelReset f => decide (f < 64)
  | .vfEnableChange _ n => decide (n < 64)
  | .resetN _ _ => true
  | .perstN => true
  | .vstbyApplied => true
  | .mainRailsChange _ bad => bad.all fun i => decide (i < 8)
  | .railExcursion i _ => decide (i < 8)
  | .referenceLoss => true
  | .pllRelock => true
  | .sensorSample temps => decide (temps.length = 40)
  | .throttlePeriod power => decide (power < 2 ^ 32)
  | .s1Ready ms => decide (ms < 65536)
  | .bootFailure => true
  | .s2Complete _ ms => decide (ms < 65536)
  | .s3Complete _ ms => decide (ms < 65536)
  | .s4Complete ms => decide (ms < 65536)
  | .stageBoundExpiry _ => true
  | .mctpLogInfo => true
  | .mctpLogRead area first => decide (area < 256) && decide (first < 2 ^ 64)
  | .pldmFirmwareUpdate image => decide (image.length ≤ 134217728)
  | .pldmPlatformMonitoring => true
  | .extest => true
  | .idcode => true
  | .samplePreload _ => true
  | .clamp => true
  | .highz => true
  | .bypass _ => true
  | .datumTick => true
  | .perstNRelease => true
  | .vstbyRemoved => true
  | .hbmRefresh k => decide (k < 4)
  | .checkerLock r => decide (r.lane < 144)
  | .checkerLockLoss r => decide (r.lane < 144)
  | .undefinedOpcode _ p => packetWf p

end Sys2Proof
end

