-- ==== Sys2Proof/Safety.lean ====
section
/-! DEFINITION. What the claims call canonical, well formed, and safe. -/
namespace Sys2Proof.Machine

/-- The three byte memories of a state are in canonical form. -/
def State.memoriesWf (s : State) : Bool := memWf s.bank && memWf s.hbm && memWf s.hostMem

/-- The tables of units, registers and state stores are in canonical form: what was last written to an entry is what it reads as. -/
def State.tablesWf (s : State) : Bool :=
  mwf V4.x s.cur && mwf V4.x s.stg && mwf false s.pend && mwf Cluster.init s.clusters && mwf RunGroup.init s.groups
    && mwf Parcel.init s.parcels && mwf Stack.init s.hbmStacks && mwf KeySlot.init s.keys && mwf Quad.init s.quads
    && mwf Lane.init s.lanes && mwf Bridge.init s.bridges && mwf Engine.init s.engines && mwf Session.init s.sessions
    && mwf none s.faults.recs && mwf 0 s.faults.cnt && mwf 0 s.faults.live

/-- What every state of a run holds to: the memories and the tables are in canonical form, and the logbook controller's queue has room
for no more than 64 records (R436). -/
def State.Inv (s : State) : Prop := s.memoriesWf = true ∧ s.tablesWf = true ∧ s.log.queue.length ≤ 64

/-- A step that goes on: no fault and no refusal. -/
def goesOn (o : Host.Outcome State Fault Refusal) : Prop := ∃ t, o = .next t

-- the vocabulary of the statements

/-- A host command executes and passes the checks that come before its own (R381, R386, R397): the hub runs, a worker takes the command, the
packet is well formed, its parameters are in order, it is no zero-length command, and the service phase admits it. -/
def Accepted (opcode : Nat) (p : Packet) (s : State) (bad : Option Nat) (zero : Bool) : Prop :=
  s.hubUp = true ∧ s.gate opcode p = .run ∧ packetBad s p = none ∧ bad = none ∧ zero = false ∧ (s.phase = 0 → bootAllowed opcode = true)

/-- A domain takes packets: it is awake and not isolated, and no clearing, wake or power-down of it is under way (R229, R362, R363). -/
def State.Takes (s : State) (d : Domain) : Prop := s.unready d = false ∧ s.isDown d = false

/-- A state `t` has sent session `i` one reply more than `s`, with a status and a detail. Where the session is in service, has no head
write-back and its next ring entry can be written, that entry holds the reply (R376, R380). -/
def State.Answered (s t : State) (i status detail : Nat) : Prop :=
  let v := s.sess i
  let at_ := v.cqBase.toNat + 32 * v.cqTail
  v.state ≠ .resetting → (v.ringed = true → v.cqFull = false) → ∃ r : Reply,
    t.sent.replies = s.sent.replies ++ [(i, r)] ∧ r.status = status ∧ r.detail = detail
      ∧ (v.state = .enabled → v.wbEn = false → s.memoriesWf = true → s.hostFails at_ = false → memBytes t.hostMem at_ 32 = replyBytes r)

/-- Every store, table, slot and fence of a cluster is clear, and so is its bank: no entry is held, and while the parcel is not LOADED the
stores and slots read as zero (R214, R229). -/
def State.ClusterClear (s : State) (c : Nat) : Prop :=
  (∀ k : Nat, k / 262144 = c → mget 0 k s.istore = 0 ∧ mget V4.x k s.values = .x)
    ∧ (∀ k : Nat, k / 65536 = c → mget V4.x k s.cur = .x ∧ mget V4.x k s.stg = .x ∧ mget false k s.pend = false)
    ∧ (∀ k : Nat, k / 64 = c → mget V4.x k s.result = .x) ∧ (∀ k : Nat, k / 256 = c → mget RSlot.init k s.slots = RSlot.init)
    ∧ (∀ k : Nat, k / 4096 = c → mget 0 k s.ptable = 0 ∧ mget false k s.busyMap = false ∧ mget 0 k s.sendAct = 0 ∧ mget 0 k s.sendShd = 0)
    ∧ (∀ k : Nat, k / 2048 = c → mget V4.x k s.fences = .x)
    ∧ (∀ w : Nat, w < 65536 → s.bankWord c w = 0) ∧ s.cluster c = Cluster.init
    ∧ (s.live (clParcel c) = false → (∀ bp e : Nat, bp / 64 = c → s.valueAt bp e = .zero ∧ s.stgAt bp e = .zero ∧ s.resultAt bp = .zero)
      ∧ ∀ r : Nat, s.slotAt c r = { val := .zero, written := false, step := 0 })

/-- A BP can read every operand of a list in the step: no selector is reserved, and no read meets a stale slot or an error (R35, R52,
R53, R100). -/
def Readable (s : State) (bp : Nat) (cycle : Word) (ws : List (BitVec 13)) : Prop :=
  ∀ w ∈ ws, selOf w ≠ .reserved ∧ (s.operand bp cycle w).2 = []

/-- The value of an operand. -/
def State.val (s : State) (bp : Nat) (cycle : Word) (w : BitVec 13) : V4 := (s.operand bp cycle w).1

/-- The result of an instruction at step `step` is in its value store entry and in the result register (R37). -/
def State.wrote (s : State) (bp step : Nat) (v : V4) : State := (s.setValue bp step v).setResult bp v

/-- The BP's run group is at a step, and the code word that takes the result is clean. -/
def AtStep (s : State) (bp g : Nat) (r : RunGroup) : Prop :=
  bp < 32768 ∧ s.runningAt (bpCluster bp) = some (g, r) ∧ s.eccAt 1 (bp * 512 + r.step / 8) = 0

/-- How often a fault code has been raised (R419). -/
def State.faultCount (s : State) (code : Nat) : Nat := mget 0 (faultCodes.idxOf code) s.faults.cnt

/-- A run group is the only one, its next step executes, and nothing is on its way to it but flights: no load lands, no check waits, no
cargo comes, and what it has fetched is clean. No count of a fault is about to saturate. -/
def State.Quiet (s : State) (g : Nat) : Prop :=
  let r := s.group g
  g < 32 ∧ s.runGroups = [g] ∧ r.parcels ≠ [] ∧ r.parcels.Nodup ∧ r.state = .running ∧ r.step < r.n ∧ r.n ≤ 4096 ∧ r.halting = none
    ∧ r.fetchBad = [] ∧ r.moved = false ∧ s.boot.sheetsHeld = false ∧ s.gatedNext g = false ∧ s.cargoQuads g = [] ∧ s.Inv
    ∧ mwf V4.x s.values = true ∧ mwf V4.x s.result = true
    ∧ (∀ p ∈ r.parcels, p < 32 ∧ (s.parcel p).rg = some g ∧ (s.parcel p).load = .loaded)
    ∧ (∀ c ∈ r.clusters, (s.cluster c).landings = [] ∧ (s.cluster c).checks = [])
    ∧ ∀ code : Nat, s.faultCount code + 1 < 2 ^ 48

end Sys2Proof.Machine
end

