-- ==== Sys2Proof/Certificates/Slice0/Obligations.lean ====
section
/-! DEFINITION. The statements for the provers, chapter by chapter of the spec. -/

open Sys2Proof Sys2Proof.Machine

-- the queue and the whole block

/-- The block takes the command at the front of its queue and runs it on the state with the queue's rest; on an empty queue it idles
(the model's choice, log entry 1). -/
def Obligations.StepRunsFront : Prop :=
  (∀ (c : Instr) (rest : List Instr) (s : State), step { s with pending := c :: rest } = exec c { s with pending := rest })
    ∧ ∀ s : State, s.pending = [] → step s = .next s

/-- A command whose units exist and whose operands lie in their ranges never faults and is never refused: the block goes on from every
state. -/
def Obligations.WellFormedCommandsGoOn : Prop :=
  ∀ (c : Instr) (s : State), c.wf = true → goesOn (exec c s)

/-- Every step keeps the canonical form of the three byte memories and of the tables of units, and the bound of the logbook controller's
queue (R436). -/
def Obligations.StepKeepsInv : Prop :=
  ∀ s t : State, s.Inv → step s = .next t → t.Inv

/-- The state after reset meets the invariant. -/
def Obligations.ResetMeetsInv : Prop := State.reset.Inv

/-- No step lowers the rollback floor (R411). -/
def Obligations.FloorNeverFalls : Prop :=
  ∀ s t : State, step s = .next t → s.flash.floor ≤ t.flash.floor

/-- No step changes the grade of the part or the parcels that failed factory test, and with them what LEGEND reports as PARCELS (R2, R3,
R442). -/
def Obligations.GradeNeverChanges : Prop :=
  ∀ s t : State, step s = .next t → t.grade = s.grade ∧ t.factory = s.factory ∧ bitsOf t.legend 34 6 = bitsOf s.legend 34 6

-- Boolean processors

/-- LUT4X is exact (R46): its result is the value that the table gives for every completion of the unknown inputs, and X where the table
gives both; it is never Z. A completion sets every input that is X or Z to 0 or to 1 and keeps the others. -/
def Obligations.Lut4xExact : Prop :=
  ∀ (tt : BitVec 16) (a b c d : V4),
    let completes (v : V4) (x : Bool) : Prop := v = v4b x ∨ known v = false
    let row (x y z w : Bool) : Bool := tt.getLsbD (ttIndex x y z w)
    let gives (r : Bool) : Prop := ∀ x y z w, completes a x → completes b y → completes c z → completes d w → row x y z w = r
    (∀ r : Bool, lut4x tt a b c d = v4b r ↔ gives r)
    ∧ (lut4x tt a b c d = .x ↔ ¬gives false ∧ ¬gives true) ∧ lut4x tt a b c d ≠ .z

/-- The instructions that write a result and nothing else (R46, R56, R58 to R60, R64, R68): LUT4X, LUT4P, LUT2S, RESOLVE, CASEQ, MUX2X,
PORTRD and CONST. Each ends in the state whose value store entry of the step and whose result register hold the result, everything else
unchanged; LUT4X and MUX2X also count one heavy unit (R47). -/
def Obligations.BpResults : Prop :=
  ∀ (s : State) (bp g : Nat) (r : RunGroup) (tt : BitVec 16) (a b c d : BitVec 13), AtStep s bp g r →
    let v := s.val bp r.cycle
    let port := (s.cluster (bpCluster bp)).port
    (Readable s bp r.cycle [a, b, c, d] →
      exec (.lut4x bp tt a b c d) s
        = .next ((s.wrote bp r.step (lut4x tt (v a) (v b) (v c) (v d))).countHeavy (bpParcel bp) 1)
      ∧ exec (.lut4p bp tt a b c d) s = .next (s.wrote bp r.step (lut4p tt (v a) (v b) (v c) (v d)))
      ∧ exec (.lut2s bp tt a b c d) s = .next (s.wrote bp r.step (lut2s tt (v a) (v b) (v c) (v d)))
      ∧ (bitsOf tt.toNat 0 3 < 6 → exec (.resolve bp tt a b c d) s
        = .next (s.wrote bp r.step
            (resolve (bitsOf tt.toNat 0 3) (tt.getLsbD 3) (v a) (v b) (v c) (v d) (s.valueAt bp r.step)))))
    ∧ (Readable s bp r.cycle [a, b] →
      exec (.caseq bp tt a b) s = .next (s.wrote bp r.step (v4b (decide (v a = v b) != tt.getLsbD 0))))
    ∧ (Readable s bp r.cycle [a, b, c] →
      exec (.mux2x bp a b c) s = .next ((s.wrote bp r.step (mux2x true (v a) (v b) (v c))).countHeavy (bpParcel bp) 1))
    ∧ (tt.getLsbD 7 = false → bitsOf tt.toNat 0 7 < 72 →
      exec (.portrd bp tt) s = .next (s.wrote bp r.step (latchBit port (bitsOf tt.toNat 0 7))))
    ∧ (tt.getLsbD 7 = true → bitsOf tt.toNat 0 6 < 36 →
      exec (.portrd bp tt) s = .next (s.wrote bp r.step (latchPair port (bitsOf tt.toNat 0 6))))
    ∧ exec (.const bp tt) s = .next (s.wrote bp r.step (v4of (bitsOf tt.toNat 0 2)))

/-- LATCH and FFNEXT (R65, R66). LATCH stores its data in the current copy of its entry where its enable is 1, nothing where it is 0, and X
under an unknown enable unless the data equals what the entry holds. FFNEXT without an enable reads no b; it stages its data and sets the
pending flag, under an enable of 0 stages nothing, and under an unknown one the merge of the data with what the entry would take. The
result is the current value for LATCH, the next value for FFNEXT. The code words of the entry are clean. Everything else is unchanged. -/
def Obligations.BpStateWrites : Prop :=
  ∀ (s : State) (bp g : Nat) (r : RunGroup) (tt : BitVec 16) (a b d : BitVec 13) (j : Nat), AtStep s bp g r →
    selOf d = .state j →
    let v := s.val bp r.cycle
    let latchOn := if tt.getLsbD 0 then v4not (lg (v b)) else lg (v b)
    let ffOn := if tt.getLsbD 0 then (if tt.getLsbD 1 then v4not (lg (v b)) else lg (v b)) else .one
    let base := if s.pendAt bp j then s.stgAt bp j else v d
    (Readable s bp r.cycle [a, b, d] →
      (latchOn = .one → exec (.latch bp tt a b d) s = .next ((s.setCur bp j (v a)).wrote bp r.step (v a)))
      ∧ (latchOn = .zero → exec (.latch bp tt a b d) s = .next (s.wrote bp r.step (v d)))
      ∧ (latchOn = .x → v a = v d → exec (.latch bp tt a b d) s = .next (s.wrote bp r.step (v d)))
      ∧ (latchOn = .x → v a ≠ v d → exec (.latch bp tt a b d) s = .next ((s.setCur bp j .x).wrote bp r.step .x)))
    ∧ (Readable s bp r.cycle (if tt.getLsbD 0 then [a, b, d] else [a, d]) → s.eccAt 8 (bp * 128 + j / 8) = 0 →
      (ffOn = .one → exec (.ffnext bp tt a b d) s = .next ((s.setStaged bp j (v a)).wrote bp r.step (v a)))
      ∧ (ffOn = .zero → exec (.ffnext bp tt a b d) s = .next (s.wrote bp r.step base))
      ∧ (ffOn = .x → exec (.ffnext bp tt a b d) s
          = .next ((s.setStaged bp j (merge (v a) base)).wrote bp r.step (merge (v a) base))))

/-- PORTWR, TAP, ASSERT and STOP (R70 to R73): each writes its operand, ASSERT and STOP its logic reading, as the result, and acts
besides: on the write side of the port, on the probe register, as an event in the cluster's assertion FIFO, as a stop request of the
run group; an unknown STOP without tt[0] asks for none. An ASSERT marks the matchers of the engine that watches it (R266), and one that finds
its FIFO of 16 full is dropped with QUEUE_OVF.
NOP writes X to the result register only (R40). A word with a reserved opcode (RESERVED_OPCODE), or with a reserved selector, port
position or kind in an operand that is read, writes X as the result and raises ILLEGAL_OP, with no other effect (R35, R74). The access
code that its record takes (R425) is the model's reading, log entry 9. -/
def Obligations.BpActions : Prop :=
  (∀ (s : State) (bp g : Nat) (r : RunGroup) (tt : BitVec 16) (a : BitVec 13), AtStep s bp g r → Readable s bp r.cycle [a] →
    let c := bpCluster bp
    let v := s.val bp r.cycle a
    (tt.getLsbD 7 = false → bitsOf tt.toNat 0 7 < 106 → exec (.portwr bp tt a) s
      = .next ((s.wrote bp r.step v).updCluster c fun k => { k with port := portWrite k.port false (bitsOf tt.toNat 0 7) v }))
    ∧ (tt.getLsbD 7 = true → bitsOf tt.toNat 0 6 < 36 → exec (.portwr bp tt a) s
      = .next ((s.wrote bp r.step v).updCluster c fun k => { k with port := portWrite k.port true (bitsOf tt.toNat 0 6) v }))
    ∧ exec (.tap bp tt a) s
      = .next ((s.wrote bp r.step v).updCluster c fun k =>
          { k with port := { k.port with probe := mset .x (bitsOf tt.toNat 0 6) v k.port.probe } })
    ∧ (lg v = .zero → exec (.assert bp tt a) s = .next (s.wrote bp r.step .zero))
    ∧ (lg v ≠ .zero → (s.cluster c).asserts.length < 16 → s.watcher c = none → exec (.assert bp tt a) s
      = .next ((s.wrote bp r.step (lg v)).updCluster c fun k =>
          { k with asserts := k.asserts ++ [{ cycle := r.cycle, step := r.step, id := bitsOf tt.toNat 0 10
                                              isX := decide (lg v = .x), bp := bp % 64 }] }))
    ∧ (lg v ≠ .zero →
      let ms := match s.watcher c with | some e => e.matchers | none => []
      let marks := markMatches ms (bitsOf tt.toNat 0 10) (decide (lg v = .x)) r.step (s.cluster c).matched
      ((s.cluster c).asserts.length < 16 → exec (.assert bp tt a) s
        = .next ((s.wrote bp r.step (lg v)).updCluster c fun k =>
            { k with matched := marks, asserts := k.asserts ++ [{ cycle := r.cycle, step := r.step, id := bitsOf tt.toNat 0 10
                                                                  isX := decide (lg v = .x), bp := bp % 64 }] }))
      ∧ (16 ≤ (s.cluster c).asserts.length → exec (.assert bp tt a) s
        = .next (((s.wrote bp r.step (lg v)).updCluster c fun k => { k with matched := marks }).raiseAll
            [bpFault 0x1004 5 bp r.step r.cycle (fieldAt 28 4 + fieldAt 32 4)])))
    ∧ ((lg v = .one ∨ (tt.getLsbD 0 = true ∧ lg v = .x)) →
        exec (.stop bp tt a) s = .next ((s.wrote bp r.step (lg v)).stopDue g 1 r.cycle))
    ∧ (lg v = .zero → exec (.stop bp tt a) s = .next (s.wrote bp r.step .zero))
    ∧ (tt.getLsbD 0 = false → lg v = .x → exec (.stop bp tt a) s = .next (s.wrote bp r.step .x)))
  ∧ (∀ (s : State) (bp g : Nat) (r : RunGroup), AtStep s bp g r →
    exec (.nop bp) s = .next (s.setResult bp .x)
    ∧ ∀ (w : BitVec 72) (acc : Nat), (insOf w).illegal = some acc →
      exec (.reservedOpcode bp w) s
        = .next ((s.wrote bp r.step .x).raiseAll [bpFault 0x1007 acc bp r.step r.cycle 0])
      ∧ (w.extractLsb' 68 4 = 15 → (insOf w).illegal = some 4))


-- the cluster port

/-- BANK_READ, BANK_WRITE and BANK_WRITE_IF_ENABLE (R76 to R79): the word address of slot A adds register X, that of slot B register Y,
where the index bit is set, modulo 65,536. A read lands its data 6 steps later for slot A and 7 for slot B, known; the check of a
marked word falls one executed step later for slot A and two for slot B (R168), and an uncorrectable word lands unknown (R171). A
write stores staging bits 63 to 0; under the enable nothing for 0, and all ones for X. An unknown address lands unknown and writes
nothing. Each counts two heavy units (R141), and a write that writes enters the mirror signature (R248). -/
def Obligations.BankSlots : Prop :=
  ∀ (s : State) (c g : Nat) (r : RunGroup) (slot : Slot) (ad : PortAddr), c < 512 → s.runningAt c = some (g, r) →
    let p := (s.cluster c).port
    let reg := match slot with | .a => p.x | .b => p.y
    let flags := match slot with | .a => p.xu | .b => p.yu
    let land := match slot with | .a => r.step + 6 | .b => r.step + 7
    let tag : Byte := match slot with | .a => 0xA0 | .b => 0xB0
    let wrote (w : Nat) (d : Word) : State :=
      ((((s.bankStore c w d).abandonAtomic c slot w).countHeavy (clParcel c) 2).sign c
        (tag :: leBytes 2 w ++ leBytes 8 d.toNat))
    (∀ w : Nat, (ad.idx = false ∧ w = ad.addr.toNat ∨ ad.idx = true ∧ flags = 0 ∧ w = (ad.addr.toNat + reg.toNat) % 65536) →
      (s.eccAt 6 (c * 65536 + w) = 0 → exec (.bankRead c slot ad) s
        = .next ((s.addLanding c { step := land, hbm := false, data := (s.bankWord c w).setWidth 72, known := true, ready := true
            }).countHeavy (clParcel c) 2))
      ∧ (s.eccAt 6 (c * 65536 + w) ≠ 0 →
        let mark := s.eccAt 6 (c * 65536 + w)
        exec (.bankRead c slot ad) s
          = .next (((s.addLanding c { step := land, hbm := false, data := if 2 ≤ mark then 0 else (s.bankWord c w).setWidth 72
                                      known := decide (mark < 2), ready := true }).updCluster c fun v =>
              { v with checks := v.checks ++ [{ wait := land - r.step - 5, word := w, mark := mark }] }).countHeavy (clParcel c) 2))
      ∧ exec (.bankWrite c slot ad) s = .next (wrote w (p.staging.setWidth 64))
      ∧ (p.bankWen = .one → exec (.bankWriteIfEnable c slot ad) s = .next (wrote w (p.staging.setWidth 64)))
      ∧ (p.bankWen = .zero → exec (.bankWriteIfEnable c slot ad) s = .next (s.countHeavy (clParcel c) 2))
      ∧ (p.bankWen = .x → exec (.bankWriteIfEnable c slot ad) s = .next (wrote w (BitVec.allOnes 64))))
    ∧ (ad.idx = true → flags ≠ 0 →
      exec (.bankRead c slot ad) s = .next ((s.addLanding c
          { step := land, hbm := false, data := 0, known := false, ready := true }).countHeavy (clParcel c) 2)
      ∧ exec (.bankWrite c slot ad) s = .next (s.countHeavy (clParcel c) 2)
      ∧ exec (.bankWriteIfEnable c slot ad) s = .next (s.countHeavy (clParcel c) 2))

/-- The banks as memory (R5, R166): a word that has been stored reads back, whatever it was; every byte outside its eight is
unchanged, and so is every other word of every bank. -/
def Obligations.BankStoreReadsBack : Prop :=
  ∀ (s : State) (c w : Nat) (d : Word), s.memoriesWf = true → w < 65536 →
    let t := s.bankStore c w d
    t.bankWord c w = d ∧ t.memoriesWf = true
    ∧ (∀ a : Nat, (a < bankAddr c w ∨ bankAddr c w + 8 ≤ a) → memGet a t.bank = memGet a s.bank)
    ∧ ∀ c' w' : Nat, w' < 65536 → (c' ≠ c ∨ w' ≠ w) → t.bankWord c' w' = s.bankWord c' w'

/-- HBM_READ, HBM_WRITE and HBM_WRITE_IF_ENABLE (R76, R78, R79, R83, R154, R183): the offset adds {Y, X} where the index bit is set and
wraps within the window. A request with room takes an entry of the HBM request queue, a write one of the staging queue too, whatever its
enable; a read lands H steps later. An unknown offset reads unknown and writes nothing. A full queue drops the request with QUEUE_OVF, a
dropped read landing unknown. Each counts four heavy units (R141).
INSET_RECEIVE, INSET_SEND and INSET_STATUS (R79, R83 to R85): a receive lands the next word of the inbound queue four steps later,
all zero with valid 0 where the queue is empty; a send enters the staging queue unless its valid bit is 0 or the queue of 8 is full; a
status word lands in the next step. In MIRRORED and DIFFERENTIAL pairing East reaches the replica of the bridge (R245). -/
def Obligations.HbmAndInsetPort : Prop :=
  (∀ (s : State) (c g : Nat) (r : RunGroup) (ad : PortAddr), c < 512 → s.runningAt c = some (g, r) →
    let v := s.cluster c
    let p := v.port
    v.winSide < 2 →
    let off : Option Nat :=
      if ad.idx = false then some ad.addr.toNat
      else if p.xu = 0 ∧ p.yu = 0 then some (ad.addr.toNat + p.y.toNat * 65536 + p.x.toNat) else none
    let req (wr : Bool) (data : Option Word) : HbmReq :=
      { cycle := r.cycle, step := r.step, isWrite := wr, stack := 2 * (c / 256) + v.winSide
        word := off.map fun o => v.winBase + o % 2 ^ v.winLog, wdata := data, sent := !wr, applied := false, rdata := none
        back := false }
    let land := r.step + s.budgetOf c
    let sigOf (data : Option Word) : List Byte := match off, data with
      | some o, some d => (0xC0 : Byte) :: leBytes 5 (o % 2 ^ v.winLog) ++ leBytes 8 d.toNat
      | _, _ => []
    let written (data : Option Word) : State :=
      ((s.setCluster c { v with reqs := v.reqs ++ [req true data], staged := v.staged ++ [.hbm r.cycle r.step] }).countHeavy
        (clParcel c) 4).sign c (sigOf data)
    let word : Word := p.staging.setWidth 64
    (s.rowPairUse c < s.rowPairShare c → exec (.hbmRead c ad) s
      = .next (((s.setCluster c { v with reqs := v.reqs ++ [req false none] }).addLanding c
          { step := land, hbm := true, data := 0, known := false, ready := off.isNone }).countHeavy (clParcel c) 4))
    ∧ (s.rowPairShare c ≤ s.rowPairUse c → exec (.hbmRead c ad) s
      = .next (((s.addLanding c { step := land, hbm := false, data := 0, known := false, ready := true }).countHeavy
          (clParcel c) 4).raiseAll [portFault 0x1004 5 c r.step r.cycle 4 1]))
    ∧ (s.rowPairUse c < s.rowPairShare c → v.staged.length < 8 →
        exec (.hbmWrite c ad) s = .next (written (off.map fun _ => word))
        ∧ (p.hbmWen = .one → exec (.hbmWriteIfEnable c ad) s = .next (written (off.map fun _ => word)))
        ∧ (p.hbmWen = .zero → exec (.hbmWriteIfEnable c ad) s = .next (written none))
        ∧ (p.hbmWen = .x → exec (.hbmWriteIfEnable c ad) s = .next (written (off.map fun _ => BitVec.allOnes 64))))
    ∧ (s.rowPairUse c < s.rowPairShare c → 8 ≤ v.staged.length → exec (.hbmWrite c ad) s
      = .next (((s.countHeavy (clParcel c) 4).sign c (sigOf (off.map fun _ => word))).raiseAll
          [portFault 0x1004 5 c r.step r.cycle 4 0])))
  ∧ (∀ (s : State) (c g : Nat) (r : RunGroup) (b : Nat), c < 512 → b < 8 → s.runningAt c = some (g, r) →
    let v := s.cluster c
    let p := v.port
    let k := if 2 ≤ s.boot.pairMode ∧ 256 ≤ c then b % 4 + 4 else b
    let q := s.bridge k
    let load (step : Nat) (w : BitVec 72) : Landing := { step := step, hbm := false, data := w, known := true, ready := true }
    (q.rxQ = [] → exec (.insetReceive c b) s = .next ((s.setBridge k q).addLanding c (load (r.step + 4) 0)))
    ∧ (∀ (f : BFrame) (rest : List BFrame), q.rxQ = f :: rest → q.rg = some g → 0 < q.rxPos → q.rxPos + 8 < f.bytes.length →
        exec (.insetReceive c b) s
          = .next ((s.setBridge k { q with rxPos := q.rxPos + 8 }).addLanding c (load (r.step + 4) (insetWord f q.rxPos))))
    ∧ (p.staging.getLsbD 64 = false → exec (.insetSend c b) s = .next s)
    ∧ (p.staging.getLsbD 64 = true → v.staged.length < 8 → exec (.insetSend c b) s
        = .next ((s.setCluster c { v with staged := v.staged ++ [.inset k p.staging r.cycle r.step] }).sign c
            (0xD0 :: leBytes 9 p.staging.toNat)))
    ∧ (s.boot.pairMode < 2 → exec (.insetStatus c b) s
        = .next (s.addLanding c (load (r.step + 1)
            (BitVec.ofNat 72 (q.rxQ.length + (16 - q.txUse) * 2 ^ 8 + (if q.link = .up then 2 ^ 16 else 0)))))))

/-- PROBE_SHIP, PORT_LOAD_LANDING, RECEIVE_SLOT_ARRIVAL and CARGO_DELIVERY (R71, R79, R83, R99, R104, R107, R254, R259). A ship sets the
compare latch, and enters the trace tap FIFO of 32 samples while the engine that watches the cluster listens; with no such engine it is
discarded. A load that lands replaces the latch. One arrival writes its value with the step's tag. A codeword that has come delivers 36
values; so does, all X, a cycle before the lag. -/
def Obligations.ShipsAndArrivals : Prop :=
  ∀ (s : State) (c g : Nat) (r : RunGroup), c < 512 → s.runningAt c = some (g, r) →
    let v := s.cluster c
    (s.watcher c = none → exec (.probeShip c) s = .next s)
    ∧ (∀ e : Engine, s.watcher c = some e →
        ((e.state = .armed ∨ e.state = .filling) → v.taps.length < 32 → exec (.probeShip c) s
          = .next (s.setCluster c { v with compare := v.port.probe
                                           taps := v.taps ++ [{ cycle := r.cycle, nth := e.cycles, probe := v.port.probe }] }))
        ∧ ((e.state = .armed ∨ e.state = .filling) → 32 ≤ v.taps.length → exec (.probeShip c) s
          = .next ((s.setCluster c { v with compare := v.port.probe }).raiseAll [portFault 0x1004 5 c r.step r.cycle 4 3])))
    ∧ (∀ l : Landing, v.landings = [l] → l.step = r.step → l.ready = true → v.reqs = [] →
        exec (.portLoadLanding c) s
          = .next (s.setCluster c { v with port := { v.port with latch := l.data
                                                                 lstate := if l.known then .known else .unknown }
                                           landings := [] }))
    ∧ (∀ (f : Flight) (k : Nat), k < 256 → (s.group g).flights = [f] → f.at f.dist = c → f.slot = k → f.age + 1 = f.latency → r.moved = false →
        f.mesh = true → s.arrOpp ≠ s.nextOpp g → (s.parcel (clParcel c)).rg = some g → s.ownerOf (clParcel c) = some f.owner → s.live (clParcel c) = true →
        exec (.receiveSlotArrival c k) s
          = .next (State.setSlot { s.setGroup g { r with flights := [] } with
                arrOpp := s.nextOpp g, arrSlots := [c * 256 + k], arrDrops := [] } c k { val := f.val, written := true, step := r.step }))
    ∧ ∀ (q k : Nat) (d : CargoIn) (w : BitVec 72), q < 36 → k < 8 → (s.quad q).rg = some g →
        r.badWord 4 (q * 32768 + 8 * r.step + k) = false → s.arrOpp ≠ s.nextOpp g →
        (s.cargoDue r q k r.step = .here d w ∨ s.cargoDue r q k r.step = .early d ∧ w = BitVec.allOnes 72) → d.base ≤ 220 →
        exec (.cargoDelivery q k) s
          = .next (forEach (List.range 36) (fun i t => t.setSlot d.cl (d.base + i)
              { val := v4of (bitsOf w.toNat (2 * i) 2), written := true, step := r.step }) s)

-- the HBM path, steps and boundaries

/-- The path of HBM requests and inset words (R83, R154, R182, R184, R185, R189, R342, R351): the staging queue hands over its head; the
controller of a stack applies the request with the lowest stamp, one that has come, a write storing its word, uncorrectable where its data
word came so (R358), and a read taking it; a sleeping stack wakes first (R186); read
data returns to the cluster, one whose sideband is lost unknown and with HBM_UE (R358), and makes its landing ready; an applied write is
accepted and frees its entry; a refresh is counted, but not in a stack that sleeps or is not trained. -/
def Obligations.HbmPath : Prop :=
  ∀ (s : State) (c : Nat), c < 512 →
    let v := s.cluster c
    (∀ (cyc : Word) (st : Nat) (rest : List Staged) (pre post : List HbmReq) (q : HbmReq), v.staged = .hbm cyc st :: rest →
        v.reqs = pre ++ q :: post → q.isWrite = true → q.cycle = cyc → q.step = st →
        (∀ x ∈ pre, ¬(x.isWrite = true ∧ x.cycle = cyc ∧ x.step = st)) →
        exec (.stagingQueueDrain c) s = .next (s.setCluster c
          { v with staged := rest, drained := true, reqs := pre ++ { q with sent := true } :: post }))
    ∧ (∀ (b : Nat) (w : BitVec 72) (cyc : Word) (st : Nat) (rest : List Staged), v.staged = .inset b w cyc st :: rest →
        (s.bridge b).rg.isSome = true → (s.bridge b).rg = s.rgOfCluster c → (assembleWord (s.bridge b) w cyc st).2 = false →
        exec (.stagingQueueDrain c) s = .next ((s.setCluster c { v with staged := rest, drained := true }).setBridge b
          (assembleWord (s.bridge b) w cyc st).1))
    ∧ (∀ (k g : Nat) (pre post : List HbmReq) (q : HbmReq) (rest : List (Nat × HbmReq)) (w : Nat), k < 4 → s.runGroups = [g] →
        sortBy (stampRank (s.group g).n) (s.hbmQueue g k) = (c, q) :: rest → q.sent = true →
        s.unready (.stack k) = false → s.isDown (.stack k) = false →
        q.stack = k → q.word = some w → v.reqs = pre ++ q :: post → q ∉ pre → ∀ fixed : Nat,
        let u := s.countFlits fixed false
        let req : Instr := .hbmDesignRequest { stack := k, fixed := fixed }
        (∀ d : Word, q.isWrite = true → q.wdata = some d → exec req s
            = .next ((u.hbmStore k w d).setCluster c { v with reqs := pre ++ { q with applied := true, rdata := none } :: post })
          ∧ ∃ t, exec (.hbmDesignRequest { stack := k, fixed := fixed, ue := true }) s = .next t ∧ t.eccAt 9 (k * 2 ^ 33 + w) = 2
            ∧ t.net.ueData = satAdd 16 s.net.ueData 1)
        ∧ (q.isWrite = true → q.wdata = none → exec req s
          = .next (u.setCluster c { v with reqs := pre ++ { q with applied := true, rdata := none } :: post }))
        ∧ (q.isWrite = false → s.eccAt 9 (k * 2 ^ 33 + w) = 0 → exec req s
          = .next (u.setCluster c
              { v with reqs := pre ++ { q with applied := true, rdata := some (s.hbmWord k w) } :: post })))
    ∧ (∀ (k g : Nat) (q : HbmReq) (rest : List (Nat × HbmReq)), k < 4 → s.runGroups = [g] →
        sortBy (stampRank (s.group g).n) (s.hbmQueue g k) = (c, q) :: rest → q.sent = true → (s.stack k).asleep = true →
        .stack k ∉ s.net.waking → s.isDown (.stack k) = false → .stack k ∉ s.net.isolated → exec (.hbmDesignRequest { stack := k }) s
          = .next (s.setNet { s.net with wakes := satAdd 32 s.net.wakes 1, waking := s.net.waking ++ [.stack k] }))
    ∧ (∀ (pre post : List HbmReq) (q : HbmReq), v.reqs = pre ++ q :: post →
        (q.isWrite = false → q.applied = true → q.back = false → (∀ x ∈ pre, x.isWrite = true ∨ x.applied = false ∨ x.back = true) →
          exec (.hbmDesignReturn { cl := c, lost := false }) s
            = .next ((s.setCluster c { v with reqs := pre ++ { q with back := true } :: post }).countFlits 0 false)
          ∧ exec (.hbmDesignReturn { cl := c, lost := true }) s
            = .next (((s.setCluster c { v with reqs := pre ++ { q with back := true, rdata := none } :: post }).setNet
                { s.net with ueSide := satAdd 16 s.net.ueSide 1 }).raise
                  (hbmFault 0x2004 (clParcel c) 5 (designMaster c) q.stack (q.word.getD 0) q.cycle)))
        ∧ (q.isWrite = true → q.applied = true → (∀ x ∈ pre, x.isWrite = false ∨ x.applied = false) →
          exec (.hbmWriteAccept c) s = .next (s.setCluster c { v with reqs := pre ++ post })))
    ∧ (∀ (q : HbmReq) (l : Landing), v.reqs = [q] → v.landings = [l] → q.isWrite = false → q.back = true → l.hbm = true →
        l.ready = false → l.step = q.step + s.budgetOf c → exec (.hbmDataArrival c) s
          = .next (s.setCluster c { v with landings := [{ l with
              ready := true, known := q.rdata.isSome, data := (q.rdata.getD 0).setWidth 72 }] }))
    ∧ ∀ k : Nat, k < 4 →
        ((s.stack k).asleep = false → ((s.stack k).trained = true ∨ (s.stack k).s3Trained = true) →
          (s.stack k).refresh + 1 < 2 ^ 48 → exec (.hbmRefresh k) s
          = .next (s.setStack k { s.stack k with refresh := (s.stack k).refresh + 1 }))
        ∧ ((s.stack k).asleep = true ∨ (s.stack k).trained = false ∧ (s.stack k).s3Trained = false → exec (.hbmRefresh k) s = .next s)

/-- STEP_EXECUTE (R28, R118): a running run group whose boundary is not due uses one opportunity. Where it is not gated, the step executes
and the group stands at the next step of the same cycle. Where it is gated, nothing of the design moves: the step index, the cycle, every
store, latch, slot and bank word are unchanged.
What an executed step writes (R37, R39 to R41): every BP executes the word of the step on the state before the step, and leaves in its
value store, its result register and its state store what the word alone leaves; entries of other steps are unchanged. Of two BPs of a
group of four that issue LUT4X or MUX2X, the lower has the evaluator, the others fall back to LUT4P and to the pessimistic MUX2X, and XEVAL_CLASH is
raised (R48). The port works on the write side as the step before left it (R77). MEM_COLLIDE is raised where one slot reads and the other
writes one word (R82), STALE_SLOT where a slot that the cycle has not written is read (R100); with no word in error and no
flight, SRAM_CE, SRAM_UE and DRIVE_CLASH are not raised. SRAM_CE is raised for a correctable and SRAM_UE for an uncorrectable word that
an operand, a result or the fetch of the next step meets (R51 to R53). DRIVE_CLASH is raised where two sends meet on a segment, where two
arrivals reach one slot, and where nine drops fall into one cluster (R110). -/
def Obligations.StepOrHold : Prop :=
  (∀ (s : State) (g : Nat), g < 32 →
    let r := s.group g
    r.parcels ≠ [] → r.state = .running → r.step < r.n → s.boot.sheetsHeld = false → r.halting = none →
    ∃ t, exec (.stepExecute g) s = .next t ∧ t.opp = s.nextOpp g ∧ (t.group g).cycle = r.cycle
      ∧ (s.gatedNext g = false → (t.group g).step = r.step + 1)
      ∧ (s.gatedNext g = true → (t.group g).step = r.step ∧ t.values = s.values ∧ t.cur = s.cur ∧ t.stg = s.stg ∧ t.pend = s.pend
          ∧ t.result = s.result ∧ t.slots = s.slots ∧ t.bank = s.bank ∧ t.hbm = s.hbm ∧ t.clusters = s.clusters
          ∧ (t.group g).flights = r.flights))
  ∧ ∀ (s : State) (g : Nat), s.Quiet g →
    let r := s.group g
    let p := r.step
    let holds (bp : Nat) : Prop := bpCluster bp ∈ r.clusters
    let word (bp : Nat) : BitVec 72 := mget 0 (bp * 4096 + p) s.istore
    let ins (bp : Nat) : InsWord := insOf (word bp)
    let issues (bp : Nat) : Prop := (ins bp).exactIssue = true
    let loses (bp : Nat) : Prop := issues bp ∧ ∃ b < bp, b / 4 = bp / 4 ∧ issues b
    let port (c : Nat) : Port := (s.cluster c).port
    let pins (c : Nat) : PortIns := portInsOf (mget 0 (c * 4096 + p) s.ptable)
    let raises (t : State) (code : Nat) : Prop := s.faultCount code < t.faultCount code
    (r.flights = [] → s.ecc = [] → ∃ t, exec (.stepExecute g) s = .next t
      ∧ (∀ bp : Nat, holds bp →
        (∀ e < 4096, e ≠ p → t.valueAt bp e = s.valueAt bp e)
        ∧ (∀ u : State, ¬loses bp → exec (.reservedOpcode bp (word bp)) s = .next u →
          t.valueAt bp p = u.valueAt bp p ∧ t.resultAt bp = u.resultAt bp
            ∧ ∀ j < 1024, t.curAt bp j = u.curAt bp j ∧ t.stgAt bp j = u.stgAt bp j ∧ t.pendAt bp j = u.pendAt bp j)
        ∧ (loses bp →
          let v := s.val bp r.cycle
          let i := ins bp
          let out := if i.op = 1 then lut4p i.tt (v i.a) (v i.b) (v i.c) (v i.d) else mux2x false (v i.a) (v i.b) (v i.c)
          t.valueAt bp p = out ∧ t.resultAt bp = out))
      ∧ (∀ c ∈ r.clusters, (pins c).bad = false → (pins c).aop = 2 → (pins c).bop = 0 → (pins c).a.idx = false →
          t.bankWord c (pins c).a.addr.toNat = (port c).staging.setWidth 64)
      ∧ (raises t 0x1001 ↔ ∃ b c : Nat, b < c ∧ b / 4 = c / 4 ∧ holds b ∧ issues b ∧ issues c)
      ∧ (raises t 0x1006 ↔ ∃ c ∈ r.clusters, (pins c).bad = false ∧ ∃ w : Nat, slotAddr (port c) .a (pins c).a = some w
          ∧ slotAddr (port c) .b (pins c).b = some w
          ∧ ((pins c).aop = 1 ∧ 2 ≤ (pins c).bop ∨ 2 ≤ (pins c).aop ∧ (pins c).bop = 1))
      ∧ (raises t 0x1003 ↔ ∃ bp k : Nat, holds bp ∧ (ins bp).illegal = none ∧ (∃ w ∈ (ins bp).reads, selOf w = .slot k false)
          ∧ (s.slotAt (bpCluster bp) k).written = false)
      ∧ ¬raises t 0x2001 ∧ ¬raises t 0x2002 ∧ ¬raises t 0x1002)
    ∧ (∀ store w m : Nat, (m = 1 ∨ m = 2) → w < 2 ^ 44 → r.flights = [] → s.ecc = [(eccKey store w, m)] →
        (store = 1 ∧ (∃ bp, holds bp ∧ (ins bp).illegal = none
            ∧ ∃ x ∈ (ins bp).reads, ∃ e, selOf x = .value e ∧ w = bp * 512 + e / 8)
          ∨ store = 2 ∧ (∃ bp, holds bp ∧ (ins bp).illegal = none
            ∧ ∃ x ∈ (ins bp).reads, ∃ j, selOf x = .state j ∧ s.pendAt bp j = false ∧ w = bp * 128 + j / 8)
          ∨ store = 1 ∧ (∃ bp, holds bp ∧ (ins bp).op ≠ 0 ∧ w = bp * 512 + p / 8)
          ∨ store = 0 ∧ ∃ bp, holds bp ∧ w = bp * 1024 + (if p + 1 = r.n then 0 else p + 1) / 4) →
        ∃ t, exec (.stepExecute g) s = .next t ∧ raises t (if m = 1 then 0x2001 else 0x2002))
    ∧ (s.ecc = [] → s.arrOpp ≠ s.nextOpp g →
        let lands (f : Flight) : Prop := f.age + 1 = f.latency
        let here (f : Flight) : Prop := s.ownerOf (clParcel (f.at f.dist)) = some f.owner
        (∀ f ∈ r.flights, clParcel (f.at f.dist) ∈ r.parcels) →
        (∃ k : Nat, 2 ≤ (r.flights.filter fun f => (s.segKeys { f with age := f.age + 1 }).contains k).length)
          ∨ (∃ c k : Nat, ∃ l : List Flight, l.Sublist r.flights ∧ l.length = 2
              ∧ ∀ f ∈ l, lands f ∧ here f ∧ f.at f.dist = c ∧ f.slot = k)
          ∨ (∃ c : Nat, ∃ l : List Flight, l.Sublist r.flights ∧ l.length = 9
              ∧ ∀ f ∈ l, f.mesh = false ∧ lands f ∧ here f ∧ f.at f.dist = c) →
        ∃ t, exec (.stepExecute g) s = .next t ∧ raises t 0x1002)

/-- CYCLE_BOUNDARY (R28, R43): after step N − 1 the cycle counter advances by one and the step index returns to 0; every pending value
becomes current, every other entry keeps its value, and no flag stays pending. The group is not being surrendered, no survey and no
thermal trip waits, every code word is clean, and the parcel is LOADED. -/
def Obligations.BoundaryCommitsState : Prop :=
  ∀ (s : State) (g : Nat), g < 32 →
    let r := s.group g
    r.parcels ≠ [] → r.state = .running → 0 < r.n → r.step = r.n → r.surrender = false → r.surveys = [] → s.boot.tripDue = false →
    s.ecc = [] → mwf V4.x s.cur = true → mwf V4.x s.stg = true → mwf false s.pend = true →
    ∃ t, exec (.cycleBoundary g) s = .next t ∧ (t.group g).cycle = r.cycle + 1 ∧ (t.group g).step = 0
      ∧ ∀ bp j : Nat, bp < 32768 → j < 1024 → r.parcels.contains (bpParcel bp) = true → s.live (bpParcel bp) = true →
          t.pendAt bp j = false ∧ t.curAt bp j = if s.pendAt bp j then s.stgAt bp j else s.curAt bp j

/-- DYNAMIC_SLOT_GRANT, ECC_WRITEBACK and BACKDOOR_GRANT_TIMEOUT (R167, R168, R170, R174, R177, R180, R181). In an opportunity that the
arbiter has decided, a free slot that has not passed goes first to the second half of an atomic, which stores the new value and answers
with the old one, then to a write-back, then to the granted master, or to none. The last word of a MEM_WRITE is stored and its command
done. A slot that is not free passes nothing. An access raised in an opportunity gets no grant in it: the grants come from the lines at
the start of the opportunity before. ECC_WRITEBACK takes the next free slot, and waits where there is none. A command that waits for its
grant too long ends with ERR_TIMEOUT and its access is withdrawn.
The arbiter of a bank (R174): the next master in rotation after the last owner that raises its line; none where no line is up. An
atomic that would be granted and does not fit is passed over. -/
def Obligations.BankFreeSlots : Prop :=
  (∀ (s : State) (c : Nat) (slot : Slot), c < 512 →
    let v := s.cluster c
    let grant := match slot with | .a => v.arb.a.master | .b => v.arb.b.master
    let passed := v.arb.pass slot
    (v.arb.opp = s.opp → v.arb.past slot = false → s.slotFree c slot = true →
      (∀ (a : BankAccess) (rest : List BankAccess) (w : Nat) (old : Word) (e : Entry), v.second = some (w, old) → v.atomics = a :: rest →
          s.boot.pairMode ≠ 2 → s.hub.entries = [e] → e.atBank c a.id = true → exec (.dynamicSlotGrant c slot) s
          = .next (((s.setCluster c { v with arb := passed, second := none, atomics := rest }).bankStore c w (atomicValue a old)).setEntries
              [{ e with state := .done (s.mkReply e.pkt 0 0 old.toNat) }]).settle)
      ∧ (∀ w : Nat, v.second = none → v.wb = some w → exec (.dynamicSlotGrant c slot) s
          = .next (((s.eccClean 6 (c * 65536 + w)).setCluster c { v with arb := passed, wb := none }).pauseAfter c).settle)
      ∧ (v.second = none → v.wb = none → grant = none → exec (.dynamicSlotGrant c slot) s
          = .next ((s.setCluster c { v with arb := passed }).pauseAfter c).settle)
      ∧ (∀ (e : Entry) (w done id : Nat) (d : Word), v.second = none → v.wb = none → grant = some 0 → v.host = [.wr w d id] →
          s.boot.pairMode ≠ 2 → s.hub.entries = [e] → e.state = .parked (.bank c true done (done + 1) w id) →
          exec (.dynamicSlotGrant c slot) s
            = .next (((s.setCluster c { v with arb := passed, host := [] }).bankStore c w d).setEntries
                [{ e with state := .done (s.mkReply e.pkt 0 0 (done + 1 + (2 ^ 64 - 1) * 2 ^ 32)) }]).settle))
    ∧ (v.arb.opp = s.opp → s.slotFree c slot = false → exec (.dynamicSlotGrant c slot) s = .next (s.pauseAfter c).settle)
    ∧ (v.arb.opp + 1 = s.opp → s.runsAt c = none → v.second = none → v.wb = none → v.arb.seen = [false, false, false, false] →
        exec (.dynamicSlotGrant c .a) s
          = .next ((s.setCluster c { v with arb :=
              { opp := s.opp, seen := s.lines c, a := { SlotGrant.none with past := true }, b := .none } }).pauseAfter c).settle)
    ∧ (∀ w : Nat, v.arb.opp = s.opp → v.wb = some w → v.second = none →
        (s.slotFree c .a = true → v.arb.past .a = false → exec (.eccWriteback c) s
          = .next ((s.eccClean 6 (c * 65536 + w)).setCluster c { v with arb := v.arb.pass .a, wb := none }).settle)
        ∧ (s.slotFree c .a = false → s.slotFree c .b = false → exec (.eccWriteback c) s = .next s.settle))
    ∧ (∀ (e : Entry) (w done total id : Nat), s.hub.entries = [e] → e.state = .parked (.bank c false done total w id) → v.host = [.rd w id] →
        v.atomics = [] → exec (.backdoorGrantTimeout c 0) s
          = .next (((s.setCluster c { v with host := [] }).setEntries
              [{ e with state := .done (s.mkReply e.pkt 0x8021 0 (done + w * 2 ^ 32)) }]).pauseAfter c).settle))
  ∧ (∀ (owner : Nat) (lines : List Bool), owner < 4 → lines.length = 4 →
    let up (k : Nat) : Bool := lines.getD ((owner + 1 + k) % 4) false
    ((arbitrate owner lines true).1 = none ↔ ∀ m < 4, lines.getD m false = false)
    ∧ (∀ k < 4, up k = true → (∀ j < k, up j = false) → arbitrate owner lines true = (some ((owner + 1 + k) % 4), false))
    ∧ (∀ k < 4, up k = true → (∀ j < k, up j = false) → (owner + 1 + k) % 4 ≠ 3 →
        arbitrate owner lines false = (some ((owner + 1 + k) % 4), false))
    ∧ (∀ k < 4, up k = true → (∀ j < k, up j = false) → (owner + 1 + k) % 4 = 3 → (arbitrate owner lines false).2 = true
        ∧ (arbitrate owner lines false).1 ≠ some 3))

-- trace engines and run groups: what happens on its own

/-- The trigger sequencer (R270, R271): of the four transitions of the state it takes the lowest that matches; a transition matches when
it is valid and its three inputs, each after its polarity, hold under AND or under OR. -/
def Obligations.SequencerTakesLowest : Prop :=
  ∀ (e : Engine) (inputs k : Nat), k < 4 →
    let word (j : Nat) : Nat := (e.trans.getD (4 * e.seqState + j) 0).toNat
    let input (t lo : Nat) : Prop := bitOf inputs (bitsOf t lo 7) ≠ bitOf t (lo + 7)
    let matches_ (t : Nat) : Prop :=
      bitOf t 25 = true ∧ (bitOf t 24 = false → input t 0 ∧ input t 8 ∧ input t 16)
        ∧ (bitOf t 24 = true → input t 0 ∨ input t 8 ∨ input t 16)
    (matches_ (word k) ∧ (∀ j < k, ¬matches_ (word j)) → e.pick inputs = some (4 * e.seqState + k, word k))
    ∧ ((∀ j < 4, ¬matches_ (word j)) → e.pick inputs = none)

/-- TRACE_SAMPLE_STORE, AUTO_TIMEOUT and ASSERTION_EVENT_DRAIN (R259 to R262, R266, R272). The oldest closed sample enters the buffer with
the probe values of its clusters, a dropped one reading X; a full buffer gives up its oldest. The auto trigger is due once the count since
the arm reaches auto_timeout. One event leaves the FIFO of each cluster of the sheet, and enters the log of 4,096 while the engine
listens. -/
def Obligations.TraceEvents : Prop :=
  ∀ (s : State) (ei : Nat), ei < 2 →
    let e := s.engine ei
    (e.queue = [] → exec (.traceSampleStore ei) s = .next s)
    ∧ (∀ (x : Sample) (rest : List Sample), e.queue = x :: rest → e.state = .armed → x.post = false →
        (e.lastCyc = none ∨ e.lastCyc = some (x.cycle - 1)) →
        let cs := e.clusters.map (ei * 256 + ·)
        let probes := cs.map fun c => (((s.cluster c).taps.find? fun t => decide (t.nth = x.nth)).map (·.probe))
        let dropped := probes.any (·.isNone)
        let kept : Sample := { x with flags := x.flags + (if dropped then 4 else 0), words := buildWords probes }
        let t := forEach cs (fun c u => u.updCluster c fun v =>
          { v with taps := v.taps.filter fun y => decide (x.nth < y.nth) }) s
        let put (v : Engine) : State := (t.cleanRecord ei v (v.buffer.length - 1)).setEngine ei v
        (e.buffer.length < e.capacity → exec (.traceSampleStore ei) s
          = .next (put { e with queue := rest, buffer := e.buffer ++ [kept], stored := e.buffer.length + 1, lastCyc := some x.cycle }))
        ∧ (e.capacity ≤ e.buffer.length → exec (.traceSampleStore ei) s
          = .next (put { e with queue := rest, buffer := e.buffer.drop 1 ++ [kept], stored := (e.buffer.drop 1).length + 1
                                lastCyc := some x.cycle, wrapped := true, ringAt := (e.ringAt + 1) % max 1 e.capacity })))
    ∧ (e.state = .armed → e.autoCnt ≠ 0 → e.autoCnt ≤ e.armedFor + 1 →
        exec (.autoTimeout ei) s = .next (s.setEngine ei { e with autoHit := true }))
    ∧ (mwf Cluster.init s.clusters = true → ∃ t, exec (.assertionEventDrain ei) s = .next t
        ∧ (∀ c : Nat, c / 256 = ei → t.cluster c = { s.cluster c with asserts := (s.cluster c).asserts.drop 1 })
        ∧ (∀ c : Nat, c / 256 ≠ ei → t.cluster c = s.cluster c)
        ∧ (e.state ≠ .armed → e.state ≠ .filling → t.engine ei = e))
    ∧ (∀ (k : Nat) (v : Cluster) (a : AssertEvent) (rest : List AssertEvent), k < 256 → s.clusters = [(ei * 256 + k, v)] →
        v.asserts = a :: rest → e.clusters.contains k = true → e.rg = s.rgOfCluster (ei * 256 + k) →
        (e.state = .armed ∨ e.state = .filling) → e.events.length < 4096 → exec (.assertionEventDrain ei) s
          = .next ((s.setCluster (ei * 256 + k) { v with asserts := rest }).setEngine ei
              { e with events := e.events ++ [{ ev := a, cl := k }], lost := satAdd 32 e.lost 0 }))

/-- TABLE_COPY_DONE, MIRROR_COMPARE and SURVEY_CAPTURE (R112, R232, R236, R249). A copy that ends leaves the shadow pages equal to the
active ones and copy_busy clear. Equal signatures change nothing but the mark; the first divergent cycle is latched with its lowest West
cluster and both signatures, raises hold source 8 in HOLD response, and begins the MIRROR_DIVERGENCE episode. A capture whose group has
drained writes the survey, releases the hold and answers with the cycle and the length. -/
def Obligations.GroupEvents : Prop :=
  ∀ (s : State) (g : Nat), g < 32 →
    let r := s.group g
    r.parcels ≠ [] →
    (s.copying g = true → (s.anyParked fun w => match w with | .commit h _ => decide (h = g) | _ => false) = false → exec (.tableCopyDone g) s
      = .next (forEach r.parcels (fun p t => t.updParcel p fun v => { v with copyBusy := false })
          (s.copyPages r.clusters (s.cargoQuads g))).settle)
    ∧ (r.sigDue = true → (∀ c ∈ r.clusters, c < 256 → (s.cluster c).sigLast = (s.cluster (c + 256)).sigLast) →
        exec (.mirrorCompare g) s = .next (s.setGroup g { r with sigDue := false }))
    ∧ (∀ c ∈ r.clusters, r.sigDue = true → r.diverged = false → c < 256 → (s.cluster c).sigLast ≠ (s.cluster (c + 256)).sigLast →
        (∀ d ∈ r.clusters, d < c → (s.cluster d).sigLast = (s.cluster (d + 256)).sigLast) → r.response = 0 →
        exec (.mirrorCompare g) s
          = .next (((((s.updGroup g fun v => { v with sigDue := false }).updGroup g fun v =>
                { v with divCount := satAdd 16 r.divCount 1, divHeld := true }).updGroup g fun v =>
                { v with diverged := true, firstCl := c, divCycle := r.cycle - 1, westSig := (s.cluster c).sigLast
                         eastSig := (s.cluster (c + 256)).sigLast
                         divN := (r.clusters.filter fun d => decide (d < 256 ∧ (s.cluster d).sigLast ≠ (s.cluster (d + 256)).sigLast)).length
                         }).beginEpisode
                { code := 0x1010, unit := clParcel c, access := 0, master := 0, address := schedAddr c 0 0 0 0
                  cycle := r.cycle - 1 })))
    ∧ (∀ (q : SurveyReq) (i : Image), r.surveys = [q] → q.taking = true → r.imageOf (q.parcels.headD 0) = some i → s.ecc = [] →
        s.groupDrained g = true → i.hbmBytes q.flags = 0 →
        let u := forEach i.ordered (fun c t => t.updCluster c fun v => { v with owner := 2 }) s
        exec (.surveyCapture g) s
          = .next ((((forEach i.parcels (fun p t => t.updParcel p fun x => { x with svLast := r.cycle.toNat % 2 ^ 48 })
                (((u.writeSurvey s g i q).setSv i.parcels .idle).updGroup g fun v => { v with surveys := [] })).finishParked
              fun _ w => match w with
                | .survey h m =>
                  if h = g ∧ q.named m then some (0, 0, r.cycle.toNat + (256 + s.bodyLen g i q.flags) * 2 ^ 64) else none
                | _ => none).updGroup g fun v => { v with prev := v.prev ||| 0x40, prev2 := v.prev2 ||| 0x40 })).settle)

/-- TIMED_EVENT_DUE (R129 to R131, R263, R281): a RUN_AT that is due makes an ARMED group RUNNING at step 0; a pause that is due begins
and its PAUSE_AT answers with the position; a pause that has ended is gone and a RESUME_AT answers; a timed arm of a group that does not
run takes effect; a timed survey of a group that does not run begins its capture. An event that is not due changes nothing. Every timed
event of a group completes. -/
def Obligations.TimedEvents : Prop :=
  ∀ (s : State) (g : Nat), g < 32 →
    let r := s.group g
    let now := s.tOpen s.opp
    r.parcels ≠ [] →
    (∀ at_ : Word, r.startTime = some at_ → r.state = .armed →
      ((0 : Int) ≤ signed64 now at_ → exec (.timedEventDue (.runStart g)) s
        = .next (s.setGroup g { r with state := .running, step := 0, startTime := none, lastOpp := none }).settle)
      ∧ (signed64 now at_ < 0 → exec (.timedEventDue (.runStart g)) s = .next s.settle))
    ∧ (∀ q : Pause, r.pauses = [q] → q.raised = false → (0 : Int) ≤ signed64 now q.pauseTime → s.hub.entries = [] →
        exec (.timedEventDue (.pauseBegin g)) s = .next ((s.setGroup g { r with pauses := [{ q with raised := true }] }).setEntries []).settle)
    ∧ (∀ (q : Pause) (at_ : Word), r.pauses = [q] → q.raised = true → q.again = some at_ → (0 : Int) ≤ signed64 now at_ →
        s.hub.entries = [] →
        exec (.timedEventDue (.pauseEnd g)) s = .next ((s.setGroup g { r with pauses := [] }).setEntries []).settle)
    ∧ (∀ (q : Pause) (e : Entry), r.pauses = [q] → q.raised = false → (0 : Int) ≤ signed64 now q.pauseTime → s.hub.entries = [e] →
        e.wait? = some (.pauseRaise g q.pauseTime) → exec (.timedEventDue (.pauseBegin g)) s
          = .next ((s.setGroup g { r with pauses := [{ q with raised := true }] }).setEntries
              [{ e with state := .done (s.mkReply e.pkt 0 0
                  (if r.step = r.n then r.cycle.toNat + 1 else r.cycle.toNat + r.step * 2 ^ 64)) }]).settle)
    ∧ (∀ (q : Pause) (at_ : Word) (e : Entry), r.pauses = [q] → q.raised = true →
        (q.again = some at_ ∨ q.again = none ∧ q.resumeTime = some at_) → (0 : Int) ≤ signed64 now at_ → s.hub.entries = [e] →
        e.wait? = some (.pauseRelease g) → exec (.timedEventDue (.pauseEnd g)) s
          = .next ((s.setGroup g { r with pauses := [] }).setEntries
              [{ e with state := .done (s.mkReply e.pkt 0 0 r.cycle.toNat) }]).settle)
    ∧ (∀ e : TimedEvent, timedGroup e = g → ∃ t, exec (.timedEventDue e) s = .next t)
    ∧ (∀ at_ : Word, r.traceArm = some at_ → r.state ≠ .running → (0 : Int) ≤ signed64 now at_ →
        exec (.timedEventDue (.traceArm g)) s = .next (s.takeArm g r.cycle).settle)
    ∧ (∀ q : SurveyReq, r.surveys = [q] → q.taking = false → r.state ≠ .armed → r.state ≠ .running → bitOf q.flags 1 = true →
        (0 : Int) ≤ signed64 now q.atTime → exec (.timedEventDue (.surveyAt g)) s
          = .next ((s.setSv (r.surveyed q) .capturing).updGroup g fun v =>
              { v with surveys := [{ q with stamp := now, taking := true }] }).settle)

-- host commands: the common checks, sessions, rings

/-- The checks that come before a command's own, in their order (R381, R397): a hub that does not run does nothing; a malformed packet and
bad parameters answer ERR_PARAM, a command of length zero OK_NOOP, and in the BOOT phase a command outside the families that are served
there ERR_STATE with detail 0x20. None of these has another effect than its reply. A command that arrives where it cannot execute yet
takes an entry of the ready list where one is free (R385, R386), and one that waits changes nothing; with nothing in flight a command executes,
and a FENCE executes only once every earlier command of its session has left (R388). That a command executes with its row where a worker is free
is the model's choice, log entry 54. -/
def Obligations.CommandChecksInOrder : Prop :=
  ∀ (op : Nat) (p : Packet) (s : State) (bad : Option Nat) (zero : Bool) (own : Ans),
    (s.hubUp = false → command op p s bad zero own = s)
    ∧ (s.hubUp = true →
      (s.gate op p = .wait → command op p s bad zero own = s)
      ∧ (s.gate op p = .arrive → command op p s bad zero own
          = if s.entryFree p.session then s.setEntries (s.hub.entries ++ [{ opcode := op, pkt := p, state := .queued }]) else s))
    ∧ (s.hub.entries = [] → (s.sess p.session).state ≠ .error → (s.sess p.session).state ≠ .resetting → s.gate op p = .run)
    ∧ (fenceOf op p = true → op ≠ 1 → (∀ e ∈ s.hub.entries, e.opcode ≠ op ∨ e.pkt ≠ p) →
        (∃ e ∈ s.hub.entries, e.pkt.session = p.session) → s.gate op p ≠ .run)
    ∧ (s.hubUp = true → s.gate op p = .run →
      (∀ d : Nat, packetBad s p = some d → command op p s bad zero own = conclude op p (.reply 0x8002 d 0 s))
      ∧ (packetBad s p = none →
        (∀ d : Nat, bad = some d → command op p s bad zero own = conclude op p (.reply 0x8002 d 0 s))
        ∧ (bad = none → zero = true → command op p s bad zero own = conclude op p (.reply 1 0 0 s))
        ∧ (bad = none → zero = false → s.phase = 0 → bootAllowed op = false →
            command op p s bad zero own = conclude op p (.reply 0x8008 0x20 0 s))
        ∧ (bad = none → zero = false → (s.phase = 0 → bootAllowed op = true) → command op p s bad zero own = conclude op p own)))

/-- A finished command of a session in service with a free ring entry, alone in flight, puts its 32 bytes at cq_tail and moves the tail on
(R376, R380, R388): tag, status, detail, datum time, results; nothing else of host memory changes. A write that fails puts the session into
ERROR with cause 4 and RING_CORRUPT, and changes no byte. -/
def Obligations.ReplyReachesRing : Prop :=
  ∀ (s : State) (p : Packet) (op st detail results : Nat),
    let v := s.sess p.session
    s.hub.entries = [] → v.state = .enabled → v.cqFull = false → v.wbEn = false → s.memoriesWf = true →
    (∀ e ∈ s.sessions, e.2.state ≠ .resetting) →
    let at_ := v.cqBase.toNat + 32 * v.cqTail
    let t := conclude op p (.reply st detail results s)
    (s.hostFails at_ = true → (t.sess p.session).state = .error ∧ (t.sess p.session).errCause = 4 ∧ t.hostMem = s.hostMem)
    ∧ (s.hostFails at_ = false → t.hub.entries = [] ∧ (t.sess p.session).cqTail = (v.cqTail + 1) % 2 ^ v.cqLog
      ∧ memBytes t.hostMem at_ 32
          = leBytes 4 p.tag.toNat ++ leBytes 2 (s.okStatus st) ++ leBytes 2 detail ++ leBytes 8 s.datum.now.toNat
              ++ leBytes 16 (BitVec.ofNat 128 results).toNat
      ∧ ∀ a : Nat, (a < at_ ∨ at_ + 32 ≤ a) → memGet a t.hostMem = memGet a s.hostMem)

/-- SESSION_NOP, CMD_CANCEL, SESSION_RESET and UNDEFINED_OPCODE (R381, R389, R392): a NOP answers OK; a cancel of a command that waits
ends it with ERR_CANCELLED and tells outcome 0, of one that has finished outcome 2, of one that is not there outcome 3 with OK_ALREADY; a
reset of another session of the function with nothing in flight makes it RESETTING, frees its locks and is answered once it is DISABLED; a
session that resets itself gets no reply; an opcode that is not defined answers ERR_OPCODE. -/
def Obligations.SessionCommands : Prop :=
  ∀ (s : State) (p : Packet),
    (Accepted 0x0000 p s (parCheck p [] true) false → exec (.sessionNop p) s = .next (conclude 0x0000 p (done s)))
    ∧ (Accepted 0x0001 p s (parCheck p [(20, 1), (24, 4)] (decide (par p 20 1 < 16))) false →
        let target := s.hub.entries.find? fun e =>
          decide (e.pkt.session = p.session / 16 * 16 + par p 20 1) && decide (e.pkt.tag = BitVec.ofNat 32 (par p 24 4))
        (target = none → exec (.cmdCancel p) s = .next (conclude 0x0001 p (.reply 5 0 3 s)))
        ∧ (∀ e : Entry, target = some e → e.opcode ≠ 1 → e.state = .queued → exec (.cmdCancel p) s
            = .next (conclude 0x0001 p (done (s.setEntries (updFirst (fun x => decide (x = e))
                (fun x => { x with state := .done (s.mkReply e.pkt 0x8006 0 0) }) s.hub.entries)) 0)))
        ∧ (∀ (e : Entry) (r : Reply), target = some e → e.state = .done r →
            exec (.cmdCancel p) s = .next (conclude 0x0001 p (done s 2))))
    ∧ (Accepted 0x0002 p s (parCheck p [(20, 1)] (decide (par p 20 1 < 16))) false →
        let i := p.session / 16 * 16 + par p 20 1
        ((s.sess i).state = .disabled → i ≠ p.session → exec (.sessionReset p) s = .next (conclude 0x0002 p (done s)))
        ∧ ((s.sess i).state = .enabled → i ≠ p.session → (s.sess p.session).state = .enabled →
            (s.hub.entries.filter fun e => decide (e.pkt.session = i)) = [] → exec (.sessionReset p) s
              = .next (conclude 0x0002 p (.park (.sessReset i)
                  ((s.updSess i fun v => { v with state := .resetting }).freeLocks true fun l => decide (l.session = i)))))
        ∧ ((s.sess i).state = .resetting → i = p.session → exec (.sessionReset p) s = .next (conclude 0x0002 p (.silent s))))
    ∧ ∀ op : BitVec 16, s.hubUp = true → s.gate op.toNat p = .run → definedOpcodes.contains op.toNat = false →
        exec (.undefinedOpcode op p) s = .next (conclude op.toNat p (.reply 0x8001 0 0 s))

/-- The session registers (R370, R372 to R377): SQ_TAIL and CQ_HEAD move within their rings, and a value outside puts the session into
ERROR with RING_CORRUPT; enabling a configured session opens its rings at 0, a bad configuration leaves cause 1; a reset of a session with
nothing in flight, while another one of the function is in service, leaves it DISABLED with its pointers at 0 and none of its locks; a base
takes its page address, an offset that is not listed changes nothing; the coalescing timer signals what waits. FUNC_INFO, FUNC_STAT and
FUNC_PARCELS read a function's number, its sessions in ENABLED and in ERROR, and the parcels that it owns (R371). -/
def Obligations.SessionRegisters : Prop :=
  ∀ (s : State) (i : Nat) (value : Word), i < 1024 → s.clocked = true →
    let v := s.sess i
    let x := value.toNat
    let sq := 2 ^ v.sqLog
    let cq := 2 ^ v.cqLog
    let fields : Session :=
      { v with prio := if 16 ≤ i ∧ bitsOf x 2 2 = 0 then 1 else bitsOf x 2 2
               vector := bitsOf x 4 5, coalCnt := bitsOf x 9 8, coalUs := bitsOf x 17 11, wbEn := bitOf x 28 }
    (v.state = .enabled →
      (x % 4096 < sq → (v.sqTail + sq - v.sqHead) % sq ≤ (x % 4096 + sq - v.sqHead) % sq →
        exec (.sqTail i value) s = .next (s.setSess i { v with sqTail := x % 4096 }).settle)
      ∧ (sq ≤ x % 4096 → exec (.sqTail i value) s = .next (s.sessionError i 2).settle)
      ∧ (x % 8192 < cq → (x % 8192 + cq - v.cqHead) % cq ≤ (v.cqTail + cq - v.cqHead) % cq →
        exec (.cqHead i value) s = .next (s.setSess i { v with cqHead := x % 8192 }).settle)
      ∧ (cq ≤ x % 8192 → exec (.cqHead i value) s = .next (s.sessionError i 2).settle))
    ∧ (v.state = .disabled → bitOf x 0 = true → bitOf x 1 = false →
      (fields.configOk = true → s.fnEnabled (i / 16) = true → exec (.sessCtlEnable i value) s
        = .next ((s.setSess i fields).setSess i
            { fields with enable := true, state := .enabled, sqHead := 0, sqTail := 0, cqHead := 0, cqTail := 0, errCause := 0
                          unsig := 0 }).settle)
      ∧ (fields.configOk = false → fields ≠ Session.init → exec (.sessCtlEnable i value) s
        = .next ((s.setSess i fields).setSess i { fields with enable := false, errCause := 1 }).settle))
    ∧ (∀ j : Nat, bitOf x 1 = true → v.state = .enabled → s.hub.entries = [] → mwf Session.init s.sessions = true → j < 1024 →
        j / 16 = i / 16 → j ≠ i → (s.sess j).state = .enabled →
        ∃ t, exec (.sessCtlReset i value) s = .next t ∧ (t.sess i).state = .disabled ∧ (t.sess i).enable = false
          ∧ (t.sess i).sqHead = 0 ∧ (t.sess i).sqTail = 0 ∧ (t.sess i).cqHead = 0 ∧ (t.sess i).cqTail = 0
          ∧ ∀ l ∈ t.hub.locks, l.session ≠ i)
    ∧ (v.coalUs ≠ 0 → 0 < v.unsig → exec (.coalescingTimer i) s = .next (s.signal i).settle)
    ∧ (s.fnEnabled (i / 16) = true →
      (v.state = .disabled → exec (.bar0RegisterWrite (i / 16) (0x1000 + 256 * (i % 16)) { data := value }) s
        = .next (s.setSess i { v with sqBase := BitVec.ofNat 64 (x / 4096 * 4096) }).settle)
      ∧ ∀ n : Nat, exec (.bar0RegisterWrite (i / 16) 0x0FF8 { data := value, size := n }) s = .next s.settle)
    ∧ (let f := i / 16
      s.bar0Read f 0x08 = f + (if f = 0 then 64 else 0) + 2 ^ 16 * (16 * f)
      ∧ (∀ k < 16, bitOf (s.bar0Read f 0x10) k = decide ((s.sess (16 * f + k)).state = .enabled)
        ∧ bitOf (s.bar0Read f 0x10) (16 + k) = decide ((s.sess (16 * f + k)).state = .error))
      ∧ ∀ p < 32, bitOf (s.bar0Read f 0x18) p = decide (s.ownerOf p = some f))

/-- FUNCTION_LEVEL_RESET and VF_ENABLE_CHANGE (R214, R222, R369): with nothing in flight, every session of the function ends DISABLED and
none of its locks is left. Its run groups that do not run unload at once: the parcels of their images are BLANK and in no group, their banks
read zero; with no group of the function still running its key slots are empty and its key-encryption key is gone. A run group that runs goes on to
the end of its cycle, keys and KEK kept; at that boundary it stops, unloads, and the keys and the KEK go.
A reset of the physical function removes the others. A change that removes no function only sets the capability's fields. -/
def Obligations.FunctionResets : Prop :=
  ∀ (s : State) (f : Nat), 0 < f → f < 64 → s.hub.entries = [] → s.Inv → mwf none s.keks = true →
    (∀ l ∈ s.hub.locks, (s.sess l.session).state ≠ .disabled ∧ (s.sess l.session).state ≠ .resetting) →
    let mine (h : Nat) : Prop := ∃ p ∈ (s.group h).parcels, s.ownerOf p = some f
    let unloaded (t : State) (i : Image) : Prop :=
      (∀ p ∈ i.parcels, (t.parcel p).load = .blank ∧ (t.parcel p).rg = none)
        ∧ ∀ c ∈ clustersOf i.parcels, ∀ w < 65536, t.bankWord c w = 0
    let keyless (t : State) : Prop := (∀ k : Nat, (t.key k).bound ≠ some f) ∧ mget none f t.keks = none
    (∃ t, exec (.functionLevelReset f) s = .next t ∧ (∀ k < 16, (t.sess (16 * f + k)).state = .disabled)
      ∧ (∀ l ∈ t.hub.locks, l.session / 16 ≠ f)
      ∧ ((∀ h ∈ s.runGroups, mine h → (s.group h).state ≠ .running ∧ (s.group h).surrender = false) →
          keyless t ∧ ∀ h ∈ s.runGroups, mine h → ∀ i ∈ (s.group h).images, unloaded t i)
      ∧ ∀ h ∈ s.runGroups, mine h → (s.group h).state = .running →
          (t.group h).surrender = true ∧ (t.group h).state = .running ∧ (∀ k : Nat, t.key k = s.key k) ∧ t.keks = s.keks)
    ∧ (∀ h : Nat, s.runGroups = [h] → mine h →
        let r := s.group h
        r.state = .running → r.surrender = true → r.step = r.n → 0 < r.n → r.halting = none → r.images ≠ [] → r.surveys = [] →
        s.ecc = [] → s.boot.tripDue = false → (∀ e < 2, (s.engine e).rg ≠ some h) →
        ∃ t, exec (.cycleBoundary h) s = .next t ∧ keyless t ∧ ∀ i ∈ r.images, unloaded t i)
    ∧ (∃ t, exec (.functionLevelReset 0) s = .next t ∧ t.hub.vfEnable = false ∧ t.hub.numVfs = 0)
    ∧ ∀ (enable : Bool) (n : Nat), n < 64 → (∀ k : Nat, 0 < k → k < 64 → s.fnEnabled k = true → enable = true ∧ k ≤ n) →
        exec (.vfEnableChange enable n) s = .next (s.setHub { s.hub with vfEnable := enable, numVfs := n }).settle

/-- COMMAND_FETCH and COMMAND_DISPATCH (R385, R386): a visit reads the 64-byte packet at sq_head, moves the head on and appends the command
to the ready list, and a ring read that fails puts the session into ERROR with cause 3 (R375); the dispatcher puts the eligible command into
an empty prefetch slot and moves the turn and the rotation on. A load, batch, unload or restore in a prefetch slot whose first checks pass
begins: its worker holds what it needs (R199, R202, R209). -/
def Obligations.FetchAndDispatch : Prop :=
  ∀ s : State, s.hubUp = true →
    (∀ i : Nat, s.boot.perstN = true →
      let v := s.sess i
      let c := packetAt s.hostMem i (v.sqBase.toNat + 64 * v.sqHead)
      (s.enabledSessions.filter fun k => decide ((s.sess k).sqHead ≠ (s.sess k).sqTail)) = [i] → v.state = .enabled →
      v.sqHead ≠ v.sqTail → (v.sqHead + 1) % 2 ^ v.sqLog = v.sqTail → s.entryFree i = true →
      (c.1 ≠ 1 → s.hostFails (v.sqBase.toNat + 64 * v.sqHead) = false → exec .commandFetch s
        = .next (((s.setHub { s.hub with fetchAt := i + 1 }).setSess i { v with sqHead := v.sqTail }).setEntries
            (s.hub.entries ++ [{ opcode := c.1, pkt := c.2, state := .queued }])).settle)
      ∧ (s.hostFails (v.sqBase.toNat + 64 * v.sqHead) = true → exec .commandFetch s
        = .next ((s.setHub { s.hub with fetchAt := i + 1 }).sessionError i 3).settle))
    ∧ (∀ e : Entry, s.hub.entries = [e] → e.state = .queued → (s.sess e.pkt.session).prio < 4 → exec .commandDispatch s
        = .next (s.setHub { s.hub with
            entries := [{ e with state := .prefetched 0 }], turn := (s.hub.turn + 1) % 15
            rr := s.hub.rr.set (s.sess e.pkt.session).prio (e.pkt.session + 1) }))
    ∧ ∀ (e : Entry) (w : Nat) (k : Claim) (t : State), s.hub.entries = [e] → e.state = .prefetched w →
        beginWork e.opcode e.pkt s = some (k, t) → t.hub.entries = [e] → exec .commandDispatch s
          = .next (t.setEntries [{ e with state := .executing w k }])

-- host commands: identity, registers, images, keys

/-- IDENT_READ, IDENT_CERT, IDENT_ATTEST and PART_NUMBER_SET (R403 to R406): the words of LEGEND, the part number, the phase, the pairing
mode, the boot copy and the good parcels; the identifier, the key and the certificate; the digest of the running firmware with the
signature of the statement that names it; the part number that takes a new value and answers with the old one. -/
def Obligations.IdentityCommands : Prop :=
  ∀ (s : State) (p : Packet),
    let part := s.boot.part.getD 0xFFFF
    let copy := if s.boot.bootCopy = 0 then s.flash.copy0 else s.flash.copy1
    let good := listMask ((List.range 32).filter fun i => !s.failed i)
    (Accepted 0x0100 p s (parCheck p [] true) false → exec (.identRead p) s
      = .next (conclude 0x0100 p (done s (s.legend + part * 2 ^ 64 + s.phase * 2 ^ 80
          + (s.boot.pairMode + 4 * s.boot.bootCopy) * 2 ^ 88 + good * 2 ^ 96))))
    ∧ (Accepted 0x0101 p s (parCheck p [] true) false → 2048 ≤ p.len.toNat → exec (.identCert p) s
      = .next (conclude 0x0101 p (done (bufPut s p 0 (leBytes 8 Config.uid.toNat ++ leBytes 4 (Config.certLenPred.val + 1)
          ++ leBytes 4 0 ++ leBytes 97 Config.devicePublic.toNat ++ leBytes 15 0 ++ leBytes (Config.certLenPred.val + 1) Config.cert))
          (128 + (Config.certLenPred.val + 1)))))
    ∧ (Accepted 0x0102 p s (parCheck p [(20, 32)] true) false → 144 ≤ p.len.toNat →
        let text := leBytes 6 0x545441564B53 ++ leBytes 32 (par p 20 32) ++ leBytes 8 s.legend ++ leBytes 2 part
          ++ leBytes 48 copy.digest.toNat
        exec (.identAttest p) s = .next (conclude 0x0102 p (done (bufPut s p 0
          (leBytes 48 copy.digest.toNat ++ leBytes 96 (Config.deviceSign (leNat text) text.length).toNat)) 144)))
    ∧ (Accepted 0x0103 p s (parCheck p [(20, 2)] (decide (par p 20 2 < 1024) || decide (par p 20 2 = 0xFFFF))) false →
        p.session < 16 → s.datum.role = 0 → (∀ g ∈ s.runGroups, (s.group g).joined = false) →
        let n := par p 20 2
        (n ≠ part → exec (.partNumberSet p) s = .next (conclude 0x0103 p (done
          ((s.setBoot { s.boot with part := if n = 0xFFFF then none else some n }).logHub 0x60 0 (1 + part * 2 ^ 16 + n * 2 ^ 32)) part)))
        ∧ (n = part → exec (.partNumberSet p) s = .next (conclude 0x0103 p (.reply 5 0 part s))))

/-- REG_READ, DATUM_NOW_READ, REG_WRITE and FAULT_LATCHED_CLEAR (R278, R408, R409, R428): a read answers with the registers it may read, and
each clears its RC fields as it is read; a read of DATUM_NOW latches the epoch; a write changes the masked bits of the staged fields and
nothing else; 1s written to the latched registers empty the first-error records. -/
def Obligations.RegisterCommands : Prop :=
  ∀ (s : State) (p : Packet),
    let h := par p 20 4
    let fn := p.session / 16
    (Accepted 0x0110 p s (regReadBad p) (decide (par p 24 2 = 0)) → p.len = 0 → par p 24 2 = 1 → s.mayRead fn h = true →
      exec (.regRead p) s = .next (conclude 0x0110 p (done (s.regClear h) (s.regValue fn h))))
    ∧ (Accepted 0x0110 p s (regReadBad p) (decide (par p 24 2 = 0)) →
        (∃ k < par p 24 2, s.mayRead fn (h + 8 * k) = false) → exec (.regRead p) s = .next (conclude 0x0110 p (.reply 0x8003 0 0 s)))
    ∧ exec .datumNowRead s = .next (s.setDatum { s.datum with lat := s.datum.epoch })
    ∧ (Accepted 0x0111 p s (match parCheck p [(20, 4), (24, 8), (32, 8)] true with
          | some d => some d
          | none => if handleOk h then none else some 0x12) (decide (par p 32 8 = 0)) → p.session < 16 →
        let v := par p 24 8
        let m := par p 32 8
        (∀ i : Nat, h = 0x10 * 2 ^ 24 + i * 2 ^ 12 + 0x160 → i < 32 →
          let t := s.updParcel i fun x => { x with stgClass := maskedField x.stgClass v m 0 3, stgW := maskedField x.stgW v m 16 16 }
          exec (.regWrite p) s = .next (conclude 0x0111 p (done t (t.regValue 0 h))))
        ∧ (h = 0x60 * 2 ^ 24 + 0x30 →
          let t : State := { s with faults := { s.faults with sel := maskedField s.faults.sel v m 0 7 } }
          exec (.regWrite p) s = .next (conclude 0x0111 p (done t (t.regValue 0 h))))
        ∧ (h = 0x02 * 2 ^ 24 → exec (.regWrite p) s = .next (conclude 0x0111 p (done s s.legend))))
    ∧ ∀ lo hi : Word, ∃ t, exec (.faultLatchedClear lo hi) s = .next t
        ∧ (mwf none s.faults.recs = true → ∀ u < 83, t.faultRec u = if (if u < 64 then lo.getLsbD u else hi.getLsbD (u - 64)) then none
            else s.faultRec u)
        ∧ t.faults.cnt = s.faults.cnt ∧ t.faults.live = s.faults.live

/-- REG_COMMIT and DATUM_PAIR_APPLY (R228, R285, R410, R465 to R468). A parcel cap takes its staged pair, an inconsistent one with
ERR_MISMATCH; an equal pair is OK_ALREADY. A datum pair whose tags agree waits for the FRAME edge, and the staged offset clears; tags that
differ answer ERR_MISMATCH. Each commit is noted. In BOOT it answers ERR_STATE with detail 0x20 (R397, R410). At the edge the addend, the
tag and the offset apply. -/
def Obligations.PairCommits : Prop :=
  ∀ (s : State) (p : Packet),
    let h := par p 20 4
    let d := s.datum
    (Accepted 0x0112 p s (match parCheck p [(20, 4)] true with
        | some x => some x
        | none => if handleOk h && decide (hOff h = 0) && [0x10, 0x20, 0x38, 0x50].contains (hBlock h) then none else some 0x12) false →
      p.session < 16 →
      (s.phase = 0 → exec (.regCommit p) s = .next (conclude 0x0112 p (.reply 0x8008 0x20 0 s)))
      ∧ (∀ i : Nat, s.phase ≠ 0 → h = 0x10 * 2 ^ 24 + i * 2 ^ 12 → i < 32 → s.failed i = false → s.parcelLocked p.session [i] = false →
        s.boot.pairMode < 2 → s.loadedClass i = 0 →
        let v := s.parcel i
        let t := s.updParcel i fun w => { w with capClass := v.stgClass, capW := v.stgW }
        (capOk v.stgClass v.stgW = true → (v.stgClass ≠ v.capClass ∨ v.stgW ≠ v.capW) →
          exec (.regCommit p) s = .next (conclude 0x0112 p (.reply 0 0 1 (t.noteCommit 0x10 i 0))))
        ∧ (capOk v.stgClass v.stgW = true → v.stgClass = v.capClass → v.stgW = v.capW →
          exec (.regCommit p) s = .next (conclude 0x0112 p (.reply 5 0 0 (s.noteCommit 0x10 i 5))))
        ∧ (capOk v.stgClass v.stgW = false → (v.stgClass ≠ v.capClass ∨ v.stgW ≠ v.capW) →
          exec (.regCommit p) s = .next (conclude 0x0112 p (.reply 0x8009 0 1 (t.noteCommit 0x10 i 0x8009)))))
      ∧ (s.phase ≠ 0 → h = 0x50 * 2 ^ 24 → d.role < 2 →
        (d.stgTag ≠ d.offTag → exec (.regCommit p) s
          = .next (conclude 0x0112 p (.reply 0x8009 0 0 (s.noteCommit 0x50 0 0x8009))))
        ∧ (d.stgTag = d.offTag → addendOk d.stgAddend.toNat = true → d.apply = none → d.stgAddend ≠ d.addend → exec (.regCommit p) s
          = .next (conclude 0x0112 p (.park .datumEdge ((s.setDatum { d with
              offset := 0, apply := some { addend := d.stgAddend, tag := d.stgTag, changes := [(d.offset.toInt, false)] }
              }).noteCommit 0x50 0 0))))))
    ∧ (d.apply = none → exec .datumPairApply s = .next s)
    ∧ ∀ (addend : BitVec 60) (tag : Nat), d.apply = some { addend := addend, tag := tag, changes := [(0, false)] } →
        (s.clocked = false → exec .datumPairApply s = .next s)
        ∧ (s.clocked = true → d.now.toNat * 2 ^ 32 + d.frac + d.addend.toNat < 2 ^ 96 →
          (s.anyParked fun w => decide (w = .datumEdge)) = false → exec .datumPairApply s
            = .next (State.settle { s.moveOpp ((s.opp / 4 + 1) * 4) with
                thermal := { s.thermal with applied := s.thermal.demand }
                datum := { d with now := BitVec.ofNat 64 ((d.now.toNat * 2 ^ 32 + d.frac + d.addend.toNat) / 2 ^ 32)
                                  frac := (d.now.toNat * 2 ^ 32 + d.frac + d.addend.toNat) % 2 ^ 32
                                  lastFine := d.now.toNat * 2 ^ 32 + d.frac, lastAddend := d.addend
                                  addend := addend, tag := tag, apply := none } }))

/-- IMAGE_LOAD, IMAGE_FRAMES and IMAGE_UNLOAD (R200 to R203, R208, R210, R213, R214). A load that passes every check writes its image,
releases GSR and answers with the placement and the header CRC; one that fails a check writes nothing but its status on the parcels it
named, and answers with status, detail and place. A load that its worker has begun ends the same way, with the links checked before its
write pass only, where an image that no longer passes is one that changed, and one that a DEVICE-class fault has met, or whose stage reads
an uncorrectable word (R182), ends with the fault's code; while its source, parcels or stacks sleep it waits (R186, R209, R362). A batch
that passes writes its records in order, one that fails none. Where the write pass reads other bytes than the check pass or meets an
uncorrectable word (a free value, log 90), a load is cleared and a batch undone, with detail 0x0613, 0x0621 or 0x2002. An unload of a group
that does not run ends what waits on it, frees what the image holds, and its parcels are BLANK. A batch or unload that its worker has begun
ends on the part as it finds it. -/
def Obligations.ImageCommands : Prop :=
  ∀ (s : State) (p : Packet),
    let ps := maskList 32 (par p 20 4)
    let finish (d : Desc) (q : Plan) (t : State) : Ans :=
      let u : State := { t with freeCtr := t.freeCtr + 2 }
      match writeEnd (Config.freeValue (t.freeCtr + 1) 3) (decide (q.c.enc = 1)) with
      | some (st, dt) => .reply st dt 0xFFFFFFFFFFFF
          (((if st = 0x8020 then u.tierError q.img else u).endClaim (claimOf u .write d q.img q.blocks)).noteLoad q.img.parcels st dt)
      | none => done ((loadWrite u (p.session / 16) q).noteLoad q.img.parcels (t.okStatus 0) 0)
          (q.img.sheet + q.img.dx * 2 ^ 8 + q.img.dy * 2 ^ 16 + listMask q.img.parcels * 2 ^ 32 + q.img.hdrCrc * 2 ^ 64
            + (Config.freeValue t.freeCtr 32).toNat * 2 ^ 96)
    let d := descOf (bufMem s p)
    (s.workOf 0x0200 p = none → Accepted 0x0200 p s (imageLoadBad p s) (decide (memNat (bufMem s p) 16 8 = 0)) →
      (∀ e : Refused, loadHead s p d = .error e → exec (.imageLoad p) s
        = .next (conclude 0x0200 p (.reply e.status e.detail e.loc.results (s.noteLoad e.ps e.status e.detail))))
      ∧ (∀ (b : Memory) (k : Cart), loadHead s p d = .ok (b, k) → (∀ x ∈ s.sourceStack d, s.Takes x) → s.readStage p d = ([], s) →
        (∀ e : Refused, loadCheck s p d = .error e → exec (.imageLoad p) s
          = .next (conclude 0x0200 p (.reply e.status e.detail e.loc.results (s.noteLoad e.ps e.status e.detail))))
        ∧ (∀ q : Plan, loadCheck s p d = .ok q →
          ((∀ x ∈ loadDomains q.img.parcels q.img.allots, s.Takes x) → exec (.imageLoad p) s = .next (conclude 0x0200 p (finish d q s)))
          ∧ ((∃ x ∈ loadDomains q.img.parcels q.img.allots, s.unready x = true) → ∃ (left : List Domain) (t : State), left ≠ []
              ∧ exec (.imageLoad p) s = .next (conclude 0x0200 p (.park (.domains left) t))))))
    ∧ (∀ (e : Entry) (w : Nat) (k : Claim) (dk : Desc), s.workOf 0x0200 p = some (e, w, k) → k.desc = some dk →
        let t := s.unclaimed (e, w, k)
        (∀ f : Nat, k.fault = some f → exec (.imageLoad p) s
          = .next (conclude 0x0200 p (.reply 0x8020 f 0xFFFFFFFFFFFF ((t.endClaim k).noteLoad k.parcels 0x8020 f))))
        ∧ (k.fault = none → s.loadAwake k = false → exec (.imageLoad p) s = .next s)
        ∧ (k.fault = none → s.loadAwake k = true → (s.readStage p dk).1 ≠ [] → exec (.imageLoad p) s
          = .next (conclude 0x0200 p (.reply 0x8020 0x2004 0xFFFFFFFFFFFF
              ((((s.readStage p dk).2.unclaimed (e, w, k)).endClaim { k with fault := some 0x2004 }).noteLoad k.parcels 0x8020 0x2004))))
        ∧ (k.fault = none → s.loadAwake k = true → s.readStage p dk = ([], s) → k.phase = .check → exec (.imageLoad p) s
          = .next (conclude 0x0200 p (match loadCheck t p dk true false with
            | .error e => .reply e.status e.detail e.loc.results (t.noteLoad k.parcels e.status e.detail)
            | .ok q => finish dk q t)))
        ∧ (k.fault = none → s.loadAwake k = true → s.readStage p dk = ([], s) → k.phase = .write →
          let spoilt (st dt : Nat) : Ans := .reply st dt 0xFFFFFFFFFFFF ((t.endClaim k).noteLoad k.parcels st dt)
          exec (.imageLoad p) s = .next (conclude 0x0200 p (match loadCheck t p dk false false with
            | .error e => if e.status = 0x8012 then spoilt 0x8012 0x0621 else spoilt 0x8011 0x0613
            | .ok q => if q.img.hdrCrc = k.hdrCrc then finish dk q t else spoilt 0x8011 0x0613))))
    ∧ (∀ (g : Nat) (i : Image),
        let t := s.resumed 0x0201 p
        let b := bufMem t p
        t.imageOfMask ps = some (g, i) → t.ownCheck (p.session / 16) ps = none → ps.any t.inWork = false →
        t.parcelLocked p.session ps = false →
        Accepted 0x0201 p t (parCheck p [(20, 4), (24, 1)] (decide (par p 24 1 < 64) || decide (par p 24 1 = 255)))
            (decide (par p 20 4 = 0) || decide (p.len = 0) || decide (64 ≤ p.len.toNat ∧ memNat b 4 4 = 0)) →
          (64 ≤ par p 24 1 ∨ t.keyLocked p.session (par p 24 1) = false) → slotMatches i (par p 24 1) = true → t.copying g = false →
          exec (.imageFrames p) s = .next (conclude 0x0201 p (match framesCheck t g i b p.len.toNat with
            | .ok w =>
              let u := { t with freeCtr := t.freeCtr + 1 }
              match rereadFail (Config.freeValue t.freeCtr 2) i.keySlot.isSome 0x0613 0x0621 with
              | some (st, dt) => .reply st dt 0xFFFFFFFFFFFF ((framesSpoil u g i w).noteLoad i.parcels st dt)
              | none => done
                  (((w.foldl (writeRecord (decide (t.boot.pairMode = 2)) i) u).refetch g w).noteLoad i.parcels (t.okStatus 0) 0)
            | .error (st, d, l) => .reply st d l.results (t.noteLoad i.parcels st d))))
    ∧ (∀ (g : Nat) (i : Image),
        let t := s.resumed 0x0204 p
        t.imageOfMask ps = some (g, i) → t.ownCheck (p.session / 16) ps = none → ps.any t.inWork = false →
        t.parcelLocked p.session ps = false → Accepted 0x0204 p t (parCheck p [(20, 4)] true) (decide (par p 20 4 = 0)) →
          (t.group g).state ≠ .armed → (t.group g).state ≠ .running →
          exec (.imageUnload p) s = .next (conclude 0x0204 p (done
            (((t.endWaits 0x8006 0 (Wait.ofGroup g)).unloadImage g i).noteLoad i.parcels (t.okStatus 0) 0))))

/-- After the write pass of a load the run group is LOADED at cycle 0 with the depth of the cartouche, and every parcel of the image is
LOADED in it (R49, R202). After an unload every parcel of the image is BLANK and in no run group, and every bank word of its clusters reads
0 (R172, R214). A restore that fails in its write pass sets restore_bad on every parcel of the image: value and state entries and receive
slots are X, bank words 0, the cycle counter 0 (R238). -/
def Obligations.LoadAndUnloadStates : Prop :=
  (∀ (s : State) (fn : Nat) (q : Plan), mwf Parcel.init s.parcels = true → mwf RunGroup.init s.groups = true →
    let g := s.groupNumber q.img
    let t := loadWrite s fn q
    (t.group g).state = .loaded ∧ (t.group g).cycle = 0 ∧ (t.group g).n = q.c.n
      ∧ ∀ p ∈ q.img.parcels, (t.parcel p).load = .loaded ∧ (t.parcel p).rg = some g)
  ∧ (∀ (s : State) (g : Nat) (i : Image), mwf Parcel.init s.parcels = true → s.memoriesWf = true →
    let t := s.unloadImage g i
    ∀ p ∈ i.parcels, (t.parcel p).load = .blank ∧ (t.parcel p).rg = none
      ∧ ∀ k w : Nat, p < 32 → k < 16 → w < 65536 → t.bankWord (clOf p k) w = 0)
  ∧ ∀ (s : State) (g : Nat) (i : Image) (items : BodyItems), mwf Parcel.init s.parcels = true → mwf RunGroup.init s.groups = true →
    s.memoriesWf = true →
    let t := restoreSpoil s g i items
    (t.group g).cycle = 0 ∧ ∀ p ∈ i.parcels, (t.parcel p).restoreBad = true
      ∧ ∀ k : Nat, p < 32 → k < 16 →
        (∀ b e : Nat, b < 64 → e < 4096 → mget V4.x ((clOf p k * 64 + b) * 4096 + e) t.values = .x)
        ∧ (∀ b j : Nat, b < 64 → j < 1024 → mget V4.x ((clOf p k * 64 + b) * 1024 + j) t.cur = .x)
        ∧ (∀ r : Nat, r < 256 → (mget RSlot.init (clOf p k * 256 + r) t.slots).val = .x)
        ∧ ∀ w : Nat, w < 65536 → t.bankWord (clOf p k) w = 0

/-- IMAGE_STAGE and IMAGE_UNSTAGE (R206): a stage takes the lowest run of free design units that fits, zeroed and then written with the
bytes as given, under a handle of its own; an unstage frees it. KEY_LOAD, KEY_CLEAR and KEK_AGREE (R196, R197, R235): a key that unwraps
under the caller's KEK binds its slot with a fresh IV; a clear empties a slot of the caller that no image uses; an agreement sets the KEK.
Each writes its key event to the logbook (R434). -/
def Obligations.StagesAndKeys : Prop :=
  ∀ (s : State) (p : Packet),
    let fn := p.session / 16
    let k := par p 20 1
    (∀ base : Nat, Accepted 0x0202 p s (parCheck p [(20, 1)] (decide (k < 4))) (decide (p.len = 0)) → (s.stack k).trained = true → s.Takes (.stack k) →
      let n := ceilDiv p.len.toNat unitBytes
      firstFit (s.designUsed k) 0 (s.stack k).designEnd n = some base →
      let t := s.zeroUnits k base n
      exec (.imageStage p) s = .next (conclude 0x0202 p (done
        { t with nextStage := s.nextStage + 1
                 stages := s.stages ++ [{ handle := s.nextStage, stack := k, base := base, units := n, owner := fn, length := p.len.toNat }]
                 hbm := memPaste (k * 2 ^ 36 + base * unitBytes) p.len.toNat (bufMem s p) t.hbm } (s.nextStage + n * 2 ^ 32))))
    ∧ (Accepted 0x0203 p s (parCheck p [(20, 4)] true) false →
        ∀ g : Stage, (s.stages.find? fun x => decide (x.handle = par p 20 4)) = some g → g.owner = fn →
          (∀ c ∈ s.claims, c.desc.map (fun d => (d.source, d.image)) ≠ some (1, g.handle)) → exec (.imageUnstage p) s
          = .next (conclude 0x0203 p (done { s with stages := s.stages.filter fun x => decide (x.handle ≠ g.handle) })))
    ∧ (∀ kek : BitVec 256, Accepted 0x0210 p s (parCheck p [(20, 1), (24, 40)] (decide (k < 64))) false →
        ((s.key k).bound = none ∨ (s.key k).bound = some fn) → s.keyLocked p.session k = false → mget none fn s.keks = some kek →
        exec (.keyLoad p) s = .next (conclude 0x0210 p (match Config.keyUnwrap kek (par p 24 40) with
          | none => .reply 0x8012 0x0624 0 s
          | some v => done ((State.setKey { s with freeCtr := s.freeCtr + 1 } k
              { bound := some fn, key := v, ivHi := Config.freeValue s.freeCtr 32, ivCount := 0 }).logHub 0x40 0
                (0x0210 + k * 2 ^ 16 + fn * 2 ^ 32)))))
    ∧ (Accepted 0x0211 p s (parCheck p [(20, 1)] (decide (k < 64))) false → (s.key k).bound = some fn → s.keyLocked p.session k = false →
        (∀ i ∈ s.images, i.keySlot ≠ some k) → (∀ c ∈ s.claims, c.desc.map (·.slot) ≠ some k) → exec (.keyClear p) s
          = .next (conclude 0x0211 p (done ((s.setKey k KeySlot.init).logHub 0x40 0 (0x0211 + k * 2 ^ 16 + fn * 2 ^ 32)))))
    ∧ (Accepted 0x0212 p s (parCheck p [] (decide (p.len.toNat = 97))) false →
        exec (.kekAgree p) s = .next (conclude 0x0212 p
          (match Config.kekDerive (memToNat (bufMem s p)) (leNat (leBytes 6 0x4B454B564B53 ++ leBytes 2 fn ++ leBytes 8 s.legend)) with
          | none => .reply 0x8002 0 0 s
          | some kek => done
            (State.logHub { s with keks := mset none fn (some kek) s.keks } 0x40 0 (0x0212 + 0xFF * 2 ^ 16 + fn * 2 ^ 32)))))

-- host commands: tables, run control, surveys, memory

/-- TABLE_COMMIT and TABLE_POKE_ACTIVE (R112 to R114, R401). A commit on a running group waits for its cycle; on a group that does not run
it swaps at once, or once the copy in progress has ended; a cycle that is past answers ERR_STATE. A poke writes the field into both pages
and answers with the cycle and the step it landed in; from step p − 1 on, and in the executing step itself (R216; log entry 58), the entry
of step p is used as fetched until the next cycle. What was in uncorrectable error stays so until a reload (R216). -/
def Obligations.TableCommands : Prop :=
  ∀ (s : State) (p : Packet),
    (∀ g : Nat, Accepted 0x0220 p s (parCheck p [(20, 4), (28, 8)] true) (decide (par p 20 4 = 0)) → ownedGroup p s = .ok g →
      let r := s.group g
      let at_ : Word := BitVec.ofNat 64 (par p 28 8)
      let first := if r.step = r.n then r.cycle + 1 else r.cycle
      let marked := forEach r.parcels (fun i u => u.updParcel i fun v => { v with commitPend := true }) s
      (r.state = .running → at_ = 0 → exec (.tableCommit p) s
        = .next (conclude 0x0220 p (.park (.commit g (some first)) marked)))
      ∧ (r.state = .running → at_ ≠ 0 → first.toNat ≤ at_.toNat → exec (.tableCommit p) s
        = .next (conclude 0x0220 p (.park (.commit g (some at_)) marked)))
      ∧ (r.state = .running → at_ ≠ 0 → at_.toNat < first.toNat → exec (.tableCommit p) s
        = .next (conclude 0x0220 p (.reply 0x8008 0 0 s)))
      ∧ (r.state ≠ .running → at_ = 0 → s.copying g = false → exec (.tableCommit p) s
        = .next (conclude 0x0220 p (done (s.swapPages g r.cycle
          (s.anyParked fun w => match w with | .commit h _ => decide (h = g) && true | _ => false)) r.cycle.toNat)))
      ∧ (r.state ≠ .running → at_ = 0 → s.copying g = true → exec (.tableCommit p) s
        = .next (conclude 0x0220 p (.park (.commit g none) marked))))
    ∧ (∀ g : Nat, Accepted 0x0221 p s (parCheck p [(20, 1), (21, 1), (22, 1), (23, 1), (24, 2), (28, 8)] (pokeOk p)) false →
        par p 21 1 = 0 → s.ownCheck (p.session / 16) [par p 20 1] = none → s.parcelLocked p.session [par p 20 1] = false →
        (s.parcel (par p 20 1)).rg = some g → s.inWork (par p 20 1) = false → (s.group g).state = .running →
        (s.group g).step < (s.group g).n →
        let r := s.group g
        let c := clOf (par p 20 1) (par p 22 1)
        let e := par p 24 2
        let key := c * 4096 + e
        let lo := if par p 23 1 < 16 then 16 * par p 23 1 else 256 + 32 * (par p 23 1 - 16)
        let w := if par p 23 1 < 16 then 16 else 32
        let put (x : BitVec 512) : BitVec 512 := BitVec.ofNat 512 (putBits x.toNat lo w (par p 28 8))
        let t := (s.eccMerge 3 (key * 8 + lo / 64)).eccMerge 10 (key * 8 + lo / 64)
        let poked : State :=
          { t with sendAct := mset 0 key (put (mget 0 key s.sendAct)) s.sendAct
                   sendShd := mset 0 key (put (mget 0 key s.sendShd)) s.sendShd }
        (r.step + 2 ≤ e → exec (.tablePokeActive p) s
          = .next (conclude 0x0221 p (done poked (r.cycle.toNat + r.step * 2 ^ 64))))
        ∧ (e < r.step → exec (.tablePokeActive p) s
          = .next (conclude 0x0221 p (done poked (r.cycle.toNat + r.step * 2 ^ 64 + 2 ^ 80))))
        ∧ (∀ late : Nat, late = r.step ∨ late = r.step + 1 → e = late → e < r.n → mget none key s.fetchSnd = none →
          exec (.tablePokeActive p) s
          = .next (conclude 0x0221 p (done { poked with fetchSnd := mset none key (some (mget 0 key s.sendAct)) s.fetchSnd }
              (r.cycle.toNat + r.step * 2 ^ 64 + 2 ^ 80)))))
    ∧ (∀ g h : Nat, Accepted 0x0221 p s (parCheck p [(20, 1), (21, 1), (22, 1), (23, 1), (24, 2), (28, 8)] (pokeOk p)) false →
        par p 21 1 = 1 → s.ownCheck (p.session / 16) [par p 20 1] = none → s.parcelLocked p.session [par p 20 1] = false →
        (s.parcel (par p 20 1)).rg = some h → s.inWork (par p 20 1) = false → (s.quad (par p 22 1)).rg = some g →
        (s.quad (par p 22 1)).group = p.session / 16 → s.quadLocked p.session (par p 22 1) = false → (s.group g).state = .running →
        (s.group g).step < (s.group g).n → (s.group g).step + 2 ≤ par p 24 2 / 8 →
        let r := s.group g
        let key := par p 22 1 * 32768 + par p 24 2
        let put (x : BitVec 40) : BitVec 40 := BitVec.ofNat 40 (putBits x.toNat 0 40 (par p 28 8))
        let t := (s.eccMerge 4 key).eccMerge 11 key
        exec (.tablePokeActive p) s
          = .next (conclude 0x0221 p (done { t with quadAct := mset 0 key (put (mget 0 key s.quadAct)) s.quadAct
                                                    quadShd := mset 0 key (put (mget 0 key s.quadShd)) s.quadShd }
              (r.cycle.toNat + r.step * 2 ^ 64))))

/-- RUN_AT, RUN_STOP, PAUSE_AT and RESUME_AT (R129 to R133, R135, R282): a group that can run, with its time at least 2,000 ns ahead, is ARMED
and the command waits for its first step; less ahead answers ERR_STATE. A stop is due at the end of the asked or the earliest cycle and the
command waits for it; a group that does not run is OK_ALREADY. A pause ahead waits for its time, one that is due begins at once; a resume
gives the pause in force its end. -/
def Obligations.RunControl : Prop :=
  ∀ (s : State) (p : Packet) (g : Nat), runGroupOf p s = .ok g →
    let r := s.group g
    let t : Word := BitVec.ofNat 64 (par p 28 8)
    let e : Word := BitVec.ofNat 64 (par p 36 8)
    let now := s.tOpen s.opp
    (Accepted 0x0300 p s (parCheck p [(20, 4), (28, 8)] true) (decide (par p 20 4 = 0)) → s.runnable g = true →
      (s.cargoQuads g = [] ∨ r.joined = true) →
      (inWindow t s.datum.now = false → exec (.runAt p) s = .next (conclude 0x0300 p (.reply 0x8002 0 0 s)))
      ∧ (inWindow t s.datum.now = true →
      ((131072000 : Int) ≤ signed64 t s.datum.now → exec (.runAt p) s
        = .next (conclude 0x0300 p (.park (.runStart g) (s.setGroup g
            { r with state := .armed, prior := r.state, startTime := some t, stops := [], seenStops := [], faultSent := false, halting := none }))))
      ∧ (signed64 t s.datum.now < (131072000 : Int) → exec (.runAt p) s = .next (conclude 0x0300 p (.reply 0x8008 0 0 s)))))
    ∧ (Accepted 0x0301 p s (parCheck p [(20, 4), (28, 8)] true) (decide (par p 20 4 = 0)) →
      (∀ c : Word, r.state = .running → r.joined = false → r.paused = false → r.step < r.n →
        (t = 0 ∧ c = r.cycle ∨ t ≠ 0 ∧ r.cycle.toNat ≤ t.toNat ∧ c = t) →
        r.stops.contains { cause := 2, cycle := c } = false → exec (.runStop p) s
        = .next (conclude 0x0301 p (.park (.runStop g c) ((s.setGroup g { r with stops := r.stops ++ [{ cause := 2, cycle := c }] }).updGroup
            g fun v => { v with divHeld := false }))))
      ∧ (r.state ≠ .running → r.state ≠ .armed → exec (.runStop p) s
        = .next (conclude 0x0301 p (.reply 5 0 r.cycle.toNat s))))
    ∧ (Accepted 0x0302 p s (parCheck p [(20, 4), (28, 8), (36, 8)] (inWindow t s.datum.now
          && (decide (e = 0) || (inWindow e s.datum.now && decide (0 < signed64 e t))))) (decide (par p 20 4 = 0)) →
      (r.state = .armed ∨ r.state = .running) → r.paused = false →
      let q (raised : Bool) : Pause :=
        { pauseTime := t, resumeTime := if e = 0 then none else some e, again := none, raised := raised }
      (signed64 now t < 0 → exec (.pauseAt p) s
        = .next (conclude 0x0302 p (.park (.pauseRaise g t) (s.setGroup g { r with pauses := r.pauses ++ [q false] }))))
      ∧ (0 ≤ signed64 now t → (e = 0 ∨ signed64 now e < 0) → exec (.pauseAt p) s
        = .next (conclude 0x0302 p (done (s.setGroup g { r with pauses := r.pauses ++ [q true] }) r.position))))
    ∧ (Accepted 0x0303 p s (parCheck p [(20, 4), (28, 8)] (inWindow t s.datum.now)) (decide (par p 20 4 = 0)) →
      (∀ q : Pause, r.pauses = [q] → q.raised = true → signed64 now t < 0 → exec (.resumeAt p) s
        = .next (conclude 0x0303 p (.park (.pauseRelease g) (s.setGroup g { r with pauses := [{ q with again := some t }] }))))
      ∧ (r.paused = false → exec (.resumeAt p) s = .next (conclude 0x0303 p (.reply 0x8008 0 0 s))))

/-- SURVEY and SURVEY_RESTORE (R230, R231, R237 to R239): a survey without a cycle or a time captures a group that does not run at once, and
a running one at the end of its cycle; a buffer that is too short answers with the length needed; a restore that passes its checks writes
the design state and answers with the cycle, one that fails a check changes nothing. Where the write pass reads other bytes than the check pass (a
free value, log 90), the group is restore-bad, with detail 0x0713 or 0x0721. -/
def Obligations.SurveyCommands : Prop :=
  ∀ (s : State) (p : Packet) (g : Nat) (i : Image),
    let d := bufMem s p
    let ps := maskList 32 (memNat d 0 4)
    let r := s.group g
    (s.imageOfMask ps = some (g, i) → s.ownCheck (p.session / 16) ps = none → s.parcelLocked p.session ps = false →
      Accepted 0x0400 p s (surveyBad p s) (decide (memNat d 32 8 = 0) || decide (memNat d 0 4 = 0)) → slotMatches i (memNat d 5 1) = true →
      (∀ q ∈ ps, s.inWork q = false ∧ (s.parcel q).svState = .idle) → r.state ≠ .armed → r.state ≠ .faultHalted → memNat d 8 8 = 0 →
      bitOf (memNat d 4 1) 1 = false →
      let need := 256 + s.bodyLen g i (memNat d 4 1)
      let q (at_ : Word) : SurveyReq :=
        { parcels := ps, stamp := 0, flags := memNat d 4 1, atCycle := at_, atTime := memWord d 16, dest := memWord d 24
          length := memNat d 32 8, taking := false }
      (memNat d 32 8 < need → exec (.survey p) s = .next (conclude 0x0400 p (.reply 0x8002 0x0701 (need * 2 ^ 64) s)))
      ∧ (need ≤ memNat d 32 8 → r.state ≠ .running → exec (.survey p) s
        = .next (conclude 0x0400 p (.park (.survey g (listMask ps)) ((s.setSv (r.surveyed (q 0)) .capturing).updGroup g fun v =>
            { v with surveys := (v.surveys.filter fun x => decide (x.parcels ≠ ps)) ++
                [{ q 0 with stamp := s.datum.now, taking := true }] }))))
      ∧ (need ≤ memNat d 32 8 → r.state = .running → r.step < r.n → exec (.survey p) s
        = .next (conclude 0x0400 p (.park (.survey g (listMask ps)) ((s.setSv i.parcels .pending).updGroup g fun v =>
            { v with surveys := v.surveys ++ [q r.cycle] })))))
    ∧ (let t := s.resumed 0x0401 p
      let d := bufMem t p
      let ps := maskList 32 (memNat d 0 4)
      t.imageOfMask ps = some (g, i) → t.ownCheck (p.session / 16) ps = none → t.parcelLocked p.session ps = false →
      ps.any t.inWork = false → Accepted 0x0401 p t (parCheck p [] (decide (p.len = 32) && zeroAt d 5 3 && zeroAt d 24 8))
        (decide (memNat d 16 8 = 0) || decide (memNat d 0 4 = 0)) →
      (∀ a ∈ i.allots, t.Takes (.stack a.1)) → exec (.surveyRestore p) s = .next (conclude 0x0401 p
        (match restoreCheck t g i (memNat d 4 1) (memNat d 8 8) (memNat d 16 8) with
        | .error (st, dt) => .reply st dt 0 t
        | .ok (m, items, cycle) =>
          let u := { t with freeCtr := t.freeCtr + 1 }
          match rereadFail (Config.freeValue t.freeCtr 2) i.keySlot.isSome 0x0713 0x0721 with
          | some (st, dt) => .reply st dt 0 (restoreSpoil u g i items)
          | none => done (restoreWrite u g i m items cycle) cycle.toNat)))

/-- MEM_READ, MEM_WRITE, MEM_ATOMIC and HBM_PARTITION (R179 to R181, R187, R188): an access of a bank raises the request line of its master
and waits under a number of its own; an access of a stack of an image of the caller moves its words, once the stack is awake; an atomic
joins the queue of master 3; a partition that moves no used unit answers OK, and its boundaries are in force once the reply is released. -/
def Obligations.MemoryCommands : Prop :=
  ∀ (s : State) (p : Packet),
    let fn := p.session / 16
    let unit := par p 21 1
    let c := clOf unit (par p 22 1)
    let word := par p 24 8
    let n := p.len.toNat / 8
    let id := (s.cluster c).accessNo
    s.boot.pairMode ≠ 2 →
    (par p 20 1 = 0 → s.ownCheck fn [unit] = none → (s.parcel unit).load = .loaded →
      (s.lockedBy p.session fun l => l.onBank c word n) = false →
      (Accepted 0x0500 p s (memBad p s false) (decide (p.len = 0)) → exec (.memRead p) s
        = .next (conclude 0x0500 p (.park (.bank c false 0 n word id)
            ((s.syncArb c s.opp).updCluster c fun v => { v with accessNo := id + 1, host := v.host ++ [.rd word id] }))))
      ∧ (Accepted 0x0501 p s (memBad p s true) (decide (p.len = 0)) → exec (.memWrite p) s
        = .next (conclude 0x0501 p (.park (.bank c true 0 n word id)
            ((s.syncArb c s.opp).updCluster c fun v =>
              { v with accessNo := id + 1, host := v.host ++ [.wr word (BitVec.ofNat 64 (memNat (bufMem s p) 0 8)) id] })))))
    ∧ (∀ (g : Nat) (i : Image), par p 20 1 = 1 → n = 1 → s.imageAt fn unit (word / unitWords) = some (g, i) →
        (s.phase = 1 → (s.stack unit).trained = true) → s.workOf 0x0500 p = none → s.workOf 0x0501 p = none →
        s.parcelLocked p.session i.parcels = false →
        (Accepted 0x0500 p s (memBad p s false) (decide (p.len = 0)) → s.unready (.stack unit) = true → exec (.memRead p) s
          = .next (conclude 0x0500 p (.park (.domains [.stack unit]) (s.callDomain (.stack unit)))))
        ∧ (s.Takes (.stack unit) →
        (Accepted 0x0500 p s (memBad p s false) (decide (p.len = 0)) → s.eccAt 9 (unit * 2 ^ 33 + word) = 0 → exec (.memRead p) s
          = .next (conclude 0x0500 p (done (bufPut s p 0 (leBytes 8 (s.hbmWord unit word).toNat)) (1 + (2 ^ 64 - 1) * 2 ^ 32))))
        ∧ (Accepted 0x0501 p s (memBad p s true) (decide (p.len = 0)) → exec (.memWrite p) s
          = .next (conclude 0x0501 p (done (s.hbmStore unit word (BitVec.ofNat 64 (memNat (bufMem s p) 0 8))) (1 + (2 ^ 64 - 1) * 2 ^ 32))))))
    ∧ (Accepted 0x0502 p s (parCheck p [(20, 1), (21, 1), (22, 1), (23, 1), (24, 2), (28, 8)]
          (decide (p.buf = 0) && decide (p.len = 0) && decide (par p 20 1 = 0) && decide (unit < 32) && decide (par p 22 1 < 16)
            && decide (par p 23 1 < 2) && !(decide (s.boot.pairMode = 2) && decide (16 ≤ unit)))) false →
        s.ownCheck fn [unit] = none → (s.parcel unit).load = .loaded →
        (s.lockedBy p.session fun l => l.onBank c (par p 24 2) 1) = false → exec (.memAtomic p) s
          = .next (conclude 0x0502 p (.park (.atomicOp c (par p 24 2) id) ((s.syncArb c s.opp).updCluster c fun x => { x with
              accessNo := id + 1
              atomics := x.atomics ++ [if par p 23 1 = 0 then .add (par p 24 2) (BitVec.ofNat 64 (par p 28 8)) id
                else .swap (par p 24 2) (BitVec.ofNat 64 (par p 28 8)) id] }))))
    ∧ (Accepted 0x0510 p s (parCheck p [(20, 1), (24, 2), (26, 2), (28, 2)] (decide (par p 20 1 < 4) && decide (par p 24 2 ≤ par p 26 2)
          && decide (par p 26 2 ≤ par p 28 2) && decide (par p 28 2 ≤ 576))) false → p.session < 16 →
        let k := par p 20 1
        let v := s.stack k
        (∀ x ∈ s.designUsed k ++ s.traceUsed k ++ s.insetUsed k, ∀ j < x.2,
          regionOf v.designEnd v.traceEnd v.insetEnd (x.1 + j) = regionOf (par p 24 2) (par p 26 2) (par p 28 2) (x.1 + j)) →
        exec (.hbmPartition p) s = .next (conclude 0x0510 p (done s))
        ∧ ∀ (e : Entry) (y : Reply), e.opcode = 0x0510 → e.pkt = p → y.status < 0x8000 → s.applyReleased e y
          = s.setStack k { v with designEnd := par p 24 2, traceEnd := par p 26 2, insetEnd := par p 28 2 })

-- host commands: trace, datum, pins; the datum's own events

/-- TRACE_CONFIG, TRACE_ARM, TRACE_FORCE, TRACE_READ and TRACE_RELEASE (R254, R255, R262, R263, R275): engines that can be bound are bound with
their buffers; an arm of a group that does not run takes effect at once, clamped to the buffer with OK_CLAMPED, and one of a running group
waits; a force sets input 110 of armed engines; a read copies whole samples, or event entries, from the index asked for; a release frees
the engines and ends an arm that waits. -/
def Obligations.TraceCommands : Prop :=
  ∀ (s : State) (p : Packet) (g : Nat), traceGroup p s = .ok g →
    let r := s.group g
    let es := s.groupEngines r
    let post := par p 28 8
    (∀ (bs : List TraceBlock) (t : State), Accepted 0x0600 p s (parCheck p [(20, 4)] true) (decide (p.len = 0) || decide (par p 20 4 = 0)) →
      r.state ≠ .armed → r.state ≠ .running → parseBlocks (bufMem s p) p.len.toNat = some bs →
      bindError s (p.session / 16) g r bs s.hasShip = none → bindAll s g (p.session / 16) r bs es = some t →
      t.groupEngines r = es → (∀ e ∈ es, t.Takes (.trace e)) →
      exec (.traceConfig p) s = .next (conclude 0x0600 p (done t)))
    ∧ (Accepted 0x0601 p s (parCheck p [(20, 4), (24, 1), (28, 8), (36, 6), (44, 8)] (decide (par p 24 1 < 2))) (decide (par p 20 4 = 0)) →
      s.traceBound g = true → par p 24 1 = 0 →
      let u := s.endWaits 0x8006 0 fun w => decide (w = .arm g 0)
      (r.state ≠ .running → exec (.traceArm p) s
        = .next (conclude 0x0601 p
            (let t := (u.armGroup g p).updGroup g fun v => { v with traceArm := none, armWaits := false }
             let n := t.armCount g post
             .reply (if n < post then 2 else 0) 0 (n + r.cycle.toNat * 2 ^ 64) t)))
      ∧ (r.state = .running → exec (.traceArm p) s
        = .next (conclude 0x0601 p (.park (.arm g 0) (u.updGroup g fun v => { v with traceArm := none, armWaits := decide (v.step = v.n) })))))
    ∧ (Accepted 0x0602 p s (parCheck p [(20, 4)] true) (decide (par p 20 4 = 0)) → s.traceBound g = true →
      (∀ e ∈ es, (s.engine e).state = .armed) → exec (.traceForce p) s
        = .next (conclude 0x0602 p (done (forEach es (fun e t => t.updEngine e fun v => { v with force := true }) s))))
    ∧ (Accepted 0x0603 p s (parCheck p [(20, 4), (24, 1), (25, 1), (28, 8)] (decide (par p 24 1 < 2) && decide (par p 25 1 < 2)))
        (decide (p.len = 0) || decide (par p 20 4 = 0)) → s.traceBound g = true →
      let e := s.engine (par p 24 1)
      let out (recs : List (List Byte)) (each : Nat) : List (List Byte) := (recs.drop post).take (p.len.toNat / each)
      e.rg = some g → e.state ≠ .armed → e.state ≠ .filling → (e.onDie = true ∨ s.Takes (.stack (2 * par p 24 1 + e.side)) ∧ s.ecc = []) →
      (par p 25 1 = 0 → exec (.traceRead p) s
        = .next (conclude 0x0603 p
            (let l := out (e.buffer.map sampleBytes) (recordLen (sampleWords e.clusters.length))
             done (bufPut s p 0 l.flatten) (l.length + e.buffer.length * 2 ^ 32))))
      ∧ (par p 25 1 = 1 → exec (.traceRead p) s
        = .next (conclude 0x0603 p
            (let l := out (e.events.map eventBytes) 16
             done (bufPut s p 0 l.flatten) (l.length + e.events.length * 2 ^ 32)))))
    ∧ (Accepted 0x0604 p s (parCheck p [(20, 4)] true) (decide (par p 20 4 = 0)) → s.traceBound g = true → exec (.traceRelease p) s
        = .next (conclude 0x0604 p (done (forEach [0, 1] (fun e t => if (t.engine e).rg = some g then t.freeEngine e else t)
            ((s.endWaits 0x8006 0 fun w => decide (w = .arm g 0)).updGroup g fun v => { v with traceArm := none, armWaits := false })))))

/-- DATUM_ROLE, DATUM_ADJUST, DATUM_ORIGIN and DATUM_LINK_CAL (R280, R283 to R286, R293): a role starts its lock state and clears what the
servo has counted; an adjustment puts one new tag into both staged registers and waits for the FRAME edge; the origin and a quad's
asymmetry take their values. All four are of the physical function. -/
def Obligations.DatumCommands : Prop :=
  ∀ (s : State) (p : Packet), p.session < 16 →
    let d := s.datum
    let role := par p 20 1
    (Accepted 0x0700 p s (parCheck p [(20, 1), (22, 2)] (datumRoleOk p s)) false → s.boot.stage = .full →
      (role = d.role → exec (.datumRole p) s = .next (conclude 0x0700 p (.reply 5 0 0 s)))
      ∧ (role ≠ d.role → s.joinedBusy = false →
        let fresh (lock gm : Nat) : Datum :=
          { d with role := role, lock := lock, good := 0, bad := 0, ppsGood := 0, seqs := [], gmPart := gm }
        (role = 0 → exec (.datumRole p) s = .next (conclude 0x0700 p (done (s.setDatum (fresh 0 0)))))
        ∧ (∀ own : Nat, s.boot.part = some own →
          (role = 1 → exec (.datumRole p) s
            = .next (conclude 0x0700 p (done ((s.setDatum (fresh 2 own)).endEpisode 80 0x4001))))
          ∧ (role = 2 → exec (.datumRole p) s = .next (conclude 0x0700 p (done (s.setDatum (fresh 1 own)))))
          ∧ (role = 3 → exec (.datumRole p) s = .next (conclude 0x0700 p (done (s.setDatum (fresh 1 (par p 22 2)))))))
        ∧ (role ≠ 0 → s.boot.part = none → exec (.datumRole p) s = .next (conclude 0x0700 p (.reply 0x8008 0 0 s)))))
    ∧ (Accepted 0x0701 p s (parCheck p [(20, 8), (28, 8)] (datumAdjustOk p)) (decide (par p 20 8 = 0) && decide (par p 28 8 = 0)) →
      (2 ≤ d.role → exec (.datumAdjust p) s = .next (conclude 0x0701 p (.reply 0x8008 0 0 s)))
      ∧ (d.role < 2 → d.apply = none →
        let a := if par p 20 8 = 0 then d.addend else BitVec.ofNat 60 (par p 20 8)
        let tag := (d.tag + 1) % 16
        exec (.datumAdjust p) s = .next (conclude 0x0701 p (.park .datumEdge ((s.setDatum { d with
          stgAddend := a, stgTag := tag, offset := 0, offTag := tag
          apply := some { addend := a, tag := tag, changes := [(adjustOffset p, false)] } }).noteCommit 0x50 0 0)))))
    ∧ (Accepted 0x0702 p s (parCheck p [(20, 8), (28, 4)] (decide (par p 20 8 < 2 ^ 48) && decide (par p 28 4 < 1000000000))) false →
      exec (.datumOrigin p) s = .next (conclude 0x0702 p (done (s.setDatum { d with originS := par p 20 8, originNs := par p 28 4 }))))
    ∧ (Accepted 0x0703 p s (parCheck p [(20, 1), (22, 2)] (decide (par p 20 1 < 36))) false → exec (.datumLinkCal p) s
        = .next (conclude 0x0703 p (done (s.updQuad (par p 20 1) fun q => { q with asym := (BitVec.ofNat 16 (par p 22 2)).toInt }))))

/-- A FRAME edge without a change that waits adds the addend to the counter, epoch and fraction included (R276 to R278), and begins the next
frame (R22). -/
def Obligations.DatumAdvances : Prop :=
  ∀ s : State, s.clocked = true → s.datum.apply = none → s.datum.frac < 2 ^ 32 →
    (s.anyParked fun w => decide (w = .datumEdge)) = false → ∃ t, exec .datumTick s = .next t ∧ t.opp = (s.opp / 4 + 1) * 4 ∧ t.datum.addend = s.datum.addend ∧ t.datum.frac < 2 ^ 32
      ∧ (t.datum.epoch.toNat * 2 ^ 64 + t.datum.now.toNat) * 2 ^ 32 + t.datum.frac
          = ((s.datum.epoch.toNat * 2 ^ 64 + s.datum.now.toNat) * 2 ^ 32 + s.datum.frac + s.datum.addend.toNat) % 2 ^ 128

/-- TRIG_BIND, TRIG_PULSE, TRIG_OUT_EDGE, TRIG_IN_EDGE and PPS_OUT_EDGE (R295 to R299): a pin that is free is bound to the parcels of one
owner, and an unbinding leaves it low; a train takes its start, rounded, at least 1,000 ns ahead, and each of its edges drives the pin; one
that comes during a pulse waits for its end, and its command with it; a
captured edge, but not one within 6.4 ns of the last, reaches the engine that uses the pin at its time and its place in the cycle, the first
of a cycle only; PPS_OUT is high in the first 10 ms of the
part's own seconds. -/
def Obligations.PinCommands : Prop :=
  ∀ (s : State) (p : Packet),
    let out := decide (par p 20 1 = 1)
    let k := par p 21 1
    let v := s.trigOutPin (par p 20 1)
    (Accepted 0x0704 p s (parCheck p [(20, 1), (21, 1), (22, 1), (24, 4), (28, 4)] (trigBindOk p))
        (decide (par p 22 1 = 0) && decide (par p 24 4 = 0)) → p.session < 16 →
      (par p 22 1 = 0 → (∃ i ∈ maskList 32 (par p 24 4), s.failed i = true) → exec (.trigBind p) s
          = .next (conclude 0x0704 p (.reply 0x8007 0 0 s)))
      ∧ (∀ f : Nat, par p 22 1 = 0 → s.maskOwner (maskList 32 (par p 24 4)) = some f →
        (∀ i ∈ maskList 32 (par p 24 4), s.failed i = false) →
        (out = true → (s.trigOutPin k).parcels = 0 → exec (.trigBind p) s = .next (conclude 0x0704 p (done (s.setTrigOut k
          { TrigPin.init with parcels := par p 24 4, owner := f, seqWidth := par p 28 4 }))))
        ∧ (out = false → (s.trigInPin k).parcels = 0 → exec (.trigBind p) s = .next (conclude 0x0704 p (done (s.setTrigIn k
          { TrigPin.init with parcels := par p 24 4, owner := f }))))
        ∧ (out = false → (s.trigInPin k).parcels ≠ 0 → exec (.trigBind p) s = .next (conclude 0x0704 p (.reply 0x8008 0 0 s))))
      ∧ (par p 22 1 = 1 → out = true → (s.trigOutPin k).parcels ≠ 0 → exec (.trigBind p) s
          = .next (conclude 0x0704 p (done ((s.endWaits 0x8006 0 fun w => decide (w = .pulse k)).setPin k TrigPin.init)))))
    ∧ (Accepted 0x0705 p s (parCheck p [(20, 1), (21, 1), (24, 4), (28, 8), (36, 4), (40, 8)] (trigPulseOk p s))
        (decide (par p 21 1 = 0) && (decide (par p 24 4 = 0) || decide (par p 36 4 = 0))) → v.parcels ≠ 0 → v.owner = p.session / 16 →
      let start : Word := BitVec.ofNat 64 (par p 28 8)
      let new : Train := { start := round2ps start.toNat, count := par p 24 4, width := par p 36 4, period := par p 40 8, next := 0 }
      let u := s.endWaits 0x8006 0 fun w => decide (w = .pulse (par p 20 1))
      (par p 21 1 = 0 → (65536000 : Int) ≤ signed64 start s.datum.now →
        ((∀ o, v.train = some o → o.next % 2 = 0) → exec (.trigPulse p) s
          = .next (conclude 0x0705 p (done (u.setTrigOut (par p 20 1) { v with train := some new, newTrain := none }) new.start.toNat)))
        ∧ (∀ o, v.train = some o → o.next % 2 = 1 → exec (.trigPulse p) s
          = .next (conclude 0x0705 p (.park (.pulse (par p 20 1)) (u.setTrigOut (par p 20 1) { v with newTrain := some new })))))
      ∧ (par p 21 1 = 0 → signed64 start s.datum.now < (65536000 : Int) → exec (.trigPulse p) s
        = .next (conclude 0x0705 p (.reply 0x8008 0 0 s))))
    ∧ (∀ (j : Nat) (t : Train), j < 4 → (s.trigOutPin j).seqHigh = false → (s.trigOutPin j).train = some t →
        (0 : Int) ≤ signed64 (s.tOpen s.opp) (t.edge t.next) → let v := s.trigOutPin j
        (v.newTrain = none →
          (t.next % 2 = 0 → t.next + 1 ≠ 2 * t.count → exec (.trigOutEdge j) s
            = .next (s.setPin j { v with train := some { t with next := t.next + 1 }, trainHigh := s.pinDriven v }).settle)
          ∧ (t.next % 2 = 1 → exec (.trigOutEdge j) s
            = .next (s.setPin j { v with train := if t.next + 1 = 2 * t.count then none else some { t with next := t.next + 1 }
                                         trainHigh := false }).settle))
        ∧ (∀ n : Train, v.newTrain = some n → t.next % 2 = 1 → exec (.trigOutEdge j) s
            = .next ((s.setPin j { v with train := some n, newTrain := none, trainHigh := false }).finishParked fun _ w =>
                if w = .pulse j then some (0, 0, n.start.toNat) else none).settle))
    ∧ (∀ (j : Nat) (falling : Bool) (t : Word), j < 4 →
        let w := s.trigInPin j
        ((w.parcels = 0 ∨ ∃ l, w.lastEdge = some l ∧ (t - l).toNat * 10 ≤ 4194304) → exec (.trigInEdge j falling t) s = .next s)
        ∧ (w.parcels ≠ 0 → w.lastEdge = none → mwf Engine.init s.engines = true →
          let u := s.setTrigIn j { w with lastEdge := some t }
          let uses (e : Nat) (g : Nat) : Prop := (s.engine e).rg = some g ∧ (s.group g).state = .running
            ∧ bitOf (s.engine e).trigUse j = true ∧ bitOf (s.engine e).inPol j = falling
          ((∀ e g : Nat, e < 2 → ¬ uses e g) → exec (.trigInEdge j falling t) s = .next u)
          ∧ (∀ e g : Nat, e < 2 → uses e g → (∀ g' : Nat, ¬ uses (1 - e) g') →
            let x := placeEdge s g t
            let n := s.engine e
            (n.edgeIn x.1 j = none → exec (.trigInEdge j falling t) s = .next (u.setEngine e { n with
              edges := n.edges ++ [{ pin := j, time := t, cycle := x.1, step := x.2.1, frac := x.2.2.1, held := x.2.2.2 }] }))
            ∧ (n.edgeIn x.1 j ≠ none → exec (.trigInEdge j falling t) s = .next u))))
    ∧ (let high := s.clocked && decide (s.datum.pastSecond s.datum.epoch.toNat s.datum.now.toNat < 655360000000)
       (s.ppsHigh = high → exec .ppsOutEdge s = .next s)
       ∧ (s.ppsHigh ≠ high → exec .ppsOutEdge s
          = .next (State.setSent { s with ppsHigh := high } { s.sent with pins := s.sent.pins ++ [(4, high)] })))

/-- PPS_IN_EDGE, PPS_TIMEOUT, SYNC_ORIGINATE, SYNC and SYNC_TIMEOUT (R289 to R291): an edge is recorded, and a GM_PPS part in full service
locks at the fourth good one in a row and steers; without edges it holds over with DATUM_UNLOCK; a grandmaster sends the next seq on every
link; a follower steers by a SYNC of its grandmaster, and one that it has seen, or of fifteen hops, is discarded and counted; without one it holds
over.
PEER_DELAY_EXCHANGE, PDELAY_REQ and PDELAY_RESP (R287, R288): a link end sends the next request; the far end answers with the time of
arrival; the answer to the last request gives twice the one-way delay, kept with the last 15 before it. -/
def Obligations.DatumEvents : Prop :=
  (∀ s : State,
    let d := s.datum
    (∀ t : Word, s.clocked = false → exec (.ppsInEdge t) s = .next s)
    ∧ (∀ t : Word, s.clocked = true →
      let e := d.secondError t
      let near := decide (-65536 ≤ e) && decide (e ≤ 65536)
      let u := s.setDatum { d with ppsIn := t, ppsOk := near }
      (d.role ≠ 2 → exec (.ppsInEdge t) s = .next u)
      ∧ (d.role = 2 → s.phase = 2 → s.boot.stage = .full → near = true → d.ppsGood + 1 < 4 → d.lock ≠ 3 → d.lock ≠ 2 →
        exec (.ppsInEdge t) s
          = .next ((u.setDatum { u.datum with offLast := BitVec.ofInt 64 e, ppsGood := d.ppsGood + 1 }).servoSlew e))
      ∧ (d.role = 2 → s.phase = 2 → s.boot.stage = .full → near = true → 4 ≤ d.ppsGood + 1 → exec (.ppsInEdge t) s
          = .next (((u.setDatum { u.datum with offLast := BitVec.ofInt 64 e, ppsGood := d.ppsGood + 1, lock := 2 }).endEpisode
              80 0x4001).servoSlew e)))
    ∧ (d.role = 2 → s.phase = 2 → exec .ppsTimeout s = .next (s.unlock 3))
    ∧ (∀ own : Nat, (d.role = 1 ∨ d.role = 2) → s.boot.part = some own → exec .syncOriginate s
        = .next (forEach (List.range 36) (fun q t => t.queueTime q (own * 2 ^ 8 + (d.txSeq + 1) % 65536 * 2 ^ 32))
            (s.setDatum { d with txSeq := (d.txSeq + 1) % 65536
                                 seqs := mset [] own (noteSeq ((d.txSeq + 1) % 65536) (mget [] own d.seqs)) d.seqs })))
    ∧ (d.role = 3 → s.phase = 2 → (d.lock = 1 ∨ d.lock = 2) → exec .syncTimeout s = .next (s.unlock 3))
    ∧ (∀ (l : Nat) (cw : Codeword), l < 144 → (s.lane l).state = .up → (s.lane l).fec = 0 → s.pairHeld l = false → cw.zero = 0 →
        cw.type = 3 → cw.vc < 3 → timeBodyOk cw.body.toNat 0 = true →
        let b := cw.body.toNat
        let u := s.setLane l ((s.lane l).header cw)
        let din := (s.quad (l / 4)).meanDelay
        let th := (d.now.toNat : Int) + signed64 cw.time d.now
          - ((bitsOf b 64 64 : Int) + (BitVec.ofNat 32 (bitsOf b 256 32) - d.epoch).toInt * 2 ^ 64) - (BitVec.ofNat 64 (bitsOf b 128 64)).toInt - din
        (d.role = 0 → exec (.sync l cw) s = .next u.settle)
        ∧ (d.role ≠ 0 → bitsOf b 32 16 ∈ mget [] (bitsOf b 8 10) d.seqs ∨ bitsOf b 4 4 = 15 → exec (.sync l cw) s
            = .next (u.setDatum { d with discarded := satAdd 16 d.discarded 1 }).settle)
        ∧ (d.role = 3 → bitsOf b 32 16 ∉ mget [] (bitsOf b 8 10) d.seqs → bitsOf b 4 4 < 15 → bitsOf b 8 10 = d.gmPart → s.phase = 2 →
            mwf Lane.init s.lanes = true → (∀ q < 36, q ≠ l / 4 → s.timeLane q = none) → d.lock = 2 → -65536 ≤ th → th ≤ 65536 →
            exec (.sync l cw) s = .next ((u.setDatum { d with
              seqs := mset [] (bitsOf b 8 10) (noteSeq (bitsOf b 32 16) (mget [] (bitsOf b 8 10) d.seqs)) d.seqs, hops := bitsOf b 4 4
              offLast := BitVec.ofInt 64 th, bad := 0 }).servoSlew th).settle)))
  ∧ (∀ s : State,
    (∀ q l : Nat, q < 36 → s.timeLane q = some l → exec (.peerDelayExchange q) s
      = .next ((s.setQuad q { s.quad q with reqSeq := ((s.quad q).reqSeq + 1) % 65536, reqTime := none }).updLane l fun v =>
          { v with timeQ := v.timeQ ++ [BitVec.ofNat 576
            (1 + s.boot.part.getD 0 * 2 ^ 8 + ((s.quad q).reqSeq + 1) % 65536 * 2 ^ 32)] }))
    ∧ ∀ (l : Nat) (cw : Codeword), l < 144 → (s.lane l).state = .up → (s.lane l).fec = 0 → s.pairHeld l = false → cw.zero = 0 →
        cw.type = 3 → cw.vc < 3 →
        let b := cw.body.toNat
        let u := s.setLane l ((s.lane l).header cw)
        let q := s.quad (l / 4)
        (timeBodyOk b 1 = true → exec (.pdelayReq l cw) s
          = .next (u.updLane l fun v => { v with timeQ := v.timeQ ++ [BitVec.ofNat 576
              (2 + s.boot.part.getD 0 * 2 ^ 8 + bitsOf b 32 16 * 2 ^ 32 + cw.time.toNat * 2 ^ 192)] }).settle)
        ∧ (∀ t1 : Word, timeBodyOk b 2 = true → q.reqTime = some t1 → bitsOf b 32 16 = q.reqSeq →
            let t3 : Word := BitVec.ofNat 64 (bitsOf b 64 64)
            let t2 : Word := BitVec.ofNat 64 (bitsOf b 192 64)
            exec (.pdelayResp l cw) s = .next (forEach (quadLanes (l / 4))
              (fun k t => (t.updLane k fun w => w.takeMean (t.quad (l / 4)).meanDelay).watchDrift k)
              (u.setQuad (l / 4) { q with
                delays := ((signed64 cw.time t1 - signed64 t3 t2) :: q.delays).take 16, reqTime := none })).settle)
        ∧ (timeBodyOk b 2 = true → q.reqTime = none → exec (.pdelayResp l cw) s = .next u.settle))


-- lanes and Fjarlek

/-- LANE_CONFIG, LANE_TRAIN, LANE_IDLE, LANE_PATTERN and LANE_INJECT (R319, R322 to R325) of the physical function on an awake quad, in full
service. The lanes named take the mode and retrain, or stay idle where the mode is not Fjarlek's, once the port of the quad has drained, for
which the command waits (R360; that the checks run again then is the model's choice, log 96); train, and the command waits; send SLEEP, or
leave idle by two TRAIN codewords; go to TEST with the patterns, and back to idle; take the injection. No other lane changes. -/
def Obligations.LaneCommands : Prop :=
  ∀ (s : State) (p : Packet), p.session < 16 → s.boot.stage = .full → mwf Lane.init s.lanes = true →
    let q := par p 20 1
    let ls := (maskList 4 (par p 21 1)).map (4 * q + ·)
    s.Takes (.quad q) → s.quadHeld q = false → s.quadLocked p.session q = false → (∀ l ∈ quadLanes q, s.pairHeld l = false) →
    (Accepted 0x0800 p s (parCheck p [(20, 1), (21, 1), (22, 1), (23, 1), (24, 1)]
        (laneParOk p && modeOk (par p 22 1) (par p 23 1) && decide (par p 24 1 < 4))) (decide (par p 21 1 = 0)) → s.quadBound q = false →
      (s.hasDrained 0x0800 p = false → exec (.laneConfig p) s = .next (conclude 0x0800 p (.park (.drain (domainRouters (.quad q))) s)))
      ∧ (s.hasDrained 0x0800 p = true → ∃ t, exec (.laneConfig p) s = .next (conclude 0x0800 p (done t))
        ∧ t = { s with lanes := t.lanes, faults := t.faults, hub := { s.hub with entries := t.hub.entries }
                       boot := { s.boot with lastHandle := t.boot.lastHandle, lastStatus := 0 } }
        ∧ (∀ l ∈ ls, let v := t.lane l
            v.rate = par p 22 1 ∧ v.fec = par p 23 1 ∧ v.preTx = bitOf (par p 24 1) 0 ∧ v.preRx = bitOf (par p 24 1) 1 ∧ v.held = false
            ∧ (par p 23 1 = 0 → v.state = .training ∧ v.phase = 1 ∧ v.trainDue = true) ∧ (par p 23 1 ≠ 0 → v.state = .idleUntrained))
        ∧ ∀ l, l ∉ ls → t.lane l = s.lane l))
    ∧ (Accepted 0x0801 p s (parCheck p [(20, 1), (21, 1), (22, 1)] (laneParOk p && decide (par p 22 1 < 2))) (decide (par p 21 1 = 0)) →
      s.quadBusy q = false → (∀ l ∈ ls, (s.lane l).fec = 0 ∧ (s.lane l).held = false) →
      ∃ t, exec (.laneTrain p) s = .next t
        ∧ (∀ l ∈ ls, t.lane l = { s.lane l with
            state := .training, trainDue := true, farDone := 0
            phase := if par p 22 1 = 1 ∧ (s.lane l).stored = true then (if (s.lane l).rate = 0 then 3 else 4) else 1
            burst := 0, echoes := [], echoTag := none, preLast := 0
            gen := if (s.lane l).state = .test then 0 else (s.lane l).gen, chk := if (s.lane l).state = .test then 0 else (s.lane l).chk
            chkLock := (s.lane l).chkLock && decide ((s.lane l).state ≠ .test) })
        ∧ (∀ l, l ∉ ls → t.lane l = s.lane l)
        ∧ ∃ e ∈ t.hub.entries, e.pkt = p ∧ e.wait? = some (.train q (par p 21 1)))
    ∧ (Accepted 0x0802 p s (parCheck p [(20, 1), (21, 1), (22, 1)] (laneParOk p && decide (par p 22 1 < 2))) (decide (par p 21 1 = 0)) →
      (par p 22 1 = 0 → s.quadBusy q = false → (∀ l ∈ ls, (s.lane l).state = .up ∧ (s.lane l).fec = 0) → exec (.laneIdle p) s
        = .next (conclude 0x0802 p (done (forEach ls (fun l t => t.updLane l fun v => { v with ctrl := v.ctrl ++ [.sleep] }) s))))
      ∧ (par p 22 1 = 1 → (∀ l ∈ ls, let v := s.lane l
            v.state = .idleTrained ∧ v.stored = true ∧ v.fec = 0 ∧ v.held = false ∧ v.trainDue = false) → exec (.laneIdle p) s
        = .next (conclude 0x0802 p (done (forEach ls (fun l t => t.updLane l fun v =>
            { v with trainDue := true, burst := 2, phase := 4, preLast := 0 }) s))))
      ∧ (par p 22 1 = 1 → (∀ l ∈ ls, (s.lane l).state = .up) → exec (.laneIdle p) s = .next (conclude 0x0802 p (.reply 5 0 0 s))))
    ∧ (Accepted 0x0803 p s (parCheck p [(20, 1), (21, 1), (22, 1), (23, 1), (24, 1), (28, 10)]
        (laneParOk p && decide (par p 22 1 ≤ 5) && decide (par p 23 1 ≤ 5) && decide (par p 24 1 < 2))) (decide (par p 21 1 = 0)) →
      s.quadBound q = false →
      ∃ t, exec (.lanePattern p) s = .next (conclude 0x0803 p (done t))
        ∧ t = { s with lanes := t.lanes, faults := t.faults, hub := { s.hub with entries := t.hub.entries } }
        ∧ (∀ l ∈ ls, let v := t.lane l
            v.gen = par p 22 1 ∧ v.chk = par p 23 1 ∧ v.chkLock = false ∧ v.user = BitVec.ofNat 80 (par p 28 10)
            ∧ (par p 24 1 = 1 → v.errCnt = 0 ∧ v.testSym = 0)
            ∧ (par p 24 1 = 0 → v.errCnt = (s.lane l).errCnt ∧ v.testSym = (s.lane l).testSym)
            ∧ (par p 22 1 ≠ 0 ∨ par p 23 1 ≠ 0 → v.state = .test)
            ∧ (par p 22 1 = 0 → par p 23 1 = 0 → (s.lane l).state = .test → (s.lane l).stored = true → v.state = .idleTrained))
        ∧ ∀ l, l ∉ ls → t.lane l = s.lane l)
    ∧ (Accepted 0x0804 p s (parCheck p [(20, 1), (21, 1), (22, 1), (23, 1), (24, 4)]
        (laneParOk p && decide (par p 22 1 ≤ 3) && decide (par p 23 1 ≤ 64)))
        (decide (par p 21 1 = 0) || (decide (par p 22 1 = 2) && decide (par p 23 1 = 0))) →
      exec (.laneInject p) s = .next (conclude 0x0804 p (done (forEach ls (fun l t => t.updLane l fun v =>
        { v with injKind := par p 22 1, injBurst := par p 23 1, injRate := par p 24 4, injAt := 0
                 injLeft := if par p 22 1 = 1 then 1 else if par p 22 1 = 2 then par p 23 1 else 0 }) s))))

/-- The events of a lane's receiver, training and checker (R315, R316, R320, R322, R312). A lane that is UP goes DOWN with LANE_DOWN when
clock or headers are lost, but not when the far end announced its silence; it tries again, first from stored settings. Training that both
ends have done ends with the lane UP and the largest of 16 echoes as its delay, another one with the lane idle; no LANE_TRAIN goes on waiting
for lanes that have all finished. A checker that is locked counts. A replay begins at the oldest packet, and where sixteen in a row have
failed the lane goes DOWN. A lane that must stay idle (R242, R329) neither retries nor comes UP.
SCHED_CODEWORD_QUEUE and CODEWORD_TRANSMIT (R305, R306, R308 to R310): complete codewords join the queue; a lane sends a CTRL codeword
before everything, then its queued cargo, which it keeps for re-send, then a packet flit that has a credit and is kept until acknowledged,
and IDLE where nothing is ready. Each codeword is its header and body, and one of TRAIN carries credit too. A lane in TEST sends its pattern. -/
def Obligations.LaneEvents : Prop :=
  (∀ (s : State) (l : Nat), l < 144 →
    let v := s.lane l
    let waits (t : State) : Prop :=
      ∀ e ∈ t.hub.entries, ∀ q m : Nat, e.wait? = some (.train q m) → ∃ i ∈ maskList 4 m, (t.lane (4 * q + i)).state = .training
    (v.state = .up →
      let cut := s.setLane l
        { v with state := .down, trainDue := false, burst := 0, uncorr64 := [], replayAt := none, phase := if v.stored then 3 else 0 }
      let down := (cut.beginEpisode
        { code := 0x3002, unit := 36 + l / 4, access := 0, master := 0, address := l
          cycle := match (s.quad (l / 4)).rg with | some g => (s.group g).cycle | none => 0 }).settle
      (v.farSleep = false → exec (.laneLockLoss l) s = .next down ∧ exec (.headerTimeout l) s = .next down)
      ∧ (v.farSleep = true → exec (.laneLockLoss l) s = .next s.settle ∧ exec (.headerTimeout l) s = .next s.settle))
    ∧ (v.state = .down → v.trainDue = false → s.pairHeld l = false → s.quadHeld (l / 4) = false → exec (.laneRetry l) s = .next (s.setLane l
        { v with trainDue := true, farDone := 0, phase := if v.phase = 3 then (if v.rate = 0 then 3 else 4) else 1
                 echoes := [], echoTag := none, preLast := 0 }).settle)
    ∧ (s.quadHeld (l / 4) = true → exec (.laneRetry l) s = .next s.settle)
    ∧ (s.pairHeld l = true → exec (.laneRetry l) s = .next s.settle
        ∧ ∀ t : State, exec (.laneTrainingDone l) s = .next t → (t.lane l).state = v.state)
    ∧ (v.state = .down → exec (.trainingTimeout l) s = .next (s.setLane l { v with trainDue := false, phase := 0 }).settle)
    ∧ (v.state = .training → ∃ t, exec (.trainingTimeout l) s = .next t ∧ waits t
        ∧ (mwf Lane.init s.lanes = true → t.lane l = { v with state := .idleUntrained, trainDue := false, phase := 0 }))
    ∧ (v.state = .training ∨ v.state = .down → v.trainDue = true → v.phase = 4 → v.farDone = 3 → (v.rate = 0 → v.echoes.length = 16) →
        s.pairHeld l = false → ∃ t, exec (.laneTrainingDone l) s = .next t ∧ waits t
        ∧ (mwf Lane.init s.lanes = true → let w := t.lane l
            w.state = .up ∧ w.trained = (if v.rate = 0 then v.echoes.foldl max 0 else v.trained) ∧ w.live = w.trained ∧ w.stored = true
            ∧ w.trainDue = false ∧ w.credits = [16, 16, 16] ∧ w.scram = 2 ^ 31 - 1))
    ∧ (∀ syms errs : Nat,
        (v.state = .test → v.chk ≠ 0 → v.chkLock = false → exec (.checkerLock { lane := l, syms := syms, errs := errs }) s
          = .next (s.setLane l { v with chkLock := true }).settle)
        ∧ (v.state ≠ .test → exec (.checkerLockLoss { lane := l, syms := syms, errs := errs }) s
          = .next (s.setLane l { v with chkLock := false }).settle)
        ∧ (v.state = .test → v.chkLock = true → exec (.checkerLockLoss { lane := l, syms := syms, errs := errs }) s = .next (s.setLane l
          { v with chkLock := false, errCnt := satAdd 48 v.errCnt errs, testSym := satAdd 48 v.testSym syms }).settle))
    ∧ (v.state = .up → v.fec = 0 → v.unacked ≠ [] →
        (v.replayN < 16 → exec (.replayTimeout l) s = .next (s.setLane l
          { v with replayAt := some 0, replayN := v.replayN + 1, replays := satAdd 32 v.replays 1 }).settle)
        ∧ (16 ≤ v.replayN → mwf Lane.init s.lanes = true → ∃ t, exec (.replayTimeout l) s = .next t ∧ (t.lane l).state = .down)))
  ∧ (∀ (s : State) (l : Nat), l < 144 →
    let v := s.lane l
    let sends (t : State) (type vc : Nat) (c : SchedCw) (pseq : Nat) (body : BitVec 576) : Prop := ∃ line, t.sent.cws = s.sent.cws ++ [(l, type,
      BitVec.ofNat 640 (headerBits type vc v.holdOut false c.stepTag c.cyc pseq ((v.rxSeq + 255) % 256) 0 + body.toNat * 2 ^ 64), line)]
    let zero : SchedCw := { stepTag := 0, cyc := 0, cycle := 0, words := [] }
    exec (.schedCodewordQueue l) s = .next (s.setLane l { v with cargoQ := v.cargoQ ++ v.complete, complete := [] }).settle
    ∧ (v.state = .test → v.gen ≠ 0 → ∃ t line, exec (.codewordTransmit l) s = .next t ∧ t.sent.cws = s.sent.cws ++ [(l, 16, 0, line)])
    ∧ (∀ a b c : Nat, v.state = .training → v.trainDue = true → v.fec = 0 → v.held = false → s.pairHeld l = false → v.freed = [a, b, c] →
      a < 4 → b < 4 → c < 4 → mwf Lane.init s.lanes = true → ∃ t payload line, exec (.codewordTransmit l) s = .next t
        ∧ t.sent.cws = s.sent.cws ++ [(l, 5, payload, line)] ∧ (t.lane l).freed = [0, 0, 0]
        ∧ payload.toNat % 2 ^ 64 = headerBits 5 0 false false 0 0 0 ((v.rxSeq + 255) % 256) (a + 4 * b + 16 * c))
    ∧ (v.state = .up → v.fec = 0 → v.held = false → v.trainDue = false → s.pairHeld l = false → v.freed = [0, 0, 0] → mwf Lane.init s.lanes = true →
      (v.ctrl = [.xoff] → ∃ t, exec (.codewordTransmit l) s = .next t ∧ sends t 4 0 zero 0 1 ∧ (t.lane l).ctrl = []
        ∧ (t.lane l).cargoQ = v.cargoQ ∧ (t.lane l).flits = v.flits)
      ∧ (v.ctrl = [] → v.reTx = [] →
        (∀ (c : SchedCw) (rest : List SchedCw), v.cargoQ = c :: rest → ∃ t, exec (.codewordTransmit l) s = .next t
          ∧ sends t 1 0 c 0 (bodyOf (c.words.map BitVec.toNat)) ∧ (t.lane l).cargoQ = rest ∧ (s.opp / 4, c) ∈ (t.lane l).retained)
        ∧ (v.cargoQ = [] → v.timeQ = [] → v.replayAt = none →
          (∀ (vc n : Nat) (b : BitVec 576) (rest : List (Nat × BitVec 576)), v.flits = (vc, b) :: rest → v.unacked.length < 64 →
            v.credits[vc]? = some (n + 1) → ∃ t, exec (.codewordTransmit l) s = .next t ∧ sends t 2 vc zero v.txSeq b
              ∧ (t.lane l).flits = rest ∧ (t.lane l).unacked = v.unacked ++ [(v.txSeq, vc, b)] ∧ (t.lane l).txSeq = (v.txSeq + 1) % 256
              ∧ (t.lane l).credits[vc]? = some n)
          ∧ (v.flits = [] → ∃ t, exec (.codewordTransmit l) s = .next t ∧ sends t 0 0 zero 0 0)))))

/-- What a lane that is UP does with what it receives (R126, R127, R133, R134, R306, R310 to R314, R319). A header brings credits, the hold bit
and its counts; a codeword with a nonzero zero-field, a reserved VC or a reserved type is counted and discarded. The first copy of a
step-frame that is due is kept, where the receive buffer has room, and another copy is not. A packet flit is taken in its order, and one
NAK in 256 frames asks for what is missing. A CTRL codeword brings its header like any other, and each of its messages acts: a RESEND
brings a kept codeword to be sent again; a stop for a cycle is recorded once and sent on, whether the group runs or not, and a fault stop
halts it; a word of a reserved kind is discarded and counted. Eight answers to a RESEND that fail deliver X and raise LANE_UNCORR. -/
def Obligations.ReceivedCodewords : Prop :=
  ∀ (s : State) (l : Nat), l < 144 → (s.lane l).state = .up → (s.lane l).fec = 0 → mwf Lane.init s.lanes = true → s.pairHeld l = false →
    let v := s.lane l
    let d := classLimit (s.quad (l / 4)).cls
    let h (cw : Codeword) : Lane := { v with
      uncorr64 := (false :: v.uncorr64).take 64, farSleep := false, holdIn := cw.hold, symCorr := satAdd 48 v.symCorr cw.corr
      cwCorr := if cw.corr = 0 then v.cwCorr else satAdd 48 v.cwCorr 1
      credits := (List.range 3).map fun k => min 16 (v.credits.getD k 0 + bitsOf cw.credit (2 * k) 2) }
    (∀ cw : Codeword,
      (cw.zero ≠ 0 ∨ 3 ≤ cw.vc ∨ 6 ≤ cw.type →
        let bad := (s.setLane l { h cw with holdIn := v.holdIn, credits := v.credits, cwBad := satAdd 48 v.cwBad 1 }).settle
        exec (.idle l cw) s = .next bad ∧ exec (.sched l cw) s = .next bad ∧ exec (.pkt l cw) s = .next bad)
      ∧ (cw.zero = 0 → cw.vc < 3 → v.unacked = [] →
        (cw.type = 0 → exec (.idle l cw) s = .next (s.setLane l (h cw)).settle)
        ∧ (∀ g : Nat, cw.type = 1 → (s.quad (l / 4)).rg = some g →
          let r := s.group g
          let w : SchedCw := { stepTag := cw.stepTag / 4 * 4, cyc := cw.cyc, cycle := r.cycle
                               words := (List.range 8).map fun j => BitVec.ofNat 72 (bitsOf cw.body.toNat (72 * j) 72) }
          cw.cyc = r.cycle.toNat % 16 → r.step ≤ w.stepTag + 7 + d →
          (∀ x ∈ v.rxBuf, x.stepTag ≠ w.stepTag ∨ x.cycle ≠ w.cycle) →
            ∃ t, exec (.sched l cw) s = .next t
              ∧ (t.lane l).rxBuf = (if v.rxBuf.length < (3 * d + 32) / 4 then v.rxBuf ++ [w] else v.rxBuf)
              ∧ (2 ≤ s.boot.pairMode → l < 72 → (s.lane (l + 72)).rxBuf.length < (3 * d + 32) / 4 →
                (t.lane (l + 72)).rxBuf = (s.lane (l + 72)).rxBuf ++ [w]))
        ∧ (∀ g : Nat, cw.type = 1 → (s.quad (l / 4)).rg = some g → cw.cyc = (s.group g).cycle.toNat % 16 →
          (∃ x ∈ v.rxBuf, x.stepTag = cw.stepTag / 4 * 4 ∧ x.cycle = (s.group g).cycle) →
            exec (.sched l cw) s = .next (s.setLane l (h cw)).settle)
        ∧ (cw.type = 2 → cw.pseq = v.rxSeq → bitOf cw.body.toNat 532 = true → bitOf cw.body.toNat 533 = false → exec (.pkt l cw) s
          = .next ((s.setLane l (h cw)).setLane l { h cw with
              rxSeq := (v.rxSeq + 1) % 256, gap := none, freed := v.freed.modify cw.vc (· + 1)
              rxFlits := mset [] cw.vc [cw.body] v.rxFlits }).settle)
        ∧ (cw.type = 2 → cw.pseq ≠ v.rxSeq →
          ((v.gap = none ∨ ∃ f, v.gap = some f ∧ f + 256 ≤ s.opp / 4) → exec (.pkt l cw) s = .next ((s.setLane l (h cw)).updLane l fun w =>
            { w with gap := some (s.opp / 4), ctrl := w.ctrl ++ [.nak w.rxSeq], naks := satAdd 16 w.naks 1 }).settle)
          ∧ (∀ f : Nat, v.gap = some f → s.opp / 4 < f + 256 → ∃ t, exec (.pkt l cw) s = .next t ∧ t.lane l = h cw))
        ∧ (cw.type = 5 → v.trainDue = false →
          let w := bitsOf cw.body.toNat 0 72
          let k : Lane := { h cw with holdIn := v.holdIn }
          exec (.train l cw) s = .next ((s.setLane l k).setLane l { k with
            farPart := bitsOf w 0 10, farValid := bitOf w 10, farQuad := bitsOf w 11 6, farLane := bitsOf w 17 2 }).settle)))
    ∧ (v.gap = none → (s.quad (l / 4)).rg = none → (v.uncorr64.take 63).count true < 31 →
        ∃ t, exec (.codewordUncorrectable l) s = .next t ∧ t.lane l = { v with
          cwUncorr := satAdd 48 v.cwUncorr 1, uncorr64 := (true :: v.uncorr64).take 64, gap := some (s.opp / 4)
          ctrl := v.ctrl ++ [.nak v.rxSeq], naks := satAdd 16 v.naks 1 })
    ∧ ((v.uncorr64.take 63).count true = 31 →
        ∃ t, exec (.codewordUncorrectable l) s = .next t ∧ (t.lane l).state = .down)
    ∧ (∀ cw : Codeword, cw.zero = 0 → cw.vc < 3 → cw.type = 4 → (∀ x ∈ v.unacked, x.1 ≠ cw.ack) →
        (∀ j : Nat, 0 < j → j < 8 → bitsOf cw.body.toNat (72 * j) 4 = 0) →
        let b := cw.body.toNat
        let u := s.setLane l (h cw)
        let rx : LaneRx := { lane := l, cw := cw }
        (bitsOf b 0 4 = 1 → exec (.xoff rx) s = .next (u.setLane l { h cw with holdIn := true }).settle)
        ∧ (bitsOf b 0 4 = 2 → exec (.xon rx) s = .next (u.setLane l { h cw with holdIn := false }).settle)
        ∧ (bitsOf b 0 4 = 7 → exec (.sleep rx) s = .next (u.setLane l { h cw with farSleep := true }).settle)
        ∧ (8 ≤ bitsOf b 0 4 → exec (.xoff rx) s = .next (u.setLane l { h cw with cwBad := satAdd 48 v.cwBad 1 }).settle)
        ∧ (∀ (frame : Nat) (c : SchedCw), bitsOf b 0 4 = 3 → v.retained = [(frame, c)] → v.relink = false →
          (c.stepTag = bitsOf b 4 12 → c.cyc = bitsOf b 16 4 → s.opp / 4 ≤ frame + s.keepFrames l → exec (.resend l cw 0) s
            = .next (u.setLane l { h cw with reqIn := satAdd 16 v.reqIn 1, reTx := v.reTx ++ [c] }).settle)
          ∧ (c.stepTag ≠ bitsOf b 4 12 ∨ c.cyc ≠ bitsOf b 16 4 → exec (.resend l cw 0) s
            = .next (u.setLane l { h cw with reqIn := satAdd 16 v.reqIn 1 }).settle))
        ∧ (bitsOf b 0 4 = 5 → v.unacked ≠ [] → (∀ x ∈ v.unacked, x.1 ≠ (bitsOf b 4 8 + 255) % 256) → v.replayN < 16 →
          ∃ t, exec (.nak l cw) s = .next t
            ∧ t.lane l = { h cw with replayAt := some 0, replayN := v.replayN + 1, replays := satAdd 32 v.replays 1 })
        ∧ (∀ g : Nat, bitsOf b 0 4 = 4 → (s.quad (l / 4)).rg = some g →
          let r := s.group g
          let c : Word := BitVec.ofNat 64 (bitsOf b 8 64)
          (bitOf b 4 = false →
            (c ∉ r.seenStops → r.state = .running → exec (.stopCodeword l cw 0) s = .next ((u.setGroup g { r with
              seenStops := r.seenStops ++ [c], stops := r.stops ++ [{ cause := 4, cycle := c }] }).sendStop g false c (some (l / 4))).settle)
            ∧ (c ∉ r.seenStops → r.state ≠ .running → r.state ≠ .armed → exec (.stopCodeword l cw 0) s
              = .next ((u.setGroup g { r with seenStops := r.seenStops ++ [c] }).sendStop g false c (some (l / 4))).settle)
            ∧ (c ∈ r.seenStops → exec (.stopCodeword l cw 0) s = .next u.settle))
          ∧ (bitOf b 4 = true →
            (r.faultSent = false → r.state = .running → exec (.stopCodeword l cw 0) s = .next (((u.setGroup g { r with
              faultSent := true, halting := if r.halting = none then some 0 else r.halting }).releasePause g).sendStop g true c
                (some (l / 4))).settle)
            ∧ (r.faultSent = false → r.state = .armed → exec (.stopCodeword l cw 0) s = .next ((u.setGroup g { r with
              faultSent := true, halting := if r.halting = none then some 0 else r.halting }).sendStop g true c (some (l / 4))).settle)
            ∧ (r.faultSent = true → exec (.stopCodeword l cw 0) s = .next u.settle))))
    ∧ (∀ (w : ResendReq) (rest : List ResendReq) (g : Nat), v.wanted = w :: rest → (s.quad (l / 4)).rg = some g →
        (w.count < 8 → exec (.resendRetry l) s = .next (s.setLane l { v with
          wanted := rest ++ [{ w with count := w.count + 1 }], ctrl := v.ctrl ++ [.resend w.stepTag w.cyc], reqOut := satAdd 16 v.reqOut 1 }).settle)
        ∧ (8 ≤ w.count → w.cyc = (s.group g).cycle.toNat % 16 → v.rxBuf.length < (3 * d + 32) / 4 →
          ∃ t, exec (.resendRetry l) s = .next t ∧ (t.lane l).wanted = rest
            ∧ { stepTag := w.stepTag, cyc := w.cyc, cycle := (s.group g).cycle, words := List.replicate 8 allX } ∈ (t.lane l).rxBuf
            ∧ (mwf none s.faults.recs = true → (t.faultRec (36 + l / 4)).isSome = true)))

/-- FJ_JOIN, JOIN and JOIN_TIMEOUT (R133, R321). A join that may start computes each quad's bitmap CRCs, sends JOIN on lane 0 of each, and
waits. The far JOIN that completes it, when all it says agrees, joins the group with K; one that differs ends the wait with
ERR_CFG_MISMATCH; after 100 ms it ends with ERR_TIMEOUT. -/
def Obligations.Joining : Prop :=
  ∀ s : State, mwf RunGroup.init s.groups = true → mwf Quad.init s.quads = true → mwf Lane.init s.lanes = true →
    (∀ (p : Packet) (g : Nat), Accepted 0x0810 p s (parCheck p [(20, 4), (24, 1), (25, 1)]
        (decide (0 < par p 24 1) && decide (0 < par p 25 1))) (decide (par p 20 4 = 0)) → ownedGroup p s = .ok g →
      let r := s.group g
      let qs := s.linkQuads g
      let d := qs.foldl (fun a q => max a (classLimit (s.quad q).cls)) 0
      qs ≠ [] → ceilDiv (par p 25 1 * (2 * d + 40)) r.n + 1 ≤ par p 24 1 → s.phase = 2 → r.joined = false → s.boot.part.isSome = true →
      r.state = .loaded ∨ r.state = .stopped → s.datum.lock = 2 → s.hub.entries = [] →
      (∀ q ∈ qs, s.quadLocked p.session q = false ∧ (s.quad q).joinMsg = none ∧ (s.quad q).cls < 4 ∧ ∀ i < 4, let v := s.lane (4 * q + i)
        v.state = .up ∧ v.fec = 0 ∧ v.rate = 0 ∧ v.crossed = false) →
      ∃ t, exec (.fjJoin p) s = .next t ∧ (t.group g).joined = false
        ∧ (∃ e ∈ t.hub.entries, e.pkt = p ∧ e.wait? = some (.join g))
        ∧ ∀ q ∈ qs, (t.quad q).outCrc = (s.joinCrcs r.n q).1 ∧ (t.quad q).inCrc = (s.joinCrcs r.n q).2
            ∧ ∃ a b : BitVec 72, (t.lane (4 * q)).ctrl = (s.lane (4 * q)).ctrl ++ [.join a b] ∧ bitsOf a.toNat 0 4 = 6 ∧ bitsOf b.toNat 0 4 = 6
              ∧ bitsOf b.toNat 9 8 = par p 24 1 ∧ bitsOf b.toNat 17 10 = s.datum.gmPart % 1024)
    ∧ (∀ (l g : Nat) (cw : Codeword) (e : Entry), l < 144 → (s.lane l).state = .up → (s.lane l).fec = 0 → (s.quad (l / 4)).rg = some g →
      s.pairHeld l = false → cw.zero = 0 → cw.vc < 3 → cw.type = 4 → bitsOf cw.body.toNat 0 4 = 6 → bitsOf cw.body.toNat 72 4 = 6 →
      (∀ j : Nat, 1 < j → j < 8 → bitsOf cw.body.toNat (72 * j) 4 = 0) →
      let a : BitVec 72 := BitVec.ofNat 72 (bitsOf cw.body.toNat 0 72)
      let b : BitVec 72 := BitVec.ofNat 72 (bitsOf cw.body.toNat 72 72)
      s.linkQuads g = [l / 4] → s.hub.entries = [e] → e.wait? = some (.join g) →
      let q := s.quad (l / 4)
      let agrees := bitsOf b.toNat 17 10 = s.datum.gmPart ∧ bitsOf a.toNat 4 32 = q.inCrc ∧ bitsOf a.toNat 36 32 = q.outCrc
        ∧ bitsOf b.toNat 4 3 = stepsCode (s.group g).n ∧ bitsOf b.toNat 7 2 = q.cls ∧ bitsOf b.toNat 9 8 = par e.pkt 24 1
      (agrees → ∃ t, exec (.join l cw 0) s = .next t ∧ (t.group g).joined = true ∧ (t.group g).stopLead = par e.pkt 24 1
        ∧ (t.group g).hops = par e.pkt 25 1 ∧ (t.quad (l / 4)).joined = true ∧ ∀ x ∈ t.hub.entries, x.wait? = none)
      ∧ (¬ agrees → ∃ t, exec (.join l cw 0) s = .next t ∧ t.group g = s.group g ∧ (t.quad (l / 4)).joinMsg = none
        ∧ (∀ x ∈ t.hub.entries, x.wait? = none)
        ∧ (if bitsOf b.toNat 17 10 = s.datum.gmPart then s.Answered t e.pkt.session 0x8009 0x0801 else s.Answered t e.pkt.session 0x8008 0x0803)))
    ∧ ∀ g : Nat, g < 32 → (s.group g).parcels ≠ [] → s.anyParked (fun w => decide (w = .join g)) = true → exec (.joinTimeout g) s
        = .next ((forEach (s.linkQuads g) (fun q t => t.updQuad q fun v => { v with joinMsg := none }) s).endWaits 0x8021 0
            fun w => decide (w = .join g)).settle

-- inset bridges

/-- INSET_CONFIG, INSET_FLUSH, INSET_STAMPS, and the link (R328 to R332, R334, R344 to R346): once the bridge's port has drained, for which
the command waits (R360, log 96), a configuration binds the bridge to its quad, whose lanes take the rate and the FEC of the PHY and whose other lanes
go idle, gives it the lowest units that fit, and leaves its link HELD while no image is bound; a
flush empties the buffers named and answers with the frames discarded; stamps are copied from the index asked for. A link that its image, or
a reset of the lanes, holds stays as it is; an enabled one comes
up and ends INSET_DOWN, goes down and raises it, and trains again. -/
def Obligations.InsetCommands : Prop :=
  ∀ s : State, mwf Bridge.init s.bridges = true → mwf Quad.init s.quads = true → mwf Lane.init s.lanes = true →
    (∀ p : Packet, p.session < 16 →
      let b := par p 20 1
      let v := s.bridge b
      let pmd := par p 21 1
      let quad := par p 22 1
      let k := 2 * (b / 4) + bitsOf (par p 25 1) 1 1
      (∀ rx tx : Nat, Accepted 0x0900 p s (insetConfigBad p) (decide (pmd ≠ 0) && (decide (par p 28 1 = 0) || decide (par p 29 1 = 0))) →
        pmd ≠ 0 → v.pmd ≠ pmd → v.rg = none → (s.boot.pairMode < 2 ∨ b < 4) →
        s.quadLocked p.session quad = false → (v.pmd ≠ 0 → s.quadLocked p.session v.quad = false) →
        s.bridgeHeld b = false → s.quadHeld quad = false → quad / 18 = b / 4 → (s.quad quad).rg = none → (s.quad quad).bridge = none → (s.quad quad).awake = true → (s.stack k).trained = true →
        firstFit (s.insetUsed k b) (s.stack k).traceEnd (s.stack k).insetEnd (par p 28 1) = some rx →
        firstFit ((rx, par p 28 1) :: s.insetUsed k b) (s.stack k).traceEnd (s.stack k).insetEnd (par p 29 1) = some tx →
        let used := if pmd = 3 then 4 else if pmd = 2 then 2 else 1
        (s.hasDrained 0x0900 p = false → exec (.insetConfig p) s
          = .next (conclude 0x0900 p (.park (.drain (domainRouters (.bridge b))) s)))
        ∧ (s.hasDrained 0x0900 p = true → ∃ t, exec (.insetConfig p) s = .next (conclude 0x0900 p (.reply 0 0 1 t))
          ∧ (t.bridge b).pmd = pmd ∧ (t.bridge b).quad = quad ∧ (t.bridge b).fc = par p 23 1 ∧ (t.bridge b).pfcMask = par p 24 1
          ∧ (t.bridge b).deliverBad = bitOf (par p 25 1) 0 ∧ (t.bridge b).maxLen = par p 26 2
          ∧ (t.bridge b).rxBase = rx ∧ (t.bridge b).rxUnits = par p 28 1 ∧ (t.bridge b).txBase = tx ∧ (t.bridge b).txUnits = par p 29 1
          ∧ (t.bridge b).hiWm = par p 30 1 ∧ (t.bridge b).loWm = par p 31 1
          ∧ (t.bridge b).link = .held ∧ (t.bridge b).rxBuf = [] ∧ (t.bridge b).txBuf = []
          ∧ (t.quad quad).bridge = some b
          ∧ (∀ i < used, (t.lane (4 * quad + i)).fec = 1 ∧ (t.lane (4 * quad + i)).rate = if pmd = 4 then 1 else 0)
          ∧ (∀ i : Nat, used ≤ i → i < 4 → let w := s.lane (4 * quad + i)
              (w.state = .up → w.fec = 0 → t.lane (4 * quad + i) = { w with ctrl := w.ctrl ++ [.sleep] })
              ∧ (w.state = .training ∨ w.state = .down → (t.lane (4 * quad + i)).state = .idleTrained
                  ∨ (t.lane (4 * quad + i)).state = .idleUntrained))
          ∧ ∀ q : Nat, q ≠ quad → q ≠ v.quad → t.quad q = s.quad q))
      ∧ (Accepted 0x0901 p s (parCheck p [(20, 1), (21, 1)] (decide (b < 8) && decide (par p 21 1 < 4))) (decide (par p 21 1 = 0)) → v.pmd ≠ 0 →
        let m := par p 21 1
        let rx := if m = 1 ∨ m = 3 then v.rxBuf.length else 0
        let tx := if m = 2 ∨ m = 3 then v.txBuf.length else 0
        ∃ t, exec (.insetFlush p) s = .next (conclude 0x0901 p (.reply 0 0 (rx + tx * 2 ^ 32) t))
          ∧ (t.bridge b).rxBuf = (if m = 2 then v.rxBuf else []) ∧ (t.bridge b).txBuf = (if m = 1 then v.txBuf else [])
          ∧ (t.bridge b).rxQ = v.rxQ ∧ ∀ c : Nat, c ≠ b → t.bridge c = s.bridge c)
      ∧ (Accepted 0x0902 p s (parCheck p [(20, 1), (21, 1), (24, 8)]
          (decide (b < 8) && decide (par p 21 1 < 2) && decide (p.len.toNat % 32 = 0))) (decide (p.len = 0)) → v.pmd ≠ 0 →
        let log := if par p 21 1 = 0 then v.rxLog else v.txLog
        let out := (log.drop (par p 24 8)).take (p.len.toNat / 32)
        exec (.insetStamps p) s
          = .next (conclude 0x0902 p (.reply 0 0 (out.length + log.length * 2 ^ 32) (bufPut s p 0 (out.map stampBytes).flatten)))))
    ∧ (∀ b : Nat, b < 8 → s.boot.sheetsHeld = true ∨ s.bridgeLive b = false → exec (.insetLinkUp b) s = .next s
        ∧ exec (.insetLinkDown b) s = .next s ∧ exec (.insetTrainingRetry b) s = .next s)
    ∧ ∀ b : Nat, b < 8 → (s.bridge b).pmd ≠ 0 → (s.bridge b).bad = false → s.bridgeLive b = true → (s.bridge b).awake = true →
      (s.boot.pairMode < 2 ∨ b < 4) → s.boot.sheetsHeld = false →
      let v := s.bridge b
      let down := s.setBridge b { v with link := .down, arriving := none }
      exec (.insetLinkUp b) s = .next ((s.setBridge b { v with link := .up }).endEpisode (72 + b) 0x7002)
      ∧ (v.link = .up → exec (.insetLinkDown b) s = .next (down.beginEpisode
          { code := 0x7002, unit := 72 + b, access := 0, master := 0, address := b
            cycle := match v.rg with | some g => (s.group g).cycle | none => 0 }))
      ∧ (v.link = .training → exec (.insetLinkDown b) s = .next down)
      ∧ (v.link = .down → exec (.insetTrainingRetry b) s = .next (s.setBridge b { v with link := .training }))

/-- Frames and pauses (R333 to R342, R344). A frame that fits is received, and one that does not, or that comes past the high mark without
flow control, is dropped, counted, and raises INSET_OVERRUN. A good frame joins the buffer, and past the high mark a PAUSE goes out, or a
PFC frame for the priorities of pfc_mask, which repeats while it is in force and ends below the low mark; a bad frame is counted. A received
PAUSE stops its priorities until it expires. Frames move to the design while its queue has room, and complete frames of the design to the
outbound buffer, from which they leave padded to 60 bytes, with their FCS (log 99) and a stamp. The stack of the buffers wakes first (R362);
where a frame lies in its buffer is the model's choice (log 103). None leaves while its priority is paused or the link is down. -/
def Obligations.InsetFrames : Prop :=
  ∀ (s : State) (b : Nat), b < 8 → mwf Bridge.init s.bridges = true →
    let v := s.bridge b
    let size := v.rxUnits * unitBytes
    let kind := if v.fc = 2 then some v.pfcMask else none
    let stack : Domain := .stack (s.insetStack b)
    let clean (base units : Nat) (f : BFrame) : Prop :=
      ∀ w ∈ frameWords base units f.place f.bytes.length, s.eccAt 9 (s.insetStack b * 2 ^ 33 + w) = 0
    let counted (t : State) (k n : Nat) : Prop := (t.bridge b).cnt = mset 0 k (satAdd 48 (mget 0 k v.cnt) n) v.cnt
    (∀ length : Nat, v.link = .up →
      (occupancy v.rxBuf + (ceilDiv length 64 * 64 + 64) ≤ size → (v.overRx = false ∨ v.fc ≠ 0) → exec (.insetFrameArrival b length) s
        = .next (s.setBridge b { v with arriving := some (length, 1) }))
      ∧ (size < occupancy v.rxBuf + (ceilDiv length 64 * 64 + 64) → ∃ t, exec (.insetFrameArrival b length) s = .next t
        ∧ counted t 3 1 ∧ (t.bridge b).arriving = some (length, 0) ∧ (t.bridge b).overLive = true ∧ (t.bridge b).rxBuf = v.rxBuf)
      ∧ (occupancy v.rxBuf + (ceilDiv length 64 * 64 + 64) ≤ size → v.overRx = true → v.fc = 0 → ∃ t,
        exec (.insetFrameArrival b length) s = .next t
        ∧ counted t 2 1 ∧ (t.bridge b).arriving = some (length, 0) ∧ (t.bridge b).overLive = true ∧ (t.bridge b).rxBuf = v.rxBuf))
    ∧ (∀ (n : Nat) (f : Frame), v.link = .up →
      (v.arriving = some (n, 0) → exec (.insetFrameReceived b f) s = .next (s.setBridge b { v with arriving := none }))
      ∧ (v.arriving = some (n, 1) → (f.bytes.length < 60 ∨ v.maxLen < f.bytes.length) → ∃ t, exec (.insetFrameReceived b f) s = .next t
        ∧ counted t 5 1 ∧ (t.bridge b).rxBuf = v.rxBuf)
      ∧ (v.arriving = some (n, 1) → 60 ≤ f.bytes.length → f.bytes.length ≤ v.maxLen →
        let fr : BFrame := { bytes := f.bytes, error := !f.fcsOk, stamp := f.stamp, cycle := 0, step := 0, place := v.rxNext }
        (f.fcsOk = false → v.deliverBad = false → ∃ t, exec (.insetFrameReceived b f) s = .next t
          ∧ counted t 4 1 ∧ (t.bridge b).rxBuf = v.rxBuf)
        ∧ (f.fcsOk = true ∨ v.deliverBad = true → ∃ t, exec (.insetFrameReceived b f) s = .next t ∧ (t.bridge b).rxBuf = v.rxBuf ++ [fr]
          ∧ (t.bridge b).rxNext = (v.rxNext + (ceilDiv f.bytes.length 64 * 64 + 64)) % (max 1 v.rxUnits * unitBytes)
          ∧ (v.overRx = false → v.fc ≠ 0 → 0 < size → v.hiWm * size ≤ occupancy (v.rxBuf ++ [fr]) * 256 →
              (t.bridge b).overRx = true ∧ (t.bridge b).pauseSent = true ∧ t.sent.flow = s.sent.flow ++ [(b, kind, 0xFFFF)])
          ∧ (v.overRx = false → occupancy (v.rxBuf ++ [fr]) * 256 < v.hiWm * size → t.sent.flow = s.sent.flow))))
    ∧ (∀ (pfc : Bool) (mask quanta : Nat), v.link = .up → v.fc ≠ 0 →
      let named := if pfc then maskList 8 (mask &&& v.pfcMask) else [0, 1, 2, 3, 4, 5, 6, 7]
      ∃ t, exec (.pauseFrame b pfc mask quanta) s = .next t ∧ counted t 13 1
        ∧ ∀ pr : Nat, pr ∈ (t.bridge b).paused ↔ (pr ∈ named ∧ quanta ≠ 0) ∨ (pr ∈ v.paused ∧ pr ∉ named))
    ∧ (∀ prio : Nat, exec (.pauseExpiry b prio) s = .next (s.setBridge b { v with
        paused := if prio < 8 then v.paused.filter (· ≠ prio) else [] }))
    ∧ (v.pauseSent = true → exec (.pauseRepeat b) s = .next (State.setSent
        (s.setBridge b { v with cnt := mset 0 12 (satAdd 48 (mget 0 12 v.cnt) 1) v.cnt }) { s.sent with flow := s.sent.flow ++ [(b, kind, 0xFFFF)] }))
    ∧ (v.pauseSent = false → exec (.pauseRepeat b) s = .next s)
    ∧ (∀ (f : BFrame) (rest : List BFrame), v.rxBuf = f :: rest → v.rg.isSome = true → v.rxQ.length < 16 →
      (s.unready stack = true → s.boot.pairMode < 2 → exec (.insetFrameMove b) s = .next (s.callDomain stack))
      ∧ (s.Takes stack → clean v.rxBase v.rxUnits f → s.boot.pairMode < 2 → ∃ t, exec (.insetFrameMove b) s = .next t ∧ (t.bridge b).rxBuf = rest ∧ (t.bridge b).rxQ = v.rxQ ++ [f]
        ∧ (v.overRx = true → v.pauseSent = true → occupancy rest * 256 < v.loWm * size →
            (t.bridge b).overRx = false ∧ (t.bridge b).pauseSent = false ∧ t.sent.flow = s.sent.flow ++ [(b, kind, 0)]))
      ∧ (s.Takes stack → clean v.rxBase v.rxUnits f → 2 ≤ s.boot.pairMode → b < 4 → (s.bridge (b + 4)).rxQ.length < 16 → ∃ t,
        exec (.insetFrameMove b) s = .next t
        ∧ (t.bridge b).rxQ = v.rxQ ++ [f] ∧ (t.bridge (b + 4)).rxQ = (s.bridge (b + 4)).rxQ ++ [f]))
    ∧ (16 ≤ v.rxQ.length → exec (.insetFrameMove b) s = .next s)
    ∧ (∀ (f : BFrame) (rest : List BFrame), v.txQ = f :: rest →
      (s.boot.pairMode < 2 ∨ b < 4 → occupancy v.txBuf + (ceilDiv f.bytes.length 64 * 64 + 64) ≤ v.txUnits * unitBytes → ∃ t,
        exec (.insetOutboundComplete b) s = .next t ∧ (t.bridge b).txQ = rest ∧ (t.bridge b).txBuf = v.txBuf ++ [{ f with place := v.txNext }])
      ∧ (s.boot.pairMode < 2 ∨ b < 4 → v.txUnits * unitBytes < occupancy v.txBuf + (ceilDiv f.bytes.length 64 * 64 + 64) → ∃ t,
        exec (.insetOutboundComplete b) s = .next t ∧ (t.bridge b).txQ = rest ∧ (t.bridge b).txBuf = v.txBuf ∧ counted t 8 1
          ∧ (t.bridge b).overLiveTx = true)
      ∧ (2 ≤ s.boot.pairMode → 4 ≤ b → exec (.insetOutboundComplete b) s = .next (s.setBridge b { v with txQ := rest })))
    ∧ (∀ (f : BFrame) (rest : List BFrame), v.txBuf = f :: rest →
      (v.link = .up → framePrio f ∈ v.paused → exec (.insetFrameDepart b) s = .next s)
      ∧ (v.link = .up → framePrio f ∉ v.paused → s.unready stack = true → exec (.insetFrameDepart b) s = .next (s.callDomain stack))
      ∧ (v.link = .up → framePrio f ∉ v.paused → s.Takes stack → clean v.txBase v.txUnits f → ∃ t,
        exec (.insetFrameDepart b) s = .next t ∧ (t.bridge b).txBuf = rest
        ∧ (let data := f.bytes ++ List.replicate (60 - f.bytes.length) 0
           t.sent.frames = s.sent.frames ++ [(b, data ++ leBytes 4 (fcs data))]) ∧ (t.bridge b).txSeq = v.txSeq + 1
        ∧ (v.txLog.length < 4096 → (t.bridge b).txLog = v.txLog ++ [{
            seq := v.txSeq, length := f.bytes.length, error := false, stamp := s.tOpen s.opp, cycle := f.cycle, step := f.step }]))
      ∧ (v.link ≠ .up → ∃ t, exec (.insetFrameDepart b) s = .next t ∧ (t.bridge b).txBuf = rest ∧ counted t 9 1
        ∧ t.sent.frames = s.sent.frames))

-- locks and faults

/-- LOCK_ACQUIRE, LOCK_RELEASE and LOCK_QUERY (R393 to R395): a lock that no other session's meets is granted under a handle of its own,
and the report that a unit was orphaned is given once; one that meets another's fails and names the holder; a release raises the
generation of the units. FAULT_READ, FAULT_CLEAR, FAULT_PIN_SET and FAULT_N_PULSE_END (R427 to R429): reading clears nothing; clearing
empties records, and releases SMB_ALERT_N where it was the last of the DEVICE class (R449); the pin takes its level, during a pulse when the
pulse ends. -/
def Obligations.LocksAndFaults : Prop :=
  ∀ (s : State) (p : Packet),
    let l : Lock := { handle := s.hub.nextLock, session := p.session, kind := par p 20 1, unit := par p 21 1, cluster := par p 22 1
                      mask := par p 24 4, first := par p 28 4, count := par p 32 4 }
    (Accepted 0x0A00 p s (parCheck p [(20, 1), (21, 1), (22, 1), (24, 4), (28, 4), (32, 4)] (lockFieldsOk (lockOf p 0)))
        ((decide (l.kind = 0) && decide (l.mask = 0)) || (decide (l.kind = 1) && decide (l.count = 0))) →
      lockRights p s l.kind l.unit (if l.kind = 0 then maskList 32 l.mask else [l.unit]) = none →
      ((∀ m ∈ s.hub.locks, m.session ≠ p.session → l.meets m = false) → (s.hub.locks.filter fun m => decide (m.session = p.session)).length < 16 →
        s.hub.locks.length < 1024 → ∃ r t, exec (.lockAcquire p) s
          = .next (conclude 0x0A00 p (.reply (if ∃ u ∈ l.units, (s.lockUnit u).orphan = true then 3 else 0) 0 r t))
          ∧ t.hub.locks = s.hub.locks ++ [l] ∧ t.hub.nextLock = s.hub.nextLock + 1 ∧ t.hub.entries = s.hub.entries
          ∧ ∀ u : Nat, l.units = [u] →
            let v := s.lockUnit u
            t = (s.setHub { s.hub with locks := s.hub.locks ++ [l], nextLock := s.hub.nextLock + 1 }).setLockUnit u { v with orphan := false }
            ∧ r = l.handle + v.gen.toNat * 2 ^ 32 + (if v.orphan then v.held else v.gen).toNat * 2 ^ 64 + (if v.orphan then 1 else 0) * 2 ^ 96)
      ∧ (∀ m : Lock, s.hub.locks = [m] → m.session ≠ p.session → l.meets m = true →
        exec (.lockAcquire p) s = .next (conclude 0x0A00 p (.reply 0x8004 0 m.session s))))
    ∧ (Accepted 0x0A01 p s (parCheck p [(20, 4)] true) false →
      (∀ (m : Lock) (u : Nat), s.hub.locks = [m] → m.handle = par p 20 4 → m.session = p.session → m.units = [u] → exec (.lockRelease p) s
        = .next (conclude 0x0A01 p (.reply 0 0 0 ((s.setHub { s.hub with locks := [] }).setLockUnit u
            { s.lockUnit u with gen := (s.lockUnit u).gen + 1 }))))
      ∧ ((∀ m ∈ s.hub.locks, m.handle ≠ par p 20 4 ∨ m.session ≠ p.session) →
        exec (.lockRelease p) s = .next (conclude 0x0A01 p (.reply 0x8002 0 0 s))))
    ∧ (Accepted 0x0A02 p s (parCheck p [(20, 1), (21, 1), (22, 1)] (decide (par p 21 1 < 36) && decide (par p 22 1 = 0))) false →
      par p 20 1 = 2 → p.session < 16 → exec (.lockQuery p) s
        = .next (conclude 0x0A02 p (.reply 0 0
            ((match s.hub.locks.find? fun m => m.units.contains (544 + par p 21 1) with | some m => m.session | none => 0xFFFF)
              + (s.lockUnit (544 + par p 21 1)).gen.toNat * 2 ^ 32 + b2n (s.lockUnit (544 + par p 21 1)).orphan * 2 ^ 64) s)))
    ∧ (Accepted 0x0B00 p s (parCheck p [(20, 1)] (faultUnitOk (par p 20 1) && decide (p.len.toNat % 64 = 0))) (decide (p.len = 0)) →
      ∀ r : FaultRec, p.session < 16 → par p 20 1 < 83 → s.faultRec (par p 20 1) = some r → exec (.faultRead p) s
        = .next (conclude 0x0B00 p (.reply 0 0 (1 + 2 ^ 32)
            (bufPut s p 0 (leBytes 64 (r.image (s.isLive (par p 20 1) r.code)))))))
    ∧ (Accepted 0x0B01 p s (parCheck p [(20, 1)] (faultUnitOk (par p 20 1))) false → p.session < 16 → par p 20 1 < 83 →
      (s.faultRec (par p 20 1) ≠ none →
        let u : State := { s with faults := { s.faults with recs := mset none (par p 20 1) none s.faults.recs } }
        exec (.faultClear p) s = .next (conclude 0x0B01 p (.reply 0 0 0 (if s.alert = true ∧ u.alert = false
          then { u with sent := { s.sent with pins := s.sent.pins ++ [(6, true)] } } else u))))
      ∧ (s.faultRec (par p 20 1) = none → exec (.faultClear p) s = .next (conclude 0x0B01 p (.reply 5 0 0 s))))
    ∧ (Accepted 0x0B02 p s (parCheck p [(20, 1)] (decide (par p 20 1 < 2))) false → p.session < 16 → par p 20 1 ≠ s.faults.pinLevel →
      let level := par p 20 1
      (s.faults.pulsing = true → exec (.faultPinSet p) s
        = .next (conclude 0x0B02 p (.reply 0 0 0 { s with faults := { s.faults with pinLevel := level } })))
      ∧ (s.faults.pulsing = false → s.faults.driven ≠ level → exec (.faultPinSet p) s
        = .next (conclude 0x0B02 p (.reply 0 0 0 { s with
            faults := { s.faults with pinLevel := level, driven := level }
            sent := { s.sent with pins := s.sent.pins ++ [(5, decide (level = 1))] } }))))
    ∧ (s.faults.pulsing = true → s.faults.driven = 0 → s.faults.pinLevel = 1 → exec .faultNPulseEnd s
        = .next { s with faults := { s.faults with pulsing := false, driven := 1 }, sent := { s.sent with pins := s.sent.pins ++ [(5, true)] } })
    ∧ (s.faults.pulsing = false → exec .faultNPulseEnd s = .next s)

/-- The first-error record of a unit (R424): a unit without a record takes the first fault it raises; a record of a CORRECTED fault gives
way to the first of a higher class and sets `replaced`; no other record is replaced, and a later fault only sets `more`, counts in
more_count, and raises max_class if its class is higher. Of two faults of one step the lower code latches first. The records of other units
are unchanged. Besides, each fault is counted; a CORRECTED one writes no logbook record and halts nothing, every other one writes a record
if the queue has room; a PARCEL fault halts the running groups of the unit's owner, with its code (R420, R134), and no other; a DEVICE fault
pulses FAULT_N, lowers SMB_ALERT_N, and halts what runs (R427, R430, R434, R436). -/
def Obligations.FaultLatching : Prop :=
  ∀ (s : State) (e : FaultEv), mwf none s.faults.recs = true → mwf 0 s.faults.cnt = true →
    let cls := faultClass e.code e.unit
    let t := s.raise e
    let new := e.record s
    (s.faultRec e.unit = none → t.faultRec e.unit = some new)
    ∧ (∀ r : FaultRec, s.faultRec e.unit = some r →
      (r.cls = 0 → 0 < cls → t.faultRec e.unit = some { new with replaced := true })
      ∧ (0 < r.cls ∨ cls = 0 → t.faultRec e.unit
          = some { r with more := true, moreCnt := satAdd 32 r.moreCnt 1, maxCls := max r.maxCls cls }))
    ∧ (∀ e' : FaultEv, e.code ∈ faultCodes → e'.code ∈ faultCodes → e.code < e'.code →
        s.raiseAll [e, e'] = t.raise e' ∧ s.raiseAll [e', e] = t.raise e')
    ∧ (∀ u : Nat, u ≠ e.unit → t.faultRec u = s.faultRec u)
    ∧ (∀ k : Nat, mget 0 k t.faults.cnt = if k = faultCodes.idxOf e.code then satAdd 48 (mget 0 k s.faults.cnt) 1 else mget 0 k s.faults.cnt)
    ∧ (cls = 0 → t.log = s.log ∧ t.groups = s.groups)
    ∧ (cls = 1 → t.groups = s.groups)
    ∧ (cls = 2 → mwf RunGroup.init s.groups = true → ∀ g ∈ s.runGroups,
      let struck := ∃ p ∈ (s.group g).parcels, s.ownerOf p ≠ none ∧ s.ownerOf p = s.unitOwner e.unit
      ((s.group g).state = .running → struck → (t.group g).halting = (s.group g).halting.or (some e.code))
      ∧ (¬ struck → t.group g = s.group g))
    ∧ (cls = 3 → s.faultRec e.unit = none → s.alert = false → (5, false) ∈ t.sent.pins ∧ (6, false) ∈ t.sent.pins)
    ∧ (0 < cls → s.log.queue.length < 64 → ∃ r : LogRec, t.log.queue = s.log.queue ++ [r] ∧ r.kind = 0x10 ∧ r.stamp = s.datum.now)
    ∧ (cls = 3 → t.faults.pulsing = true ∧ ∀ g ∈ s.runGroups, mwf RunGroup.init s.groups = true → (s.group g).state = .running →
        ((t.group g).halting).isSome = true)

-- the logbook and its readers

/-- LOGBOOK_COMMIT, LOG_READ, LOG_INFO and the reads of the management port (R432 to R438). The record at the head of the queue gets the next
number and joins the ring, and a pinned one the pinned area; a records-lost record tells the drops and clears them; after drops an entry
that frees takes a records-lost record. Reads give whole records from the place asked for; the port answers on VSTBY alone. The places of
the fields of a records-lost record, the answers that find no record, the vendor message, and the slots, their retirement and the control
block are the model's choice (log entries 29, 38, 42, 105). -/
def Obligations.LogbookCommands : Prop :=
  ∀ s : State,
    let l := s.log
    let up := s.boot.vstby && l.usable
    (up = false → exec .logbookCommit s = .next s ∧ exec .mctpLogInfo s = .next s ∧ ∀ a n : Nat, exec (.mctpLogRead a n) s = .next s)
    ∧ (∀ (h : LogRec) (rest : List LogRec), up = true → l.queue = h :: rest →
      (h.kind ≠ 0x11 → l.dropped = 0 →
        let r : LogRec := { h with seq := l.nextSeq }
        let slot := ringSlot l.nextSeq
        let used := (l.retired.filter fun x => decide (x.1 / 32768 = slot / 32768)).length
        ∃ t, exec .logbookCommit s = .next t ∧ t = { s with log := t.log, freeCtr := s.freeCtr + 1 }
          ∧ t.log = { l with nextSeq := (l.nextSeq + 1) % 2 ^ 32, queue := rest, ring := t.log.ring, pinned := t.log.pinned
                             retired := t.log.retired, control := nextControl l.control }
          ∧ t.log.retired = (if (Config.freeValue s.freeCtr 1 : BitVec 1) = 1 ∧ used < 1912
              then mset 0 slot (slot / 32768 * 32768 + 136 + used) l.retired else l.retired)
          ∧ (l.ring.length < 61440 → t.log.ring = l.ring ++ [r]) ∧ (l.ring.length = 61440 → t.log.ring = l.ring.drop 1 ++ [r])
          ∧ (h.flags % 2 = 0 → t.log.pinned = l.pinned)
          ∧ (h.flags % 2 = 1 → h.kind ≠ 1 → t.log.pinned.getLast? = some r))
      ∧ (h.kind = 0x11 → ∃ t r, exec .logbookCommit s = .next t ∧ t.log.dropped = 0 ∧ t.log.ring.getLast? = some r
          ∧ r.kind = 0x11 ∧ bitsOf r.payload.toNat 0 64 = l.dropped % 2 ^ 64)
      ∧ (h.kind ≠ 0x11 → 0 < l.dropped → (∀ x ∈ rest, x.kind ≠ 0x11) → rest.length < 64 → ∃ t r, exec .logbookCommit s = .next t
          ∧ t.log.queue = rest ++ [r] ∧ r.kind = 0x11 ∧ t.log.dropped = l.dropped))
    ∧ (l.queue = [] → exec .logbookCommit s = .next s)
    ∧ (up = true → exec .mctpLogInfo s = .next (State.setSent s { s.sent with mctp := s.sent.mctp ++
        [vendorMessage 1 (leBytes 4 l.ring.length ++ leBytes 4 l.pinned.length ++ leBytes 4 l.nextSeq
          ++ leBytes 4 ((l.ring.head?.map (·.seq)).getD 0))] }))
    ∧ (∀ (first : Nat) (x : Nat × LogRec) (rest : List (Nat × LogRec)), up = true → l.from 0 first = x :: rest →
        l.queue = [] ∨ l.ring.length < 61440 → exec (.mctpLogRead 0 first) s
          = .next (State.setSent s { s.sent with mctp := s.sent.mctp ++ [vendorMessage 2 x.2.bytes] }))
    ∧ ∀ p : Packet, p.session < 16 →
      (Accepted 0x0B10 p s (parCheck p [(20, 1), (24, 8)] (decide (par p 20 1 < 2) && decide (p.len.toNat % 256 = 0))) (decide (p.len = 0)) →
        let out := (l.from (par p 20 1) (par p 24 8)).take (p.len.toNat / 256)
        exec (.logRead p) s = .next (conclude 0x0B10 p (.reply 0 0
          (out.length + ((match out.getLast? with | some x => x.1 + 1 | none => par p 24 8) % 2 ^ 32) * 2 ^ 32)
          (bufPut s p 0 (out.flatMap fun x => x.2.bytes)))))
      ∧ (Accepted 0x0B11 p s (parCheck p [] true) false → exec (.logInfo p) s
        = .next (conclude 0x0B11 p (.reply 0 0 (l.ring.length + l.pinned.length * 2 ^ 32 + l.nextSeq * 2 ^ 64
            + (l.ring.head?.map (·.seq)).getD 0 * 2 ^ 96) s)))

-- parcels and pairs

/-- PARCEL_ASSIGN, PARCEL_RELEASE, PARCEL_CAP, PARCEL_SLEEP, PARCEL_AUTO_SLEEP and PARCEL_CLEAR_DONE (R219 to R221, R228, R229, R419): an
unowned parcel gets its tag and is BLANK and no power-down of it goes on, or it wakes first; a released one is UNOWNED, its record and
stores clear; a cap takes both values; a sleep waits for the power-downs it starts; an unowned parcel starts its own; a woken parcel is
clear in every store, table, slot and bank, and takes the owner that waits for it. PAIR_SET, PAIR_RESPONSE and PAIR_DIVERGE_CLEAR (R242,
R250, R253): the mode changes and is logged, East's lanes go idle and its units wake, once the routers have drained, for which the command
waits (R360, log 96); a response of 1 releases source 8; a clear empties the record but for its count. -/
def Obligations.ParcelsAndPairs : Prop :=
  ∀ s : State, mwf Parcel.init s.parcels = true →
    (∀ p : Packet,
      let m := par p 20 4
      let ps := s.maskParcels m
      let blank := ∀ i ∈ ps, (s.parcel i).load = .blank
      (p.session < 16 → (∀ i ∈ ps, s.failed i = false) →
        (Accepted 0x0C00 p s (parCheck p [(20, 4), (24, 1)] (s.maskFits m && s.fnEnabled (par p 24 1))) (decide (m = 0)) →
          (∀ i ∈ ps, (s.parcel i).load = .unowned ∧ (s.parcel i).owned = false) →
          ((∀ i ∈ ps, s.unready (.parcel i) = false) →
            ((∀ i ∈ ps, Domain.parcel i ∉ s.net.down) → exec (.parcelAssign p) s = .next (conclude 0x0C00 p (done (forEach ps (fun i t =>
                (t.updParcel i fun v => { v with owned := true, group := par p 24 1, load := .blank }).setFaultRec i none) s))))
            ∧ (mwf none s.faults.recs = true → ∃ t, exec (.parcelAssign p) s = .next (conclude 0x0C00 p (done t)) ∧ ∀ i ∈ ps,
                (t.parcel i).owned = true ∧ (t.parcel i).group = par p 24 1 ∧ (t.parcel i).load = .blank ∧ t.faultRec i = none
                  ∧ Domain.parcel i ∉ t.net.down))
          ∧ ((∃ i ∈ ps, s.unready (.parcel i) = true) → ∃ t, exec (.parcelAssign p) s
              = .next (conclude 0x0C00 p (.park (.assign m (par p 24 1)) t)) ∧ t.parcels = s.parcels
              ∧ ∀ i ∈ ps, (s.parcel i).asleep = true → Domain.parcel i ∉ s.net.isolated → Domain.parcel i ∉ s.net.down →
                Domain.parcel i ∈ t.net.waking))
        ∧ (Accepted 0x0C02 p s (parCheck p [(20, 4), (24, 1), (26, 2)] (s.maskFits m && capOk (par p 24 1) (par p 26 2))) (decide (m = 0)) →
          (∀ i ∈ ps, s.loadedClass i ≤ par p 24 1) → ∃ t, exec (.parcelCap p) s = .next (conclude 0x0C02 p (done t))
            ∧ t = { s with parcels := t.parcels, boot := t.boot }
            ∧ (∀ i ∈ ps, t.parcel i = { s.parcel i with
                capClass := par p 24 1, capW := par p 26 2, stgClass := par p 24 1, stgW := par p 26 2 })
            ∧ ∀ i, i ∉ ps → t.parcel i = s.parcel i))
      ∧ (s.ownCheck (p.session / 16) ps = none → s.parcelLocked p.session ps = false → blank →
        (Accepted 0x0C01 p s (parCheck p [(20, 4)] (s.maskFits m)) (decide (m = 0)) → s.memoriesWf = true → mwf none s.faults.recs = true →
          ∃ t, exec (.parcelRelease p) s = .next (conclude 0x0C01 p (done t)) ∧ ∀ i ∈ ps,
            (t.parcel i).owned = false ∧ (t.parcel i).load = .unowned ∧ t.faultRec i = none
              ∧ ∀ k : Nat, k < 16 → t.ClusterClear (clOf i k))
        ∧ (Accepted 0x0C03 p s (parCheck p [(20, 4)] (s.maskFits m)) (decide (m = 0)) →
          ((∀ i ∈ ps, (s.parcel i).asleep = false) → ∃ t, exec (.parcelSleep p) s
            = .next (conclude 0x0C03 p (.park (.sleep (listMask ps) true) t)) ∧ t.parcels = s.parcels ∧ ∀ i ∈ ps, Domain.parcel i ∈ t.net.down)
          ∧ ((∀ i ∈ ps, (s.parcel i).asleep = true) → exec (.parcelSleep p) s = .next (conclude 0x0C03 p (.reply 0 0 1 s))))))
    ∧ (∀ i : Nat, i < 32 →
      ((s.parcel i).owned = false → (s.parcel i).load = .unowned → (s.parcel i).clearing = false → (s.parcel i).asleep = false →
        s.assignWaits i = false → Domain.parcel i ∉ s.net.down →
        exec (.parcelAutoSleep i) s = .next (s.setNet { s.net with down := s.net.down ++ [.parcel i]
                                                                   draining := s.net.draining ++ [(.parcel i, i)] }).settle)
      ∧ ((s.parcel i).clearing = true → s.memoriesWf = true → s.hub.entries = [] → ∃ t, exec (.parcelClearDone i) s = .next t
        ∧ t.parcel i = { s.parcel i with clearing := false } ∧ ∀ k : Nat, k < 16 → t.ClusterClear (clOf i k))
      ∧ (∀ (e : Entry) (m fn : Nat), (s.parcel i).clearing = true → (s.parcel i).owned = false → (s.parcel i).asleep = false →
          Domain.parcel i ∉ s.net.waking → Domain.parcel i ∉ s.net.isolated → s.hub.entries = [e] → e.wait? = some (.assign m fn) →
          s.maskParcels m = [i] → ∃ t, exec (.parcelClearDone i) s = .next t
            ∧ (t.parcel i).owned = true ∧ (t.parcel i).group = fn ∧ (t.parcel i).load = .blank
            ∧ s.Answered t e.pkt.session (s.okStatus 0) 0))
    ∧ ∀ p : Packet,
      (Accepted 0x0C10 p s (parCheck p [(20, 1)] (decide (par p 20 1 < 4))) false → p.session < 16 →
        (∀ q < 36, s.quadLocked p.session q = false) → (∀ i < 32, (s.parcel i).load = .unowned ∧ (s.parcel i).owned = false) →
        s.boot.pairMode < 2 → par p 20 1 ≠ s.boot.pairMode →
        (par p 20 1 < 2 → ∃ t, exec (.pairSet p) s = .next (conclude 0x0C10 p (done t))
          ∧ t = { s with boot := { s.boot with pairMode := par p 20 1 }, log := t.log, bridges := t.bridges, faults := t.faults
                         freeCtr := t.freeCtr }
          ∧ (s.log.queue.length < 64 → ∃ r : LogRec, t.log.queue = s.log.queue ++ [r] ∧ r.kind = 0x60))
        ∧ (2 ≤ par p 20 1 → s.hasDrained 0x0C10 p = false → exec (.pairSet p) s
          = .next (conclude 0x0C10 p (.park (.drain ((eastReplicas.flatMap domainRouters).eraseDups)) s)))
        ∧ (2 ≤ par p 20 1 → s.hasDrained 0x0C10 p = true → mwf Lane.init s.lanes = true → mwf Quad.init s.quads = true →
          ∃ t, exec (.pairSet p) s = .next (conclude 0x0C10 p
              (if eastReplicas.any t.unready = true then .park .pairWake t else done t))
          ∧ t.boot = { s.boot with pairMode := par p 20 1 }
          ∧ (∀ q, 18 ≤ q → q < 36 → (s.quad q).awake = false → Domain.quad q ∉ s.net.isolated → Domain.quad q ∉ s.net.down →
              Domain.quad q ∈ t.net.waking)
          ∧ (∀ q, 18 ≤ q → q < 36 → Domain.quad q ∉ s.net.isolated → Domain.quad q ∉ t.net.down)
          ∧ (∀ l, 72 ≤ l → l < 144 → (s.lane l).state = .up → (s.lane l).fec = 0 →
              t.lane l = { s.lane l with ctrl := (s.lane l).ctrl ++ [.sleep] })
          ∧ (∀ l, 72 ≤ l → l < 144 → (s.lane l).state = .training ∨ (s.lane l).state = .down ∨ (s.lane l).state = .test →
              (t.lane l).state = (if (s.lane l).stored then .idleTrained else .idleUntrained) ∧ (t.lane l).trainDue = false)
          ∧ ∀ l, l < 72 → t.lane l = s.lane l))
      ∧ (∀ g : Nat, Accepted 0x0C12 p s (parCheck p [(20, 4), (24, 1)] (decide (par p 24 1 < 2))) (decide (par p 20 4 = 0)) →
        pairGroup p s [2] = .ok g → exec (.pairResponse p) s = .next (conclude 0x0C12 p (done (s.setGroup g { s.group g with
          response := par p 24 1, divHeld := (s.group g).divHeld && decide (par p 24 1 = 0) }))))
      ∧ ∀ g : Nat, Accepted 0x0C11 p s (parCheck p [(20, 4)] true) (decide (par p 20 4 = 0)) → pairGroup p s [2, 3] = .ok g →
        ((s.group g).diverged = false → exec (.pairDivergeClear p) s = .next (conclude 0x0C11 p (.reply 5 0 0 s)))
        ∧ ((s.group g).diverged = true → exec (.pairDivergeClear p) s = .next (conclude 0x0C11 p (done ((s.setGroup g { s.group g with
            diverged := false, divHeld := false, firstCl := 0, firstEnt := 0, divCycle := 0, westSig := 0, eastSig := 0, divN := 0
            sigHold := decide ((s.group g).state = .running), sigDue := false }).endEpisode (clParcel (s.group g).firstCl) 0x1010))))

-- power domains

/-- POWER_SET, DOMAIN_POWER_DOWN, POWER_DOWN_RETRY, HBM_SELF_REFRESH_ENTRY, DOMAIN_WAKE_DONE, ROUTER_RECONFIGURATION and
RECONFIGURATION_ABANDON (R229, R360 to R366). A sleep starts power-downs and waits for them, a wake starts wakes. A power-down that drains
is isolated and then completes, one that must stay awake now or that an early packet meets is cancelled, and one whose rule applies begins. A
domain is isolated once all of its routers have drained, and a command that waits for them goes on. A drain past the limit is abandoned: the
command that asked ends with ERR_BUSY_DRAIN, and an automatic one is tried again. A stack whose ports have drained enters self-refresh with
its data unless something keeps it. A woken parcel still has to clear. -/
def Obligations.PowerDomains : Prop :=
  ∀ s : State, mwf Parcel.init s.parcels = true → mwf Stack.init s.hbmStacks = true → mwf Quad.init s.quads = true →
    mwf Engine.init s.engines = true → mwf Bridge.init s.bridges = true →
    (∀ p : Packet, p.session < 16 → Accepted 0x0C20 p s (parCheck p [(20, 1), (21, 1), (24, 8)]
        (decide (par p 20 1 < 2) && decide (par p 21 1 < 2) && decide (par p 24 8 < if par p 20 1 = 0 then 16 else 2 ^ 36)))
        (decide (par p 24 8 = 0)) →
      let kind := par p 20 1
      let us := maskList 36 (par p 24 8)
      (kind = 1 → ∀ q ∈ us, s.quadLocked p.session q = false) →
      (par p 21 1 = 0 → (∀ i ∈ us, if kind = 0 then s.keepsStack i = false else s.keepsQuad i = false) →
        ((∀ i ∈ us, s.isAsleep (powerUnit kind i) = false) → ∃ t, exec (.powerSet p) s
          = .next (conclude 0x0C20 p (.park (.power kind (listMask us) false true) t)) ∧ ∀ i ∈ us, powerUnit kind i ∈ t.net.down)
        ∧ ((∀ i ∈ us, s.isAsleep (powerUnit kind i) = true) → exec (.powerSet p) s = .next (conclude 0x0C20 p (.reply 0 0 1 s))))
      ∧ (par p 21 1 = 1 →
        ((∀ i ∈ us, s.isAsleep (powerUnit kind i) = true) → ∃ t, exec (.powerSet p) s
          = .next (conclude 0x0C20 p (.park (.power kind (listMask us) true true) t)) ∧ ∀ i ∈ us, powerUnit kind i ∈ t.net.waking)
        ∧ ((∀ i ∈ us, s.isAsleep (powerUnit kind i) = false) → exec (.powerSet p) s = .next (conclude 0x0C20 p (.reply 5 0 0 s)))))
    ∧ (∀ d : Domain, domainOk d = true → s.isAsleep d = false → d ∉ s.net.waking →
      let starts (n : Net) : Net :=
        { n with down := n.down ++ [d], draining := n.draining ++ (domainRouters d).map fun r => (d, r) }
      (d ∈ s.net.down →
        (∀ early : Bool, d ∈ s.net.isolated → s.staysUp d = false → d ∉ s.net.called →
          (∀ k ∈ s.net.held, (nodeOf k.dst).bind Node.domain ≠ some d) →
          ∃ t, exec (.domainPowerDown d early) s = .next t ∧ t.isAsleep d = true ∧ d ∉ t.net.down ∧ t.hbm = s.hbm)
        ∧ (d ∉ s.net.isolated → s.staysUp d = false → exec (.domainPowerDown d false) s = .next s.settle)
        ∧ (∀ early : Bool, s.staysUp d = true ∨ early = true ∧ d ∉ s.net.isolated → ∃ t, exec (.domainPowerDown d early) s = .next t
            ∧ t.isAsleep d = false ∧ d ∉ t.net.down ∧ t.net.cancelled = satAdd 16 s.net.cancelled 1 ∧ t.bank = s.bank))
      ∧ (d ∉ s.net.down → s.autoSleeps d = true → (∀ i : Nat, d = .parcel i → s.failed i = true) → (∀ k : Nat, d ≠ .stack k) →
        exec (.domainPowerDown d false) s = .next (s.setNet (starts s.net)).settle)
      ∧ (d ∈ s.net.retry → d ∉ s.net.down → s.autoSleeps d = true → exec (.powerDownRetry d) s
        = .next (s.setNet (starts { s.net with retry := s.net.retry.filter fun x => decide (x ≠ d) })).settle))
    ∧ (∀ k : Nat, k < 4 →
      (s.keepsStack k = true → exec (.hbmSelfRefreshEntry k) s = .next s.settle)
      ∧ ((s.stack k).trained = false → (s.stack k).s3Trained = false → exec (.hbmSelfRefreshEntry k) s = .next s.settle)
      ∧ (s.keepsStack k = false → Domain.stack k ∉ s.net.waking → (s.stack k).asleep = false → (s.stack k).trained = true →
        (Domain.stack k ∉ s.net.isolated → Domain.stack k ∉ s.net.down → exec (.hbmSelfRefreshEntry k) s = .next (s.setNet { s.net with
          down := s.net.down ++ [.stack k], draining := s.net.draining ++ (domainRouters (.stack k)).map fun r => (.stack k, r) }).settle)
        ∧ (Domain.stack k ∈ s.net.isolated → s.net.held = [] → Domain.stack k ∉ s.net.called → ∃ t,
          exec (.hbmSelfRefreshEntry k) s = .next t ∧ (t.stack k).asleep = true ∧ Domain.stack k ∉ t.net.down ∧ t.hbm = s.hbm)))
    ∧ (∀ d : Domain, domainOk d = true → d ∈ s.net.waking → s.net.held = [] → ∃ t, exec (.domainWakeDone d) s = .next t
      ∧ t.isAsleep d = false ∧ d ∉ t.net.waking ∧ ∀ i : Nat, d = .parcel i → (t.parcel i).clearing = true)
    ∧ ∀ router : Nat, router < 40 →
      (∀ drain : Nat, drain ≤ 65536 →
        let left := s.net.draining.filter fun x => decide (x.2 ≠ router)
        exec (.routerReconfiguration router drain) s = .next ((s.tellDrained router).setNet { s.net with
          router := router, lastAband := false, drainMax := max s.net.drainMax drain, draining := left
          isolated := s.net.isolated ++ (s.drainsAt router).filter fun d => !left.any fun x => decide (x.1 = d) }).settle
        ∧ ∀ e : Entry, s.hub.entries = [e] → e.wait? = some (.drain [router]) → ∃ t, exec (.routerReconfiguration router drain) s = .next t
          ∧ t.hub.entries = [{ e with state := .ready true }])
      ∧ (∀ (e : Entry) (rs : List Nat), s.hub.entries = [e] → e.wait? = some (.drain rs) → router ∈ rs →
        ∃ t, exec (.reconfigurationAbandon router) s = .next t ∧ s.Answered t e.pkt.session 0x8005 0)
      ∧ ∀ d : Domain, s.drainsAt router = [d] → ∀ c : Instr, (c = .reconfigurationAbandon router ∨ c = .routerReconfiguration router 65537) →
        ∃ t, exec c s = .next t ∧ d ∉ t.net.down ∧ t.net.abandoned = satAdd 16 s.net.abandoned 1 ∧ t.net.lastAband = true
          ∧ (∀ x : Domain, t.isAsleep x = s.isAsleep x)
          ∧ ((∀ e ∈ s.hub.entries, ∀ w : Wait, e.wait? = some w → w.wantsDown d = false) → t.net.retry = s.net.retry ++ [d])
          ∧ ∀ (e : Entry) (w : Wait), s.hub.entries = [e] → e.wait? = some w → w.wantsDown d = true →
            s.Answered t e.pkt.session 0x8005 0

-- packets

/-- Packets of the network (R350, R352, R354, R357, R358, R362, R276), while the routers run. A channel that does not fit its type is
discarded and counted, whatever the command, and so is a packet with an uncorrectable sideband. A request takes its tag, or the lowest free
one of its holder, or waits for one, and is answered; one to no node is counted and answered with ERROR; one to a sleeping domain waits
there and wakes it. A packet of a foreign function to a parcel agent is answered with ERROR. A READ of a stack gives 64 bytes (the model's
choice, log entry 33), a WRITE and a POSTED store their bytes, an uncorrectable one with an uncorrectable pattern, and only the WRITE is
answered; an uncorrectable word that reaches a parcel agent marks a bank word of it (which one is a free value, log entry 33). A response
frees its tag; one with an uncorrectable word ends the command that reads; a timeout frees the tag with an ERROR, and the command that
depends on it ends with ERR_TIMEOUT. -/
def Obligations.NetworkPackets : Prop :=
  ∀ (s : State) (k : NetPacket), s.running = true → s.boot.sheetsHeld = false →
    let row : Instr → Prop := fun c => c = .read k ∨ c = .write k ∨ c = .posted k ∨ c = .atomic k ∨ c = .message k ∨ c = .ack k
      ∨ c = .errorResponse k ∨ c = .time k ∨ c = .wake k
    let ans (type : Nat) (data : List Byte) : NetPacket :=
      { vc := 1, prio := false, dst := k.src, src := k.dst, type := type, tag := k.tag, group := k.group, internal := k.internal
        addr := k.addr, data := data, ue := 0, fixed := 0, badSide := false }
    let say (p : NetPacket) : Sent := { s.sent with packets := s.sent.packets ++ [p] }
    let seen (n : Net) : Net :=
      { n with ce := satAdd 32 n.ce k.fixed, ueData := satAdd 16 n.ueData (maskList 64 k.ue).length }
    let through (n : Net) : Net := { seen n with route := route k.src k.dst }
    let taken : Net := { s.net with tags := s.net.tags ++ [(k.tag, k)], peak := max s.net.peak (s.net.tags.length + 1) }
    let fresh := fromPart k = false ∧ holdsTag k.src k.tag = true ∧ ∀ e ∈ s.net.tags, e.1 ≠ k.tag
    (typeVc k.type ≠ some k.vc →
      let bad := s.setNet { s.net with badType := satAdd 16 s.net.badType 1 }
      (∀ c : Instr, row c → exec c s = .next bad.settle) ∧ exec (.readResponse k) s = .next bad.pausesEnd.settle)
    ∧ (k.badSide = true → k.type = 2 → k.vc = 0 → exec (.posted k) s
      = .next (s.setNet { s.net with ce := satAdd 32 s.net.ce k.fixed, ueSide := satAdd 16 s.net.ueSide 1 }).settle)
    ∧ (fresh → k.badSide = true → k.type = 0 → k.vc = 0 → exec (.read k) s
      = .next (s.setNet { taken with ce := satAdd 32 s.net.ce k.fixed, ueSide := satAdd 16 s.net.ueSide 1 }).settle)
    ∧ (k.badSide = false → fresh → nodeOf k.dst = none →
      let lost := (State.setSent (s.setNet { seen taken with badDst := satAdd 16 s.net.badDst 1 }) (say (ans 9 []))).settle
      (k.type = 0 → k.vc = 0 → exec (.read k) s = .next lost) ∧ (k.type = 1 → k.vc = 0 → exec (.write k) s = .next lost)
      ∧ (k.type = 3 → k.vc = 0 → exec (.atomic k) s = .next lost) ∧ (k.type = 4 → k.vc = 0 → exec (.message k) s = .next lost))
    ∧ (k.type = 0 → k.vc = 0 → fromPart k = false →
      ((∀ t : Nat, holdsTag k.src t = true → ∃ e ∈ s.net.tags, e.1 = t) → exec (.read k) s
        = .next (s.setNet { s.net with waits := satAdd 32 s.net.waits 1, waiting := s.net.waiting ++ [k] }).settle)
      ∧ (s.net.tags = [] → holdsTag k.src k.tag = false → nodeOf k.dst = none → ∃ t, exec (.read k) s = .next t
        ∧ t.net.tags = [((tagRange k.src).1, { k with tag := (tagRange k.src).1 })]))
    ∧ (∀ d : Nat, k.badSide = false → k.vc = 0 → nodeOf k.dst = some (.controller d) →
      (Domain.stack d ∉ s.net.waking → Domain.stack d ∉ s.net.isolated → Domain.stack d ∉ s.net.down → (s.stack d).asleep = false →
        s.net.held = [] →
        (k.type = 10 → s.net.sheetDatum = [false, false] → exec (.time { k with vc := 2 }) s = .next (s.setNet
          { through s.net with sheetDatum := [decide (k.dst % 4 = 0), decide (k.dst % 4 = 1)] }).settle)
        ∧ ((s.stack d).trained = true → s.ecc = [] →
          (fresh → k.type = 0 → k.addr + 64 ≤ 36 * 2 ^ 30 → exec (.read k) s = .next (State.setSent (s.setNet (through taken))
            (say (ans 6 (memBytes s.hbm (d * 2 ^ 36 + k.addr) 64)))).settle)
          ∧ (k.ue = 0 → k.addr + k.data.length ≤ 36 * 2 ^ 30 →
            let stored := memSetBytes (d * 2 ^ 36 + k.addr) k.data s.hbm
            (fresh → k.type = 1 → exec (.write k) s
              = .next (State.setSent { s.setNet (through taken) with hbm := stored } (say (ans 7 []))).settle)
            ∧ (k.type = 2 → exec (.posted k) s = .next (State.settle { s.setNet (through s.net) with hbm := stored })))
          ∧ (k.ue = 1 → k.type = 2 → k.data.length = 8 → k.addr % 8 = 0 → k.addr + 8 ≤ 36 * 2 ^ 30 → ∃ t, exec (.posted k) s = .next t
            ∧ t.eccAt 9 (d * 2 ^ 33 + k.addr / 8) = 2)))
      ∧ ((s.stack d).asleep = true → Domain.stack d ∉ s.net.waking →
        (fresh → k.type = 0 → exec (.read k) s = .next (s.setNet { through taken with
          held := s.net.held ++ [k], wakes := satAdd 32 s.net.wakes 1, waking := s.net.waking ++ [.stack d] }).settle)
        ∧ (k.type = 11 → exec (.wake { k with vc := 2 }) s
          = .next (s.setNet { through s.net with held := s.net.held ++ [{ k with vc := 2 }], wakes := satAdd 32 s.net.wakes 1
                                                 waking := s.net.waking ++ [.stack d] }).settle)))
    ∧ (∀ i : Nat, k.badSide = false → k.vc = 0 → nodeOf k.dst = some (.agent i) → s.isAsleep (.parcel i) = false → s.net.held = [] →
      Domain.parcel i ∉ s.net.waking → Domain.parcel i ∉ s.net.isolated → Domain.parcel i ∉ s.net.down →
      (k.internal = false → s.ownerOf i ≠ some k.group →
        (fresh → k.type = 3 → exec (.atomic k) s = .next (State.setSent (s.setNet (through taken)) (say (ans 9 []))).settle)
        ∧ (k.type = 2 → exec (.posted k) s = .next (State.setSent (s.setNet (through s.net)) (say (ans 9 []))).settle))
      ∧ (k.internal = true → k.type = 2 → k.ue = 1 →
        let f := (Config.freeValue s.freeCtr 20 : BitVec 20).toNat
        let u : State := s.setNet (through s.net)
        exec (.posted k) s = .next (State.settle { u with
          freeCtr := s.freeCtr + 1
          ecc := mset 0 (eccKey 6 (clOf i (bitsOf f 0 4) * 65536 + bitsOf f 4 16 % 65536)) 2 s.ecc }))
      ∧ (k.internal = true → fresh → k.type = 3 → exec (.atomic k) s
        = .next (State.setSent (State.setNet { s with freeCtr := s.freeCtr + 1 } (through taken))
          (say (ans 6 (leBytes 8 (Config.freeValue s.freeCtr 512).toNat)))).settle))
    ∧ (k.badSide = false → k.vc = 0 → k.type = 4 → nodeOf k.dst = some .mailbox → fresh → exec (.message k) s
      = .next (State.setSent (s.setNet { through taken with mail := s.net.mail ++ [k] }) (say (ans 7 []))).settle)
    ∧ (k.badSide = false → k.vc = 1 → nodeOf k.dst = some .host → s.net.waiting = [] →
      let freed := s.setNet { through s.net with
        tags := s.net.tags.filter fun e => !(decide (e.1 = k.tag) && decide (e.2.src = k.dst)) }
      (k.type = 6 → k.ue = 0 → exec (.readResponse k) s = .next freed.pausesEnd.settle)
      ∧ (k.type = 7 → exec (.ack k) s = .next freed.settle) ∧ (k.type = 9 → exec (.errorResponse k) s = .next freed.settle))
    ∧ (∀ (tag cl done total a id : Nat) (write : Bool) (q : NetPacket) (e : Entry), tag < 4096 → s.net.tags = [(tag, q)] →
      nodeOf q.src = some .host → nodeOf q.dst = some (.agent (clParcel cl)) → s.net.waiting = [] → s.boot.pairMode ≠ 2 →
      s.hub.entries = [e] → e.wait? = some (.bank cl write done total a id) →
      (∃ t : State, exec (.tagTimeout tag) s = .next t ∧ t.net.tags = [] ∧ s.Answered t e.pkt.session 0x8021 0)
      ∧ (k.badSide = false → k.vc = 1 → k.type = 6 → k.tag = tag → k.dst = q.src → k.ue ≠ 0 →
        ∃ t : State, exec (.readResponse k) s = .next t ∧ t.net.tags = [] ∧ s.Answered t e.pkt.session 0x8020 0x2002))
    ∧ (∀ tag : Nat, tag < 4096 → (∀ e ∈ s.net.tags, e.1 ≠ tag) → exec (.tagTimeout tag) s = .next s.pausesEnd.settle)
    ∧ (∀ tag : Nat, tag < 4096 → s.net.tags = [(tag, k)] → k.type = 0 → s.net.waiting = [] → s.dependent k = none →
      exec (.tagTimeout tag) s = .next (State.setSent (s.setNet { s.net with tags := [], timeouts := satAdd 16 s.net.timeouts 1 })
          (say (ans 9 []))).pausesEnd.settle)

-- firmware, sensors and throttling

/-- FW_INFO, FW_WRITE, FW_SWITCH, PLDM_FIRMWARE_UPDATE and PART_RESET (R411 to R416, R449): a write goes to the copy that the hub did not
boot, which then holds the image or nothing, and the copy in use is never touched; a switch makes a valid copy above the floor pending, or
clears what was; a copy that another write is at work on gives ERR_STATE; the management port writes the same way and answers with the
result; a reset of a busy part needs force, and then no other command gets its reply, and its own reply is signalled. Whether the flash
reads back what was written is a free value. -/
def Obligations.FirmwareCommands : Prop :=
  ∀ (s : State) (p : Packet), p.session < 16 → s.boot.bootCopy < 2 →
    let f := s.flash
    let other := 1 - s.boot.bootCopy
    let copy (k : Nat) : FwCopy := f.copy k
    let version (c : FwCopy) : Nat := if c.state = 0 then 0 else c.major * 256 + c.minor
    let k := par p 20 1
    (Accepted 0x0D00 p s (parCheck p [] true) false → exec (.fwInfo p) s
      = .next (conclude 0x0D00 p (.reply 0 0 (s.boot.bootCopy + (f.pending.getD 0xFF) * 2 ^ 8 + (copy 0).state * 2 ^ 16 + (copy 1).state * 2 ^ 24
          + version (copy 0) * 2 ^ 32 + version (copy 1) * 2 ^ 48 + f.floor * 2 ^ 64) s)))
    ∧ (Accepted 0x0D01 p s (parCheck p [(20, 1)] (decide (par p 20 1 < 2))) (decide (p.len = 0)) →
      let m := bufMem s p
      let n := memNat m 16 8
      let img : FwCopy := { state := 1, major := memNat m 12 1, minor := memNat m 13 1, newFloor := memNat m 14 1, minSi := memNat m 11 1
                            digest := BitVec.ofNat 384 (memNat m 32 48) }
      s.workOf 0x0D01 p = none → ∃ st d t, exec (.fwWrite p) s = .next (conclude 0x0D01 p (.reply st d (if st = 0 then n else 0) t))
        ∧ t = { s with flash := t.flash, log := t.log, freeCtr := t.freeCtr } ∧ t.flash.copy s.boot.bootCopy = copy s.boot.bootCopy
        ∧ t.flash.floor = f.floor ∧ t.flash.lastBoot = f.lastBoot
        ∧ match fwCheck s m p.len.toNat with
          | some x => (st, d) = x ∧ t.flash.copy other = copy other
          | none => ((copy other).state = 2 → (st, d) = (0x8008, 0) ∧ t.flash.copy other = copy other) ∧ ((copy other).state ≠ 2 →
            (st = 0 → t.flash.copy other = img ∧ (k = 1 → t.flash.pending = some other)
              ∧ (k = 0 → t.flash.pending = if f.pending = some other then none else f.pending))
            ∧ (st ≠ 0 → (t.flash.copy other).state = 0 ∧ ((st, d) = (0x8012, 0x0D03) ∨ (st, d) = (0x8007, 0x0D08)))
            ∧ (st ≠ 0x8012 → Config.sha384 (memToNat (memSlice m 512 n)) n = img.digest)))
    ∧ (Accepted 0x0D02 p s (parCheck p [(20, 1)] (decide (par p 20 1 < 2))) false →
      let set (x : Option Nat) : State := { s with flash := { f with pending := x } }
      (k = s.boot.bootCopy → f.pending = none → exec (.fwSwitch p) s = .next (conclude 0x0D02 p (.reply 5 0 0xFF s)))
      ∧ (k = s.boot.bootCopy → f.pending ≠ none → exec (.fwSwitch p) s = .next (conclude 0x0D02 p (.reply 0 0 0xFF (set none))))
      ∧ (k ≠ s.boot.bootCopy → (copy k).state = 1 → f.floor ≤ (copy k).major →
        exec (.fwSwitch p) s = .next (conclude 0x0D02 p (.reply 0 0 k (set (some k)))))
      ∧ (k ≠ s.boot.bootCopy → (copy k).state ≠ 1 → exec (.fwSwitch p) s = .next (conclude 0x0D02 p (.reply 0x8008 0 0 s)))
      ∧ (k ≠ s.boot.bootCopy → (copy k).state = 1 → (copy k).major < f.floor →
        exec (.fwSwitch p) s = .next (conclude 0x0D02 p (.reply 0x8010 0x0D06 0 s))))
    ∧ (∀ image : List Byte, s.boot.stage = .full → ∃ st d t, exec (.pldmFirmwareUpdate image) s = .next t
        ∧ t.sent.mctp = s.sent.mctp ++ [leBytes 2 st ++ leBytes 2 d] ∧ t.boot = s.boot ∧ t.flash.copy s.boot.bootCopy = copy s.boot.bootCopy
        ∧ (st = 0 → (t.flash.copy other).state = 1 ∧ f.floor ≤ (t.flash.copy other).major))
    ∧ (∀ image : List Byte, (s.boot.stage = .s0 ∨ s.boot.stage = .s1) → exec (.pldmFirmwareUpdate image) s = .next s)
    ∧ (Accepted 0x0D03 p s (parCheck p [(20, 1)] (decide (par p 20 1 < 2))) false →
      (k = 0 → s.resetBusy = true → exec (.partReset p) s = .next (conclude 0x0D03 p (.reply 0x8008 0 0 s)))
      ∧ (k = 1 ∨ s.resetBusy = false → s.hub.reset = false → ∃ t, let c := conclude 0x0D03 p (done t)
        exec (.partReset p) s = .next (if 0 < (c.sess p.session).unsig then c.signal p.session else c) ∧ t.hub.reset = true
        ∧ t.boot = { s.boot with resetDue := some 2 } ∧ ∀ e ∈ t.hub.entries, e.pkt = p))

/-- SENSOR_SAMPLE, THROTTLE_PERIOD, PART_SENSORS and PLDM_PLATFORM_MONITORING (R417, R423, R426, R449, R479, R480): cool readings are kept
and do nothing else; one at its throttle threshold raises THERM_THROTTLE, recorded with the sensor (the event's number is the model's
choice, log entry 29); one that reaches its trip point raises THERM_TRIP, also where the sheets are held already, and halts what runs; a
period raises each level by one when its cause was seen in it, and lowers it after 100 calm periods; only the FRAME edge applies the level.
The layout of the monitoring response is the model's choice (log entry 42). POWER_WINDOW_END (R143, R145, R480): at a step that ends no
window of 64 nothing changes; else the window's count goes to the peak and to the period's largest window, and starts again at 0; a count
above the limit of the declared class is also counted and raises POWER_BUDGET. -/
def Obligations.PowerAndThermal : Prop :=
  (∀ s : State, mwf 0 s.faults.live = true → mwf RunGroup.init s.groups = true →
    let t0 := s.thermal
    let hottest (l : List Int) : Int := l.foldl max (l.getD 0 0)
    let code (x : Int) : Nat := (BitVec.ofInt 16 x).toNat
    let values := code (hottest (t0.temps.take 36)) + t0.applied * 2 ^ 16 + (b2n (s.isLive 81 0x6001) + 2 * b2n t0.capLim) * 2 ^ 24
      + (t0.power % 2 ^ 32) * 2 ^ 32 + code (hottest (t0.temps.take 16)) * 2 ^ 64 + code (hottest ((t0.temps.drop 16).take 16)) * 2 ^ 80
      + code (hottest ((t0.temps.drop 32).take 4)) * 2 ^ 96
    (t0.temps.length = 40 → ∀ p : Packet, p.session < 16 → Accepted 0x0D10 p s (parCheck p [] true) false →
      exec (.partSensors p) s = .next (conclude 0x0D10 p (.reply 0 0 values s)))
    ∧ (t0.temps.length = 40 → s.boot.stage = .full → exec .pldmPlatformMonitoring s
      = .next (State.setSent s { s.sent with mctp := s.sent.mctp ++ [leBytes 14 values] }))
    ∧ ((s.boot.stage = .s0 ∨ s.boot.stage = .s1) → exec .pldmPlatformMonitoring s = .next s
      ∧ (∀ temps : List Int, exec (.sensorSample temps) s = .next s.settle) ∧ ∀ power : Nat, exec (.throttlePeriod power) s = .next s.settle)
    ∧ (∀ temps : List Int, s.boot.stage = .full → temps.length = 40 →
      ((∀ x ∈ temps, x < 870) → exec (.sensorSample temps) s = .next
        (forEach [0, 1, 2, 3] (fun k u => u.updStack k fun v => { v with temp := ((temps.getD (36 + k) 0) / 10).toNat % 256 })
          (s.setThermal { t0 with temps := temps, crossed := List.replicate 40 false })).settle)
      ∧ ((∃ i < 36, 950 ≤ temps.getD i 0) → (∀ i < 40, temps.getD i 0 < if i < 36 then 1100 else 1050) → ∃ t,
        exec (.sensorSample temps) s = .next t ∧ t.isLive 81 0x6001 = true ∧ t.thermal.temps = temps ∧ t.thermal.hotSeen = true
          ∧ t.thermal.applied = t0.applied
          ∧ (s.isLive 81 0x6001 = false → s.log.queue = [] → ∃ r ∈ t.log.queue, r.kind = 0x20 ∧ bitsOf r.payload.toNat 0 8 = 3))
      ∧ ((∃ i < 36, 1100 ≤ temps.getD i 0 ∧ t0.temps.getD i 0 < 1100) → s.boot.sheetsHeld = true → mwf none s.faults.recs = true →
        ∃ t, exec (.sensorSample temps) s = .next t ∧ (t.faultRec 81).isSome = true)
      ∧ ((∃ i < 36, 1100 ≤ temps.getD i 0 ∧ t0.temps.getD i 0 < 1100) → s.boot.tripDue = false → s.boot.sheetsHeld = false → mwf none s.faults.recs = true → ∃ t,
        exec (.sensorSample temps) s = .next t ∧ (t.faultRec 81).isSome = true
          ∧ ((∀ g ∈ s.runGroups, (s.group g).state ≠ .running) → t.boot.sheetsHeld = true)
          ∧ ((∃ g ∈ s.runGroups, (s.group g).state = .running) →
              t.boot.tripDue = true ∧ ∀ g ∈ s.runGroups, (s.group g).state = .running → (t.group g).halting.isSome = true)))
    ∧ ∀ power : Nat, s.boot.stage = .full → (∀ i < 32, (s.parcel i).msWindow = 0) → ∃ t, exec (.throttlePeriod power) s = .next t
      ∧ t.thermal.applied = t0.applied ∧ t.thermal.demand = max t.thermal.lt t.thermal.lp ∧ t.thermal.hotSeen = false
      ∧ t.thermal.hotAt = none ∧ t.thermal.power = power
      ∧ (t0.hotSeen = true → t.thermal.lt = min 3 (t0.lt + 1) ∧ t.thermal.coolT = 0)
      ∧ (t0.hotSeen = false → t0.warmSeen = true → t.thermal.lt = t0.lt ∧ t.thermal.coolT = 0)
      ∧ (t0.hotSeen = false → t0.warmSeen = false → t0.coolT < 99 → t.thermal.lt = t0.lt ∧ t.thermal.coolT = t0.coolT + 1)
      ∧ (t0.hotSeen = false → t0.warmSeen = false → t0.coolT = 99 → t.thermal.lt = t0.lt - 1 ∧ t.thermal.coolT = 0)
      ∧ (9500 < power → t.thermal.lp = min 3 (t0.lp + 1)) ∧ (9000 < power → power ≤ 9500 → t.thermal.lp = t0.lp)
      ∧ (power ≤ 9000 → t0.coolP = 99 → t.thermal.lp = t0.lp - 1)
      ∧ (t.thermal.lt = 0 → t.isLive 81 0x6001 = false))
  ∧ (∀ (s : State) (p g : Nat), p < 32 → (s.parcel p).rg = some g →
    let v := s.parcel p
    let r := s.group g
    ((r.step = 0 ∨ r.step % 64 ≠ 0) → exec (.powerWindowEnd p) s = .next s) ∧
    (r.step ≠ 0 → r.step % 64 = 0 →
    let limit := heavyLimit (((r.imageOf p).map (·.cls)).getD 4)
    let w : Parcel := { v with heavy := 0, peak := max v.peak v.heavy, msWindow := max v.msWindow v.heavy }
    (v.heavy ≤ limit → exec (.powerWindowEnd p) s = .next (s.setParcel p w))
    ∧ (limit < v.heavy → v.excess + 1 < 2 ^ 16 → exec (.powerWindowEnd p) s
        = .next ((s.setParcel p { w with excess := v.excess + 1 }).raiseAll
            [{ code := 0x1005, unit := p, access := 0, master := 0, cycle := r.cycle
               address := schedAddr (clOf p 0) 0 (r.step - 1) 5 ((r.step - 1) / 64) }]))))

-- power-up, resets, bring-up, the test access port

/-- Resets and power (R3, R24, R361, R443, R444, R447, R472 to R476). A reset of the hub leaves everything volatile at its reset value, the
parcels that failed factory test powered down, and keeps the logbook, the flash, the grade, and what the pins and the host hold; S1 then
starts where RESET_N is high, TEST_MODE was low, the rails are within tolerance, in the order of R474, and the clocks run, on the copy that
a fallback waits for, else the pending copy, else the one that booted last. Each reset records its cause. An instruction of the test access
port that takes the pins takes them as RESET_N falls and gives them back as it rises (R484). -/
def Obligations.Resets : Prop :=
  ∀ s : State,
    let b := s.boot
    let sound (k : Nat) : Prop := (s.flash.copy k).state = 1 ∧ (s.flash.copy k).minSi ≤ 2 ∧ s.flash.floor ≤ (s.flash.copy k).major
    let volatile (t : State) : Prop := t = { State.reset with
      parcels := s.factory.foldr (fun i m => mset Parcel.init i { Parcel.init with asleep := true } m) []
      pending := s.pending, hostMem := s.hostMem, hostBad := s.hostBad, trackMap := s.trackMap
      faults := { Faults.init with pulled := s.faults.pulled }, log := t.log, flash := t.flash, tap := t.tap, grade := s.grade, factory := s.factory
      freeCtr := t.freeCtr, sent := t.sent, boot := t.boot }
    let starts (t : State) (cause : Nat) : Prop := volatile t ∧ t.boot.stage = .s1 ∧ t.boot.cause = cause ∧ t.flash.pending = none
      ∧ t.boot.bootCopy = s.flash.pending.getD s.flash.lastBoot ∧ t.boot.fellBack = false ∧ t.flash.copy0 = s.dropWriting.flash.copy0
      ∧ t.flash.copy1 = s.dropWriting.flash.copy1 ∧ t.flash.floor = s.flash.floor
    let ready := b.vstby = true ∧ b.testMode = false ∧ b.rails = 0xFF ∧ b.railHold = false ∧ sound (s.flash.pending.getD s.flash.lastBoot)
    let running := b.stage ≠ .s0
    (∀ cause : Nat, cause ≤ 5 → running → ready → b.resetN = true → b.pllLock = true →
      ∃ t, exec (.hubReset cause) s = .next t ∧ starts t (b.resetDue.getD cause) ∧ t.log.ring = s.log.ring ∧ t.log.pinned = s.log.pinned)
    ∧ (∀ cause : Nat, b.stage = .s0 → exec (.hubReset cause) s = .next s)
    ∧ (∀ test : Bool, b.resetN = true → exec (.resetN true test) s = .next s)
    ∧ (∀ test : Bool, b.resetN = true → running → b.vstby = true → ∃ t, exec (.resetN false test) s = .next t ∧ volatile t
        ∧ t.boot.stage = .s0 ∧ t.boot.resetN = false ∧ t.boot.cause = 0)
    ∧ (∀ test : Bool, b.resetN = true → b.vstby = true → b.rails.getLsbD 7 = true → takesPins s.tap.ir = true → ∃ t,
      exec (.resetN false test) s = .next t ∧ t.tap = { s.tap with taken := true })
    ∧ (∀ test : Bool, b.resetN = false → s.tap.taken = true → ∃ t, exec (.resetN true test) s = .next t
      ∧ t.tap = { s.tap with ir := 1, taken := false })
    ∧ (∀ k : Nat, b.resetN = false → b.stage = .s0 → b.vstby = true → b.rails = 0xFF → b.railHold = false → b.pllLock = true →
      b.fallTo = some k → sound k → ∃ t, exec (.resetN true false) s = .next t ∧ t.boot.stage = .s1 ∧ t.boot.bootCopy = k
        ∧ t.boot.cause = 5 ∧ t.boot.fellBack = true)
    ∧ (b.resetN = false → b.stage = .s0 → b.vstby = true → b.rails = 0xFF → b.railHold = false → b.pllLock = true → b.fallTo = none →
      sound (s.flash.pending.getD s.flash.lastBoot) →
      (∃ t, exec (.resetN true false) s = .next t ∧ t.boot.stage = .s1 ∧ t.boot.testMode = false ∧ t.tap.taken = false)
      ∧ ∃ t, exec (.resetN true true) s = .next t ∧ t.boot.stage = .s0 ∧ t.boot.testMode = true)
    ∧ (b.perstN = true → running → ready → b.resetN = true → b.pllLock = true →
      ∃ t, exec .perstN s = .next t ∧ starts t 1 ∧ t.boot.perstN = false)
    ∧ (b.perstN = false → exec .perstN s = .next s)
    ∧ exec .perstNRelease s = .next { s with boot := { b with perstN := true } }
    ∧ (b.vstby = true → exec .vstbyApplied s = .next s)
    ∧ (b.vstby = false → b.rails = 0 → ∃ t, exec .vstbyApplied s = .next t ∧ volatile t ∧ t.boot.vstby = true ∧ t.boot.stage = .s0
        ∧ t.log.boots = (s.log.boots + 1) % 2 ^ 32 ∧ t.log.usable = true ∧ t.log.torn = none ∧ t.log.ring = s.log.ring)
    ∧ (b.vstby = false → b.rails ≠ 0 → ∃ t, exec .vstbyApplied s = .next t ∧ t.boot.stage = .s0 ∧ t.boot.railHold = true)
    ∧ (b.vstby = true → ∃ t, exec .vstbyRemoved s = .next t ∧ volatile t ∧ t.boot.vstby = false ∧ t.boot.stage = .s0 ∧ t.log.queue = []
        ∧ (s.log.ring.length < 61440 → t.log.ring = s.log.ring) ∧ t.log.pinned = s.log.pinned ∧ t.flash = s.dropWriting.flash)
    ∧ (b.vstby = false → exec .vstbyRemoved s = .next s)
    ∧ (b.vstby = true → b.stage = .s0 → b.rails = 0xFE → b.railHold = false → b.testMode = false → b.resetN = true → b.pllLock = true →
      b.fallTo = none → sound (s.flash.pending.getD s.flash.lastBoot) → (∃ t, exec (.mainRailsChange 0xFF none) s = .next t ∧ t.boot.stage = .s1)
        ∧ ∃ t, exec (.mainRailsChange 0xFF (some 3)) s = .next t ∧ t.boot.stage = .s0 ∧ t.boot.railHold = true)
    ∧ (b.vstby = true → b.stage = .s0 → b.rails = 0 → ∃ t, exec (.mainRailsChange 1 none) s = .next t ∧ t.boot.stage = .s0
        ∧ t.boot.railHold = true)
    ∧ (b.vstby = true → b.stage = .s0 → b.rails = 0 → exec (.mainRailsChange 0 none) s
        = .next (s.setBoot { b with rails := 0, railHold := false }).settle)
    ∧ (b.vstby = true → running → b.rails = 0xFF → ∃ t, exec (.mainRailsChange 0 none) s = .next t ∧ volatile t ∧ t.boot.stage = .s0)
    ∧ (b.pllLock = true → running → ∃ t, exec .referenceLoss s = .next t ∧ volatile t ∧ t.boot.stage = .s0 ∧ t.boot.pllLock = false)
    ∧ (b.pllLock = false → exec .referenceLoss s = .next s)
    ∧ (b.pllLock = false → b.stage = .s0 → ready → b.fallTo = none → b.resetN = true → ∃ t, exec .pllRelock s = .next t ∧ t.boot.stage = .s1)
    ∧ (b.pllLock = true → exec .pllRelock s = .next s)
    ∧ ∀ (rail : Nat) (mv : BitVec 16), rail < 8 → b.stage = .full →
      let l := railLimits rail
      (l.1 * (100 - l.2) ≤ mv.toNat * 100 → mv.toNat * 100 ≤ l.1 * (100 + l.2) → exec (.railExcursion rail mv) s = .next s.settle)
      ∧ (l.1 * (100 + l.2) < mv.toNat * 100 → mwf none s.faults.recs = true → ∃ t, exec (.railExcursion rail mv) s = .next t
        ∧ t.boot.sheetsHeld = true ∧ (t.faultRec 81).isSome = true ∧ (b.sheetsHeld = false → t.bank = [] ∧ t.clusters = []))

/-- Bring-up (R411, R423, R439 to R442, R446 to R448). S1 ends with the copy's floor and version in force; a copy that fails its boot gives
way to the other once, which boots where S1's conditions hold and else waits for them (R440), and the hub stops when both have failed; S2
fails the parcels that are not good; when S3 and S4 have both ended the part is in full service, and a STANDALONE part completes S5 at once.
Each stage's bound ends it as its failure does. A watchdog outside S1 raises FW_WATCHDOG and resets the hub later. -/
def Obligations.BringUp : Prop :=
  ∀ s : State,
    let b := s.boot
    let fails (t : State) : Prop := b.fellBack = false →
      (s.canStart = false → t.boot.stage = .s0 ∧ t.boot.fallTo = some (1 - b.bootCopy) ∧ t.boot.fellBack = true ∧ t.boot.cause = 5)
      ∧ (s.canStart = true → (s.flash.copy (1 - b.bootCopy)).state = 1 → (s.flash.copy (1 - b.bootCopy)).minSi ≤ 2 →
      s.flash.floor ≤ (s.flash.copy (1 - b.bootCopy)).major →
        t.boot.stage = .s1 ∧ t.boot.bootCopy = 1 - b.bootCopy ∧ t.boot.fellBack = true ∧ t.boot.cause = 5)
    let stops (t : State) : Prop := b.fellBack = true → t.boot.stage = .failed ∧ t.faults.driven = 0
    (b.stage = .s1 →
      (∀ ms : Nat, exec (.s1Ready ms) s = .next { s with
        flash := { s.flash with lastBoot := b.bootCopy, floor := max s.flash.floor (s.flash.copy b.bootCopy).newFloor }
        boot := { b with stage := .s2, s1Ms := ms % 65536, fwMajor := (s.flash.copy b.bootCopy).major
                         fwMinor := (s.flash.copy b.bootCopy).minor } })
      ∧ (∃ t, exec .bootFailure s = .next t ∧ fails t ∧ stops t)
      ∧ (∃ t, exec (.stageBoundExpiry .s1) s = .next t ∧ fails t ∧ stops t)
      ∧ ∀ core : Nat, core < 9 → ∃ t, exec (.fwWatchdog core) s = .next t ∧ fails t ∧ stops t)
    ∧ (b.stage ≠ .s1 → exec .bootFailure s = .next s ∧ ∀ ms : Nat, exec (.s1Ready ms) s = .next s)
    ∧ (b.stage = .s2 → mwf Parcel.init s.parcels = true → mwf none s.faults.recs = true → ∀ (good : BitVec 32) (ms : Nat), ∃ t,
      exec (.s2Complete good ms) s = .next t ∧ t.boot.stage = .s3s4 ∧ t.boot.s2Ms = ms % 65536
        ∧ (∀ i < 32, i ∉ s.factory → good.getLsbD i = false → t.failed i = true ∧ (t.parcel i).asleep = true ∧ (t.faultRec i).isSome = true)
        ∧ (∀ i < 32, s.failed i = false → good.getLsbD i = true → t.failed i = false ∧ t.parcel i = s.parcel i)
        ∧ (mwf Lane.init s.lanes = true → ∀ l < 144, (s.quad (l / 4)).awake = true → (s.lane l).fec = 0 → (s.lane l).held = false →
            s.pairHeld l = false →
            (t.lane l).state = .training ∧ (t.lane l).phase = 1))
    ∧ (b.stage = .s2 → ∃ t, exec (.stageBoundExpiry .s2) s = .next t ∧ t.boot.stage = .s3s4)
    ∧ (b.stage = .s3s4 → mwf Stack.init s.hbmStacks = true →
      (∀ (trained : BitVec 4) (ms : Nat), b.s3Done = false → ∃ t, exec (.s3Complete trained ms) s = .next t ∧ t.boot.s3Done = true
        ∧ (b.sheetsHeld = false → t.boot.s3Stacks = listMask ((List.range 4).filter fun k => trained.getLsbD k))
        ∧ (b.sheetsHeld = false → ∀ k < 4, (t.stack k).s3Trained = trained.getLsbD k)
        ∧ (b.s4Done = false → t.boot.stage = .s3s4)
        ∧ (b.s4Done = true → s.datum.role = 0 → t.boot.stage = .full ∧ t.boot.fullMs = ms % 65536 ∧ t.boot.s5Ms = t.boot.fullMs
            ∧ (b.sheetsHeld = false → ∀ k < 4, (t.stack k).trained = trained.getLsbD k)))
      ∧ (∀ ms : Nat, b.s4Done = false → mwf Lane.init s.lanes = true → ∃ t, exec (.s4Complete ms) s = .next t ∧ t.boot.s4Done = true
        ∧ (∀ l < 144, (t.lane l).state = if (s.lane l).state = .training then .idleUntrained else (s.lane l).state)
        ∧ t.boot.lanesUp = ((List.range 144).filter fun l => decide ((s.lane l).state = .up)).length
        ∧ (b.s3Done = true → s.datum.role = 0 → t.boot.stage = .full))
      ∧ (b.s3Done = false → ∃ t, exec (.stageBoundExpiry .s3) s = .next t ∧ t.boot.s3Done = true)
      ∧ (b.s4Done = false → ∃ t, exec (.stageBoundExpiry .s4) s = .next t ∧ t.boot.s4Done = true))
    ∧ (b.stage = .s5 → exec (.stageBoundExpiry .s5) s = .next (State.settle { s with
        boot := { b with stage := .full, s5Done := true, s5Ms := (b.fullMs + 10000) % 65536 } }))
    ∧ ∀ core : Nat, core < 9 → b.stage = .full → mwf none s.faults.recs = true → ∃ t, exec (.fwWatchdog core) s = .next t
      ∧ t.boot = { b with resetDue := some 3 } ∧ (t.faultRec 82).isSome = true

/-- The test access port (R483, R484): each command shifts its code into the instruction register, where power and rail 7 allow it. Only
EXTEST, CLAMP and HIGHZ take the pins, and only while RESET_N is low; a code that the table does not list acts as BYPASS; preloaded values
drive the pins under EXTEST and CLAMP, and HIGHZ drives none; EXTEST and SAMPLE capture the levels of the pins (the chain's order is the
model's choice, log entry 106). Nothing else of the part changes. -/
def Obligations.TestAccess : Prop :=
  ∀ s : State,
    let up := s.boot.vstby && s.boot.rails.getLsbD 7
    let taken := !s.boot.resetN
    let moved (t : State) (p : Tap) : Prop := t = { s with tap := p, sent := t.sent, freeCtr := t.freeCtr }
      ∧ ∀ k < 7, ∀ v : Bool, t.pinOut k = some v → s.pinOut k ≠ some v → (k, v) ∈ t.sent.pins
    (up = true →
      (∃ t, exec .extest s = .next t ∧ moved t { s.tap with ir := 0, taken := taken, cells := t.tap.cells }
        ∧ (taken = false → t.tap.cells = s.tap.cells)
        ∧ (taken = true → t.tap.cells.length = 17 ∧ (∀ k < 7, t.pinOut k = some (s.tap.preload.getD (pinCell k) false))
          ∧ (∀ k < 7, k ≠ 5 ∨ s.faults.pulled = false → t.tap.cells[pinCell k]? = some (s.tap.preload.getD (pinCell k) false))
          ∧ t.tap.cells[0]? = some s.boot.perstN ∧ t.tap.cells[11]? = some false))
      ∧ (∃ t, exec .idcode s = .next t ∧ moved t { s.tap with ir := 1, taken := false } ∧ t.freeCtr = s.freeCtr
        ∧ ∀ k < 7, t.pinOut k = some (s.pinLevel k))
      ∧ (∀ values : List Bool, ∃ t, exec (.samplePreload values) s = .next t
        ∧ moved t { s.tap with ir := 2, taken := false, preload := values, cells := t.tap.cells }
        ∧ (∀ k < 7, t.pinOut k = some (s.pinLevel k))
        ∧ t.tap.cells.length = 17 ∧ ∀ k < 7, k ≠ 5 ∨ s.faults.pulled = false → t.tap.cells[pinCell k]? = some (s.pinLevel k))
      ∧ (∃ t, exec .clamp s = .next t ∧ moved t { s.tap with ir := 4, taken := taken } ∧ t.freeCtr = s.freeCtr
        ∧ (taken = true → ∀ k < 7, t.pinOut k = some (s.tap.preload.getD (pinCell k) false)))
      ∧ (∃ t, exec .highz s = .next t ∧ moved t { s.tap with ir := 5, taken := taken } ∧ t.freeCtr = s.freeCtr
        ∧ (taken = true → ∀ k < 7, t.pinOut k = none))
      ∧ ∀ code : BitVec 8, code.toNat = 3 ∨ 5 < code.toNat →
        ∃ t, exec (.bypass code) s = .next t ∧ moved t { s.tap with ir := code, taken := false } ∧ t.freeCtr = s.freeCtr ∧ t.tapReg = .bypass)
    ∧ (up = false → ∀ values : List Bool, exec .extest s = .next s ∧ exec .idcode s = .next s ∧ exec (.samplePreload values) s = .next s
      ∧ exec .clamp s = .next s ∧ exec .highz s = .next s ∧ exec (.bypass 0xFF) s = .next s)
    ∧ (∀ t, exec .idcode s = .next t → up = true → t.tapReg = .idcode)
    ∧ idcodeValue = 2 * 2 ^ 28 + 0x5C92 * 2 ^ 12 + 0x2B7 * 2 + 1
end

