-- ==== Sys2Proof/Laws/Map.lean ====
section
/-! SUPPORT. Sparse tables and byte memories: a read after a write, and the canonical form that every operation keeps. -/
namespace Sys2Proof.Machine

variable {α : Type} [DecidableEq α] {d : α}

/-- Every key of a table lies above `k`. -/
def Above (k : Nat) (m : SMap α) : Prop := ∀ e ∈ m, k < e.1

theorem mwf_cons {j : Nat} {v : α} {m : SMap α} : mwf d ((j, v) :: m) = true ↔ v ≠ d ∧ Above j m ∧ mwf d m = true := by
  induction m generalizing j v with
  | nil => simp [mwf, Above]
  | cons e r ih =>
    obtain ⟨k, w⟩ := e
    constructor
    · intro h
      simp only [mwf, Bool.and_eq_true, decide_eq_true_eq] at h
      refine ⟨h.1.1, ?_, h.2⟩
      have hk := (ih.mp h.2).2.1
      intro e he
      rcases List.mem_cons.mp he with rfl | he
      · exact h.1.2
      · exact lt_trans h.1.2 (hk e he)
    · rintro ⟨hv, ha, hm⟩
      simp only [mwf, Bool.and_eq_true, decide_eq_true_eq]
      exact ⟨⟨hv, ha _ List.mem_cons_self⟩, hm⟩

omit [DecidableEq α] in
theorem mget_above {k : Nat} {m : SMap α} (h : Above k m) : mget d k m = d := by
  cases m with
  | nil => rfl
  | cons e r =>
    have := h e List.mem_cons_self
    obtain ⟨j, v⟩ := e
    simp only [mget]
    rw [if_neg (by simp at this; omega), if_pos (by simpa using this)]

theorem above_mset {j k : Nat} {v : α} {m : SMap α} (h : Above j m) (hk : j < k) : Above j (mset d k v m) := by
  induction m with
  | nil => simp only [mset]; split <;> simp [Above, hk]
  | cons e r ih =>
    obtain ⟨i, w⟩ := e
    have hr : Above j r := fun e he => h e (List.mem_cons_of_mem _ he)
    have hi : j < i := h _ List.mem_cons_self
    simp only [mset]
    split
    · split
      · exact hr
      · rintro e he
        rcases List.mem_cons.mp he with rfl | he
        · exact hk
        · exact hr e he
    · split
      · split
        · exact h
        · rintro e he
          rcases List.mem_cons.mp he with rfl | he
          · exact hk
          · exact h e he
      · rintro e he
        rcases List.mem_cons.mp he with rfl | he
        · exact hi
        · exact ih hr e he

/-- A write keeps the canonical form. -/
theorem mwf_mset {k : Nat} {v : α} {m : SMap α} (h : mwf d m = true) : mwf d (mset d k v m) = true := by
  induction m with
  | nil => simp only [mset]; split <;> simp [mwf, *]
  | cons e r ih =>
    obtain ⟨j, w⟩ := e
    obtain ⟨hw, ha, hr⟩ := mwf_cons.mp h
    simp only [mset]
    split
    · split
      · exact hr
      · next hjk hv => exact mwf_cons.mpr ⟨hv, hjk ▸ ha, hr⟩
    · split
      · split
        · exact h
        · next hkj hv =>
          refine mwf_cons.mpr ⟨hv, ?_, h⟩
          intro e he
          rcases List.mem_cons.mp he with rfl | he
          · exact hkj
          · exact lt_trans hkj (ha e he)
      · next hne hnk => exact mwf_cons.mpr ⟨hw, above_mset ha (by omega), ih hr⟩

/-- What a key reads after a write to it. -/
@[simp] theorem mget_mset_same {k : Nat} {v : α} {m : SMap α} (h : mwf d m = true) : mget d k (mset d k v m) = v := by
  induction m with
  | nil => simp only [mset]; split <;> simp [mget, *]
  | cons e r ih =>
    obtain ⟨j, w⟩ := e
    obtain ⟨hw, ha, hr⟩ := mwf_cons.mp h
    simp only [mset]
    split
    · next hjk =>
      split
      · next hv => subst hv; rw [hjk] at ha; exact mget_above ha
      · simp [mget]
    · next hjk =>
      split
      · next hkj =>
        split
        · next hv => subst hv; simp [mget, hjk, hkj]
        · simp [mget]
      · next hkj => simp [mget, hjk, hkj, ih hr]

/-- A write to one key leaves every other key alone. -/
theorem mget_mset_ne {i k : Nat} {v : α} {m : SMap α} (hik : i ≠ k) (h : mwf d m = true) : mget d i (mset d k v m) = mget d i m := by
  induction m with
  | nil => simp only [mset]; split <;> simp [mget]; omega
  | cons e r ih =>
    obtain ⟨j, w⟩ := e
    obtain ⟨hw, ha, hr⟩ := mwf_cons.mp h
    simp only [mset]
    split
    · next hjk =>
      subst hjk
      split
      · simp only [mget]
        rw [if_neg (Ne.symm hik)]
        split
        · next hlt => exact mget_above fun e he => lt_trans hlt (ha e he)
        · rfl
      · simp [mget, Ne.symm hik]
    · next hjk =>
      split
      · next hkj =>
        split
        · rfl
        · simp only [mget]
          rw [if_neg (Ne.symm hik)]
          split
          · next hlt => rw [if_neg (by omega), if_pos (by omega)]
          · rfl
      · simp only [mget]
        split
        · rfl
        · split
          · rfl
          · exact ih hr

/-- A write can be read at every key. -/
theorem mget_mset {i k : Nat} {v : α} {m : SMap α} (h : mwf d m = true) :
    mget d i (mset d k v m) = if i = k then v else mget d i m := by
  by_cases hik : i = k
  · subst hik; simp [mget_mset_same h]
  · simp [hik, mget_mset_ne hik h]

theorem mwf_filter {p : Nat × α → Bool} {m : SMap α} (h : mwf d m = true) : mwf d (m.filter p) = true := by
  induction m with
  | nil => rfl
  | cons e r ih =>
    obtain ⟨j, w⟩ := e
    obtain ⟨hw, ha, hr⟩ := mwf_cons.mp h
    rw [List.filter_cons]
    split
    · exact mwf_cons.mpr ⟨hw, fun e he => ha e (List.mem_filter.mp he).1, ih hr⟩
    · exact ih hr

theorem mwf_mdrop {p : Nat → Bool} {m : SMap α} (h : mwf d m = true) : mwf d (mdrop p m) = true := mwf_filter h

theorem mwf_msetMany {l : List (Nat × α)} {m : SMap α} (h : mwf d m = true) : mwf d (msetMany d l m) = true := by
  induction l generalizing m with
  | nil => exact h
  | cons e r ih => exact ih (mwf_mset h)

-- byte memories

@[simp] theorem memWf_nil : memWf [] = true := rfl

theorem memWf_memSet {a : Nat} {b : Byte} {m : Memory} (h : memWf m = true) : memWf (memSet a b m) = true := mwf_mset h

theorem memWf_memSetBytes {l : List Byte} {a : Nat} {m : Memory} (h : memWf m = true) : memWf (memSetBytes a l m) = true := by
  induction l generalizing a m with
  | nil => exact h
  | cons b r ih => exact ih (memWf_memSet h)

theorem memWf_memSetWord {a : Nat} {w : Word} {m : Memory} (h : memWf m = true) : memWf (memSetWord a w m) = true :=
  memWf_memSetBytes h

theorem memWf_filter {p : Host.Cell → Bool} {m : Memory} (h : memWf m = true) : memWf (m.filter p) = true := mwf_filter h

theorem memWf_memZero {lo n : Nat} {m : Memory} (h : memWf m = true) : memWf (memZero lo n m) = true := mwf_filter h

theorem memWf_msetMany {l : List (Nat × Byte)} {m : Memory} (h : memWf m = true) : memWf (msetMany unlistedByte l m) = true :=
  mwf_msetMany h

theorem memWf_memPaste {lo n : Nat} {b m : Memory} (h : memWf m = true) : memWf (memPaste lo n b m) = true :=
  mwf_msetMany (memWf_memZero h)

/-- A byte reads as it was last written, and a write leaves every other byte alone. -/
theorem memGet_memSet {a c : Nat} {b : Byte} {m : Memory} (h : memWf m = true) :
    memGet c (memSet a b m) = if c = a then b else memGet c m := mget_mset h

theorem memGet_memSetBytes_outside {l : List Byte} {a c : Nat} {m : Memory} (h : memWf m = true) (hc : c < a ∨ a + l.length ≤ c) :
    memGet c (memSetBytes a l m) = memGet c m := by
  induction l generalizing a m with
  | nil => rfl
  | cons b r ih =>
    simp only [List.length_cons] at hc
    rw [memSetBytes, ih (memWf_memSet h) (by omega), memGet_memSet h, if_neg (by omega)]

theorem memBytes_memSetBytes {l : List Byte} {a : Nat} {m : Memory} (h : memWf m = true) :
    memBytes (memSetBytes a l m) a l.length = l := by
  induction l generalizing a m with
  | nil => rfl
  | cons b r ih =>
    simp only [memSetBytes, List.length_cons, memBytes]
    rw [ih (memWf_memSet h), memGet_memSetBytes_outside (memWf_memSet h) (by omega), memGet_memSet h, if_pos rfl]

end Sys2Proof.Machine
end

