-- ==== Sys2Proof/Laws/State.lean ====
section
/-! SUPPORT. What each update of the state leaves as it was, field by field, and what it reads back as. -/
namespace Sys2Proof.Machine.State
set_option linter.all false

-- setValue

section
variable (s : State) (bp e : Nat) (v : V4)
@[simp] theorem setValue_pending : (s.setValue bp e v).pending = s.pending := rfl
@[simp] theorem setValue_istore : (s.setValue bp e v).istore = s.istore := rfl
@[simp] theorem setValue_cur : (s.setValue bp e v).cur = s.cur := rfl
@[simp] theorem setValue_stg : (s.setValue bp e v).stg = s.stg := rfl
@[simp] theorem setValue_pend : (s.setValue bp e v).pend = s.pend := rfl
@[simp] theorem setValue_result : (s.setValue bp e v).result = s.result := rfl
@[simp] theorem setValue_slots : (s.setValue bp e v).slots = s.slots := rfl
@[simp] theorem setValue_ptable : (s.setValue bp e v).ptable = s.ptable := rfl
@[simp] theorem setValue_busyMap : (s.setValue bp e v).busyMap = s.busyMap := rfl
@[simp] theorem setValue_sendAct : (s.setValue bp e v).sendAct = s.sendAct := rfl
@[simp] theorem setValue_sendShd : (s.setValue bp e v).sendShd = s.sendShd := rfl
@[simp] theorem setValue_quadAct : (s.setValue bp e v).quadAct = s.quadAct := rfl
@[simp] theorem setValue_quadShd : (s.setValue bp e v).quadShd = s.quadShd := rfl
@[simp] theorem setValue_fetchSnd : (s.setValue bp e v).fetchSnd = s.fetchSnd := rfl
@[simp] theorem setValue_fetchQd : (s.setValue bp e v).fetchQd = s.fetchQd := rfl
@[simp] theorem setValue_ecc : (s.setValue bp e v).ecc = s.ecc := rfl
@[simp] theorem setValue_fences : (s.setValue bp e v).fences = s.fences := rfl
@[simp] theorem setValue_confOpp : (s.setValue bp e v).confOpp = s.confOpp := rfl
@[simp] theorem setValue_arrOpp : (s.setValue bp e v).arrOpp = s.arrOpp := rfl
@[simp] theorem setValue_arrSlots : (s.setValue bp e v).arrSlots = s.arrSlots := rfl
@[simp] theorem setValue_arrDrops : (s.setValue bp e v).arrDrops = s.arrDrops := rfl
@[simp] theorem setValue_clusters : (s.setValue bp e v).clusters = s.clusters := rfl
@[simp] theorem setValue_bank : (s.setValue bp e v).bank = s.bank := rfl
@[simp] theorem setValue_hbm : (s.setValue bp e v).hbm = s.hbm := rfl
@[simp] theorem setValue_hostMem : (s.setValue bp e v).hostMem = s.hostMem := rfl
@[simp] theorem setValue_hostBad : (s.setValue bp e v).hostBad = s.hostBad := rfl
@[simp] theorem setValue_opp : (s.setValue bp e v).opp = s.opp := rfl
@[simp] theorem setValue_groups : (s.setValue bp e v).groups = s.groups := rfl
@[simp] theorem setValue_parcels : (s.setValue bp e v).parcels = s.parcels := rfl
@[simp] theorem setValue_hbmStacks : (s.setValue bp e v).hbmStacks = s.hbmStacks := rfl
@[simp] theorem setValue_stages : (s.setValue bp e v).stages = s.stages := rfl
@[simp] theorem setValue_nextStage : (s.setValue bp e v).nextStage = s.nextStage := rfl
@[simp] theorem setValue_keys : (s.setValue bp e v).keys = s.keys := rfl
@[simp] theorem setValue_keks : (s.setValue bp e v).keks = s.keks := rfl
@[simp] theorem setValue_datum : (s.setValue bp e v).datum = s.datum := rfl
@[simp] theorem setValue_trigIn : (s.setValue bp e v).trigIn = s.trigIn := rfl
@[simp] theorem setValue_trigOut : (s.setValue bp e v).trigOut = s.trigOut := rfl
@[simp] theorem setValue_ppsHigh : (s.setValue bp e v).ppsHigh = s.ppsHigh := rfl
@[simp] theorem setValue_quads : (s.setValue bp e v).quads = s.quads := rfl
@[simp] theorem setValue_lanes : (s.setValue bp e v).lanes = s.lanes := rfl
@[simp] theorem setValue_bridges : (s.setValue bp e v).bridges = s.bridges := rfl
@[simp] theorem setValue_engines : (s.setValue bp e v).engines = s.engines := rfl
@[simp] theorem setValue_sessions : (s.setValue bp e v).sessions = s.sessions := rfl
@[simp] theorem setValue_hub : (s.setValue bp e v).hub = s.hub := rfl
@[simp] theorem setValue_faults : (s.setValue bp e v).faults = s.faults := rfl
@[simp] theorem setValue_log : (s.setValue bp e v).log = s.log := rfl
@[simp] theorem setValue_flash : (s.setValue bp e v).flash = s.flash := rfl
@[simp] theorem setValue_boot : (s.setValue bp e v).boot = s.boot := rfl
@[simp] theorem setValue_thermal : (s.setValue bp e v).thermal = s.thermal := rfl
@[simp] theorem setValue_net : (s.setValue bp e v).net = s.net := rfl
@[simp] theorem setValue_tap : (s.setValue bp e v).tap = s.tap := rfl
@[simp] theorem setValue_grade : (s.setValue bp e v).grade = s.grade := rfl
@[simp] theorem setValue_factory : (s.setValue bp e v).factory = s.factory := rfl
@[simp] theorem setValue_s2Failed : (s.setValue bp e v).s2Failed = s.s2Failed := rfl
@[simp] theorem setValue_trackMap : (s.setValue bp e v).trackMap = s.trackMap := rfl
@[simp] theorem setValue_freeCtr : (s.setValue bp e v).freeCtr = s.freeCtr := rfl
@[simp] theorem setValue_sent : (s.setValue bp e v).sent = s.sent := rfl
end

-- setCur

section
variable (s : State) (bp j : Nat) (v : V4)
@[simp] theorem setCur_pending : (s.setCur bp j v).pending = s.pending := rfl
@[simp] theorem setCur_istore : (s.setCur bp j v).istore = s.istore := rfl
@[simp] theorem setCur_values : (s.setCur bp j v).values = s.values := rfl
@[simp] theorem setCur_stg : (s.setCur bp j v).stg = s.stg := rfl
@[simp] theorem setCur_pend : (s.setCur bp j v).pend = s.pend := rfl
@[simp] theorem setCur_result : (s.setCur bp j v).result = s.result := rfl
@[simp] theorem setCur_slots : (s.setCur bp j v).slots = s.slots := rfl
@[simp] theorem setCur_ptable : (s.setCur bp j v).ptable = s.ptable := rfl
@[simp] theorem setCur_busyMap : (s.setCur bp j v).busyMap = s.busyMap := rfl
@[simp] theorem setCur_sendAct : (s.setCur bp j v).sendAct = s.sendAct := rfl
@[simp] theorem setCur_sendShd : (s.setCur bp j v).sendShd = s.sendShd := rfl
@[simp] theorem setCur_quadAct : (s.setCur bp j v).quadAct = s.quadAct := rfl
@[simp] theorem setCur_quadShd : (s.setCur bp j v).quadShd = s.quadShd := rfl
@[simp] theorem setCur_fetchSnd : (s.setCur bp j v).fetchSnd = s.fetchSnd := rfl
@[simp] theorem setCur_fetchQd : (s.setCur bp j v).fetchQd = s.fetchQd := rfl
@[simp] theorem setCur_ecc : (s.setCur bp j v).ecc = s.ecc := rfl
@[simp] theorem setCur_fences : (s.setCur bp j v).fences = s.fences := rfl
@[simp] theorem setCur_confOpp : (s.setCur bp j v).confOpp = s.confOpp := rfl
@[simp] theorem setCur_arrOpp : (s.setCur bp j v).arrOpp = s.arrOpp := rfl
@[simp] theorem setCur_arrSlots : (s.setCur bp j v).arrSlots = s.arrSlots := rfl
@[simp] theorem setCur_arrDrops : (s.setCur bp j v).arrDrops = s.arrDrops := rfl
@[simp] theorem setCur_clusters : (s.setCur bp j v).clusters = s.clusters := rfl
@[simp] theorem setCur_bank : (s.setCur bp j v).bank = s.bank := rfl
@[simp] theorem setCur_hbm : (s.setCur bp j v).hbm = s.hbm := rfl
@[simp] theorem setCur_hostMem : (s.setCur bp j v).hostMem = s.hostMem := rfl
@[simp] theorem setCur_hostBad : (s.setCur bp j v).hostBad = s.hostBad := rfl
@[simp] theorem setCur_opp : (s.setCur bp j v).opp = s.opp := rfl
@[simp] theorem setCur_groups : (s.setCur bp j v).groups = s.groups := rfl
@[simp] theorem setCur_parcels : (s.setCur bp j v).parcels = s.parcels := rfl
@[simp] theorem setCur_hbmStacks : (s.setCur bp j v).hbmStacks = s.hbmStacks := rfl
@[simp] theorem setCur_stages : (s.setCur bp j v).stages = s.stages := rfl
@[simp] theorem setCur_nextStage : (s.setCur bp j v).nextStage = s.nextStage := rfl
@[simp] theorem setCur_keys : (s.setCur bp j v).keys = s.keys := rfl
@[simp] theorem setCur_keks : (s.setCur bp j v).keks = s.keks := rfl
@[simp] theorem setCur_datum : (s.setCur bp j v).datum = s.datum := rfl
@[simp] theorem setCur_trigIn : (s.setCur bp j v).trigIn = s.trigIn := rfl
@[simp] theorem setCur_trigOut : (s.setCur bp j v).trigOut = s.trigOut := rfl
@[simp] theorem setCur_ppsHigh : (s.setCur bp j v).ppsHigh = s.ppsHigh := rfl
@[simp] theorem setCur_quads : (s.setCur bp j v).quads = s.quads := rfl
@[simp] theorem setCur_lanes : (s.setCur bp j v).lanes = s.lanes := rfl
@[simp] theorem setCur_bridges : (s.setCur bp j v).bridges = s.bridges := rfl
@[simp] theorem setCur_engines : (s.setCur bp j v).engines = s.engines := rfl
@[simp] theorem setCur_sessions : (s.setCur bp j v).sessions = s.sessions := rfl
@[simp] theorem setCur_hub : (s.setCur bp j v).hub = s.hub := rfl
@[simp] theorem setCur_faults : (s.setCur bp j v).faults = s.faults := rfl
@[simp] theorem setCur_log : (s.setCur bp j v).log = s.log := rfl
@[simp] theorem setCur_flash : (s.setCur bp j v).flash = s.flash := rfl
@[simp] theorem setCur_boot : (s.setCur bp j v).boot = s.boot := rfl
@[simp] theorem setCur_thermal : (s.setCur bp j v).thermal = s.thermal := rfl
@[simp] theorem setCur_net : (s.setCur bp j v).net = s.net := rfl
@[simp] theorem setCur_tap : (s.setCur bp j v).tap = s.tap := rfl
@[simp] theorem setCur_grade : (s.setCur bp j v).grade = s.grade := rfl
@[simp] theorem setCur_factory : (s.setCur bp j v).factory = s.factory := rfl
@[simp] theorem setCur_s2Failed : (s.setCur bp j v).s2Failed = s.s2Failed := rfl
@[simp] theorem setCur_trackMap : (s.setCur bp j v).trackMap = s.trackMap := rfl
@[simp] theorem setCur_freeCtr : (s.setCur bp j v).freeCtr = s.freeCtr := rfl
@[simp] theorem setCur_sent : (s.setCur bp j v).sent = s.sent := rfl
end

-- setStaged

section
variable (s : State) (bp j : Nat) (v : V4)
@[simp] theorem setStaged_pending : (s.setStaged bp j v).pending = s.pending := rfl
@[simp] theorem setStaged_istore : (s.setStaged bp j v).istore = s.istore := rfl
@[simp] theorem setStaged_values : (s.setStaged bp j v).values = s.values := rfl
@[simp] theorem setStaged_cur : (s.setStaged bp j v).cur = s.cur := rfl
@[simp] theorem setStaged_result : (s.setStaged bp j v).result = s.result := rfl
@[simp] theorem setStaged_slots : (s.setStaged bp j v).slots = s.slots := rfl
@[simp] theorem setStaged_ptable : (s.setStaged bp j v).ptable = s.ptable := rfl
@[simp] theorem setStaged_busyMap : (s.setStaged bp j v).busyMap = s.busyMap := rfl
@[simp] theorem setStaged_sendAct : (s.setStaged bp j v).sendAct = s.sendAct := rfl
@[simp] theorem setStaged_sendShd : (s.setStaged bp j v).sendShd = s.sendShd := rfl
@[simp] theorem setStaged_quadAct : (s.setStaged bp j v).quadAct = s.quadAct := rfl
@[simp] theorem setStaged_quadShd : (s.setStaged bp j v).quadShd = s.quadShd := rfl
@[simp] theorem setStaged_fetchSnd : (s.setStaged bp j v).fetchSnd = s.fetchSnd := rfl
@[simp] theorem setStaged_fetchQd : (s.setStaged bp j v).fetchQd = s.fetchQd := rfl
@[simp] theorem setStaged_ecc : (s.setStaged bp j v).ecc = s.ecc := rfl
@[simp] theorem setStaged_fences : (s.setStaged bp j v).fences = s.fences := rfl
@[simp] theorem setStaged_confOpp : (s.setStaged bp j v).confOpp = s.confOpp := rfl
@[simp] theorem setStaged_arrOpp : (s.setStaged bp j v).arrOpp = s.arrOpp := rfl
@[simp] theorem setStaged_arrSlots : (s.setStaged bp j v).arrSlots = s.arrSlots := rfl
@[simp] theorem setStaged_arrDrops : (s.setStaged bp j v).arrDrops = s.arrDrops := rfl
@[simp] theorem setStaged_clusters : (s.setStaged bp j v).clusters = s.clusters := rfl
@[simp] theorem setStaged_bank : (s.setStaged bp j v).bank = s.bank := rfl
@[simp] theorem setStaged_hbm : (s.setStaged bp j v).hbm = s.hbm := rfl
@[simp] theorem setStaged_hostMem : (s.setStaged bp j v).hostMem = s.hostMem := rfl
@[simp] theorem setStaged_hostBad : (s.setStaged bp j v).hostBad = s.hostBad := rfl
@[simp] theorem setStaged_opp : (s.setStaged bp j v).opp = s.opp := rfl
@[simp] theorem setStaged_groups : (s.setStaged bp j v).groups = s.groups := rfl
@[simp] theorem setStaged_parcels : (s.setStaged bp j v).parcels = s.parcels := rfl
@[simp] theorem setStaged_hbmStacks : (s.setStaged bp j v).hbmStacks = s.hbmStacks := rfl
@[simp] theorem setStaged_stages : (s.setStaged bp j v).stages = s.stages := rfl
@[simp] theorem setStaged_nextStage : (s.setStaged bp j v).nextStage = s.nextStage := rfl
@[simp] theorem setStaged_keys : (s.setStaged bp j v).keys = s.keys := rfl
@[simp] theorem setStaged_keks : (s.setStaged bp j v).keks = s.keks := rfl
@[simp] theorem setStaged_datum : (s.setStaged bp j v).datum = s.datum := rfl
@[simp] theorem setStaged_trigIn : (s.setStaged bp j v).trigIn = s.trigIn := rfl
@[simp] theorem setStaged_trigOut : (s.setStaged bp j v).trigOut = s.trigOut := rfl
@[simp] theorem setStaged_ppsHigh : (s.setStaged bp j v).ppsHigh = s.ppsHigh := rfl
@[simp] theorem setStaged_quads : (s.setStaged bp j v).quads = s.quads := rfl
@[simp] theorem setStaged_lanes : (s.setStaged bp j v).lanes = s.lanes := rfl
@[simp] theorem setStaged_bridges : (s.setStaged bp j v).bridges = s.bridges := rfl
@[simp] theorem setStaged_engines : (s.setStaged bp j v).engines = s.engines := rfl
@[simp] theorem setStaged_sessions : (s.setStaged bp j v).sessions = s.sessions := rfl
@[simp] theorem setStaged_hub : (s.setStaged bp j v).hub = s.hub := rfl
@[simp] theorem setStaged_faults : (s.setStaged bp j v).faults = s.faults := rfl
@[simp] theorem setStaged_log : (s.setStaged bp j v).log = s.log := rfl
@[simp] theorem setStaged_flash : (s.setStaged bp j v).flash = s.flash := rfl
@[simp] theorem setStaged_boot : (s.setStaged bp j v).boot = s.boot := rfl
@[simp] theorem setStaged_thermal : (s.setStaged bp j v).thermal = s.thermal := rfl
@[simp] theorem setStaged_net : (s.setStaged bp j v).net = s.net := rfl
@[simp] theorem setStaged_tap : (s.setStaged bp j v).tap = s.tap := rfl
@[simp] theorem setStaged_grade : (s.setStaged bp j v).grade = s.grade := rfl
@[simp] theorem setStaged_factory : (s.setStaged bp j v).factory = s.factory := rfl
@[simp] theorem setStaged_s2Failed : (s.setStaged bp j v).s2Failed = s.s2Failed := rfl
@[simp] theorem setStaged_trackMap : (s.setStaged bp j v).trackMap = s.trackMap := rfl
@[simp] theorem setStaged_freeCtr : (s.setStaged bp j v).freeCtr = s.freeCtr := rfl
@[simp] theorem setStaged_sent : (s.setStaged bp j v).sent = s.sent := rfl
end

-- setResult

section
variable (s : State) (bp : Nat) (v : V4)
@[simp] theorem setResult_pending : (s.setResult bp v).pending = s.pending := rfl
@[simp] theorem setResult_istore : (s.setResult bp v).istore = s.istore := rfl
@[simp] theorem setResult_values : (s.setResult bp v).values = s.values := rfl
@[simp] theorem setResult_cur : (s.setResult bp v).cur = s.cur := rfl
@[simp] theorem setResult_stg : (s.setResult bp v).stg = s.stg := rfl
@[simp] theorem setResult_pend : (s.setResult bp v).pend = s.pend := rfl
@[simp] theorem setResult_slots : (s.setResult bp v).slots = s.slots := rfl
@[simp] theorem setResult_ptable : (s.setResult bp v).ptable = s.ptable := rfl
@[simp] theorem setResult_busyMap : (s.setResult bp v).busyMap = s.busyMap := rfl
@[simp] theorem setResult_sendAct : (s.setResult bp v).sendAct = s.sendAct := rfl
@[simp] theorem setResult_sendShd : (s.setResult bp v).sendShd = s.sendShd := rfl
@[simp] theorem setResult_quadAct : (s.setResult bp v).quadAct = s.quadAct := rfl
@[simp] theorem setResult_quadShd : (s.setResult bp v).quadShd = s.quadShd := rfl
@[simp] theorem setResult_fetchSnd : (s.setResult bp v).fetchSnd = s.fetchSnd := rfl
@[simp] theorem setResult_fetchQd : (s.setResult bp v).fetchQd = s.fetchQd := rfl
@[simp] theorem setResult_ecc : (s.setResult bp v).ecc = s.ecc := rfl
@[simp] theorem setResult_fences : (s.setResult bp v).fences = s.fences := rfl
@[simp] theorem setResult_confOpp : (s.setResult bp v).confOpp = s.confOpp := rfl
@[simp] theorem setResult_arrOpp : (s.setResult bp v).arrOpp = s.arrOpp := rfl
@[simp] theorem setResult_arrSlots : (s.setResult bp v).arrSlots = s.arrSlots := rfl
@[simp] theorem setResult_arrDrops : (s.setResult bp v).arrDrops = s.arrDrops := rfl
@[simp] theorem setResult_clusters : (s.setResult bp v).clusters = s.clusters := rfl
@[simp] theorem setResult_bank : (s.setResult bp v).bank = s.bank := rfl
@[simp] theorem setResult_hbm : (s.setResult bp v).hbm = s.hbm := rfl
@[simp] theorem setResult_hostMem : (s.setResult bp v).hostMem = s.hostMem := rfl
@[simp] theorem setResult_hostBad : (s.setResult bp v).hostBad = s.hostBad := rfl
@[simp] theorem setResult_opp : (s.setResult bp v).opp = s.opp := rfl
@[simp] theorem setResult_groups : (s.setResult bp v).groups = s.groups := rfl
@[simp] theorem setResult_parcels : (s.setResult bp v).parcels = s.parcels := rfl
@[simp] theorem setResult_hbmStacks : (s.setResult bp v).hbmStacks = s.hbmStacks := rfl
@[simp] theorem setResult_stages : (s.setResult bp v).stages = s.stages := rfl
@[simp] theorem setResult_nextStage : (s.setResult bp v).nextStage = s.nextStage := rfl
@[simp] theorem setResult_keys : (s.setResult bp v).keys = s.keys := rfl
@[simp] theorem setResult_keks : (s.setResult bp v).keks = s.keks := rfl
@[simp] theorem setResult_datum : (s.setResult bp v).datum = s.datum := rfl
@[simp] theorem setResult_trigIn : (s.setResult bp v).trigIn = s.trigIn := rfl
@[simp] theorem setResult_trigOut : (s.setResult bp v).trigOut = s.trigOut := rfl
@[simp] theorem setResult_ppsHigh : (s.setResult bp v).ppsHigh = s.ppsHigh := rfl
@[simp] theorem setResult_quads : (s.setResult bp v).quads = s.quads := rfl
@[simp] theorem setResult_lanes : (s.setResult bp v).lanes = s.lanes := rfl
@[simp] theorem setResult_bridges : (s.setResult bp v).bridges = s.bridges := rfl
@[simp] theorem setResult_engines : (s.setResult bp v).engines = s.engines := rfl
@[simp] theorem setResult_sessions : (s.setResult bp v).sessions = s.sessions := rfl
@[simp] theorem setResult_hub : (s.setResult bp v).hub = s.hub := rfl
@[simp] theorem setResult_faults : (s.setResult bp v).faults = s.faults := rfl
@[simp] theorem setResult_log : (s.setResult bp v).log = s.log := rfl
@[simp] theorem setResult_flash : (s.setResult bp v).flash = s.flash := rfl
@[simp] theorem setResult_boot : (s.setResult bp v).boot = s.boot := rfl
@[simp] theorem setResult_thermal : (s.setResult bp v).thermal = s.thermal := rfl
@[simp] theorem setResult_net : (s.setResult bp v).net = s.net := rfl
@[simp] theorem setResult_tap : (s.setResult bp v).tap = s.tap := rfl
@[simp] theorem setResult_grade : (s.setResult bp v).grade = s.grade := rfl
@[simp] theorem setResult_factory : (s.setResult bp v).factory = s.factory := rfl
@[simp] theorem setResult_s2Failed : (s.setResult bp v).s2Failed = s.s2Failed := rfl
@[simp] theorem setResult_trackMap : (s.setResult bp v).trackMap = s.trackMap := rfl
@[simp] theorem setResult_freeCtr : (s.setResult bp v).freeCtr = s.freeCtr := rfl
@[simp] theorem setResult_sent : (s.setResult bp v).sent = s.sent := rfl
end

-- setSlot

section
variable (s : State) (c r : Nat) (v : RSlot)
@[simp] theorem setSlot_pending : (s.setSlot c r v).pending = s.pending := rfl
@[simp] theorem setSlot_istore : (s.setSlot c r v).istore = s.istore := rfl
@[simp] theorem setSlot_values : (s.setSlot c r v).values = s.values := rfl
@[simp] theorem setSlot_cur : (s.setSlot c r v).cur = s.cur := rfl
@[simp] theorem setSlot_stg : (s.setSlot c r v).stg = s.stg := rfl
@[simp] theorem setSlot_pend : (s.setSlot c r v).pend = s.pend := rfl
@[simp] theorem setSlot_result : (s.setSlot c r v).result = s.result := rfl
@[simp] theorem setSlot_ptable : (s.setSlot c r v).ptable = s.ptable := rfl
@[simp] theorem setSlot_busyMap : (s.setSlot c r v).busyMap = s.busyMap := rfl
@[simp] theorem setSlot_sendAct : (s.setSlot c r v).sendAct = s.sendAct := rfl
@[simp] theorem setSlot_sendShd : (s.setSlot c r v).sendShd = s.sendShd := rfl
@[simp] theorem setSlot_quadAct : (s.setSlot c r v).quadAct = s.quadAct := rfl
@[simp] theorem setSlot_quadShd : (s.setSlot c r v).quadShd = s.quadShd := rfl
@[simp] theorem setSlot_fetchSnd : (s.setSlot c r v).fetchSnd = s.fetchSnd := rfl
@[simp] theorem setSlot_fetchQd : (s.setSlot c r v).fetchQd = s.fetchQd := rfl
@[simp] theorem setSlot_ecc : (s.setSlot c r v).ecc = s.ecc := rfl
@[simp] theorem setSlot_fences : (s.setSlot c r v).fences = s.fences := rfl
@[simp] theorem setSlot_confOpp : (s.setSlot c r v).confOpp = s.confOpp := rfl
@[simp] theorem setSlot_arrOpp : (s.setSlot c r v).arrOpp = s.arrOpp := rfl
@[simp] theorem setSlot_arrSlots : (s.setSlot c r v).arrSlots = s.arrSlots := rfl
@[simp] theorem setSlot_arrDrops : (s.setSlot c r v).arrDrops = s.arrDrops := rfl
@[simp] theorem setSlot_clusters : (s.setSlot c r v).clusters = s.clusters := rfl
@[simp] theorem setSlot_bank : (s.setSlot c r v).bank = s.bank := rfl
@[simp] theorem setSlot_hbm : (s.setSlot c r v).hbm = s.hbm := rfl
@[simp] theorem setSlot_hostMem : (s.setSlot c r v).hostMem = s.hostMem := rfl
@[simp] theorem setSlot_hostBad : (s.setSlot c r v).hostBad = s.hostBad := rfl
@[simp] theorem setSlot_opp : (s.setSlot c r v).opp = s.opp := rfl
@[simp] theorem setSlot_groups : (s.setSlot c r v).groups = s.groups := rfl
@[simp] theorem setSlot_parcels : (s.setSlot c r v).parcels = s.parcels := rfl
@[simp] theorem setSlot_hbmStacks : (s.setSlot c r v).hbmStacks = s.hbmStacks := rfl
@[simp] theorem setSlot_stages : (s.setSlot c r v).stages = s.stages := rfl
@[simp] theorem setSlot_nextStage : (s.setSlot c r v).nextStage = s.nextStage := rfl
@[simp] theorem setSlot_keys : (s.setSlot c r v).keys = s.keys := rfl
@[simp] theorem setSlot_keks : (s.setSlot c r v).keks = s.keks := rfl
@[simp] theorem setSlot_datum : (s.setSlot c r v).datum = s.datum := rfl
@[simp] theorem setSlot_trigIn : (s.setSlot c r v).trigIn = s.trigIn := rfl
@[simp] theorem setSlot_trigOut : (s.setSlot c r v).trigOut = s.trigOut := rfl
@[simp] theorem setSlot_ppsHigh : (s.setSlot c r v).ppsHigh = s.ppsHigh := rfl
@[simp] theorem setSlot_quads : (s.setSlot c r v).quads = s.quads := rfl
@[simp] theorem setSlot_lanes : (s.setSlot c r v).lanes = s.lanes := rfl
@[simp] theorem setSlot_bridges : (s.setSlot c r v).bridges = s.bridges := rfl
@[simp] theorem setSlot_engines : (s.setSlot c r v).engines = s.engines := rfl
@[simp] theorem setSlot_sessions : (s.setSlot c r v).sessions = s.sessions := rfl
@[simp] theorem setSlot_hub : (s.setSlot c r v).hub = s.hub := rfl
@[simp] theorem setSlot_faults : (s.setSlot c r v).faults = s.faults := rfl
@[simp] theorem setSlot_log : (s.setSlot c r v).log = s.log := rfl
@[simp] theorem setSlot_flash : (s.setSlot c r v).flash = s.flash := rfl
@[simp] theorem setSlot_boot : (s.setSlot c r v).boot = s.boot := rfl
@[simp] theorem setSlot_thermal : (s.setSlot c r v).thermal = s.thermal := rfl
@[simp] theorem setSlot_net : (s.setSlot c r v).net = s.net := rfl
@[simp] theorem setSlot_tap : (s.setSlot c r v).tap = s.tap := rfl
@[simp] theorem setSlot_grade : (s.setSlot c r v).grade = s.grade := rfl
@[simp] theorem setSlot_factory : (s.setSlot c r v).factory = s.factory := rfl
@[simp] theorem setSlot_s2Failed : (s.setSlot c r v).s2Failed = s.s2Failed := rfl
@[simp] theorem setSlot_trackMap : (s.setSlot c r v).trackMap = s.trackMap := rfl
@[simp] theorem setSlot_freeCtr : (s.setSlot c r v).freeCtr = s.freeCtr := rfl
@[simp] theorem setSlot_sent : (s.setSlot c r v).sent = s.sent := rfl
end

-- setParcel

section
variable (s : State) (i : Nat) (v : Parcel)
@[simp] theorem setParcel_pending : (s.setParcel i v).pending = s.pending := rfl
@[simp] theorem setParcel_istore : (s.setParcel i v).istore = s.istore := rfl
@[simp] theorem setParcel_values : (s.setParcel i v).values = s.values := rfl
@[simp] theorem setParcel_cur : (s.setParcel i v).cur = s.cur := rfl
@[simp] theorem setParcel_stg : (s.setParcel i v).stg = s.stg := rfl
@[simp] theorem setParcel_pend : (s.setParcel i v).pend = s.pend := rfl
@[simp] theorem setParcel_result : (s.setParcel i v).result = s.result := rfl
@[simp] theorem setParcel_slots : (s.setParcel i v).slots = s.slots := rfl
@[simp] theorem setParcel_ptable : (s.setParcel i v).ptable = s.ptable := rfl
@[simp] theorem setParcel_busyMap : (s.setParcel i v).busyMap = s.busyMap := rfl
@[simp] theorem setParcel_sendAct : (s.setParcel i v).sendAct = s.sendAct := rfl
@[simp] theorem setParcel_sendShd : (s.setParcel i v).sendShd = s.sendShd := rfl
@[simp] theorem setParcel_quadAct : (s.setParcel i v).quadAct = s.quadAct := rfl
@[simp] theorem setParcel_quadShd : (s.setParcel i v).quadShd = s.quadShd := rfl
@[simp] theorem setParcel_fetchSnd : (s.setParcel i v).fetchSnd = s.fetchSnd := rfl
@[simp] theorem setParcel_fetchQd : (s.setParcel i v).fetchQd = s.fetchQd := rfl
@[simp] theorem setParcel_ecc : (s.setParcel i v).ecc = s.ecc := rfl
@[simp] theorem setParcel_fences : (s.setParcel i v).fences = s.fences := rfl
@[simp] theorem setParcel_confOpp : (s.setParcel i v).confOpp = s.confOpp := rfl
@[simp] theorem setParcel_arrOpp : (s.setParcel i v).arrOpp = s.arrOpp := rfl
@[simp] theorem setParcel_arrSlots : (s.setParcel i v).arrSlots = s.arrSlots := rfl
@[simp] theorem setParcel_arrDrops : (s.setParcel i v).arrDrops = s.arrDrops := rfl
@[simp] theorem setParcel_clusters : (s.setParcel i v).clusters = s.clusters := rfl
@[simp] theorem setParcel_bank : (s.setParcel i v).bank = s.bank := rfl
@[simp] theorem setParcel_hbm : (s.setParcel i v).hbm = s.hbm := rfl
@[simp] theorem setParcel_hostMem : (s.setParcel i v).hostMem = s.hostMem := rfl
@[simp] theorem setParcel_hostBad : (s.setParcel i v).hostBad = s.hostBad := rfl
@[simp] theorem setParcel_opp : (s.setParcel i v).opp = s.opp := rfl
@[simp] theorem setParcel_groups : (s.setParcel i v).groups = s.groups := rfl
@[simp] theorem setParcel_hbmStacks : (s.setParcel i v).hbmStacks = s.hbmStacks := rfl
@[simp] theorem setParcel_stages : (s.setParcel i v).stages = s.stages := rfl
@[simp] theorem setParcel_nextStage : (s.setParcel i v).nextStage = s.nextStage := rfl
@[simp] theorem setParcel_keys : (s.setParcel i v).keys = s.keys := rfl
@[simp] theorem setParcel_keks : (s.setParcel i v).keks = s.keks := rfl
@[simp] theorem setParcel_datum : (s.setParcel i v).datum = s.datum := rfl
@[simp] theorem setParcel_trigIn : (s.setParcel i v).trigIn = s.trigIn := rfl
@[simp] theorem setParcel_trigOut : (s.setParcel i v).trigOut = s.trigOut := rfl
@[simp] theorem setParcel_ppsHigh : (s.setParcel i v).ppsHigh = s.ppsHigh := rfl
@[simp] theorem setParcel_quads : (s.setParcel i v).quads = s.quads := rfl
@[simp] theorem setParcel_lanes : (s.setParcel i v).lanes = s.lanes := rfl
@[simp] theorem setParcel_bridges : (s.setParcel i v).bridges = s.bridges := rfl
@[simp] theorem setParcel_engines : (s.setParcel i v).engines = s.engines := rfl
@[simp] theorem setParcel_sessions : (s.setParcel i v).sessions = s.sessions := rfl
@[simp] theorem setParcel_hub : (s.setParcel i v).hub = s.hub := rfl
@[simp] theorem setParcel_faults : (s.setParcel i v).faults = s.faults := rfl
@[simp] theorem setParcel_log : (s.setParcel i v).log = s.log := rfl
@[simp] theorem setParcel_flash : (s.setParcel i v).flash = s.flash := rfl
@[simp] theorem setParcel_boot : (s.setParcel i v).boot = s.boot := rfl
@[simp] theorem setParcel_thermal : (s.setParcel i v).thermal = s.thermal := rfl
@[simp] theorem setParcel_net : (s.setParcel i v).net = s.net := rfl
@[simp] theorem setParcel_tap : (s.setParcel i v).tap = s.tap := rfl
@[simp] theorem setParcel_grade : (s.setParcel i v).grade = s.grade := rfl
@[simp] theorem setParcel_factory : (s.setParcel i v).factory = s.factory := rfl
@[simp] theorem setParcel_s2Failed : (s.setParcel i v).s2Failed = s.s2Failed := rfl
@[simp] theorem setParcel_trackMap : (s.setParcel i v).trackMap = s.trackMap := rfl
@[simp] theorem setParcel_freeCtr : (s.setParcel i v).freeCtr = s.freeCtr := rfl
@[simp] theorem setParcel_sent : (s.setParcel i v).sent = s.sent := rfl
end

-- setCluster

section
variable (s : State) (i : Nat) (v : Cluster)
@[simp] theorem setCluster_pending : (s.setCluster i v).pending = s.pending := rfl
@[simp] theorem setCluster_istore : (s.setCluster i v).istore = s.istore := rfl
@[simp] theorem setCluster_values : (s.setCluster i v).values = s.values := rfl
@[simp] theorem setCluster_cur : (s.setCluster i v).cur = s.cur := rfl
@[simp] theorem setCluster_stg : (s.setCluster i v).stg = s.stg := rfl
@[simp] theorem setCluster_pend : (s.setCluster i v).pend = s.pend := rfl
@[simp] theorem setCluster_result : (s.setCluster i v).result = s.result := rfl
@[simp] theorem setCluster_slots : (s.setCluster i v).slots = s.slots := rfl
@[simp] theorem setCluster_ptable : (s.setCluster i v).ptable = s.ptable := rfl
@[simp] theorem setCluster_busyMap : (s.setCluster i v).busyMap = s.busyMap := rfl
@[simp] theorem setCluster_sendAct : (s.setCluster i v).sendAct = s.sendAct := rfl
@[simp] theorem setCluster_sendShd : (s.setCluster i v).sendShd = s.sendShd := rfl
@[simp] theorem setCluster_quadAct : (s.setCluster i v).quadAct = s.quadAct := rfl
@[simp] theorem setCluster_quadShd : (s.setCluster i v).quadShd = s.quadShd := rfl
@[simp] theorem setCluster_fetchSnd : (s.setCluster i v).fetchSnd = s.fetchSnd := rfl
@[simp] theorem setCluster_fetchQd : (s.setCluster i v).fetchQd = s.fetchQd := rfl
@[simp] theorem setCluster_ecc : (s.setCluster i v).ecc = s.ecc := rfl
@[simp] theorem setCluster_fences : (s.setCluster i v).fences = s.fences := rfl
@[simp] theorem setCluster_confOpp : (s.setCluster i v).confOpp = s.confOpp := rfl
@[simp] theorem setCluster_arrOpp : (s.setCluster i v).arrOpp = s.arrOpp := rfl
@[simp] theorem setCluster_arrSlots : (s.setCluster i v).arrSlots = s.arrSlots := rfl
@[simp] theorem setCluster_arrDrops : (s.setCluster i v).arrDrops = s.arrDrops := rfl
@[simp] theorem setCluster_bank : (s.setCluster i v).bank = s.bank := rfl
@[simp] theorem setCluster_hbm : (s.setCluster i v).hbm = s.hbm := rfl
@[simp] theorem setCluster_hostMem : (s.setCluster i v).hostMem = s.hostMem := rfl
@[simp] theorem setCluster_hostBad : (s.setCluster i v).hostBad = s.hostBad := rfl
@[simp] theorem setCluster_opp : (s.setCluster i v).opp = s.opp := rfl
@[simp] theorem setCluster_groups : (s.setCluster i v).groups = s.groups := rfl
@[simp] theorem setCluster_parcels : (s.setCluster i v).parcels = s.parcels := rfl
@[simp] theorem setCluster_hbmStacks : (s.setCluster i v).hbmStacks = s.hbmStacks := rfl
@[simp] theorem setCluster_stages : (s.setCluster i v).stages = s.stages := rfl
@[simp] theorem setCluster_nextStage : (s.setCluster i v).nextStage = s.nextStage := rfl
@[simp] theorem setCluster_keys : (s.setCluster i v).keys = s.keys := rfl
@[simp] theorem setCluster_keks : (s.setCluster i v).keks = s.keks := rfl
@[simp] theorem setCluster_datum : (s.setCluster i v).datum = s.datum := rfl
@[simp] theorem setCluster_trigIn : (s.setCluster i v).trigIn = s.trigIn := rfl
@[simp] theorem setCluster_trigOut : (s.setCluster i v).trigOut = s.trigOut := rfl
@[simp] theorem setCluster_ppsHigh : (s.setCluster i v).ppsHigh = s.ppsHigh := rfl
@[simp] theorem setCluster_quads : (s.setCluster i v).quads = s.quads := rfl
@[simp] theorem setCluster_lanes : (s.setCluster i v).lanes = s.lanes := rfl
@[simp] theorem setCluster_bridges : (s.setCluster i v).bridges = s.bridges := rfl
@[simp] theorem setCluster_engines : (s.setCluster i v).engines = s.engines := rfl
@[simp] theorem setCluster_sessions : (s.setCluster i v).sessions = s.sessions := rfl
@[simp] theorem setCluster_hub : (s.setCluster i v).hub = s.hub := rfl
@[simp] theorem setCluster_faults : (s.setCluster i v).faults = s.faults := rfl
@[simp] theorem setCluster_log : (s.setCluster i v).log = s.log := rfl
@[simp] theorem setCluster_flash : (s.setCluster i v).flash = s.flash := rfl
@[simp] theorem setCluster_boot : (s.setCluster i v).boot = s.boot := rfl
@[simp] theorem setCluster_thermal : (s.setCluster i v).thermal = s.thermal := rfl
@[simp] theorem setCluster_net : (s.setCluster i v).net = s.net := rfl
@[simp] theorem setCluster_tap : (s.setCluster i v).tap = s.tap := rfl
@[simp] theorem setCluster_grade : (s.setCluster i v).grade = s.grade := rfl
@[simp] theorem setCluster_factory : (s.setCluster i v).factory = s.factory := rfl
@[simp] theorem setCluster_s2Failed : (s.setCluster i v).s2Failed = s.s2Failed := rfl
@[simp] theorem setCluster_trackMap : (s.setCluster i v).trackMap = s.trackMap := rfl
@[simp] theorem setCluster_freeCtr : (s.setCluster i v).freeCtr = s.freeCtr := rfl
@[simp] theorem setCluster_sent : (s.setCluster i v).sent = s.sent := rfl
end

-- setGroup

section
variable (s : State) (i : Nat) (v : RunGroup)
@[simp] theorem setGroup_pending : (s.setGroup i v).pending = s.pending := rfl
@[simp] theorem setGroup_istore : (s.setGroup i v).istore = s.istore := rfl
@[simp] theorem setGroup_values : (s.setGroup i v).values = s.values := rfl
@[simp] theorem setGroup_cur : (s.setGroup i v).cur = s.cur := rfl
@[simp] theorem setGroup_stg : (s.setGroup i v).stg = s.stg := rfl
@[simp] theorem setGroup_pend : (s.setGroup i v).pend = s.pend := rfl
@[simp] theorem setGroup_result : (s.setGroup i v).result = s.result := rfl
@[simp] theorem setGroup_slots : (s.setGroup i v).slots = s.slots := rfl
@[simp] theorem setGroup_ptable : (s.setGroup i v).ptable = s.ptable := rfl
@[simp] theorem setGroup_busyMap : (s.setGroup i v).busyMap = s.busyMap := rfl
@[simp] theorem setGroup_sendAct : (s.setGroup i v).sendAct = s.sendAct := rfl
@[simp] theorem setGroup_sendShd : (s.setGroup i v).sendShd = s.sendShd := rfl
@[simp] theorem setGroup_quadAct : (s.setGroup i v).quadAct = s.quadAct := rfl
@[simp] theorem setGroup_quadShd : (s.setGroup i v).quadShd = s.quadShd := rfl
@[simp] theorem setGroup_fetchSnd : (s.setGroup i v).fetchSnd = s.fetchSnd := rfl
@[simp] theorem setGroup_fetchQd : (s.setGroup i v).fetchQd = s.fetchQd := rfl
@[simp] theorem setGroup_ecc : (s.setGroup i v).ecc = s.ecc := rfl
@[simp] theorem setGroup_fences : (s.setGroup i v).fences = s.fences := rfl
@[simp] theorem setGroup_confOpp : (s.setGroup i v).confOpp = s.confOpp := rfl
@[simp] theorem setGroup_arrOpp : (s.setGroup i v).arrOpp = s.arrOpp := rfl
@[simp] theorem setGroup_arrSlots : (s.setGroup i v).arrSlots = s.arrSlots := rfl
@[simp] theorem setGroup_arrDrops : (s.setGroup i v).arrDrops = s.arrDrops := rfl
@[simp] theorem setGroup_clusters : (s.setGroup i v).clusters = s.clusters := rfl
@[simp] theorem setGroup_bank : (s.setGroup i v).bank = s.bank := rfl
@[simp] theorem setGroup_hbm : (s.setGroup i v).hbm = s.hbm := rfl
@[simp] theorem setGroup_hostMem : (s.setGroup i v).hostMem = s.hostMem := rfl
@[simp] theorem setGroup_hostBad : (s.setGroup i v).hostBad = s.hostBad := rfl
@[simp] theorem setGroup_opp : (s.setGroup i v).opp = s.opp := rfl
@[simp] theorem setGroup_parcels : (s.setGroup i v).parcels = s.parcels := rfl
@[simp] theorem setGroup_hbmStacks : (s.setGroup i v).hbmStacks = s.hbmStacks := rfl
@[simp] theorem setGroup_stages : (s.setGroup i v).stages = s.stages := rfl
@[simp] theorem setGroup_nextStage : (s.setGroup i v).nextStage = s.nextStage := rfl
@[simp] theorem setGroup_keys : (s.setGroup i v).keys = s.keys := rfl
@[simp] theorem setGroup_keks : (s.setGroup i v).keks = s.keks := rfl
@[simp] theorem setGroup_datum : (s.setGroup i v).datum = s.datum := rfl
@[simp] theorem setGroup_trigIn : (s.setGroup i v).trigIn = s.trigIn := rfl
@[simp] theorem setGroup_trigOut : (s.setGroup i v).trigOut = s.trigOut := rfl
@[simp] theorem setGroup_ppsHigh : (s.setGroup i v).ppsHigh = s.ppsHigh := rfl
@[simp] theorem setGroup_quads : (s.setGroup i v).quads = s.quads := rfl
@[simp] theorem setGroup_lanes : (s.setGroup i v).lanes = s.lanes := rfl
@[simp] theorem setGroup_bridges : (s.setGroup i v).bridges = s.bridges := rfl
@[simp] theorem setGroup_engines : (s.setGroup i v).engines = s.engines := rfl
@[simp] theorem setGroup_sessions : (s.setGroup i v).sessions = s.sessions := rfl
@[simp] theorem setGroup_hub : (s.setGroup i v).hub = s.hub := rfl
@[simp] theorem setGroup_faults : (s.setGroup i v).faults = s.faults := rfl
@[simp] theorem setGroup_log : (s.setGroup i v).log = s.log := rfl
@[simp] theorem setGroup_flash : (s.setGroup i v).flash = s.flash := rfl
@[simp] theorem setGroup_boot : (s.setGroup i v).boot = s.boot := rfl
@[simp] theorem setGroup_thermal : (s.setGroup i v).thermal = s.thermal := rfl
@[simp] theorem setGroup_net : (s.setGroup i v).net = s.net := rfl
@[simp] theorem setGroup_tap : (s.setGroup i v).tap = s.tap := rfl
@[simp] theorem setGroup_grade : (s.setGroup i v).grade = s.grade := rfl
@[simp] theorem setGroup_factory : (s.setGroup i v).factory = s.factory := rfl
@[simp] theorem setGroup_s2Failed : (s.setGroup i v).s2Failed = s.s2Failed := rfl
@[simp] theorem setGroup_trackMap : (s.setGroup i v).trackMap = s.trackMap := rfl
@[simp] theorem setGroup_freeCtr : (s.setGroup i v).freeCtr = s.freeCtr := rfl
@[simp] theorem setGroup_sent : (s.setGroup i v).sent = s.sent := rfl
end

-- setStack

section
variable (s : State) (i : Nat) (v : Stack)
@[simp] theorem setStack_pending : (s.setStack i v).pending = s.pending := rfl
@[simp] theorem setStack_istore : (s.setStack i v).istore = s.istore := rfl
@[simp] theorem setStack_values : (s.setStack i v).values = s.values := rfl
@[simp] theorem setStack_cur : (s.setStack i v).cur = s.cur := rfl
@[simp] theorem setStack_stg : (s.setStack i v).stg = s.stg := rfl
@[simp] theorem setStack_pend : (s.setStack i v).pend = s.pend := rfl
@[simp] theorem setStack_result : (s.setStack i v).result = s.result := rfl
@[simp] theorem setStack_slots : (s.setStack i v).slots = s.slots := rfl
@[simp] theorem setStack_ptable : (s.setStack i v).ptable = s.ptable := rfl
@[simp] theorem setStack_busyMap : (s.setStack i v).busyMap = s.busyMap := rfl
@[simp] theorem setStack_sendAct : (s.setStack i v).sendAct = s.sendAct := rfl
@[simp] theorem setStack_sendShd : (s.setStack i v).sendShd = s.sendShd := rfl
@[simp] theorem setStack_quadAct : (s.setStack i v).quadAct = s.quadAct := rfl
@[simp] theorem setStack_quadShd : (s.setStack i v).quadShd = s.quadShd := rfl
@[simp] theorem setStack_fetchSnd : (s.setStack i v).fetchSnd = s.fetchSnd := rfl
@[simp] theorem setStack_fetchQd : (s.setStack i v).fetchQd = s.fetchQd := rfl
@[simp] theorem setStack_ecc : (s.setStack i v).ecc = s.ecc := rfl
@[simp] theorem setStack_fences : (s.setStack i v).fences = s.fences := rfl
@[simp] theorem setStack_confOpp : (s.setStack i v).confOpp = s.confOpp := rfl
@[simp] theorem setStack_arrOpp : (s.setStack i v).arrOpp = s.arrOpp := rfl
@[simp] theorem setStack_arrSlots : (s.setStack i v).arrSlots = s.arrSlots := rfl
@[simp] theorem setStack_arrDrops : (s.setStack i v).arrDrops = s.arrDrops := rfl
@[simp] theorem setStack_clusters : (s.setStack i v).clusters = s.clusters := rfl
@[simp] theorem setStack_bank : (s.setStack i v).bank = s.bank := rfl
@[simp] theorem setStack_hbm : (s.setStack i v).hbm = s.hbm := rfl
@[simp] theorem setStack_hostMem : (s.setStack i v).hostMem = s.hostMem := rfl
@[simp] theorem setStack_hostBad : (s.setStack i v).hostBad = s.hostBad := rfl
@[simp] theorem setStack_opp : (s.setStack i v).opp = s.opp := rfl
@[simp] theorem setStack_groups : (s.setStack i v).groups = s.groups := rfl
@[simp] theorem setStack_parcels : (s.setStack i v).parcels = s.parcels := rfl
@[simp] theorem setStack_stages : (s.setStack i v).stages = s.stages := rfl
@[simp] theorem setStack_nextStage : (s.setStack i v).nextStage = s.nextStage := rfl
@[simp] theorem setStack_keys : (s.setStack i v).keys = s.keys := rfl
@[simp] theorem setStack_keks : (s.setStack i v).keks = s.keks := rfl
@[simp] theorem setStack_datum : (s.setStack i v).datum = s.datum := rfl
@[simp] theorem setStack_trigIn : (s.setStack i v).trigIn = s.trigIn := rfl
@[simp] theorem setStack_trigOut : (s.setStack i v).trigOut = s.trigOut := rfl
@[simp] theorem setStack_ppsHigh : (s.setStack i v).ppsHigh = s.ppsHigh := rfl
@[simp] theorem setStack_quads : (s.setStack i v).quads = s.quads := rfl
@[simp] theorem setStack_lanes : (s.setStack i v).lanes = s.lanes := rfl
@[simp] theorem setStack_bridges : (s.setStack i v).bridges = s.bridges := rfl
@[simp] theorem setStack_engines : (s.setStack i v).engines = s.engines := rfl
@[simp] theorem setStack_sessions : (s.setStack i v).sessions = s.sessions := rfl
@[simp] theorem setStack_hub : (s.setStack i v).hub = s.hub := rfl
@[simp] theorem setStack_faults : (s.setStack i v).faults = s.faults := rfl
@[simp] theorem setStack_log : (s.setStack i v).log = s.log := rfl
@[simp] theorem setStack_flash : (s.setStack i v).flash = s.flash := rfl
@[simp] theorem setStack_boot : (s.setStack i v).boot = s.boot := rfl
@[simp] theorem setStack_thermal : (s.setStack i v).thermal = s.thermal := rfl
@[simp] theorem setStack_net : (s.setStack i v).net = s.net := rfl
@[simp] theorem setStack_tap : (s.setStack i v).tap = s.tap := rfl
@[simp] theorem setStack_grade : (s.setStack i v).grade = s.grade := rfl
@[simp] theorem setStack_factory : (s.setStack i v).factory = s.factory := rfl
@[simp] theorem setStack_s2Failed : (s.setStack i v).s2Failed = s.s2Failed := rfl
@[simp] theorem setStack_trackMap : (s.setStack i v).trackMap = s.trackMap := rfl
@[simp] theorem setStack_freeCtr : (s.setStack i v).freeCtr = s.freeCtr := rfl
@[simp] theorem setStack_sent : (s.setStack i v).sent = s.sent := rfl
end

-- setKey

section
variable (s : State) (i : Nat) (v : KeySlot)
@[simp] theorem setKey_pending : (s.setKey i v).pending = s.pending := rfl
@[simp] theorem setKey_istore : (s.setKey i v).istore = s.istore := rfl
@[simp] theorem setKey_values : (s.setKey i v).values = s.values := rfl
@[simp] theorem setKey_cur : (s.setKey i v).cur = s.cur := rfl
@[simp] theorem setKey_stg : (s.setKey i v).stg = s.stg := rfl
@[simp] theorem setKey_pend : (s.setKey i v).pend = s.pend := rfl
@[simp] theorem setKey_result : (s.setKey i v).result = s.result := rfl
@[simp] theorem setKey_slots : (s.setKey i v).slots = s.slots := rfl
@[simp] theorem setKey_ptable : (s.setKey i v).ptable = s.ptable := rfl
@[simp] theorem setKey_busyMap : (s.setKey i v).busyMap = s.busyMap := rfl
@[simp] theorem setKey_sendAct : (s.setKey i v).sendAct = s.sendAct := rfl
@[simp] theorem setKey_sendShd : (s.setKey i v).sendShd = s.sendShd := rfl
@[simp] theorem setKey_quadAct : (s.setKey i v).quadAct = s.quadAct := rfl
@[simp] theorem setKey_quadShd : (s.setKey i v).quadShd = s.quadShd := rfl
@[simp] theorem setKey_fetchSnd : (s.setKey i v).fetchSnd = s.fetchSnd := rfl
@[simp] theorem setKey_fetchQd : (s.setKey i v).fetchQd = s.fetchQd := rfl
@[simp] theorem setKey_ecc : (s.setKey i v).ecc = s.ecc := rfl
@[simp] theorem setKey_fences : (s.setKey i v).fences = s.fences := rfl
@[simp] theorem setKey_confOpp : (s.setKey i v).confOpp = s.confOpp := rfl
@[simp] theorem setKey_arrOpp : (s.setKey i v).arrOpp = s.arrOpp := rfl
@[simp] theorem setKey_arrSlots : (s.setKey i v).arrSlots = s.arrSlots := rfl
@[simp] theorem setKey_arrDrops : (s.setKey i v).arrDrops = s.arrDrops := rfl
@[simp] theorem setKey_clusters : (s.setKey i v).clusters = s.clusters := rfl
@[simp] theorem setKey_bank : (s.setKey i v).bank = s.bank := rfl
@[simp] theorem setKey_hbm : (s.setKey i v).hbm = s.hbm := rfl
@[simp] theorem setKey_hostMem : (s.setKey i v).hostMem = s.hostMem := rfl
@[simp] theorem setKey_hostBad : (s.setKey i v).hostBad = s.hostBad := rfl
@[simp] theorem setKey_opp : (s.setKey i v).opp = s.opp := rfl
@[simp] theorem setKey_groups : (s.setKey i v).groups = s.groups := rfl
@[simp] theorem setKey_parcels : (s.setKey i v).parcels = s.parcels := rfl
@[simp] theorem setKey_hbmStacks : (s.setKey i v).hbmStacks = s.hbmStacks := rfl
@[simp] theorem setKey_stages : (s.setKey i v).stages = s.stages := rfl
@[simp] theorem setKey_nextStage : (s.setKey i v).nextStage = s.nextStage := rfl
@[simp] theorem setKey_keks : (s.setKey i v).keks = s.keks := rfl
@[simp] theorem setKey_datum : (s.setKey i v).datum = s.datum := rfl
@[simp] theorem setKey_trigIn : (s.setKey i v).trigIn = s.trigIn := rfl
@[simp] theorem setKey_trigOut : (s.setKey i v).trigOut = s.trigOut := rfl
@[simp] theorem setKey_ppsHigh : (s.setKey i v).ppsHigh = s.ppsHigh := rfl
@[simp] theorem setKey_quads : (s.setKey i v).quads = s.quads := rfl
@[simp] theorem setKey_lanes : (s.setKey i v).lanes = s.lanes := rfl
@[simp] theorem setKey_bridges : (s.setKey i v).bridges = s.bridges := rfl
@[simp] theorem setKey_engines : (s.setKey i v).engines = s.engines := rfl
@[simp] theorem setKey_sessions : (s.setKey i v).sessions = s.sessions := rfl
@[simp] theorem setKey_hub : (s.setKey i v).hub = s.hub := rfl
@[simp] theorem setKey_faults : (s.setKey i v).faults = s.faults := rfl
@[simp] theorem setKey_log : (s.setKey i v).log = s.log := rfl
@[simp] theorem setKey_flash : (s.setKey i v).flash = s.flash := rfl
@[simp] theorem setKey_boot : (s.setKey i v).boot = s.boot := rfl
@[simp] theorem setKey_thermal : (s.setKey i v).thermal = s.thermal := rfl
@[simp] theorem setKey_net : (s.setKey i v).net = s.net := rfl
@[simp] theorem setKey_tap : (s.setKey i v).tap = s.tap := rfl
@[simp] theorem setKey_grade : (s.setKey i v).grade = s.grade := rfl
@[simp] theorem setKey_factory : (s.setKey i v).factory = s.factory := rfl
@[simp] theorem setKey_s2Failed : (s.setKey i v).s2Failed = s.s2Failed := rfl
@[simp] theorem setKey_trackMap : (s.setKey i v).trackMap = s.trackMap := rfl
@[simp] theorem setKey_freeCtr : (s.setKey i v).freeCtr = s.freeCtr := rfl
@[simp] theorem setKey_sent : (s.setKey i v).sent = s.sent := rfl
end

-- setQuad

section
variable (s : State) (i : Nat) (v : Quad)
@[simp] theorem setQuad_pending : (s.setQuad i v).pending = s.pending := rfl
@[simp] theorem setQuad_istore : (s.setQuad i v).istore = s.istore := rfl
@[simp] theorem setQuad_values : (s.setQuad i v).values = s.values := rfl
@[simp] theorem setQuad_cur : (s.setQuad i v).cur = s.cur := rfl
@[simp] theorem setQuad_stg : (s.setQuad i v).stg = s.stg := rfl
@[simp] theorem setQuad_pend : (s.setQuad i v).pend = s.pend := rfl
@[simp] theorem setQuad_result : (s.setQuad i v).result = s.result := rfl
@[simp] theorem setQuad_slots : (s.setQuad i v).slots = s.slots := rfl
@[simp] theorem setQuad_ptable : (s.setQuad i v).ptable = s.ptable := rfl
@[simp] theorem setQuad_busyMap : (s.setQuad i v).busyMap = s.busyMap := rfl
@[simp] theorem setQuad_sendAct : (s.setQuad i v).sendAct = s.sendAct := rfl
@[simp] theorem setQuad_sendShd : (s.setQuad i v).sendShd = s.sendShd := rfl
@[simp] theorem setQuad_quadAct : (s.setQuad i v).quadAct = s.quadAct := rfl
@[simp] theorem setQuad_quadShd : (s.setQuad i v).quadShd = s.quadShd := rfl
@[simp] theorem setQuad_fetchSnd : (s.setQuad i v).fetchSnd = s.fetchSnd := rfl
@[simp] theorem setQuad_fetchQd : (s.setQuad i v).fetchQd = s.fetchQd := rfl
@[simp] theorem setQuad_ecc : (s.setQuad i v).ecc = s.ecc := rfl
@[simp] theorem setQuad_fences : (s.setQuad i v).fences = s.fences := rfl
@[simp] theorem setQuad_confOpp : (s.setQuad i v).confOpp = s.confOpp := rfl
@[simp] theorem setQuad_arrOpp : (s.setQuad i v).arrOpp = s.arrOpp := rfl
@[simp] theorem setQuad_arrSlots : (s.setQuad i v).arrSlots = s.arrSlots := rfl
@[simp] theorem setQuad_arrDrops : (s.setQuad i v).arrDrops = s.arrDrops := rfl
@[simp] theorem setQuad_clusters : (s.setQuad i v).clusters = s.clusters := rfl
@[simp] theorem setQuad_bank : (s.setQuad i v).bank = s.bank := rfl
@[simp] theorem setQuad_hbm : (s.setQuad i v).hbm = s.hbm := rfl
@[simp] theorem setQuad_hostMem : (s.setQuad i v).hostMem = s.hostMem := rfl
@[simp] theorem setQuad_hostBad : (s.setQuad i v).hostBad = s.hostBad := rfl
@[simp] theorem setQuad_opp : (s.setQuad i v).opp = s.opp := rfl
@[simp] theorem setQuad_groups : (s.setQuad i v).groups = s.groups := rfl
@[simp] theorem setQuad_parcels : (s.setQuad i v).parcels = s.parcels := rfl
@[simp] theorem setQuad_hbmStacks : (s.setQuad i v).hbmStacks = s.hbmStacks := rfl
@[simp] theorem setQuad_stages : (s.setQuad i v).stages = s.stages := rfl
@[simp] theorem setQuad_nextStage : (s.setQuad i v).nextStage = s.nextStage := rfl
@[simp] theorem setQuad_keys : (s.setQuad i v).keys = s.keys := rfl
@[simp] theorem setQuad_keks : (s.setQuad i v).keks = s.keks := rfl
@[simp] theorem setQuad_datum : (s.setQuad i v).datum = s.datum := rfl
@[simp] theorem setQuad_trigIn : (s.setQuad i v).trigIn = s.trigIn := rfl
@[simp] theorem setQuad_trigOut : (s.setQuad i v).trigOut = s.trigOut := rfl
@[simp] theorem setQuad_ppsHigh : (s.setQuad i v).ppsHigh = s.ppsHigh := rfl
@[simp] theorem setQuad_lanes : (s.setQuad i v).lanes = s.lanes := rfl
@[simp] theorem setQuad_bridges : (s.setQuad i v).bridges = s.bridges := rfl
@[simp] theorem setQuad_engines : (s.setQuad i v).engines = s.engines := rfl
@[simp] theorem setQuad_sessions : (s.setQuad i v).sessions = s.sessions := rfl
@[simp] theorem setQuad_hub : (s.setQuad i v).hub = s.hub := rfl
@[simp] theorem setQuad_faults : (s.setQuad i v).faults = s.faults := rfl
@[simp] theorem setQuad_log : (s.setQuad i v).log = s.log := rfl
@[simp] theorem setQuad_flash : (s.setQuad i v).flash = s.flash := rfl
@[simp] theorem setQuad_boot : (s.setQuad i v).boot = s.boot := rfl
@[simp] theorem setQuad_thermal : (s.setQuad i v).thermal = s.thermal := rfl
@[simp] theorem setQuad_net : (s.setQuad i v).net = s.net := rfl
@[simp] theorem setQuad_tap : (s.setQuad i v).tap = s.tap := rfl
@[simp] theorem setQuad_grade : (s.setQuad i v).grade = s.grade := rfl
@[simp] theorem setQuad_factory : (s.setQuad i v).factory = s.factory := rfl
@[simp] theorem setQuad_s2Failed : (s.setQuad i v).s2Failed = s.s2Failed := rfl
@[simp] theorem setQuad_trackMap : (s.setQuad i v).trackMap = s.trackMap := rfl
@[simp] theorem setQuad_freeCtr : (s.setQuad i v).freeCtr = s.freeCtr := rfl
@[simp] theorem setQuad_sent : (s.setQuad i v).sent = s.sent := rfl
end

-- setLane

section
variable (s : State) (i : Nat) (v : Lane)
@[simp] theorem setLane_pending : (s.setLane i v).pending = s.pending := rfl
@[simp] theorem setLane_istore : (s.setLane i v).istore = s.istore := rfl
@[simp] theorem setLane_values : (s.setLane i v).values = s.values := rfl
@[simp] theorem setLane_cur : (s.setLane i v).cur = s.cur := rfl
@[simp] theorem setLane_stg : (s.setLane i v).stg = s.stg := rfl
@[simp] theorem setLane_pend : (s.setLane i v).pend = s.pend := rfl
@[simp] theorem setLane_result : (s.setLane i v).result = s.result := rfl
@[simp] theorem setLane_slots : (s.setLane i v).slots = s.slots := rfl
@[simp] theorem setLane_ptable : (s.setLane i v).ptable = s.ptable := rfl
@[simp] theorem setLane_busyMap : (s.setLane i v).busyMap = s.busyMap := rfl
@[simp] theorem setLane_sendAct : (s.setLane i v).sendAct = s.sendAct := rfl
@[simp] theorem setLane_sendShd : (s.setLane i v).sendShd = s.sendShd := rfl
@[simp] theorem setLane_quadAct : (s.setLane i v).quadAct = s.quadAct := rfl
@[simp] theorem setLane_quadShd : (s.setLane i v).quadShd = s.quadShd := rfl
@[simp] theorem setLane_fetchSnd : (s.setLane i v).fetchSnd = s.fetchSnd := rfl
@[simp] theorem setLane_fetchQd : (s.setLane i v).fetchQd = s.fetchQd := rfl
@[simp] theorem setLane_ecc : (s.setLane i v).ecc = s.ecc := rfl
@[simp] theorem setLane_fences : (s.setLane i v).fences = s.fences := rfl
@[simp] theorem setLane_confOpp : (s.setLane i v).confOpp = s.confOpp := rfl
@[simp] theorem setLane_arrOpp : (s.setLane i v).arrOpp = s.arrOpp := rfl
@[simp] theorem setLane_arrSlots : (s.setLane i v).arrSlots = s.arrSlots := rfl
@[simp] theorem setLane_arrDrops : (s.setLane i v).arrDrops = s.arrDrops := rfl
@[simp] theorem setLane_clusters : (s.setLane i v).clusters = s.clusters := rfl
@[simp] theorem setLane_bank : (s.setLane i v).bank = s.bank := rfl
@[simp] theorem setLane_hbm : (s.setLane i v).hbm = s.hbm := rfl
@[simp] theorem setLane_hostMem : (s.setLane i v).hostMem = s.hostMem := rfl
@[simp] theorem setLane_hostBad : (s.setLane i v).hostBad = s.hostBad := rfl
@[simp] theorem setLane_opp : (s.setLane i v).opp = s.opp := rfl
@[simp] theorem setLane_groups : (s.setLane i v).groups = s.groups := rfl
@[simp] theorem setLane_parcels : (s.setLane i v).parcels = s.parcels := rfl
@[simp] theorem setLane_hbmStacks : (s.setLane i v).hbmStacks = s.hbmStacks := rfl
@[simp] theorem setLane_stages : (s.setLane i v).stages = s.stages := rfl
@[simp] theorem setLane_nextStage : (s.setLane i v).nextStage = s.nextStage := rfl
@[simp] theorem setLane_keys : (s.setLane i v).keys = s.keys := rfl
@[simp] theorem setLane_keks : (s.setLane i v).keks = s.keks := rfl
@[simp] theorem setLane_datum : (s.setLane i v).datum = s.datum := rfl
@[simp] theorem setLane_trigIn : (s.setLane i v).trigIn = s.trigIn := rfl
@[simp] theorem setLane_trigOut : (s.setLane i v).trigOut = s.trigOut := rfl
@[simp] theorem setLane_ppsHigh : (s.setLane i v).ppsHigh = s.ppsHigh := rfl
@[simp] theorem setLane_quads : (s.setLane i v).quads = s.quads := rfl
@[simp] theorem setLane_bridges : (s.setLane i v).bridges = s.bridges := rfl
@[simp] theorem setLane_engines : (s.setLane i v).engines = s.engines := rfl
@[simp] theorem setLane_sessions : (s.setLane i v).sessions = s.sessions := rfl
@[simp] theorem setLane_hub : (s.setLane i v).hub = s.hub := rfl
@[simp] theorem setLane_faults : (s.setLane i v).faults = s.faults := rfl
@[simp] theorem setLane_log : (s.setLane i v).log = s.log := rfl
@[simp] theorem setLane_flash : (s.setLane i v).flash = s.flash := rfl
@[simp] theorem setLane_boot : (s.setLane i v).boot = s.boot := rfl
@[simp] theorem setLane_thermal : (s.setLane i v).thermal = s.thermal := rfl
@[simp] theorem setLane_net : (s.setLane i v).net = s.net := rfl
@[simp] theorem setLane_tap : (s.setLane i v).tap = s.tap := rfl
@[simp] theorem setLane_grade : (s.setLane i v).grade = s.grade := rfl
@[simp] theorem setLane_factory : (s.setLane i v).factory = s.factory := rfl
@[simp] theorem setLane_s2Failed : (s.setLane i v).s2Failed = s.s2Failed := rfl
@[simp] theorem setLane_trackMap : (s.setLane i v).trackMap = s.trackMap := rfl
@[simp] theorem setLane_freeCtr : (s.setLane i v).freeCtr = s.freeCtr := rfl
@[simp] theorem setLane_sent : (s.setLane i v).sent = s.sent := rfl
end

-- setBridge

section
variable (s : State) (i : Nat) (v : Bridge)
@[simp] theorem setBridge_pending : (s.setBridge i v).pending = s.pending := rfl
@[simp] theorem setBridge_istore : (s.setBridge i v).istore = s.istore := rfl
@[simp] theorem setBridge_values : (s.setBridge i v).values = s.values := rfl
@[simp] theorem setBridge_cur : (s.setBridge i v).cur = s.cur := rfl
@[simp] theorem setBridge_stg : (s.setBridge i v).stg = s.stg := rfl
@[simp] theorem setBridge_pend : (s.setBridge i v).pend = s.pend := rfl
@[simp] theorem setBridge_result : (s.setBridge i v).result = s.result := rfl
@[simp] theorem setBridge_slots : (s.setBridge i v).slots = s.slots := rfl
@[simp] theorem setBridge_ptable : (s.setBridge i v).ptable = s.ptable := rfl
@[simp] theorem setBridge_busyMap : (s.setBridge i v).busyMap = s.busyMap := rfl
@[simp] theorem setBridge_sendAct : (s.setBridge i v).sendAct = s.sendAct := rfl
@[simp] theorem setBridge_sendShd : (s.setBridge i v).sendShd = s.sendShd := rfl
@[simp] theorem setBridge_quadAct : (s.setBridge i v).quadAct = s.quadAct := rfl
@[simp] theorem setBridge_quadShd : (s.setBridge i v).quadShd = s.quadShd := rfl
@[simp] theorem setBridge_fetchSnd : (s.setBridge i v).fetchSnd = s.fetchSnd := rfl
@[simp] theorem setBridge_fetchQd : (s.setBridge i v).fetchQd = s.fetchQd := rfl
@[simp] theorem setBridge_ecc : (s.setBridge i v).ecc = s.ecc := rfl
@[simp] theorem setBridge_fences : (s.setBridge i v).fences = s.fences := rfl
@[simp] theorem setBridge_confOpp : (s.setBridge i v).confOpp = s.confOpp := rfl
@[simp] theorem setBridge_arrOpp : (s.setBridge i v).arrOpp = s.arrOpp := rfl
@[simp] theorem setBridge_arrSlots : (s.setBridge i v).arrSlots = s.arrSlots := rfl
@[simp] theorem setBridge_arrDrops : (s.setBridge i v).arrDrops = s.arrDrops := rfl
@[simp] theorem setBridge_clusters : (s.setBridge i v).clusters = s.clusters := rfl
@[simp] theorem setBridge_bank : (s.setBridge i v).bank = s.bank := rfl
@[simp] theorem setBridge_hbm : (s.setBridge i v).hbm = s.hbm := rfl
@[simp] theorem setBridge_hostMem : (s.setBridge i v).hostMem = s.hostMem := rfl
@[simp] theorem setBridge_hostBad : (s.setBridge i v).hostBad = s.hostBad := rfl
@[simp] theorem setBridge_opp : (s.setBridge i v).opp = s.opp := rfl
@[simp] theorem setBridge_groups : (s.setBridge i v).groups = s.groups := rfl
@[simp] theorem setBridge_parcels : (s.setBridge i v).parcels = s.parcels := rfl
@[simp] theorem setBridge_hbmStacks : (s.setBridge i v).hbmStacks = s.hbmStacks := rfl
@[simp] theorem setBridge_stages : (s.setBridge i v).stages = s.stages := rfl
@[simp] theorem setBridge_nextStage : (s.setBridge i v).nextStage = s.nextStage := rfl
@[simp] theorem setBridge_keys : (s.setBridge i v).keys = s.keys := rfl
@[simp] theorem setBridge_keks : (s.setBridge i v).keks = s.keks := rfl
@[simp] theorem setBridge_datum : (s.setBridge i v).datum = s.datum := rfl
@[simp] theorem setBridge_trigIn : (s.setBridge i v).trigIn = s.trigIn := rfl
@[simp] theorem setBridge_trigOut : (s.setBridge i v).trigOut = s.trigOut := rfl
@[simp] theorem setBridge_ppsHigh : (s.setBridge i v).ppsHigh = s.ppsHigh := rfl
@[simp] theorem setBridge_quads : (s.setBridge i v).quads = s.quads := rfl
@[simp] theorem setBridge_lanes : (s.setBridge i v).lanes = s.lanes := rfl
@[simp] theorem setBridge_engines : (s.setBridge i v).engines = s.engines := rfl
@[simp] theorem setBridge_sessions : (s.setBridge i v).sessions = s.sessions := rfl
@[simp] theorem setBridge_hub : (s.setBridge i v).hub = s.hub := rfl
@[simp] theorem setBridge_faults : (s.setBridge i v).faults = s.faults := rfl
@[simp] theorem setBridge_log : (s.setBridge i v).log = s.log := rfl
@[simp] theorem setBridge_flash : (s.setBridge i v).flash = s.flash := rfl
@[simp] theorem setBridge_boot : (s.setBridge i v).boot = s.boot := rfl
@[simp] theorem setBridge_thermal : (s.setBridge i v).thermal = s.thermal := rfl
@[simp] theorem setBridge_net : (s.setBridge i v).net = s.net := rfl
@[simp] theorem setBridge_tap : (s.setBridge i v).tap = s.tap := rfl
@[simp] theorem setBridge_grade : (s.setBridge i v).grade = s.grade := rfl
@[simp] theorem setBridge_factory : (s.setBridge i v).factory = s.factory := rfl
@[simp] theorem setBridge_s2Failed : (s.setBridge i v).s2Failed = s.s2Failed := rfl
@[simp] theorem setBridge_trackMap : (s.setBridge i v).trackMap = s.trackMap := rfl
@[simp] theorem setBridge_freeCtr : (s.setBridge i v).freeCtr = s.freeCtr := rfl
@[simp] theorem setBridge_sent : (s.setBridge i v).sent = s.sent := rfl
end

-- setEngine

section
variable (s : State) (i : Nat) (v : Engine)
@[simp] theorem setEngine_pending : (s.setEngine i v).pending = s.pending := rfl
@[simp] theorem setEngine_istore : (s.setEngine i v).istore = s.istore := rfl
@[simp] theorem setEngine_values : (s.setEngine i v).values = s.values := rfl
@[simp] theorem setEngine_cur : (s.setEngine i v).cur = s.cur := rfl
@[simp] theorem setEngine_stg : (s.setEngine i v).stg = s.stg := rfl
@[simp] theorem setEngine_pend : (s.setEngine i v).pend = s.pend := rfl
@[simp] theorem setEngine_result : (s.setEngine i v).result = s.result := rfl
@[simp] theorem setEngine_slots : (s.setEngine i v).slots = s.slots := rfl
@[simp] theorem setEngine_ptable : (s.setEngine i v).ptable = s.ptable := rfl
@[simp] theorem setEngine_busyMap : (s.setEngine i v).busyMap = s.busyMap := rfl
@[simp] theorem setEngine_sendAct : (s.setEngine i v).sendAct = s.sendAct := rfl
@[simp] theorem setEngine_sendShd : (s.setEngine i v).sendShd = s.sendShd := rfl
@[simp] theorem setEngine_quadAct : (s.setEngine i v).quadAct = s.quadAct := rfl
@[simp] theorem setEngine_quadShd : (s.setEngine i v).quadShd = s.quadShd := rfl
@[simp] theorem setEngine_fetchSnd : (s.setEngine i v).fetchSnd = s.fetchSnd := rfl
@[simp] theorem setEngine_fetchQd : (s.setEngine i v).fetchQd = s.fetchQd := rfl
@[simp] theorem setEngine_ecc : (s.setEngine i v).ecc = s.ecc := rfl
@[simp] theorem setEngine_fences : (s.setEngine i v).fences = s.fences := rfl
@[simp] theorem setEngine_confOpp : (s.setEngine i v).confOpp = s.confOpp := rfl
@[simp] theorem setEngine_arrOpp : (s.setEngine i v).arrOpp = s.arrOpp := rfl
@[simp] theorem setEngine_arrSlots : (s.setEngine i v).arrSlots = s.arrSlots := rfl
@[simp] theorem setEngine_arrDrops : (s.setEngine i v).arrDrops = s.arrDrops := rfl
@[simp] theorem setEngine_clusters : (s.setEngine i v).clusters = s.clusters := rfl
@[simp] theorem setEngine_bank : (s.setEngine i v).bank = s.bank := rfl
@[simp] theorem setEngine_hbm : (s.setEngine i v).hbm = s.hbm := rfl
@[simp] theorem setEngine_hostMem : (s.setEngine i v).hostMem = s.hostMem := rfl
@[simp] theorem setEngine_hostBad : (s.setEngine i v).hostBad = s.hostBad := rfl
@[simp] theorem setEngine_opp : (s.setEngine i v).opp = s.opp := rfl
@[simp] theorem setEngine_groups : (s.setEngine i v).groups = s.groups := rfl
@[simp] theorem setEngine_parcels : (s.setEngine i v).parcels = s.parcels := rfl
@[simp] theorem setEngine_hbmStacks : (s.setEngine i v).hbmStacks = s.hbmStacks := rfl
@[simp] theorem setEngine_stages : (s.setEngine i v).stages = s.stages := rfl
@[simp] theorem setEngine_nextStage : (s.setEngine i v).nextStage = s.nextStage := rfl
@[simp] theorem setEngine_keys : (s.setEngine i v).keys = s.keys := rfl
@[simp] theorem setEngine_keks : (s.setEngine i v).keks = s.keks := rfl
@[simp] theorem setEngine_datum : (s.setEngine i v).datum = s.datum := rfl
@[simp] theorem setEngine_trigIn : (s.setEngine i v).trigIn = s.trigIn := rfl
@[simp] theorem setEngine_trigOut : (s.setEngine i v).trigOut = s.trigOut := rfl
@[simp] theorem setEngine_ppsHigh : (s.setEngine i v).ppsHigh = s.ppsHigh := rfl
@[simp] theorem setEngine_quads : (s.setEngine i v).quads = s.quads := rfl
@[simp] theorem setEngine_lanes : (s.setEngine i v).lanes = s.lanes := rfl
@[simp] theorem setEngine_bridges : (s.setEngine i v).bridges = s.bridges := rfl
@[simp] theorem setEngine_sessions : (s.setEngine i v).sessions = s.sessions := rfl
@[simp] theorem setEngine_hub : (s.setEngine i v).hub = s.hub := rfl
@[simp] theorem setEngine_faults : (s.setEngine i v).faults = s.faults := rfl
@[simp] theorem setEngine_log : (s.setEngine i v).log = s.log := rfl
@[simp] theorem setEngine_flash : (s.setEngine i v).flash = s.flash := rfl
@[simp] theorem setEngine_boot : (s.setEngine i v).boot = s.boot := rfl
@[simp] theorem setEngine_thermal : (s.setEngine i v).thermal = s.thermal := rfl
@[simp] theorem setEngine_net : (s.setEngine i v).net = s.net := rfl
@[simp] theorem setEngine_tap : (s.setEngine i v).tap = s.tap := rfl
@[simp] theorem setEngine_grade : (s.setEngine i v).grade = s.grade := rfl
@[simp] theorem setEngine_factory : (s.setEngine i v).factory = s.factory := rfl
@[simp] theorem setEngine_s2Failed : (s.setEngine i v).s2Failed = s.s2Failed := rfl
@[simp] theorem setEngine_trackMap : (s.setEngine i v).trackMap = s.trackMap := rfl
@[simp] theorem setEngine_freeCtr : (s.setEngine i v).freeCtr = s.freeCtr := rfl
@[simp] theorem setEngine_sent : (s.setEngine i v).sent = s.sent := rfl
end

-- setSess

section
variable (s : State) (i : Nat) (v : Session)
@[simp] theorem setSess_pending : (s.setSess i v).pending = s.pending := rfl
@[simp] theorem setSess_istore : (s.setSess i v).istore = s.istore := rfl
@[simp] theorem setSess_values : (s.setSess i v).values = s.values := rfl
@[simp] theorem setSess_cur : (s.setSess i v).cur = s.cur := rfl
@[simp] theorem setSess_stg : (s.setSess i v).stg = s.stg := rfl
@[simp] theorem setSess_pend : (s.setSess i v).pend = s.pend := rfl
@[simp] theorem setSess_result : (s.setSess i v).result = s.result := rfl
@[simp] theorem setSess_slots : (s.setSess i v).slots = s.slots := rfl
@[simp] theorem setSess_ptable : (s.setSess i v).ptable = s.ptable := rfl
@[simp] theorem setSess_busyMap : (s.setSess i v).busyMap = s.busyMap := rfl
@[simp] theorem setSess_sendAct : (s.setSess i v).sendAct = s.sendAct := rfl
@[simp] theorem setSess_sendShd : (s.setSess i v).sendShd = s.sendShd := rfl
@[simp] theorem setSess_quadAct : (s.setSess i v).quadAct = s.quadAct := rfl
@[simp] theorem setSess_quadShd : (s.setSess i v).quadShd = s.quadShd := rfl
@[simp] theorem setSess_fetchSnd : (s.setSess i v).fetchSnd = s.fetchSnd := rfl
@[simp] theorem setSess_fetchQd : (s.setSess i v).fetchQd = s.fetchQd := rfl
@[simp] theorem setSess_ecc : (s.setSess i v).ecc = s.ecc := rfl
@[simp] theorem setSess_fences : (s.setSess i v).fences = s.fences := rfl
@[simp] theorem setSess_confOpp : (s.setSess i v).confOpp = s.confOpp := rfl
@[simp] theorem setSess_arrOpp : (s.setSess i v).arrOpp = s.arrOpp := rfl
@[simp] theorem setSess_arrSlots : (s.setSess i v).arrSlots = s.arrSlots := rfl
@[simp] theorem setSess_arrDrops : (s.setSess i v).arrDrops = s.arrDrops := rfl
@[simp] theorem setSess_clusters : (s.setSess i v).clusters = s.clusters := rfl
@[simp] theorem setSess_bank : (s.setSess i v).bank = s.bank := rfl
@[simp] theorem setSess_hbm : (s.setSess i v).hbm = s.hbm := rfl
@[simp] theorem setSess_hostMem : (s.setSess i v).hostMem = s.hostMem := rfl
@[simp] theorem setSess_hostBad : (s.setSess i v).hostBad = s.hostBad := rfl
@[simp] theorem setSess_opp : (s.setSess i v).opp = s.opp := rfl
@[simp] theorem setSess_groups : (s.setSess i v).groups = s.groups := rfl
@[simp] theorem setSess_parcels : (s.setSess i v).parcels = s.parcels := rfl
@[simp] theorem setSess_hbmStacks : (s.setSess i v).hbmStacks = s.hbmStacks := rfl
@[simp] theorem setSess_stages : (s.setSess i v).stages = s.stages := rfl
@[simp] theorem setSess_nextStage : (s.setSess i v).nextStage = s.nextStage := rfl
@[simp] theorem setSess_keys : (s.setSess i v).keys = s.keys := rfl
@[simp] theorem setSess_keks : (s.setSess i v).keks = s.keks := rfl
@[simp] theorem setSess_datum : (s.setSess i v).datum = s.datum := rfl
@[simp] theorem setSess_trigIn : (s.setSess i v).trigIn = s.trigIn := rfl
@[simp] theorem setSess_trigOut : (s.setSess i v).trigOut = s.trigOut := rfl
@[simp] theorem setSess_ppsHigh : (s.setSess i v).ppsHigh = s.ppsHigh := rfl
@[simp] theorem setSess_quads : (s.setSess i v).quads = s.quads := rfl
@[simp] theorem setSess_lanes : (s.setSess i v).lanes = s.lanes := rfl
@[simp] theorem setSess_bridges : (s.setSess i v).bridges = s.bridges := rfl
@[simp] theorem setSess_engines : (s.setSess i v).engines = s.engines := rfl
@[simp] theorem setSess_hub : (s.setSess i v).hub = s.hub := rfl
@[simp] theorem setSess_faults : (s.setSess i v).faults = s.faults := rfl
@[simp] theorem setSess_log : (s.setSess i v).log = s.log := rfl
@[simp] theorem setSess_flash : (s.setSess i v).flash = s.flash := rfl
@[simp] theorem setSess_boot : (s.setSess i v).boot = s.boot := rfl
@[simp] theorem setSess_thermal : (s.setSess i v).thermal = s.thermal := rfl
@[simp] theorem setSess_net : (s.setSess i v).net = s.net := rfl
@[simp] theorem setSess_tap : (s.setSess i v).tap = s.tap := rfl
@[simp] theorem setSess_grade : (s.setSess i v).grade = s.grade := rfl
@[simp] theorem setSess_factory : (s.setSess i v).factory = s.factory := rfl
@[simp] theorem setSess_s2Failed : (s.setSess i v).s2Failed = s.s2Failed := rfl
@[simp] theorem setSess_trackMap : (s.setSess i v).trackMap = s.trackMap := rfl
@[simp] theorem setSess_freeCtr : (s.setSess i v).freeCtr = s.freeCtr := rfl
@[simp] theorem setSess_sent : (s.setSess i v).sent = s.sent := rfl
end

-- setTrigIn

section
variable (s : State) (i : Nat) (v : TrigPin)
@[simp] theorem setTrigIn_pending : (s.setTrigIn i v).pending = s.pending := rfl
@[simp] theorem setTrigIn_istore : (s.setTrigIn i v).istore = s.istore := rfl
@[simp] theorem setTrigIn_values : (s.setTrigIn i v).values = s.values := rfl
@[simp] theorem setTrigIn_cur : (s.setTrigIn i v).cur = s.cur := rfl
@[simp] theorem setTrigIn_stg : (s.setTrigIn i v).stg = s.stg := rfl
@[simp] theorem setTrigIn_pend : (s.setTrigIn i v).pend = s.pend := rfl
@[simp] theorem setTrigIn_result : (s.setTrigIn i v).result = s.result := rfl
@[simp] theorem setTrigIn_slots : (s.setTrigIn i v).slots = s.slots := rfl
@[simp] theorem setTrigIn_ptable : (s.setTrigIn i v).ptable = s.ptable := rfl
@[simp] theorem setTrigIn_busyMap : (s.setTrigIn i v).busyMap = s.busyMap := rfl
@[simp] theorem setTrigIn_sendAct : (s.setTrigIn i v).sendAct = s.sendAct := rfl
@[simp] theorem setTrigIn_sendShd : (s.setTrigIn i v).sendShd = s.sendShd := rfl
@[simp] theorem setTrigIn_quadAct : (s.setTrigIn i v).quadAct = s.quadAct := rfl
@[simp] theorem setTrigIn_quadShd : (s.setTrigIn i v).quadShd = s.quadShd := rfl
@[simp] theorem setTrigIn_fetchSnd : (s.setTrigIn i v).fetchSnd = s.fetchSnd := rfl
@[simp] theorem setTrigIn_fetchQd : (s.setTrigIn i v).fetchQd = s.fetchQd := rfl
@[simp] theorem setTrigIn_ecc : (s.setTrigIn i v).ecc = s.ecc := rfl
@[simp] theorem setTrigIn_fences : (s.setTrigIn i v).fences = s.fences := rfl
@[simp] theorem setTrigIn_confOpp : (s.setTrigIn i v).confOpp = s.confOpp := rfl
@[simp] theorem setTrigIn_arrOpp : (s.setTrigIn i v).arrOpp = s.arrOpp := rfl
@[simp] theorem setTrigIn_arrSlots : (s.setTrigIn i v).arrSlots = s.arrSlots := rfl
@[simp] theorem setTrigIn_arrDrops : (s.setTrigIn i v).arrDrops = s.arrDrops := rfl
@[simp] theorem setTrigIn_clusters : (s.setTrigIn i v).clusters = s.clusters := rfl
@[simp] theorem setTrigIn_bank : (s.setTrigIn i v).bank = s.bank := rfl
@[simp] theorem setTrigIn_hbm : (s.setTrigIn i v).hbm = s.hbm := rfl
@[simp] theorem setTrigIn_hostMem : (s.setTrigIn i v).hostMem = s.hostMem := rfl
@[simp] theorem setTrigIn_hostBad : (s.setTrigIn i v).hostBad = s.hostBad := rfl
@[simp] theorem setTrigIn_opp : (s.setTrigIn i v).opp = s.opp := rfl
@[simp] theorem setTrigIn_groups : (s.setTrigIn i v).groups = s.groups := rfl
@[simp] theorem setTrigIn_parcels : (s.setTrigIn i v).parcels = s.parcels := rfl
@[simp] theorem setTrigIn_hbmStacks : (s.setTrigIn i v).hbmStacks = s.hbmStacks := rfl
@[simp] theorem setTrigIn_stages : (s.setTrigIn i v).stages = s.stages := rfl
@[simp] theorem setTrigIn_nextStage : (s.setTrigIn i v).nextStage = s.nextStage := rfl
@[simp] theorem setTrigIn_keys : (s.setTrigIn i v).keys = s.keys := rfl
@[simp] theorem setTrigIn_keks : (s.setTrigIn i v).keks = s.keks := rfl
@[simp] theorem setTrigIn_datum : (s.setTrigIn i v).datum = s.datum := rfl
@[simp] theorem setTrigIn_trigOut : (s.setTrigIn i v).trigOut = s.trigOut := rfl
@[simp] theorem setTrigIn_ppsHigh : (s.setTrigIn i v).ppsHigh = s.ppsHigh := rfl
@[simp] theorem setTrigIn_quads : (s.setTrigIn i v).quads = s.quads := rfl
@[simp] theorem setTrigIn_lanes : (s.setTrigIn i v).lanes = s.lanes := rfl
@[simp] theorem setTrigIn_bridges : (s.setTrigIn i v).bridges = s.bridges := rfl
@[simp] theorem setTrigIn_engines : (s.setTrigIn i v).engines = s.engines := rfl
@[simp] theorem setTrigIn_sessions : (s.setTrigIn i v).sessions = s.sessions := rfl
@[simp] theorem setTrigIn_hub : (s.setTrigIn i v).hub = s.hub := rfl
@[simp] theorem setTrigIn_faults : (s.setTrigIn i v).faults = s.faults := rfl
@[simp] theorem setTrigIn_log : (s.setTrigIn i v).log = s.log := rfl
@[simp] theorem setTrigIn_flash : (s.setTrigIn i v).flash = s.flash := rfl
@[simp] theorem setTrigIn_boot : (s.setTrigIn i v).boot = s.boot := rfl
@[simp] theorem setTrigIn_thermal : (s.setTrigIn i v).thermal = s.thermal := rfl
@[simp] theorem setTrigIn_net : (s.setTrigIn i v).net = s.net := rfl
@[simp] theorem setTrigIn_tap : (s.setTrigIn i v).tap = s.tap := rfl
@[simp] theorem setTrigIn_grade : (s.setTrigIn i v).grade = s.grade := rfl
@[simp] theorem setTrigIn_factory : (s.setTrigIn i v).factory = s.factory := rfl
@[simp] theorem setTrigIn_s2Failed : (s.setTrigIn i v).s2Failed = s.s2Failed := rfl
@[simp] theorem setTrigIn_trackMap : (s.setTrigIn i v).trackMap = s.trackMap := rfl
@[simp] theorem setTrigIn_freeCtr : (s.setTrigIn i v).freeCtr = s.freeCtr := rfl
@[simp] theorem setTrigIn_sent : (s.setTrigIn i v).sent = s.sent := rfl
end

-- setTrigOut

section
variable (s : State) (i : Nat) (v : TrigPin)
@[simp] theorem setTrigOut_pending : (s.setTrigOut i v).pending = s.pending := rfl
@[simp] theorem setTrigOut_istore : (s.setTrigOut i v).istore = s.istore := rfl
@[simp] theorem setTrigOut_values : (s.setTrigOut i v).values = s.values := rfl
@[simp] theorem setTrigOut_cur : (s.setTrigOut i v).cur = s.cur := rfl
@[simp] theorem setTrigOut_stg : (s.setTrigOut i v).stg = s.stg := rfl
@[simp] theorem setTrigOut_pend : (s.setTrigOut i v).pend = s.pend := rfl
@[simp] theorem setTrigOut_result : (s.setTrigOut i v).result = s.result := rfl
@[simp] theorem setTrigOut_slots : (s.setTrigOut i v).slots = s.slots := rfl
@[simp] theorem setTrigOut_ptable : (s.setTrigOut i v).ptable = s.ptable := rfl
@[simp] theorem setTrigOut_busyMap : (s.setTrigOut i v).busyMap = s.busyMap := rfl
@[simp] theorem setTrigOut_sendAct : (s.setTrigOut i v).sendAct = s.sendAct := rfl
@[simp] theorem setTrigOut_sendShd : (s.setTrigOut i v).sendShd = s.sendShd := rfl
@[simp] theorem setTrigOut_quadAct : (s.setTrigOut i v).quadAct = s.quadAct := rfl
@[simp] theorem setTrigOut_quadShd : (s.setTrigOut i v).quadShd = s.quadShd := rfl
@[simp] theorem setTrigOut_fetchSnd : (s.setTrigOut i v).fetchSnd = s.fetchSnd := rfl
@[simp] theorem setTrigOut_fetchQd : (s.setTrigOut i v).fetchQd = s.fetchQd := rfl
@[simp] theorem setTrigOut_ecc : (s.setTrigOut i v).ecc = s.ecc := rfl
@[simp] theorem setTrigOut_fences : (s.setTrigOut i v).fences = s.fences := rfl
@[simp] theorem setTrigOut_confOpp : (s.setTrigOut i v).confOpp = s.confOpp := rfl
@[simp] theorem setTrigOut_arrOpp : (s.setTrigOut i v).arrOpp = s.arrOpp := rfl
@[simp] theorem setTrigOut_arrSlots : (s.setTrigOut i v).arrSlots = s.arrSlots := rfl
@[simp] theorem setTrigOut_arrDrops : (s.setTrigOut i v).arrDrops = s.arrDrops := rfl
@[simp] theorem setTrigOut_clusters : (s.setTrigOut i v).clusters = s.clusters := rfl
@[simp] theorem setTrigOut_bank : (s.setTrigOut i v).bank = s.bank := rfl
@[simp] theorem setTrigOut_hbm : (s.setTrigOut i v).hbm = s.hbm := rfl
@[simp] theorem setTrigOut_hostMem : (s.setTrigOut i v).hostMem = s.hostMem := rfl
@[simp] theorem setTrigOut_hostBad : (s.setTrigOut i v).hostBad = s.hostBad := rfl
@[simp] theorem setTrigOut_opp : (s.setTrigOut i v).opp = s.opp := rfl
@[simp] theorem setTrigOut_groups : (s.setTrigOut i v).groups = s.groups := rfl
@[simp] theorem setTrigOut_parcels : (s.setTrigOut i v).parcels = s.parcels := rfl
@[simp] theorem setTrigOut_hbmStacks : (s.setTrigOut i v).hbmStacks = s.hbmStacks := rfl
@[simp] theorem setTrigOut_stages : (s.setTrigOut i v).stages = s.stages := rfl
@[simp] theorem setTrigOut_nextStage : (s.setTrigOut i v).nextStage = s.nextStage := rfl
@[simp] theorem setTrigOut_keys : (s.setTrigOut i v).keys = s.keys := rfl
@[simp] theorem setTrigOut_keks : (s.setTrigOut i v).keks = s.keks := rfl
@[simp] theorem setTrigOut_datum : (s.setTrigOut i v).datum = s.datum := rfl
@[simp] theorem setTrigOut_trigIn : (s.setTrigOut i v).trigIn = s.trigIn := rfl
@[simp] theorem setTrigOut_ppsHigh : (s.setTrigOut i v).ppsHigh = s.ppsHigh := rfl
@[simp] theorem setTrigOut_quads : (s.setTrigOut i v).quads = s.quads := rfl
@[simp] theorem setTrigOut_lanes : (s.setTrigOut i v).lanes = s.lanes := rfl
@[simp] theorem setTrigOut_bridges : (s.setTrigOut i v).bridges = s.bridges := rfl
@[simp] theorem setTrigOut_engines : (s.setTrigOut i v).engines = s.engines := rfl
@[simp] theorem setTrigOut_sessions : (s.setTrigOut i v).sessions = s.sessions := rfl
@[simp] theorem setTrigOut_hub : (s.setTrigOut i v).hub = s.hub := rfl
@[simp] theorem setTrigOut_faults : (s.setTrigOut i v).faults = s.faults := rfl
@[simp] theorem setTrigOut_log : (s.setTrigOut i v).log = s.log := rfl
@[simp] theorem setTrigOut_flash : (s.setTrigOut i v).flash = s.flash := rfl
@[simp] theorem setTrigOut_boot : (s.setTrigOut i v).boot = s.boot := rfl
@[simp] theorem setTrigOut_thermal : (s.setTrigOut i v).thermal = s.thermal := rfl
@[simp] theorem setTrigOut_net : (s.setTrigOut i v).net = s.net := rfl
@[simp] theorem setTrigOut_tap : (s.setTrigOut i v).tap = s.tap := rfl
@[simp] theorem setTrigOut_grade : (s.setTrigOut i v).grade = s.grade := rfl
@[simp] theorem setTrigOut_factory : (s.setTrigOut i v).factory = s.factory := rfl
@[simp] theorem setTrigOut_s2Failed : (s.setTrigOut i v).s2Failed = s.s2Failed := rfl
@[simp] theorem setTrigOut_trackMap : (s.setTrigOut i v).trackMap = s.trackMap := rfl
@[simp] theorem setTrigOut_freeCtr : (s.setTrigOut i v).freeCtr = s.freeCtr := rfl
@[simp] theorem setTrigOut_sent : (s.setTrigOut i v).sent = s.sent := rfl
end

-- setFaultRec

section
variable (s : State) (i : Nat) (v : Option FaultRec)
@[simp] theorem setFaultRec_pending : (s.setFaultRec i v).pending = s.pending := rfl
@[simp] theorem setFaultRec_istore : (s.setFaultRec i v).istore = s.istore := rfl
@[simp] theorem setFaultRec_values : (s.setFaultRec i v).values = s.values := rfl
@[simp] theorem setFaultRec_cur : (s.setFaultRec i v).cur = s.cur := rfl
@[simp] theorem setFaultRec_stg : (s.setFaultRec i v).stg = s.stg := rfl
@[simp] theorem setFaultRec_pend : (s.setFaultRec i v).pend = s.pend := rfl
@[simp] theorem setFaultRec_result : (s.setFaultRec i v).result = s.result := rfl
@[simp] theorem setFaultRec_slots : (s.setFaultRec i v).slots = s.slots := rfl
@[simp] theorem setFaultRec_ptable : (s.setFaultRec i v).ptable = s.ptable := rfl
@[simp] theorem setFaultRec_busyMap : (s.setFaultRec i v).busyMap = s.busyMap := rfl
@[simp] theorem setFaultRec_sendAct : (s.setFaultRec i v).sendAct = s.sendAct := rfl
@[simp] theorem setFaultRec_sendShd : (s.setFaultRec i v).sendShd = s.sendShd := rfl
@[simp] theorem setFaultRec_quadAct : (s.setFaultRec i v).quadAct = s.quadAct := rfl
@[simp] theorem setFaultRec_quadShd : (s.setFaultRec i v).quadShd = s.quadShd := rfl
@[simp] theorem setFaultRec_fetchSnd : (s.setFaultRec i v).fetchSnd = s.fetchSnd := rfl
@[simp] theorem setFaultRec_fetchQd : (s.setFaultRec i v).fetchQd = s.fetchQd := rfl
@[simp] theorem setFaultRec_ecc : (s.setFaultRec i v).ecc = s.ecc := rfl
@[simp] theorem setFaultRec_fences : (s.setFaultRec i v).fences = s.fences := rfl
@[simp] theorem setFaultRec_confOpp : (s.setFaultRec i v).confOpp = s.confOpp := rfl
@[simp] theorem setFaultRec_arrOpp : (s.setFaultRec i v).arrOpp = s.arrOpp := rfl
@[simp] theorem setFaultRec_arrSlots : (s.setFaultRec i v).arrSlots = s.arrSlots := rfl
@[simp] theorem setFaultRec_arrDrops : (s.setFaultRec i v).arrDrops = s.arrDrops := rfl
@[simp] theorem setFaultRec_clusters : (s.setFaultRec i v).clusters = s.clusters := rfl
@[simp] theorem setFaultRec_bank : (s.setFaultRec i v).bank = s.bank := rfl
@[simp] theorem setFaultRec_hbm : (s.setFaultRec i v).hbm = s.hbm := rfl
@[simp] theorem setFaultRec_hostMem : (s.setFaultRec i v).hostMem = s.hostMem := rfl
@[simp] theorem setFaultRec_hostBad : (s.setFaultRec i v).hostBad = s.hostBad := rfl
@[simp] theorem setFaultRec_opp : (s.setFaultRec i v).opp = s.opp := rfl
@[simp] theorem setFaultRec_groups : (s.setFaultRec i v).groups = s.groups := rfl
@[simp] theorem setFaultRec_parcels : (s.setFaultRec i v).parcels = s.parcels := rfl
@[simp] theorem setFaultRec_hbmStacks : (s.setFaultRec i v).hbmStacks = s.hbmStacks := rfl
@[simp] theorem setFaultRec_stages : (s.setFaultRec i v).stages = s.stages := rfl
@[simp] theorem setFaultRec_nextStage : (s.setFaultRec i v).nextStage = s.nextStage := rfl
@[simp] theorem setFaultRec_keys : (s.setFaultRec i v).keys = s.keys := rfl
@[simp] theorem setFaultRec_keks : (s.setFaultRec i v).keks = s.keks := rfl
@[simp] theorem setFaultRec_datum : (s.setFaultRec i v).datum = s.datum := rfl
@[simp] theorem setFaultRec_trigIn : (s.setFaultRec i v).trigIn = s.trigIn := rfl
@[simp] theorem setFaultRec_trigOut : (s.setFaultRec i v).trigOut = s.trigOut := rfl
@[simp] theorem setFaultRec_ppsHigh : (s.setFaultRec i v).ppsHigh = s.ppsHigh := rfl
@[simp] theorem setFaultRec_quads : (s.setFaultRec i v).quads = s.quads := rfl
@[simp] theorem setFaultRec_lanes : (s.setFaultRec i v).lanes = s.lanes := rfl
@[simp] theorem setFaultRec_bridges : (s.setFaultRec i v).bridges = s.bridges := rfl
@[simp] theorem setFaultRec_engines : (s.setFaultRec i v).engines = s.engines := rfl
@[simp] theorem setFaultRec_sessions : (s.setFaultRec i v).sessions = s.sessions := rfl
@[simp] theorem setFaultRec_hub : (s.setFaultRec i v).hub = s.hub := rfl
@[simp] theorem setFaultRec_log : (s.setFaultRec i v).log = s.log := rfl
@[simp] theorem setFaultRec_flash : (s.setFaultRec i v).flash = s.flash := rfl
@[simp] theorem setFaultRec_boot : (s.setFaultRec i v).boot = s.boot := rfl
@[simp] theorem setFaultRec_thermal : (s.setFaultRec i v).thermal = s.thermal := rfl
@[simp] theorem setFaultRec_net : (s.setFaultRec i v).net = s.net := rfl
@[simp] theorem setFaultRec_tap : (s.setFaultRec i v).tap = s.tap := rfl
@[simp] theorem setFaultRec_grade : (s.setFaultRec i v).grade = s.grade := rfl
@[simp] theorem setFaultRec_factory : (s.setFaultRec i v).factory = s.factory := rfl
@[simp] theorem setFaultRec_s2Failed : (s.setFaultRec i v).s2Failed = s.s2Failed := rfl
@[simp] theorem setFaultRec_trackMap : (s.setFaultRec i v).trackMap = s.trackMap := rfl
@[simp] theorem setFaultRec_freeCtr : (s.setFaultRec i v).freeCtr = s.freeCtr := rfl
@[simp] theorem setFaultRec_sent : (s.setFaultRec i v).sent = s.sent := rfl
end

-- setLockUnit

section
variable (s : State) (i : Nat) (v : LockUnit)
@[simp] theorem setLockUnit_pending : (s.setLockUnit i v).pending = s.pending := rfl
@[simp] theorem setLockUnit_istore : (s.setLockUnit i v).istore = s.istore := rfl
@[simp] theorem setLockUnit_values : (s.setLockUnit i v).values = s.values := rfl
@[simp] theorem setLockUnit_cur : (s.setLockUnit i v).cur = s.cur := rfl
@[simp] theorem setLockUnit_stg : (s.setLockUnit i v).stg = s.stg := rfl
@[simp] theorem setLockUnit_pend : (s.setLockUnit i v).pend = s.pend := rfl
@[simp] theorem setLockUnit_result : (s.setLockUnit i v).result = s.result := rfl
@[simp] theorem setLockUnit_slots : (s.setLockUnit i v).slots = s.slots := rfl
@[simp] theorem setLockUnit_ptable : (s.setLockUnit i v).ptable = s.ptable := rfl
@[simp] theorem setLockUnit_busyMap : (s.setLockUnit i v).busyMap = s.busyMap := rfl
@[simp] theorem setLockUnit_sendAct : (s.setLockUnit i v).sendAct = s.sendAct := rfl
@[simp] theorem setLockUnit_sendShd : (s.setLockUnit i v).sendShd = s.sendShd := rfl
@[simp] theorem setLockUnit_quadAct : (s.setLockUnit i v).quadAct = s.quadAct := rfl
@[simp] theorem setLockUnit_quadShd : (s.setLockUnit i v).quadShd = s.quadShd := rfl
@[simp] theorem setLockUnit_fetchSnd : (s.setLockUnit i v).fetchSnd = s.fetchSnd := rfl
@[simp] theorem setLockUnit_fetchQd : (s.setLockUnit i v).fetchQd = s.fetchQd := rfl
@[simp] theorem setLockUnit_ecc : (s.setLockUnit i v).ecc = s.ecc := rfl
@[simp] theorem setLockUnit_fences : (s.setLockUnit i v).fences = s.fences := rfl
@[simp] theorem setLockUnit_confOpp : (s.setLockUnit i v).confOpp = s.confOpp := rfl
@[simp] theorem setLockUnit_arrOpp : (s.setLockUnit i v).arrOpp = s.arrOpp := rfl
@[simp] theorem setLockUnit_arrSlots : (s.setLockUnit i v).arrSlots = s.arrSlots := rfl
@[simp] theorem setLockUnit_arrDrops : (s.setLockUnit i v).arrDrops = s.arrDrops := rfl
@[simp] theorem setLockUnit_clusters : (s.setLockUnit i v).clusters = s.clusters := rfl
@[simp] theorem setLockUnit_bank : (s.setLockUnit i v).bank = s.bank := rfl
@[simp] theorem setLockUnit_hbm : (s.setLockUnit i v).hbm = s.hbm := rfl
@[simp] theorem setLockUnit_hostMem : (s.setLockUnit i v).hostMem = s.hostMem := rfl
@[simp] theorem setLockUnit_hostBad : (s.setLockUnit i v).hostBad = s.hostBad := rfl
@[simp] theorem setLockUnit_opp : (s.setLockUnit i v).opp = s.opp := rfl
@[simp] theorem setLockUnit_groups : (s.setLockUnit i v).groups = s.groups := rfl
@[simp] theorem setLockUnit_parcels : (s.setLockUnit i v).parcels = s.parcels := rfl
@[simp] theorem setLockUnit_hbmStacks : (s.setLockUnit i v).hbmStacks = s.hbmStacks := rfl
@[simp] theorem setLockUnit_stages : (s.setLockUnit i v).stages = s.stages := rfl
@[simp] theorem setLockUnit_nextStage : (s.setLockUnit i v).nextStage = s.nextStage := rfl
@[simp] theorem setLockUnit_keys : (s.setLockUnit i v).keys = s.keys := rfl
@[simp] theorem setLockUnit_keks : (s.setLockUnit i v).keks = s.keks := rfl
@[simp] theorem setLockUnit_datum : (s.setLockUnit i v).datum = s.datum := rfl
@[simp] theorem setLockUnit_trigIn : (s.setLockUnit i v).trigIn = s.trigIn := rfl
@[simp] theorem setLockUnit_trigOut : (s.setLockUnit i v).trigOut = s.trigOut := rfl
@[simp] theorem setLockUnit_ppsHigh : (s.setLockUnit i v).ppsHigh = s.ppsHigh := rfl
@[simp] theorem setLockUnit_quads : (s.setLockUnit i v).quads = s.quads := rfl
@[simp] theorem setLockUnit_lanes : (s.setLockUnit i v).lanes = s.lanes := rfl
@[simp] theorem setLockUnit_bridges : (s.setLockUnit i v).bridges = s.bridges := rfl
@[simp] theorem setLockUnit_engines : (s.setLockUnit i v).engines = s.engines := rfl
@[simp] theorem setLockUnit_sessions : (s.setLockUnit i v).sessions = s.sessions := rfl
@[simp] theorem setLockUnit_faults : (s.setLockUnit i v).faults = s.faults := rfl
@[simp] theorem setLockUnit_log : (s.setLockUnit i v).log = s.log := rfl
@[simp] theorem setLockUnit_flash : (s.setLockUnit i v).flash = s.flash := rfl
@[simp] theorem setLockUnit_boot : (s.setLockUnit i v).boot = s.boot := rfl
@[simp] theorem setLockUnit_thermal : (s.setLockUnit i v).thermal = s.thermal := rfl
@[simp] theorem setLockUnit_net : (s.setLockUnit i v).net = s.net := rfl
@[simp] theorem setLockUnit_tap : (s.setLockUnit i v).tap = s.tap := rfl
@[simp] theorem setLockUnit_grade : (s.setLockUnit i v).grade = s.grade := rfl
@[simp] theorem setLockUnit_factory : (s.setLockUnit i v).factory = s.factory := rfl
@[simp] theorem setLockUnit_s2Failed : (s.setLockUnit i v).s2Failed = s.s2Failed := rfl
@[simp] theorem setLockUnit_trackMap : (s.setLockUnit i v).trackMap = s.trackMap := rfl
@[simp] theorem setLockUnit_freeCtr : (s.setLockUnit i v).freeCtr = s.freeCtr := rfl
@[simp] theorem setLockUnit_sent : (s.setLockUnit i v).sent = s.sent := rfl
end

-- setHub

section
variable (s : State) (v : Hub)
@[simp] theorem setHub_pending : (s.setHub v).pending = s.pending := rfl
@[simp] theorem setHub_istore : (s.setHub v).istore = s.istore := rfl
@[simp] theorem setHub_values : (s.setHub v).values = s.values := rfl
@[simp] theorem setHub_cur : (s.setHub v).cur = s.cur := rfl
@[simp] theorem setHub_stg : (s.setHub v).stg = s.stg := rfl
@[simp] theorem setHub_pend : (s.setHub v).pend = s.pend := rfl
@[simp] theorem setHub_result : (s.setHub v).result = s.result := rfl
@[simp] theorem setHub_slots : (s.setHub v).slots = s.slots := rfl
@[simp] theorem setHub_ptable : (s.setHub v).ptable = s.ptable := rfl
@[simp] theorem setHub_busyMap : (s.setHub v).busyMap = s.busyMap := rfl
@[simp] theorem setHub_sendAct : (s.setHub v).sendAct = s.sendAct := rfl
@[simp] theorem setHub_sendShd : (s.setHub v).sendShd = s.sendShd := rfl
@[simp] theorem setHub_quadAct : (s.setHub v).quadAct = s.quadAct := rfl
@[simp] theorem setHub_quadShd : (s.setHub v).quadShd = s.quadShd := rfl
@[simp] theorem setHub_fetchSnd : (s.setHub v).fetchSnd = s.fetchSnd := rfl
@[simp] theorem setHub_fetchQd : (s.setHub v).fetchQd = s.fetchQd := rfl
@[simp] theorem setHub_ecc : (s.setHub v).ecc = s.ecc := rfl
@[simp] theorem setHub_fences : (s.setHub v).fences = s.fences := rfl
@[simp] theorem setHub_confOpp : (s.setHub v).confOpp = s.confOpp := rfl
@[simp] theorem setHub_arrOpp : (s.setHub v).arrOpp = s.arrOpp := rfl
@[simp] theorem setHub_arrSlots : (s.setHub v).arrSlots = s.arrSlots := rfl
@[simp] theorem setHub_arrDrops : (s.setHub v).arrDrops = s.arrDrops := rfl
@[simp] theorem setHub_clusters : (s.setHub v).clusters = s.clusters := rfl
@[simp] theorem setHub_bank : (s.setHub v).bank = s.bank := rfl
@[simp] theorem setHub_hbm : (s.setHub v).hbm = s.hbm := rfl
@[simp] theorem setHub_hostMem : (s.setHub v).hostMem = s.hostMem := rfl
@[simp] theorem setHub_hostBad : (s.setHub v).hostBad = s.hostBad := rfl
@[simp] theorem setHub_opp : (s.setHub v).opp = s.opp := rfl
@[simp] theorem setHub_groups : (s.setHub v).groups = s.groups := rfl
@[simp] theorem setHub_parcels : (s.setHub v).parcels = s.parcels := rfl
@[simp] theorem setHub_hbmStacks : (s.setHub v).hbmStacks = s.hbmStacks := rfl
@[simp] theorem setHub_stages : (s.setHub v).stages = s.stages := rfl
@[simp] theorem setHub_nextStage : (s.setHub v).nextStage = s.nextStage := rfl
@[simp] theorem setHub_keys : (s.setHub v).keys = s.keys := rfl
@[simp] theorem setHub_keks : (s.setHub v).keks = s.keks := rfl
@[simp] theorem setHub_datum : (s.setHub v).datum = s.datum := rfl
@[simp] theorem setHub_trigIn : (s.setHub v).trigIn = s.trigIn := rfl
@[simp] theorem setHub_trigOut : (s.setHub v).trigOut = s.trigOut := rfl
@[simp] theorem setHub_ppsHigh : (s.setHub v).ppsHigh = s.ppsHigh := rfl
@[simp] theorem setHub_quads : (s.setHub v).quads = s.quads := rfl
@[simp] theorem setHub_lanes : (s.setHub v).lanes = s.lanes := rfl
@[simp] theorem setHub_bridges : (s.setHub v).bridges = s.bridges := rfl
@[simp] theorem setHub_engines : (s.setHub v).engines = s.engines := rfl
@[simp] theorem setHub_sessions : (s.setHub v).sessions = s.sessions := rfl
@[simp] theorem setHub_hub : (s.setHub v).hub = v := rfl
@[simp] theorem setHub_faults : (s.setHub v).faults = s.faults := rfl
@[simp] theorem setHub_log : (s.setHub v).log = s.log := rfl
@[simp] theorem setHub_flash : (s.setHub v).flash = s.flash := rfl
@[simp] theorem setHub_boot : (s.setHub v).boot = s.boot := rfl
@[simp] theorem setHub_thermal : (s.setHub v).thermal = s.thermal := rfl
@[simp] theorem setHub_net : (s.setHub v).net = s.net := rfl
@[simp] theorem setHub_tap : (s.setHub v).tap = s.tap := rfl
@[simp] theorem setHub_grade : (s.setHub v).grade = s.grade := rfl
@[simp] theorem setHub_factory : (s.setHub v).factory = s.factory := rfl
@[simp] theorem setHub_s2Failed : (s.setHub v).s2Failed = s.s2Failed := rfl
@[simp] theorem setHub_trackMap : (s.setHub v).trackMap = s.trackMap := rfl
@[simp] theorem setHub_freeCtr : (s.setHub v).freeCtr = s.freeCtr := rfl
@[simp] theorem setHub_sent : (s.setHub v).sent = s.sent := rfl
end

-- setDatum

section
variable (s : State) (v : Datum)
@[simp] theorem setDatum_pending : (s.setDatum v).pending = s.pending := rfl
@[simp] theorem setDatum_istore : (s.setDatum v).istore = s.istore := rfl
@[simp] theorem setDatum_values : (s.setDatum v).values = s.values := rfl
@[simp] theorem setDatum_cur : (s.setDatum v).cur = s.cur := rfl
@[simp] theorem setDatum_stg : (s.setDatum v).stg = s.stg := rfl
@[simp] theorem setDatum_pend : (s.setDatum v).pend = s.pend := rfl
@[simp] theorem setDatum_result : (s.setDatum v).result = s.result := rfl
@[simp] theorem setDatum_slots : (s.setDatum v).slots = s.slots := rfl
@[simp] theorem setDatum_ptable : (s.setDatum v).ptable = s.ptable := rfl
@[simp] theorem setDatum_busyMap : (s.setDatum v).busyMap = s.busyMap := rfl
@[simp] theorem setDatum_sendAct : (s.setDatum v).sendAct = s.sendAct := rfl
@[simp] theorem setDatum_sendShd : (s.setDatum v).sendShd = s.sendShd := rfl
@[simp] theorem setDatum_quadAct : (s.setDatum v).quadAct = s.quadAct := rfl
@[simp] theorem setDatum_quadShd : (s.setDatum v).quadShd = s.quadShd := rfl
@[simp] theorem setDatum_fetchSnd : (s.setDatum v).fetchSnd = s.fetchSnd := rfl
@[simp] theorem setDatum_fetchQd : (s.setDatum v).fetchQd = s.fetchQd := rfl
@[simp] theorem setDatum_ecc : (s.setDatum v).ecc = s.ecc := rfl
@[simp] theorem setDatum_fences : (s.setDatum v).fences = s.fences := rfl
@[simp] theorem setDatum_confOpp : (s.setDatum v).confOpp = s.confOpp := rfl
@[simp] theorem setDatum_arrOpp : (s.setDatum v).arrOpp = s.arrOpp := rfl
@[simp] theorem setDatum_arrSlots : (s.setDatum v).arrSlots = s.arrSlots := rfl
@[simp] theorem setDatum_arrDrops : (s.setDatum v).arrDrops = s.arrDrops := rfl
@[simp] theorem setDatum_clusters : (s.setDatum v).clusters = s.clusters := rfl
@[simp] theorem setDatum_bank : (s.setDatum v).bank = s.bank := rfl
@[simp] theorem setDatum_hbm : (s.setDatum v).hbm = s.hbm := rfl
@[simp] theorem setDatum_hostMem : (s.setDatum v).hostMem = s.hostMem := rfl
@[simp] theorem setDatum_hostBad : (s.setDatum v).hostBad = s.hostBad := rfl
@[simp] theorem setDatum_opp : (s.setDatum v).opp = s.opp := rfl
@[simp] theorem setDatum_groups : (s.setDatum v).groups = s.groups := rfl
@[simp] theorem setDatum_parcels : (s.setDatum v).parcels = s.parcels := rfl
@[simp] theorem setDatum_hbmStacks : (s.setDatum v).hbmStacks = s.hbmStacks := rfl
@[simp] theorem setDatum_stages : (s.setDatum v).stages = s.stages := rfl
@[simp] theorem setDatum_nextStage : (s.setDatum v).nextStage = s.nextStage := rfl
@[simp] theorem setDatum_keys : (s.setDatum v).keys = s.keys := rfl
@[simp] theorem setDatum_keks : (s.setDatum v).keks = s.keks := rfl
@[simp] theorem setDatum_datum : (s.setDatum v).datum = v := rfl
@[simp] theorem setDatum_trigIn : (s.setDatum v).trigIn = s.trigIn := rfl
@[simp] theorem setDatum_trigOut : (s.setDatum v).trigOut = s.trigOut := rfl
@[simp] theorem setDatum_ppsHigh : (s.setDatum v).ppsHigh = s.ppsHigh := rfl
@[simp] theorem setDatum_quads : (s.setDatum v).quads = s.quads := rfl
@[simp] theorem setDatum_lanes : (s.setDatum v).lanes = s.lanes := rfl
@[simp] theorem setDatum_bridges : (s.setDatum v).bridges = s.bridges := rfl
@[simp] theorem setDatum_engines : (s.setDatum v).engines = s.engines := rfl
@[simp] theorem setDatum_sessions : (s.setDatum v).sessions = s.sessions := rfl
@[simp] theorem setDatum_hub : (s.setDatum v).hub = s.hub := rfl
@[simp] theorem setDatum_faults : (s.setDatum v).faults = s.faults := rfl
@[simp] theorem setDatum_log : (s.setDatum v).log = s.log := rfl
@[simp] theorem setDatum_flash : (s.setDatum v).flash = s.flash := rfl
@[simp] theorem setDatum_boot : (s.setDatum v).boot = s.boot := rfl
@[simp] theorem setDatum_thermal : (s.setDatum v).thermal = s.thermal := rfl
@[simp] theorem setDatum_net : (s.setDatum v).net = s.net := rfl
@[simp] theorem setDatum_tap : (s.setDatum v).tap = s.tap := rfl
@[simp] theorem setDatum_grade : (s.setDatum v).grade = s.grade := rfl
@[simp] theorem setDatum_factory : (s.setDatum v).factory = s.factory := rfl
@[simp] theorem setDatum_s2Failed : (s.setDatum v).s2Failed = s.s2Failed := rfl
@[simp] theorem setDatum_trackMap : (s.setDatum v).trackMap = s.trackMap := rfl
@[simp] theorem setDatum_freeCtr : (s.setDatum v).freeCtr = s.freeCtr := rfl
@[simp] theorem setDatum_sent : (s.setDatum v).sent = s.sent := rfl
end

-- setLog

section
variable (s : State) (v : Logbook)
@[simp] theorem setLog_pending : (s.setLog v).pending = s.pending := rfl
@[simp] theorem setLog_istore : (s.setLog v).istore = s.istore := rfl
@[simp] theorem setLog_values : (s.setLog v).values = s.values := rfl
@[simp] theorem setLog_cur : (s.setLog v).cur = s.cur := rfl
@[simp] theorem setLog_stg : (s.setLog v).stg = s.stg := rfl
@[simp] theorem setLog_pend : (s.setLog v).pend = s.pend := rfl
@[simp] theorem setLog_result : (s.setLog v).result = s.result := rfl
@[simp] theorem setLog_slots : (s.setLog v).slots = s.slots := rfl
@[simp] theorem setLog_ptable : (s.setLog v).ptable = s.ptable := rfl
@[simp] theorem setLog_busyMap : (s.setLog v).busyMap = s.busyMap := rfl
@[simp] theorem setLog_sendAct : (s.setLog v).sendAct = s.sendAct := rfl
@[simp] theorem setLog_sendShd : (s.setLog v).sendShd = s.sendShd := rfl
@[simp] theorem setLog_quadAct : (s.setLog v).quadAct = s.quadAct := rfl
@[simp] theorem setLog_quadShd : (s.setLog v).quadShd = s.quadShd := rfl
@[simp] theorem setLog_fetchSnd : (s.setLog v).fetchSnd = s.fetchSnd := rfl
@[simp] theorem setLog_fetchQd : (s.setLog v).fetchQd = s.fetchQd := rfl
@[simp] theorem setLog_ecc : (s.setLog v).ecc = s.ecc := rfl
@[simp] theorem setLog_fences : (s.setLog v).fences = s.fences := rfl
@[simp] theorem setLog_confOpp : (s.setLog v).confOpp = s.confOpp := rfl
@[simp] theorem setLog_arrOpp : (s.setLog v).arrOpp = s.arrOpp := rfl
@[simp] theorem setLog_arrSlots : (s.setLog v).arrSlots = s.arrSlots := rfl
@[simp] theorem setLog_arrDrops : (s.setLog v).arrDrops = s.arrDrops := rfl
@[simp] theorem setLog_clusters : (s.setLog v).clusters = s.clusters := rfl
@[simp] theorem setLog_bank : (s.setLog v).bank = s.bank := rfl
@[simp] theorem setLog_hbm : (s.setLog v).hbm = s.hbm := rfl
@[simp] theorem setLog_hostMem : (s.setLog v).hostMem = s.hostMem := rfl
@[simp] theorem setLog_hostBad : (s.setLog v).hostBad = s.hostBad := rfl
@[simp] theorem setLog_opp : (s.setLog v).opp = s.opp := rfl
@[simp] theorem setLog_groups : (s.setLog v).groups = s.groups := rfl
@[simp] theorem setLog_parcels : (s.setLog v).parcels = s.parcels := rfl
@[simp] theorem setLog_hbmStacks : (s.setLog v).hbmStacks = s.hbmStacks := rfl
@[simp] theorem setLog_stages : (s.setLog v).stages = s.stages := rfl
@[simp] theorem setLog_nextStage : (s.setLog v).nextStage = s.nextStage := rfl
@[simp] theorem setLog_keys : (s.setLog v).keys = s.keys := rfl
@[simp] theorem setLog_keks : (s.setLog v).keks = s.keks := rfl
@[simp] theorem setLog_datum : (s.setLog v).datum = s.datum := rfl
@[simp] theorem setLog_trigIn : (s.setLog v).trigIn = s.trigIn := rfl
@[simp] theorem setLog_trigOut : (s.setLog v).trigOut = s.trigOut := rfl
@[simp] theorem setLog_ppsHigh : (s.setLog v).ppsHigh = s.ppsHigh := rfl
@[simp] theorem setLog_quads : (s.setLog v).quads = s.quads := rfl
@[simp] theorem setLog_lanes : (s.setLog v).lanes = s.lanes := rfl
@[simp] theorem setLog_bridges : (s.setLog v).bridges = s.bridges := rfl
@[simp] theorem setLog_engines : (s.setLog v).engines = s.engines := rfl
@[simp] theorem setLog_sessions : (s.setLog v).sessions = s.sessions := rfl
@[simp] theorem setLog_hub : (s.setLog v).hub = s.hub := rfl
@[simp] theorem setLog_faults : (s.setLog v).faults = s.faults := rfl
@[simp] theorem setLog_log : (s.setLog v).log = v := rfl
@[simp] theorem setLog_flash : (s.setLog v).flash = s.flash := rfl
@[simp] theorem setLog_boot : (s.setLog v).boot = s.boot := rfl
@[simp] theorem setLog_thermal : (s.setLog v).thermal = s.thermal := rfl
@[simp] theorem setLog_net : (s.setLog v).net = s.net := rfl
@[simp] theorem setLog_tap : (s.setLog v).tap = s.tap := rfl
@[simp] theorem setLog_grade : (s.setLog v).grade = s.grade := rfl
@[simp] theorem setLog_factory : (s.setLog v).factory = s.factory := rfl
@[simp] theorem setLog_s2Failed : (s.setLog v).s2Failed = s.s2Failed := rfl
@[simp] theorem setLog_trackMap : (s.setLog v).trackMap = s.trackMap := rfl
@[simp] theorem setLog_freeCtr : (s.setLog v).freeCtr = s.freeCtr := rfl
@[simp] theorem setLog_sent : (s.setLog v).sent = s.sent := rfl
end

-- setNet

section
variable (s : State) (v : Net)
@[simp] theorem setNet_pending : (s.setNet v).pending = s.pending := rfl
@[simp] theorem setNet_istore : (s.setNet v).istore = s.istore := rfl
@[simp] theorem setNet_values : (s.setNet v).values = s.values := rfl
@[simp] theorem setNet_cur : (s.setNet v).cur = s.cur := rfl
@[simp] theorem setNet_stg : (s.setNet v).stg = s.stg := rfl
@[simp] theorem setNet_pend : (s.setNet v).pend = s.pend := rfl
@[simp] theorem setNet_result : (s.setNet v).result = s.result := rfl
@[simp] theorem setNet_slots : (s.setNet v).slots = s.slots := rfl
@[simp] theorem setNet_ptable : (s.setNet v).ptable = s.ptable := rfl
@[simp] theorem setNet_busyMap : (s.setNet v).busyMap = s.busyMap := rfl
@[simp] theorem setNet_sendAct : (s.setNet v).sendAct = s.sendAct := rfl
@[simp] theorem setNet_sendShd : (s.setNet v).sendShd = s.sendShd := rfl
@[simp] theorem setNet_quadAct : (s.setNet v).quadAct = s.quadAct := rfl
@[simp] theorem setNet_quadShd : (s.setNet v).quadShd = s.quadShd := rfl
@[simp] theorem setNet_fetchSnd : (s.setNet v).fetchSnd = s.fetchSnd := rfl
@[simp] theorem setNet_fetchQd : (s.setNet v).fetchQd = s.fetchQd := rfl
@[simp] theorem setNet_ecc : (s.setNet v).ecc = s.ecc := rfl
@[simp] theorem setNet_fences : (s.setNet v).fences = s.fences := rfl
@[simp] theorem setNet_confOpp : (s.setNet v).confOpp = s.confOpp := rfl
@[simp] theorem setNet_arrOpp : (s.setNet v).arrOpp = s.arrOpp := rfl
@[simp] theorem setNet_arrSlots : (s.setNet v).arrSlots = s.arrSlots := rfl
@[simp] theorem setNet_arrDrops : (s.setNet v).arrDrops = s.arrDrops := rfl
@[simp] theorem setNet_clusters : (s.setNet v).clusters = s.clusters := rfl
@[simp] theorem setNet_bank : (s.setNet v).bank = s.bank := rfl
@[simp] theorem setNet_hbm : (s.setNet v).hbm = s.hbm := rfl
@[simp] theorem setNet_hostMem : (s.setNet v).hostMem = s.hostMem := rfl
@[simp] theorem setNet_hostBad : (s.setNet v).hostBad = s.hostBad := rfl
@[simp] theorem setNet_opp : (s.setNet v).opp = s.opp := rfl
@[simp] theorem setNet_groups : (s.setNet v).groups = s.groups := rfl
@[simp] theorem setNet_parcels : (s.setNet v).parcels = s.parcels := rfl
@[simp] theorem setNet_hbmStacks : (s.setNet v).hbmStacks = s.hbmStacks := rfl
@[simp] theorem setNet_stages : (s.setNet v).stages = s.stages := rfl
@[simp] theorem setNet_nextStage : (s.setNet v).nextStage = s.nextStage := rfl
@[simp] theorem setNet_keys : (s.setNet v).keys = s.keys := rfl
@[simp] theorem setNet_keks : (s.setNet v).keks = s.keks := rfl
@[simp] theorem setNet_datum : (s.setNet v).datum = s.datum := rfl
@[simp] theorem setNet_trigIn : (s.setNet v).trigIn = s.trigIn := rfl
@[simp] theorem setNet_trigOut : (s.setNet v).trigOut = s.trigOut := rfl
@[simp] theorem setNet_ppsHigh : (s.setNet v).ppsHigh = s.ppsHigh := rfl
@[simp] theorem setNet_quads : (s.setNet v).quads = s.quads := rfl
@[simp] theorem setNet_lanes : (s.setNet v).lanes = s.lanes := rfl
@[simp] theorem setNet_bridges : (s.setNet v).bridges = s.bridges := rfl
@[simp] theorem setNet_engines : (s.setNet v).engines = s.engines := rfl
@[simp] theorem setNet_sessions : (s.setNet v).sessions = s.sessions := rfl
@[simp] theorem setNet_hub : (s.setNet v).hub = s.hub := rfl
@[simp] theorem setNet_faults : (s.setNet v).faults = s.faults := rfl
@[simp] theorem setNet_log : (s.setNet v).log = s.log := rfl
@[simp] theorem setNet_flash : (s.setNet v).flash = s.flash := rfl
@[simp] theorem setNet_boot : (s.setNet v).boot = s.boot := rfl
@[simp] theorem setNet_thermal : (s.setNet v).thermal = s.thermal := rfl
@[simp] theorem setNet_net : (s.setNet v).net = v := rfl
@[simp] theorem setNet_tap : (s.setNet v).tap = s.tap := rfl
@[simp] theorem setNet_grade : (s.setNet v).grade = s.grade := rfl
@[simp] theorem setNet_factory : (s.setNet v).factory = s.factory := rfl
@[simp] theorem setNet_s2Failed : (s.setNet v).s2Failed = s.s2Failed := rfl
@[simp] theorem setNet_trackMap : (s.setNet v).trackMap = s.trackMap := rfl
@[simp] theorem setNet_freeCtr : (s.setNet v).freeCtr = s.freeCtr := rfl
@[simp] theorem setNet_sent : (s.setNet v).sent = s.sent := rfl
end

-- setBoot

section
variable (s : State) (v : Boot)
@[simp] theorem setBoot_pending : (s.setBoot v).pending = s.pending := rfl
@[simp] theorem setBoot_istore : (s.setBoot v).istore = s.istore := rfl
@[simp] theorem setBoot_values : (s.setBoot v).values = s.values := rfl
@[simp] theorem setBoot_cur : (s.setBoot v).cur = s.cur := rfl
@[simp] theorem setBoot_stg : (s.setBoot v).stg = s.stg := rfl
@[simp] theorem setBoot_pend : (s.setBoot v).pend = s.pend := rfl
@[simp] theorem setBoot_result : (s.setBoot v).result = s.result := rfl
@[simp] theorem setBoot_slots : (s.setBoot v).slots = s.slots := rfl
@[simp] theorem setBoot_ptable : (s.setBoot v).ptable = s.ptable := rfl
@[simp] theorem setBoot_busyMap : (s.setBoot v).busyMap = s.busyMap := rfl
@[simp] theorem setBoot_sendAct : (s.setBoot v).sendAct = s.sendAct := rfl
@[simp] theorem setBoot_sendShd : (s.setBoot v).sendShd = s.sendShd := rfl
@[simp] theorem setBoot_quadAct : (s.setBoot v).quadAct = s.quadAct := rfl
@[simp] theorem setBoot_quadShd : (s.setBoot v).quadShd = s.quadShd := rfl
@[simp] theorem setBoot_fetchSnd : (s.setBoot v).fetchSnd = s.fetchSnd := rfl
@[simp] theorem setBoot_fetchQd : (s.setBoot v).fetchQd = s.fetchQd := rfl
@[simp] theorem setBoot_ecc : (s.setBoot v).ecc = s.ecc := rfl
@[simp] theorem setBoot_fences : (s.setBoot v).fences = s.fences := rfl
@[simp] theorem setBoot_confOpp : (s.setBoot v).confOpp = s.confOpp := rfl
@[simp] theorem setBoot_arrOpp : (s.setBoot v).arrOpp = s.arrOpp := rfl
@[simp] theorem setBoot_arrSlots : (s.setBoot v).arrSlots = s.arrSlots := rfl
@[simp] theorem setBoot_arrDrops : (s.setBoot v).arrDrops = s.arrDrops := rfl
@[simp] theorem setBoot_clusters : (s.setBoot v).clusters = s.clusters := rfl
@[simp] theorem setBoot_bank : (s.setBoot v).bank = s.bank := rfl
@[simp] theorem setBoot_hbm : (s.setBoot v).hbm = s.hbm := rfl
@[simp] theorem setBoot_hostMem : (s.setBoot v).hostMem = s.hostMem := rfl
@[simp] theorem setBoot_hostBad : (s.setBoot v).hostBad = s.hostBad := rfl
@[simp] theorem setBoot_opp : (s.setBoot v).opp = s.opp := rfl
@[simp] theorem setBoot_groups : (s.setBoot v).groups = s.groups := rfl
@[simp] theorem setBoot_parcels : (s.setBoot v).parcels = s.parcels := rfl
@[simp] theorem setBoot_hbmStacks : (s.setBoot v).hbmStacks = s.hbmStacks := rfl
@[simp] theorem setBoot_stages : (s.setBoot v).stages = s.stages := rfl
@[simp] theorem setBoot_nextStage : (s.setBoot v).nextStage = s.nextStage := rfl
@[simp] theorem setBoot_keys : (s.setBoot v).keys = s.keys := rfl
@[simp] theorem setBoot_keks : (s.setBoot v).keks = s.keks := rfl
@[simp] theorem setBoot_datum : (s.setBoot v).datum = s.datum := rfl
@[simp] theorem setBoot_trigIn : (s.setBoot v).trigIn = s.trigIn := rfl
@[simp] theorem setBoot_trigOut : (s.setBoot v).trigOut = s.trigOut := rfl
@[simp] theorem setBoot_ppsHigh : (s.setBoot v).ppsHigh = s.ppsHigh := rfl
@[simp] theorem setBoot_quads : (s.setBoot v).quads = s.quads := rfl
@[simp] theorem setBoot_lanes : (s.setBoot v).lanes = s.lanes := rfl
@[simp] theorem setBoot_bridges : (s.setBoot v).bridges = s.bridges := rfl
@[simp] theorem setBoot_engines : (s.setBoot v).engines = s.engines := rfl
@[simp] theorem setBoot_sessions : (s.setBoot v).sessions = s.sessions := rfl
@[simp] theorem setBoot_hub : (s.setBoot v).hub = s.hub := rfl
@[simp] theorem setBoot_faults : (s.setBoot v).faults = s.faults := rfl
@[simp] theorem setBoot_log : (s.setBoot v).log = s.log := rfl
@[simp] theorem setBoot_flash : (s.setBoot v).flash = s.flash := rfl
@[simp] theorem setBoot_boot : (s.setBoot v).boot = v := rfl
@[simp] theorem setBoot_thermal : (s.setBoot v).thermal = s.thermal := rfl
@[simp] theorem setBoot_net : (s.setBoot v).net = s.net := rfl
@[simp] theorem setBoot_tap : (s.setBoot v).tap = s.tap := rfl
@[simp] theorem setBoot_grade : (s.setBoot v).grade = s.grade := rfl
@[simp] theorem setBoot_factory : (s.setBoot v).factory = s.factory := rfl
@[simp] theorem setBoot_s2Failed : (s.setBoot v).s2Failed = s.s2Failed := rfl
@[simp] theorem setBoot_trackMap : (s.setBoot v).trackMap = s.trackMap := rfl
@[simp] theorem setBoot_freeCtr : (s.setBoot v).freeCtr = s.freeCtr := rfl
@[simp] theorem setBoot_sent : (s.setBoot v).sent = s.sent := rfl
end

-- setThermal

section
variable (s : State) (v : Thermal)
@[simp] theorem setThermal_pending : (s.setThermal v).pending = s.pending := rfl
@[simp] theorem setThermal_istore : (s.setThermal v).istore = s.istore := rfl
@[simp] theorem setThermal_values : (s.setThermal v).values = s.values := rfl
@[simp] theorem setThermal_cur : (s.setThermal v).cur = s.cur := rfl
@[simp] theorem setThermal_stg : (s.setThermal v).stg = s.stg := rfl
@[simp] theorem setThermal_pend : (s.setThermal v).pend = s.pend := rfl
@[simp] theorem setThermal_result : (s.setThermal v).result = s.result := rfl
@[simp] theorem setThermal_slots : (s.setThermal v).slots = s.slots := rfl
@[simp] theorem setThermal_ptable : (s.setThermal v).ptable = s.ptable := rfl
@[simp] theorem setThermal_busyMap : (s.setThermal v).busyMap = s.busyMap := rfl
@[simp] theorem setThermal_sendAct : (s.setThermal v).sendAct = s.sendAct := rfl
@[simp] theorem setThermal_sendShd : (s.setThermal v).sendShd = s.sendShd := rfl
@[simp] theorem setThermal_quadAct : (s.setThermal v).quadAct = s.quadAct := rfl
@[simp] theorem setThermal_quadShd : (s.setThermal v).quadShd = s.quadShd := rfl
@[simp] theorem setThermal_fetchSnd : (s.setThermal v).fetchSnd = s.fetchSnd := rfl
@[simp] theorem setThermal_fetchQd : (s.setThermal v).fetchQd = s.fetchQd := rfl
@[simp] theorem setThermal_ecc : (s.setThermal v).ecc = s.ecc := rfl
@[simp] theorem setThermal_fences : (s.setThermal v).fences = s.fences := rfl
@[simp] theorem setThermal_confOpp : (s.setThermal v).confOpp = s.confOpp := rfl
@[simp] theorem setThermal_arrOpp : (s.setThermal v).arrOpp = s.arrOpp := rfl
@[simp] theorem setThermal_arrSlots : (s.setThermal v).arrSlots = s.arrSlots := rfl
@[simp] theorem setThermal_arrDrops : (s.setThermal v).arrDrops = s.arrDrops := rfl
@[simp] theorem setThermal_clusters : (s.setThermal v).clusters = s.clusters := rfl
@[simp] theorem setThermal_bank : (s.setThermal v).bank = s.bank := rfl
@[simp] theorem setThermal_hbm : (s.setThermal v).hbm = s.hbm := rfl
@[simp] theorem setThermal_hostMem : (s.setThermal v).hostMem = s.hostMem := rfl
@[simp] theorem setThermal_hostBad : (s.setThermal v).hostBad = s.hostBad := rfl
@[simp] theorem setThermal_opp : (s.setThermal v).opp = s.opp := rfl
@[simp] theorem setThermal_groups : (s.setThermal v).groups = s.groups := rfl
@[simp] theorem setThermal_parcels : (s.setThermal v).parcels = s.parcels := rfl
@[simp] theorem setThermal_hbmStacks : (s.setThermal v).hbmStacks = s.hbmStacks := rfl
@[simp] theorem setThermal_stages : (s.setThermal v).stages = s.stages := rfl
@[simp] theorem setThermal_nextStage : (s.setThermal v).nextStage = s.nextStage := rfl
@[simp] theorem setThermal_keys : (s.setThermal v).keys = s.keys := rfl
@[simp] theorem setThermal_keks : (s.setThermal v).keks = s.keks := rfl
@[simp] theorem setThermal_datum : (s.setThermal v).datum = s.datum := rfl
@[simp] theorem setThermal_trigIn : (s.setThermal v).trigIn = s.trigIn := rfl
@[simp] theorem setThermal_trigOut : (s.setThermal v).trigOut = s.trigOut := rfl
@[simp] theorem setThermal_ppsHigh : (s.setThermal v).ppsHigh = s.ppsHigh := rfl
@[simp] theorem setThermal_quads : (s.setThermal v).quads = s.quads := rfl
@[simp] theorem setThermal_lanes : (s.setThermal v).lanes = s.lanes := rfl
@[simp] theorem setThermal_bridges : (s.setThermal v).bridges = s.bridges := rfl
@[simp] theorem setThermal_engines : (s.setThermal v).engines = s.engines := rfl
@[simp] theorem setThermal_sessions : (s.setThermal v).sessions = s.sessions := rfl
@[simp] theorem setThermal_hub : (s.setThermal v).hub = s.hub := rfl
@[simp] theorem setThermal_faults : (s.setThermal v).faults = s.faults := rfl
@[simp] theorem setThermal_log : (s.setThermal v).log = s.log := rfl
@[simp] theorem setThermal_flash : (s.setThermal v).flash = s.flash := rfl
@[simp] theorem setThermal_boot : (s.setThermal v).boot = s.boot := rfl
@[simp] theorem setThermal_thermal : (s.setThermal v).thermal = v := rfl
@[simp] theorem setThermal_net : (s.setThermal v).net = s.net := rfl
@[simp] theorem setThermal_tap : (s.setThermal v).tap = s.tap := rfl
@[simp] theorem setThermal_grade : (s.setThermal v).grade = s.grade := rfl
@[simp] theorem setThermal_factory : (s.setThermal v).factory = s.factory := rfl
@[simp] theorem setThermal_s2Failed : (s.setThermal v).s2Failed = s.s2Failed := rfl
@[simp] theorem setThermal_trackMap : (s.setThermal v).trackMap = s.trackMap := rfl
@[simp] theorem setThermal_freeCtr : (s.setThermal v).freeCtr = s.freeCtr := rfl
@[simp] theorem setThermal_sent : (s.setThermal v).sent = s.sent := rfl
end

-- setSent

section
variable (s : State) (v : Sent)
@[simp] theorem setSent_pending : (s.setSent v).pending = s.pending := rfl
@[simp] theorem setSent_istore : (s.setSent v).istore = s.istore := rfl
@[simp] theorem setSent_values : (s.setSent v).values = s.values := rfl
@[simp] theorem setSent_cur : (s.setSent v).cur = s.cur := rfl
@[simp] theorem setSent_stg : (s.setSent v).stg = s.stg := rfl
@[simp] theorem setSent_pend : (s.setSent v).pend = s.pend := rfl
@[simp] theorem setSent_result : (s.setSent v).result = s.result := rfl
@[simp] theorem setSent_slots : (s.setSent v).slots = s.slots := rfl
@[simp] theorem setSent_ptable : (s.setSent v).ptable = s.ptable := rfl
@[simp] theorem setSent_busyMap : (s.setSent v).busyMap = s.busyMap := rfl
@[simp] theorem setSent_sendAct : (s.setSent v).sendAct = s.sendAct := rfl
@[simp] theorem setSent_sendShd : (s.setSent v).sendShd = s.sendShd := rfl
@[simp] theorem setSent_quadAct : (s.setSent v).quadAct = s.quadAct := rfl
@[simp] theorem setSent_quadShd : (s.setSent v).quadShd = s.quadShd := rfl
@[simp] theorem setSent_fetchSnd : (s.setSent v).fetchSnd = s.fetchSnd := rfl
@[simp] theorem setSent_fetchQd : (s.setSent v).fetchQd = s.fetchQd := rfl
@[simp] theorem setSent_ecc : (s.setSent v).ecc = s.ecc := rfl
@[simp] theorem setSent_fences : (s.setSent v).fences = s.fences := rfl
@[simp] theorem setSent_confOpp : (s.setSent v).confOpp = s.confOpp := rfl
@[simp] theorem setSent_arrOpp : (s.setSent v).arrOpp = s.arrOpp := rfl
@[simp] theorem setSent_arrSlots : (s.setSent v).arrSlots = s.arrSlots := rfl
@[simp] theorem setSent_arrDrops : (s.setSent v).arrDrops = s.arrDrops := rfl
@[simp] theorem setSent_clusters : (s.setSent v).clusters = s.clusters := rfl
@[simp] theorem setSent_bank : (s.setSent v).bank = s.bank := rfl
@[simp] theorem setSent_hbm : (s.setSent v).hbm = s.hbm := rfl
@[simp] theorem setSent_hostMem : (s.setSent v).hostMem = s.hostMem := rfl
@[simp] theorem setSent_hostBad : (s.setSent v).hostBad = s.hostBad := rfl
@[simp] theorem setSent_opp : (s.setSent v).opp = s.opp := rfl
@[simp] theorem setSent_groups : (s.setSent v).groups = s.groups := rfl
@[simp] theorem setSent_parcels : (s.setSent v).parcels = s.parcels := rfl
@[simp] theorem setSent_hbmStacks : (s.setSent v).hbmStacks = s.hbmStacks := rfl
@[simp] theorem setSent_stages : (s.setSent v).stages = s.stages := rfl
@[simp] theorem setSent_nextStage : (s.setSent v).nextStage = s.nextStage := rfl
@[simp] theorem setSent_keys : (s.setSent v).keys = s.keys := rfl
@[simp] theorem setSent_keks : (s.setSent v).keks = s.keks := rfl
@[simp] theorem setSent_datum : (s.setSent v).datum = s.datum := rfl
@[simp] theorem setSent_trigIn : (s.setSent v).trigIn = s.trigIn := rfl
@[simp] theorem setSent_trigOut : (s.setSent v).trigOut = s.trigOut := rfl
@[simp] theorem setSent_ppsHigh : (s.setSent v).ppsHigh = s.ppsHigh := rfl
@[simp] theorem setSent_quads : (s.setSent v).quads = s.quads := rfl
@[simp] theorem setSent_lanes : (s.setSent v).lanes = s.lanes := rfl
@[simp] theorem setSent_bridges : (s.setSent v).bridges = s.bridges := rfl
@[simp] theorem setSent_engines : (s.setSent v).engines = s.engines := rfl
@[simp] theorem setSent_sessions : (s.setSent v).sessions = s.sessions := rfl
@[simp] theorem setSent_hub : (s.setSent v).hub = s.hub := rfl
@[simp] theorem setSent_faults : (s.setSent v).faults = s.faults := rfl
@[simp] theorem setSent_log : (s.setSent v).log = s.log := rfl
@[simp] theorem setSent_flash : (s.setSent v).flash = s.flash := rfl
@[simp] theorem setSent_boot : (s.setSent v).boot = s.boot := rfl
@[simp] theorem setSent_thermal : (s.setSent v).thermal = s.thermal := rfl
@[simp] theorem setSent_net : (s.setSent v).net = s.net := rfl
@[simp] theorem setSent_tap : (s.setSent v).tap = s.tap := rfl
@[simp] theorem setSent_grade : (s.setSent v).grade = s.grade := rfl
@[simp] theorem setSent_factory : (s.setSent v).factory = s.factory := rfl
@[simp] theorem setSent_s2Failed : (s.setSent v).s2Failed = s.s2Failed := rfl
@[simp] theorem setSent_trackMap : (s.setSent v).trackMap = s.trackMap := rfl
@[simp] theorem setSent_freeCtr : (s.setSent v).freeCtr = s.freeCtr := rfl
@[simp] theorem setSent_sent : (s.setSent v).sent = v := rfl
end

-- setFlash

section
variable (s : State) (v : Flash)
@[simp] theorem setFlash_pending : (s.setFlash v).pending = s.pending := rfl
@[simp] theorem setFlash_istore : (s.setFlash v).istore = s.istore := rfl
@[simp] theorem setFlash_values : (s.setFlash v).values = s.values := rfl
@[simp] theorem setFlash_cur : (s.setFlash v).cur = s.cur := rfl
@[simp] theorem setFlash_stg : (s.setFlash v).stg = s.stg := rfl
@[simp] theorem setFlash_pend : (s.setFlash v).pend = s.pend := rfl
@[simp] theorem setFlash_result : (s.setFlash v).result = s.result := rfl
@[simp] theorem setFlash_slots : (s.setFlash v).slots = s.slots := rfl
@[simp] theorem setFlash_ptable : (s.setFlash v).ptable = s.ptable := rfl
@[simp] theorem setFlash_busyMap : (s.setFlash v).busyMap = s.busyMap := rfl
@[simp] theorem setFlash_sendAct : (s.setFlash v).sendAct = s.sendAct := rfl
@[simp] theorem setFlash_sendShd : (s.setFlash v).sendShd = s.sendShd := rfl
@[simp] theorem setFlash_quadAct : (s.setFlash v).quadAct = s.quadAct := rfl
@[simp] theorem setFlash_quadShd : (s.setFlash v).quadShd = s.quadShd := rfl
@[simp] theorem setFlash_fetchSnd : (s.setFlash v).fetchSnd = s.fetchSnd := rfl
@[simp] theorem setFlash_fetchQd : (s.setFlash v).fetchQd = s.fetchQd := rfl
@[simp] theorem setFlash_ecc : (s.setFlash v).ecc = s.ecc := rfl
@[simp] theorem setFlash_fences : (s.setFlash v).fences = s.fences := rfl
@[simp] theorem setFlash_confOpp : (s.setFlash v).confOpp = s.confOpp := rfl
@[simp] theorem setFlash_arrOpp : (s.setFlash v).arrOpp = s.arrOpp := rfl
@[simp] theorem setFlash_arrSlots : (s.setFlash v).arrSlots = s.arrSlots := rfl
@[simp] theorem setFlash_arrDrops : (s.setFlash v).arrDrops = s.arrDrops := rfl
@[simp] theorem setFlash_clusters : (s.setFlash v).clusters = s.clusters := rfl
@[simp] theorem setFlash_bank : (s.setFlash v).bank = s.bank := rfl
@[simp] theorem setFlash_hbm : (s.setFlash v).hbm = s.hbm := rfl
@[simp] theorem setFlash_hostMem : (s.setFlash v).hostMem = s.hostMem := rfl
@[simp] theorem setFlash_hostBad : (s.setFlash v).hostBad = s.hostBad := rfl
@[simp] theorem setFlash_opp : (s.setFlash v).opp = s.opp := rfl
@[simp] theorem setFlash_groups : (s.setFlash v).groups = s.groups := rfl
@[simp] theorem setFlash_parcels : (s.setFlash v).parcels = s.parcels := rfl
@[simp] theorem setFlash_hbmStacks : (s.setFlash v).hbmStacks = s.hbmStacks := rfl
@[simp] theorem setFlash_stages : (s.setFlash v).stages = s.stages := rfl
@[simp] theorem setFlash_nextStage : (s.setFlash v).nextStage = s.nextStage := rfl
@[simp] theorem setFlash_keys : (s.setFlash v).keys = s.keys := rfl
@[simp] theorem setFlash_keks : (s.setFlash v).keks = s.keks := rfl
@[simp] theorem setFlash_datum : (s.setFlash v).datum = s.datum := rfl
@[simp] theorem setFlash_trigIn : (s.setFlash v).trigIn = s.trigIn := rfl
@[simp] theorem setFlash_trigOut : (s.setFlash v).trigOut = s.trigOut := rfl
@[simp] theorem setFlash_ppsHigh : (s.setFlash v).ppsHigh = s.ppsHigh := rfl
@[simp] theorem setFlash_quads : (s.setFlash v).quads = s.quads := rfl
@[simp] theorem setFlash_lanes : (s.setFlash v).lanes = s.lanes := rfl
@[simp] theorem setFlash_bridges : (s.setFlash v).bridges = s.bridges := rfl
@[simp] theorem setFlash_engines : (s.setFlash v).engines = s.engines := rfl
@[simp] theorem setFlash_sessions : (s.setFlash v).sessions = s.sessions := rfl
@[simp] theorem setFlash_hub : (s.setFlash v).hub = s.hub := rfl
@[simp] theorem setFlash_faults : (s.setFlash v).faults = s.faults := rfl
@[simp] theorem setFlash_log : (s.setFlash v).log = s.log := rfl
@[simp] theorem setFlash_flash : (s.setFlash v).flash = v := rfl
@[simp] theorem setFlash_boot : (s.setFlash v).boot = s.boot := rfl
@[simp] theorem setFlash_thermal : (s.setFlash v).thermal = s.thermal := rfl
@[simp] theorem setFlash_net : (s.setFlash v).net = s.net := rfl
@[simp] theorem setFlash_tap : (s.setFlash v).tap = s.tap := rfl
@[simp] theorem setFlash_grade : (s.setFlash v).grade = s.grade := rfl
@[simp] theorem setFlash_factory : (s.setFlash v).factory = s.factory := rfl
@[simp] theorem setFlash_s2Failed : (s.setFlash v).s2Failed = s.s2Failed := rfl
@[simp] theorem setFlash_trackMap : (s.setFlash v).trackMap = s.trackMap := rfl
@[simp] theorem setFlash_freeCtr : (s.setFlash v).freeCtr = s.freeCtr := rfl
@[simp] theorem setFlash_sent : (s.setFlash v).sent = s.sent := rfl
end

-- setTap

section
variable (s : State) (v : Tap)
@[simp] theorem setTap_pending : (s.setTap v).pending = s.pending := rfl
@[simp] theorem setTap_istore : (s.setTap v).istore = s.istore := rfl
@[simp] theorem setTap_values : (s.setTap v).values = s.values := rfl
@[simp] theorem setTap_cur : (s.setTap v).cur = s.cur := rfl
@[simp] theorem setTap_stg : (s.setTap v).stg = s.stg := rfl
@[simp] theorem setTap_pend : (s.setTap v).pend = s.pend := rfl
@[simp] theorem setTap_result : (s.setTap v).result = s.result := rfl
@[simp] theorem setTap_slots : (s.setTap v).slots = s.slots := rfl
@[simp] theorem setTap_ptable : (s.setTap v).ptable = s.ptable := rfl
@[simp] theorem setTap_busyMap : (s.setTap v).busyMap = s.busyMap := rfl
@[simp] theorem setTap_sendAct : (s.setTap v).sendAct = s.sendAct := rfl
@[simp] theorem setTap_sendShd : (s.setTap v).sendShd = s.sendShd := rfl
@[simp] theorem setTap_quadAct : (s.setTap v).quadAct = s.quadAct := rfl
@[simp] theorem setTap_quadShd : (s.setTap v).quadShd = s.quadShd := rfl
@[simp] theorem setTap_fetchSnd : (s.setTap v).fetchSnd = s.fetchSnd := rfl
@[simp] theorem setTap_fetchQd : (s.setTap v).fetchQd = s.fetchQd := rfl
@[simp] theorem setTap_ecc : (s.setTap v).ecc = s.ecc := rfl
@[simp] theorem setTap_fences : (s.setTap v).fences = s.fences := rfl
@[simp] theorem setTap_confOpp : (s.setTap v).confOpp = s.confOpp := rfl
@[simp] theorem setTap_arrOpp : (s.setTap v).arrOpp = s.arrOpp := rfl
@[simp] theorem setTap_arrSlots : (s.setTap v).arrSlots = s.arrSlots := rfl
@[simp] theorem setTap_arrDrops : (s.setTap v).arrDrops = s.arrDrops := rfl
@[simp] theorem setTap_clusters : (s.setTap v).clusters = s.clusters := rfl
@[simp] theorem setTap_bank : (s.setTap v).bank = s.bank := rfl
@[simp] theorem setTap_hbm : (s.setTap v).hbm = s.hbm := rfl
@[simp] theorem setTap_hostMem : (s.setTap v).hostMem = s.hostMem := rfl
@[simp] theorem setTap_hostBad : (s.setTap v).hostBad = s.hostBad := rfl
@[simp] theorem setTap_opp : (s.setTap v).opp = s.opp := rfl
@[simp] theorem setTap_groups : (s.setTap v).groups = s.groups := rfl
@[simp] theorem setTap_parcels : (s.setTap v).parcels = s.parcels := rfl
@[simp] theorem setTap_hbmStacks : (s.setTap v).hbmStacks = s.hbmStacks := rfl
@[simp] theorem setTap_stages : (s.setTap v).stages = s.stages := rfl
@[simp] theorem setTap_nextStage : (s.setTap v).nextStage = s.nextStage := rfl
@[simp] theorem setTap_keys : (s.setTap v).keys = s.keys := rfl
@[simp] theorem setTap_keks : (s.setTap v).keks = s.keks := rfl
@[simp] theorem setTap_datum : (s.setTap v).datum = s.datum := rfl
@[simp] theorem setTap_trigIn : (s.setTap v).trigIn = s.trigIn := rfl
@[simp] theorem setTap_trigOut : (s.setTap v).trigOut = s.trigOut := rfl
@[simp] theorem setTap_ppsHigh : (s.setTap v).ppsHigh = s.ppsHigh := rfl
@[simp] theorem setTap_quads : (s.setTap v).quads = s.quads := rfl
@[simp] theorem setTap_lanes : (s.setTap v).lanes = s.lanes := rfl
@[simp] theorem setTap_bridges : (s.setTap v).bridges = s.bridges := rfl
@[simp] theorem setTap_engines : (s.setTap v).engines = s.engines := rfl
@[simp] theorem setTap_sessions : (s.setTap v).sessions = s.sessions := rfl
@[simp] theorem setTap_hub : (s.setTap v).hub = s.hub := rfl
@[simp] theorem setTap_faults : (s.setTap v).faults = s.faults := rfl
@[simp] theorem setTap_log : (s.setTap v).log = s.log := rfl
@[simp] theorem setTap_flash : (s.setTap v).flash = s.flash := rfl
@[simp] theorem setTap_boot : (s.setTap v).boot = s.boot := rfl
@[simp] theorem setTap_thermal : (s.setTap v).thermal = s.thermal := rfl
@[simp] theorem setTap_net : (s.setTap v).net = s.net := rfl
@[simp] theorem setTap_tap : (s.setTap v).tap = v := rfl
@[simp] theorem setTap_grade : (s.setTap v).grade = s.grade := rfl
@[simp] theorem setTap_factory : (s.setTap v).factory = s.factory := rfl
@[simp] theorem setTap_s2Failed : (s.setTap v).s2Failed = s.s2Failed := rfl
@[simp] theorem setTap_trackMap : (s.setTap v).trackMap = s.trackMap := rfl
@[simp] theorem setTap_freeCtr : (s.setTap v).freeCtr = s.freeCtr := rfl
@[simp] theorem setTap_sent : (s.setTap v).sent = s.sent := rfl
end

-- setEntries

section
variable (s : State) (l : List Entry)
@[simp] theorem setEntries_pending : (s.setEntries l).pending = s.pending := rfl
@[simp] theorem setEntries_istore : (s.setEntries l).istore = s.istore := rfl
@[simp] theorem setEntries_values : (s.setEntries l).values = s.values := rfl
@[simp] theorem setEntries_cur : (s.setEntries l).cur = s.cur := rfl
@[simp] theorem setEntries_stg : (s.setEntries l).stg = s.stg := rfl
@[simp] theorem setEntries_pend : (s.setEntries l).pend = s.pend := rfl
@[simp] theorem setEntries_result : (s.setEntries l).result = s.result := rfl
@[simp] theorem setEntries_slots : (s.setEntries l).slots = s.slots := rfl
@[simp] theorem setEntries_ptable : (s.setEntries l).ptable = s.ptable := rfl
@[simp] theorem setEntries_busyMap : (s.setEntries l).busyMap = s.busyMap := rfl
@[simp] theorem setEntries_sendAct : (s.setEntries l).sendAct = s.sendAct := rfl
@[simp] theorem setEntries_sendShd : (s.setEntries l).sendShd = s.sendShd := rfl
@[simp] theorem setEntries_quadAct : (s.setEntries l).quadAct = s.quadAct := rfl
@[simp] theorem setEntries_quadShd : (s.setEntries l).quadShd = s.quadShd := rfl
@[simp] theorem setEntries_fetchSnd : (s.setEntries l).fetchSnd = s.fetchSnd := rfl
@[simp] theorem setEntries_fetchQd : (s.setEntries l).fetchQd = s.fetchQd := rfl
@[simp] theorem setEntries_ecc : (s.setEntries l).ecc = s.ecc := rfl
@[simp] theorem setEntries_fences : (s.setEntries l).fences = s.fences := rfl
@[simp] theorem setEntries_confOpp : (s.setEntries l).confOpp = s.confOpp := rfl
@[simp] theorem setEntries_arrOpp : (s.setEntries l).arrOpp = s.arrOpp := rfl
@[simp] theorem setEntries_arrSlots : (s.setEntries l).arrSlots = s.arrSlots := rfl
@[simp] theorem setEntries_arrDrops : (s.setEntries l).arrDrops = s.arrDrops := rfl
@[simp] theorem setEntries_clusters : (s.setEntries l).clusters = s.clusters := rfl
@[simp] theorem setEntries_bank : (s.setEntries l).bank = s.bank := rfl
@[simp] theorem setEntries_hbm : (s.setEntries l).hbm = s.hbm := rfl
@[simp] theorem setEntries_hostMem : (s.setEntries l).hostMem = s.hostMem := rfl
@[simp] theorem setEntries_hostBad : (s.setEntries l).hostBad = s.hostBad := rfl
@[simp] theorem setEntries_opp : (s.setEntries l).opp = s.opp := rfl
@[simp] theorem setEntries_groups : (s.setEntries l).groups = s.groups := rfl
@[simp] theorem setEntries_parcels : (s.setEntries l).parcels = s.parcels := rfl
@[simp] theorem setEntries_hbmStacks : (s.setEntries l).hbmStacks = s.hbmStacks := rfl
@[simp] theorem setEntries_stages : (s.setEntries l).stages = s.stages := rfl
@[simp] theorem setEntries_nextStage : (s.setEntries l).nextStage = s.nextStage := rfl
@[simp] theorem setEntries_keys : (s.setEntries l).keys = s.keys := rfl
@[simp] theorem setEntries_keks : (s.setEntries l).keks = s.keks := rfl
@[simp] theorem setEntries_datum : (s.setEntries l).datum = s.datum := rfl
@[simp] theorem setEntries_trigIn : (s.setEntries l).trigIn = s.trigIn := rfl
@[simp] theorem setEntries_trigOut : (s.setEntries l).trigOut = s.trigOut := rfl
@[simp] theorem setEntries_ppsHigh : (s.setEntries l).ppsHigh = s.ppsHigh := rfl
@[simp] theorem setEntries_quads : (s.setEntries l).quads = s.quads := rfl
@[simp] theorem setEntries_lanes : (s.setEntries l).lanes = s.lanes := rfl
@[simp] theorem setEntries_bridges : (s.setEntries l).bridges = s.bridges := rfl
@[simp] theorem setEntries_engines : (s.setEntries l).engines = s.engines := rfl
@[simp] theorem setEntries_sessions : (s.setEntries l).sessions = s.sessions := rfl
@[simp] theorem setEntries_faults : (s.setEntries l).faults = s.faults := rfl
@[simp] theorem setEntries_log : (s.setEntries l).log = s.log := rfl
@[simp] theorem setEntries_flash : (s.setEntries l).flash = s.flash := rfl
@[simp] theorem setEntries_boot : (s.setEntries l).boot = s.boot := rfl
@[simp] theorem setEntries_thermal : (s.setEntries l).thermal = s.thermal := rfl
@[simp] theorem setEntries_net : (s.setEntries l).net = s.net := rfl
@[simp] theorem setEntries_tap : (s.setEntries l).tap = s.tap := rfl
@[simp] theorem setEntries_grade : (s.setEntries l).grade = s.grade := rfl
@[simp] theorem setEntries_factory : (s.setEntries l).factory = s.factory := rfl
@[simp] theorem setEntries_s2Failed : (s.setEntries l).s2Failed = s.s2Failed := rfl
@[simp] theorem setEntries_trackMap : (s.setEntries l).trackMap = s.trackMap := rfl
@[simp] theorem setEntries_freeCtr : (s.setEntries l).freeCtr = s.freeCtr := rfl
@[simp] theorem setEntries_sent : (s.setEntries l).sent = s.sent := rfl
end

-- the units of the part: an update of one, read back

theorem parcel_setParcel (s : State) (i j : Nat) (v : Parcel) (h : mwf Parcel.init s.parcels = true) :
    (s.setParcel i v).parcel j = if j = i then v else s.parcel j := mget_mset h
@[simp] theorem parcel_setParcel_same (s : State) (i : Nat) (v : Parcel) (h : mwf Parcel.init s.parcels = true) : (s.setParcel i v).parcel i = v := mget_mset_same h
theorem cluster_setCluster (s : State) (i j : Nat) (v : Cluster) (h : mwf Cluster.init s.clusters = true) :
    (s.setCluster i v).cluster j = if j = i then v else s.cluster j := mget_mset h
@[simp] theorem cluster_setCluster_same (s : State) (i : Nat) (v : Cluster) (h : mwf Cluster.init s.clusters = true) : (s.setCluster i v).cluster i = v := mget_mset_same h
theorem group_setGroup (s : State) (i j : Nat) (v : RunGroup) (h : mwf RunGroup.init s.groups = true) :
    (s.setGroup i v).group j = if j = i then v else s.group j := mget_mset h
@[simp] theorem group_setGroup_same (s : State) (i : Nat) (v : RunGroup) (h : mwf RunGroup.init s.groups = true) : (s.setGroup i v).group i = v := mget_mset_same h
theorem stack_setStack (s : State) (i j : Nat) (v : Stack) (h : mwf Stack.init s.hbmStacks = true) :
    (s.setStack i v).stack j = if j = i then v else s.stack j := mget_mset h
@[simp] theorem stack_setStack_same (s : State) (i : Nat) (v : Stack) (h : mwf Stack.init s.hbmStacks = true) : (s.setStack i v).stack i = v := mget_mset_same h
theorem key_setKey (s : State) (i j : Nat) (v : KeySlot) (h : mwf KeySlot.init s.keys = true) :
    (s.setKey i v).key j = if j = i then v else s.key j := mget_mset h
@[simp] theorem key_setKey_same (s : State) (i : Nat) (v : KeySlot) (h : mwf KeySlot.init s.keys = true) : (s.setKey i v).key i = v := mget_mset_same h
theorem quad_setQuad (s : State) (i j : Nat) (v : Quad) (h : mwf Quad.init s.quads = true) :
    (s.setQuad i v).quad j = if j = i then v else s.quad j := mget_mset h
@[simp] theorem quad_setQuad_same (s : State) (i : Nat) (v : Quad) (h : mwf Quad.init s.quads = true) : (s.setQuad i v).quad i = v := mget_mset_same h
theorem lane_setLane (s : State) (i j : Nat) (v : Lane) (h : mwf Lane.init s.lanes = true) :
    (s.setLane i v).lane j = if j = i then v else s.lane j := mget_mset h
@[simp] theorem lane_setLane_same (s : State) (i : Nat) (v : Lane) (h : mwf Lane.init s.lanes = true) : (s.setLane i v).lane i = v := mget_mset_same h
theorem bridge_setBridge (s : State) (i j : Nat) (v : Bridge) (h : mwf Bridge.init s.bridges = true) :
    (s.setBridge i v).bridge j = if j = i then v else s.bridge j := mget_mset h
@[simp] theorem bridge_setBridge_same (s : State) (i : Nat) (v : Bridge) (h : mwf Bridge.init s.bridges = true) : (s.setBridge i v).bridge i = v := mget_mset_same h
theorem engine_setEngine (s : State) (i j : Nat) (v : Engine) (h : mwf Engine.init s.engines = true) :
    (s.setEngine i v).engine j = if j = i then v else s.engine j := mget_mset h
@[simp] theorem engine_setEngine_same (s : State) (i : Nat) (v : Engine) (h : mwf Engine.init s.engines = true) : (s.setEngine i v).engine i = v := mget_mset_same h
theorem sess_setSess (s : State) (i j : Nat) (v : Session) (h : mwf Session.init s.sessions = true) :
    (s.setSess i v).sess j = if j = i then v else s.sess j := mget_mset h
@[simp] theorem sess_setSess_same (s : State) (i : Nat) (v : Session) (h : mwf Session.init s.sessions = true) : (s.setSess i v).sess i = v := mget_mset_same h
theorem trigInPin_setTrigIn (s : State) (i j : Nat) (v : TrigPin) (h : mwf TrigPin.init s.trigIn = true) :
    (s.setTrigIn i v).trigInPin j = if j = i then v else s.trigInPin j := mget_mset h
@[simp] theorem trigInPin_setTrigIn_same (s : State) (i : Nat) (v : TrigPin) (h : mwf TrigPin.init s.trigIn = true) : (s.setTrigIn i v).trigInPin i = v := mget_mset_same h
theorem trigOutPin_setTrigOut (s : State) (i j : Nat) (v : TrigPin) (h : mwf TrigPin.init s.trigOut = true) :
    (s.setTrigOut i v).trigOutPin j = if j = i then v else s.trigOutPin j := mget_mset h
@[simp] theorem trigOutPin_setTrigOut_same (s : State) (i : Nat) (v : TrigPin) (h : mwf TrigPin.init s.trigOut = true) : (s.setTrigOut i v).trigOutPin i = v := mget_mset_same h
theorem updParcel_eq (s : State) (i : Nat) (f : Parcel → Parcel) : s.updParcel i f = s.setParcel i (f (s.parcel i)) := rfl
theorem updCluster_eq (s : State) (i : Nat) (f : Cluster → Cluster) : s.updCluster i f = s.setCluster i (f (s.cluster i)) := rfl
theorem updGroup_eq (s : State) (i : Nat) (f : RunGroup → RunGroup) : s.updGroup i f = s.setGroup i (f (s.group i)) := rfl
theorem updStack_eq (s : State) (i : Nat) (f : Stack → Stack) : s.updStack i f = s.setStack i (f (s.stack i)) := rfl
theorem updQuad_eq (s : State) (i : Nat) (f : Quad → Quad) : s.updQuad i f = s.setQuad i (f (s.quad i)) := rfl
theorem updLane_eq (s : State) (i : Nat) (f : Lane → Lane) : s.updLane i f = s.setLane i (f (s.lane i)) := rfl
theorem updBridge_eq (s : State) (i : Nat) (f : Bridge → Bridge) : s.updBridge i f = s.setBridge i (f (s.bridge i)) := rfl
theorem updEngine_eq (s : State) (i : Nat) (f : Engine → Engine) : s.updEngine i f = s.setEngine i (f (s.engine i)) := rfl
theorem updSess_eq (s : State) (i : Nat) (f : Session → Session) : s.updSess i f = s.setSess i (f (s.sess i)) := rfl

end Sys2Proof.Machine.State
end

