-- ==== Sys2Proof/Laws/Ops.lean ====
section
/-! SUPPORT. What the shared operations can do: their frames, and the one form in which a host command ends. -/
namespace Sys2Proof.Machine

-- repetition

/-- What one turn keeps, all keep. -/
theorem forEach_keep {σ : Type} {P : σ → Prop} {l : List Nat} {f : Nat → σ → σ} (h : ∀ i s, P s → P (f i s)) {s : σ} (hs : P s) :
    P (forEach l f s) := by
  induction l generalizing s with
  | nil => exact hs
  | cons i l ih => exact ih (h i s hs)

@[simp] theorem forEach_nil {σ : Type} {f : Nat → σ → σ} {s : σ} : forEach [] f s = s := rfl
@[simp] theorem forEach_cons {σ : Type} {i : Nat} {l : List Nat} {f : Nat → σ → σ} {s : σ} :
    forEach (i :: l) f s = forEach l f (f i s) := rfl

-- frames: each operation is an update of the fields named

/-- What raising faults can touch (R134, R420 to R427): records and counters, logbook, interrupts, halts, the stop codewords of lanes. -/
def Faulting (s t : State) : Prop :=
  ∃ faults log freeCtr hub sent groups lanes,
    t = { s with faults := faults, log := log, freeCtr := freeCtr, hub := hub, sent := sent, groups := groups, lanes := lanes }

theorem Faulting.refl (s : State) : Faulting s s := ⟨_, _, _, _, _, _, _, rfl⟩
theorem Faulting.trans {s t u : State} (h : Faulting s t) (k : Faulting t u) : Faulting s u := by
  obtain ⟨_, _, _, _, _, _, _, rfl⟩ := h
  obtain ⟨_, _, _, _, _, _, _, rfl⟩ := k
  exact ⟨_, _, _, _, _, _, _, rfl⟩

/-- What finishing commands and releasing replies can touch (R188, R376, R377, R388, R392): sessions, ready lists, the host's memory, what has
been sent, the boundaries of a stack, and what the fault of a ring can touch. -/
def Replying (s t : State) : Prop :=
  ∃ sessions hostMem hbmStacks faults log freeCtr hub sent groups lanes,
    t = { s with sessions := sessions, hostMem := hostMem, hbmStacks := hbmStacks, faults := faults, log := log, freeCtr := freeCtr, hub := hub
                 sent := sent, groups := groups, lanes := lanes }

theorem Replying.refl (s : State) : Replying s s := ⟨_, _, _, _, _, _, _, _, _, _, rfl⟩
theorem Replying.of {s t : State} (h : Faulting s t) : Replying s t := by
  obtain ⟨_, _, _, _, _, _, _, rfl⟩ := h
  exact ⟨_, _, _, _, _, _, _, _, _, _, rfl⟩
theorem Replying.trans {s t u : State} (h : Replying s t) (k : Replying t u) : Replying s u := by
  obtain ⟨_, _, _, _, _, _, _, _, _, _, rfl⟩ := h
  obtain ⟨_, _, _, _, _, _, _, _, _, _, rfl⟩ := k
  exact ⟨_, _, _, _, _, _, _, _, _, _, rfl⟩

/-- An interrupt (R377): the pending word of the hub, or what has been sent. -/
theorem irq_frame (s : State) (f v : Nat) : s.irq f v = { s with hub := (s.irq f v).hub, sent := (s.irq f v).sent } := by
  unfold State.irq; split <;> rfl

theorem irq_faulting (s : State) (f v : Nat) : Faulting s (s.irq f v) := ⟨_, _, _, _, _, _, _, irq_frame s f v⟩
theorem irq_replying (s : State) (f v : Nat) : Replying s (s.irq f v) := .of (irq_faulting s f v)

/-- A record for the logbook (R436): the logbook and the free counter. -/
theorem logRaw_frame (s : State) (kind flags : Nat) (stamp : Word) (epoch : BitVec 32) (payload : Nat) :
    s.logRaw kind flags stamp epoch payload
      = { s with log := (s.logRaw kind flags stamp epoch payload).log, freeCtr := (s.logRaw kind flags stamp epoch payload).freeCtr } := by
  unfold State.logRaw; split <;> rfl

theorem logHub_faulting (s : State) (kind flags payload : Nat) : Faulting s (s.logHub kind flags payload) :=
  ⟨_, _, _, _, _, _, _, logRaw_frame s kind flags _ _ payload⟩

/-- The queue grows by one record while it has room, and else keeps its records (R436). -/
theorem logRaw_queue (s : State) (kind flags : Nat) (stamp : Word) (epoch : BitVec 32) (payload : Nat) :
    (s.log.queue.length < 64 → ∃ r : LogRec, (s.logRaw kind flags stamp epoch payload).log.queue = s.log.queue ++ [r] ∧ r.kind = kind
        ∧ r.flags = flags ∧ r.stamp = stamp)
      ∧ (64 ≤ s.log.queue.length → (s.logRaw kind flags stamp epoch payload).log.queue = s.log.queue) := by
  constructor
  · intro h; unfold State.logRaw; rw [if_pos h]; exact ⟨_, rfl, rfl, rfl, rfl⟩
  · intro h; unfold State.logRaw; rw [if_neg (by omega)]; rfl

/-- The release of source 7 touches run groups and the waits of commands (R131, R400). -/
theorem releasePause_frame (s : State) (g : Nat) : ∃ groups hub, s.releasePause g = { s with groups := groups, hub := hub } := by
  unfold State.releasePause
  split
  · exact ⟨_, _, rfl⟩
  · exact ⟨_, _, rfl⟩

/-- The fault stop codewords of a halt touch its run group, and the messages of its lanes (R134). -/
theorem sendFaultStop_frame (s : State) (g : Nat) : ∃ groups lanes, s.sendFaultStop g = { s with groups := groups, lanes := lanes } := by
  unfold State.sendFaultStop State.sendStop
  dsimp only
  split
  · refine forEach_keep (P := fun t : State => ∃ groups lanes, t = { s with groups := groups, lanes := lanes }) ?_ ⟨_, _, rfl⟩
    rintro l t ⟨g', l', rfl⟩
    exact ⟨_, _, rfl⟩
  · exact ⟨_, _, rfl⟩

/-- Halting (R420) touches run groups, through the release of source 7 the waits of commands, and with fault stops the lanes. -/
theorem haltFor_frame (s : State) (cls unit code : Nat) :
    ∃ groups hub lanes, s.haltFor cls unit code = { s with groups := groups, hub := hub, lanes := lanes } := by
  unfold State.haltFor
  refine forEach_keep (P := fun t : State => ∃ groups hub lanes, t = { s with groups := groups, hub := hub, lanes := lanes }) ?_ ⟨_, _, _, rfl⟩
  rintro i t ⟨g, h, l, rfl⟩
  split
  · unfold State.haltBegin
    dsimp only
    split
    · obtain ⟨g1, h1, e1⟩ := releasePause_frame (State.updGroup { s with groups := g, hub := h, lanes := l } i (haltMark code)) i
      rw [e1]
      obtain ⟨g2, l2, e2⟩ := sendFaultStop_frame
        { State.updGroup { s with groups := g, hub := h, lanes := l } i (haltMark code) with groups := g1, hub := h1 } i
      exact ⟨g2, h1, l2, e2⟩
    · exact ⟨_, _, _, rfl⟩
  · exact ⟨_, _, _, rfl⟩

theorem haltFor_faulting (s : State) (cls unit code : Nat) : Faulting s (s.haltFor cls unit code) := by
  obtain ⟨g, h, l, e⟩ := haltFor_frame s cls unit code
  exact ⟨_, _, _, h, _, g, l, e⟩

theorem Faulting.ite {s a b : State} {c : Prop} [Decidable c] (h : Faulting s a) (k : Faulting s b) : Faulting s (if c then a else b) := by
  split <;> assumption

/-- SMB_ALERT_N changes only what has been sent (R478). -/
theorem alertOut_faulting (s : State) (was : Bool) : Faulting s (s.alertOut was) :=
  Faulting.ite (Faulting.refl s) ⟨_, _, _, _, _, _, _, rfl⟩

/-- Raising a fault (R420 to R427). -/
theorem raise_faulting (s : State) (e : FaultEv) (extra : Option Nat) : Faulting s (s.raise e extra) := by
  have irqIf (t : State) (o : Option Nat) (h : Faulting s t) :
      Faulting s (match o with | some f => if f = 0 then t else t.irq f 31 | none => t) := by
    cases o with
    | none => exact h
    | some f => exact Faulting.ite h (h.trans (irq_faulting t f 31))
  have last (w : State) (h : Faulting s w) : Faulting s
      (if faultClass e.code e.unit = 3
        then (((w.haltFor (faultClass e.code e.unit) e.unit e.code).faultClaims e.code).faultPulse).alertOut s.alert else w.haltFor (faultClass e.code e.unit) e.unit e.code) :=
    have k := h.trans (haltFor_faulting w (faultClass e.code e.unit) e.unit e.code)
    Faulting.ite ((k.trans ⟨_, _, _, _, _, _, _, rfl⟩).trans (alertOut_faulting _ _)) k
  unfold State.raise
  dsimp only
  split
  · exact ⟨_, _, _, _, _, _, _, rfl⟩
  · refine last _ ?_
    have h1 (u : State) (h : Faulting s u) (n : Nat) (r : Nat) : Faulting s (u.logHub 0x10 n r) := h.trans (logHub_faulting u _ _ _)
    split
    · refine irqIf _ _ (irqIf _ _ (Faulting.trans ?_ (irq_faulting _ 0 31)))
      exact h1 _ ⟨_, _, _, _, _, _, _, rfl⟩ _ _
    · exact h1 _ ⟨_, _, _, _, _, _, _, rfl⟩ _ _

/-- Raising the faults of one step (R424). -/
theorem raiseAll_faulting (s : State) (l : List FaultEv) : Faulting s (s.raiseAll l) := by
  have key (l : List FaultEv) : ∀ s : State, Faulting s (l.foldl (fun t e => t.raise e) s) := by
    induction l with
    | nil => exact Faulting.refl
    | cons e l ih => exact fun s => (raise_faulting s e none).trans (ih _)
  exact key _ s

theorem beginEpisode_faulting (s : State) (e : FaultEv) : Faulting s (s.beginEpisode e) := by
  refine Faulting.ite (Faulting.refl s) ?_
  exact Faulting.trans ⟨_, _, _, _, _, _, _, rfl⟩ (raise_faulting _ e none)

-- replies

theorem Replying.ite {s a b : State} {c : Prop} [Decidable c] (h : Replying s a) (k : Replying s b) : Replying s (if c then a else b) := by
  split <;> assumption

theorem finishParked_replying (s : State) (f : Entry → Wait → Option (Nat × Nat × Nat)) : Replying s (s.finishParked f) :=
  ⟨_, _, _, _, _, _, _, _, _, _, rfl⟩

/-- A session enters ERROR (R375, R376). -/
theorem sessionError_replying (s : State) (i cause : Nat) : Replying s (s.sessionError i cause) :=
  Replying.trans (.trans (⟨_, _, _, _, _, _, _, _, _, _, rfl⟩) (.of (raise_faulting _ _ _))) (.trans (⟨_, _, _, _, _, _, _, _, _, _, rfl⟩) (irq_replying _ _ _))

/-- A released reply (R376, R377). -/
theorem releaseOne_replying (s : State) (i : Nat) (r : Reply) (n : Bool) : Replying s (s.releaseOne i r n) := by
  refine Replying.ite ?_ (⟨_, _, _, _, _, _, _, _, _, _, rfl⟩)
  refine Replying.ite (.trans (⟨_, _, _, _, _, _, _, _, _, _, rfl⟩) (sessionError_replying _ _ _)) ?_
  refine Replying.ite ?_ (⟨_, _, _, _, _, _, _, _, _, _, rfl⟩)
  exact Replying.trans (⟨_, _, _, _, _, _, _, _, _, _, rfl⟩) (irq_replying _ _ _)

/-- HBM_PARTITION at its release (R188). -/
theorem applyReleased_replying (s : State) (e : Entry) (r : Reply) : Replying s (s.applyReleased e r) :=
  Replying.ite (⟨_, _, _, _, _, _, _, _, _, _, rfl⟩) (Replying.refl s)

theorem release_replying (s : State) : Replying s s.release := by
  have key (l : List Entry) : ∀ kept blocked (t : State), Replying t (releaseLoop l kept blocked t) := by
    induction l with
    | nil => exact fun _ _ _ => ⟨_, _, _, _, _, _, _, _, _, _, rfl⟩
    | cons e l ih =>
      intro kept blocked t
      unfold releaseLoop
      split
      · exact Replying.ite ((applyReleased_replying _ _ _).trans (ih _ _ _))
          (Replying.ite (((releaseOne_replying _ _ _ _).trans (applyReleased_replying _ _ _)).trans (ih _ _ _)) (ih _ _ _))
      · exact ih _ _ _
  exact key _ _ _ s

theorem settleSession_replying (s : State) (i : Nat) : Replying s (s.settleSession i) :=
  Replying.ite (⟨_, _, _, _, _, _, _, _, _, _, rfl⟩) (Replying.refl s)

/-- What follows every command: replies released, session resets finished (R388, R392). -/
theorem settle_replying (s : State) : Replying s s.settle := by
  refine Replying.ite (release_replying s) ?_
  refine Replying.trans (Replying.trans ?_ (finishParked_replying _ _)) (release_replying _)
  exact forEach_keep (P := Replying s) (fun i t h => h.trans (settleSession_replying t i)) (release_replying s)

-- the form of a host command

/-- How an answer ends, whatever it is: the state it carries, with its entry finished or parked, then settled. -/
theorem conclude_replying (op : Nat) (p : Packet) (a : Ans) :
    Replying (match a with | .reply _ _ _ t => t | .park _ t => t | .silent t => t) (conclude op p a) := by
  cases a with
  | reply st d r t => exact Replying.trans (⟨_, _, _, _, _, _, _, _, _, _, rfl⟩) (settle_replying _)
  | park w t => exact Replying.trans (⟨_, _, _, _, _, _, _, _, _, _, rfl⟩) (settle_replying _)
  | silent t => exact settle_replying t

/-- The row of a command does what `run` does, waits, or takes an entry of the ready list (R385, R386). -/
theorem gated_cases (op : Nat) (p : Packet) (s run : State) :
    gated op p s run = s ∨ gated op p s run = run ∨ ∃ hub, gated op p s run = { s with hub := hub } := by
  unfold gated
  split
  · exact .inr (.inl rfl)
  · exact .inl rfl
  · split
    · exact .inr (.inr ⟨_, rfl⟩)
    · exact .inl rfl

/-- Everything a host command can do (R381, R385, R397): nothing, or an entry of the ready list, where it does not execute; a failed or empty
command replies only; else its own answer is put into effect. -/
theorem command_cases (op : Nat) (p : Packet) (s : State) (bad : Option Nat) (zero : Bool) (own : Ans) :
    command op p s bad zero own = s ∨ (∃ hub, command op p s bad zero own = { s with hub := hub })
      ∨ (∃ st d, command op p s bad zero own = conclude op p (fail s st d)) ∨ command op p s bad zero own = conclude op p own := by
  unfold command
  split
  · exact .inl rfl
  · rcases gated_cases op p s _ with e | e | ⟨h, e⟩ <;> rw [e]
    · exact .inl rfl
    · repeat' split
      all_goals first | exact .inr (.inr (.inr rfl)) | exact .inr (.inr (.inl ⟨_, _, rfl⟩))
    · exact .inr (.inl ⟨h, rfl⟩)

/-- A command that executes and passes the common checks puts its own answer into effect. -/
theorem command_accepted {op : Nat} {p : Packet} {s : State} {bad : Option Nat} {zero : Bool} {own : Ans}
    (h : Accepted op p s bad zero) : command op p s bad zero own = conclude op p own := by
  obtain ⟨h1, h2, h3, rfl, rfl, h6⟩ := h
  unfold command gated
  simp only [h1, h2, h3, Bool.true_eq_false, if_false, Bool.false_eq_true]
  rw [if_neg]
  rintro ⟨h7, h8⟩
  exact absurd (h6 h7) (by simp [h8])

/-- A command whose own answer only replies on its state, touches nothing but replies. -/
theorem command_replying {op : Nat} {p : Packet} {s : State} {bad : Option Nat} {zero : Bool} {own : Ans}
    (h : Replying s (match own with | .reply _ _ _ t => t | .park _ t => t | .silent t => t)) : Replying s (command op p s bad zero own) := by
  rcases command_cases op p s bad zero own with e | ⟨hub, e⟩ | ⟨st, d, e⟩ | e <;> rw [e]
  · exact Replying.refl s
  · exact ⟨_, _, _, _, _, _, _, _, _, _, rfl⟩
  · exact conclude_replying op p (fail s st d)
  · exact h.trans (conclude_replying op p own)

end Sys2Proof.Machine
end

