-- ==== Sys2Proof/Laws/BP.lean ====
section
/-! SUPPORT. What one instruction of a BP can do to the state. -/
namespace Sys2Proof.Machine

/-- What executing an instruction can touch (R37 to R74): the stores of its BP with their check marks, the result register, its cluster,
the power count of its parcel, and, through a stop or a fault, run groups, lanes and what faults touch. -/
def Executing (s t : State) : Prop :=
  ∃ values cur stg pend result ecc clusters parcels groups lanes faults log freeCtr hub sent,
    t = { s with values := values, cur := cur, stg := stg, pend := pend, result := result, ecc := ecc, clusters := clusters
                 parcels := parcels, groups := groups, lanes := lanes, faults := faults, log := log, freeCtr := freeCtr, hub := hub
                 sent := sent }

theorem Executing.refl (s : State) : Executing s s := ⟨_, _, _, _, _, _, _, _, _, _, _, _, _, _, _, rfl⟩
theorem Executing.trans {s t u : State} (h : Executing s t) (k : Executing t u) : Executing s u := by
  obtain ⟨_, _, _, _, _, _, _, _, _, _, _, _, _, _, _, rfl⟩ := h
  obtain ⟨_, _, _, _, _, _, _, _, _, _, _, _, _, _, _, rfl⟩ := k
  exact ⟨_, _, _, _, _, _, _, _, _, _, _, _, _, _, _, rfl⟩
theorem Faulting.executing {s t : State} (h : Faulting s t) : Executing s t := by
  obtain ⟨_, _, _, _, _, _, _, rfl⟩ := h
  exact ⟨_, _, _, _, _, _, _, _, _, _, _, _, _, _, _, rfl⟩
theorem Executing.ite {s a b : State} {c : Prop} [Decidable c] (h : Executing s a) (k : Executing s b) : Executing s (if c then a else b) := by
  split <;> assumption

theorem sendStop_executing (s : State) (g : Nat) (fault : Bool) (c : Word) (except : Option Nat) : Executing s (s.sendStop g fault c except) := by
  unfold State.sendStop
  exact forEach_keep (P := Executing s) (fun i t h => h.trans ⟨_, _, _, _, _, _, _, _, _, _, _, _, _, _, _, rfl⟩) (Executing.refl s)

theorem stopDue_executing (s : State) (g cause : Nat) (n : Word) : Executing s (s.stopDue g cause n) := by
  refine Executing.ite (Executing.refl s) ?_
  refine Executing.ite (Executing.trans ⟨_, _, _, _, _, _, _, _, _, _, _, _, _, _, _, rfl⟩ (sendStop_executing _ _ _ _ _)) ?_
  exact ⟨_, _, _, _, _, _, _, _, _, _, _, _, _, _, _, rfl⟩

theorem readFaults_executing (bp step : Nat) (cycle : Word) (l : List ReadEv) : ∀ s : State, Executing s (readFaults s bp step cycle l).1 := by
  induction l with
  | nil => exact Executing.refl
  | cons e l ih =>
    intro s
    cases e with
    | stale r => exact ih s
    | ce st e => exact Executing.trans ⟨_, _, _, _, _, _, _, _, _, _, _, _, _, _, _, rfl⟩ (ih _)
    | ue st e => exact ih s

theorem eccWrite_executing (s : State) (store bp entry step : Nat) (cycle : Word) : Executing s (eccWrite s store bp entry step cycle).1 := by
  unfold eccWrite
  dsimp only
  generalize bp * (if store = 1 then 512 else 128) + entry / 8 = w
  by_cases h0 : s.eccAt store w = 0
  · rw [if_pos h0]; exact Executing.refl s
  · rw [if_neg h0]
    by_cases h1 : s.eccAt store w = 1
    · rw [if_pos h1]; exact ⟨_, _, _, _, _, _, _, _, _, _, _, _, _, _, _, rfl⟩
    · rw [if_neg h1]
      refine forEach_keep (P := Executing s) (fun i t h => ?_) ⟨_, _, _, _, _, _, _, _, _, _, _, _, _, _, _, rfl⟩
      refine Executing.ite ?_ (Executing.ite ?_ ?_) <;> exact h.trans ⟨_, _, _, _, _, _, _, _, _, _, _, _, _, _, _, rfl⟩

theorem postEvent_executing (s : State) (bp step : Nat) (cycle : Word) (id : Nat) (x : Bool) : Executing s (postEvent s bp step cycle id x).1 := by
  unfold postEvent
  dsimp only
  split <;> exact ⟨_, _, _, _, _, _, _, _, _, _, _, _, _, _, _, rfl⟩

/-- What one instruction yields is written, whatever it is. -/
theorem bpApply_executing (s : State) (g bp step : Nat) (cycle : Word) (o : BpOut) : Executing s (bpApply s g bp step cycle o).1 := by
  have h0 := readFaults_executing bp step cycle o.reads s
  have cur (q : State × List FaultEv) (h : Executing s q.1) : Executing s (match o.cur with
      | some (j, v) => ((eccWrite q.1 2 bp j step cycle).1.setCur bp j v, q.2 ++ (eccWrite q.1 2 bp j step cycle).2)
      | none => (q.1, q.2)).1 := by
    split
    · exact h.trans ((eccWrite_executing _ _ _ _ _ _).trans ⟨_, _, _, _, _, _, _, _, _, _, _, _, _, _, _, rfl⟩)
    · exact h
  have stage (q : State × List FaultEv) (h : Executing s q.1) : Executing s (match o.stage with
      | some (j, v) => ((eccWrite q.1 8 bp j step cycle).1.setStaged bp j v, q.2 ++ (eccWrite q.1 8 bp j step cycle).2)
      | none => (q.1, q.2)).1 := by
    split
    · exact h.trans ((eccWrite_executing _ _ _ _ _ _).trans ⟨_, _, _, _, _, _, _, _, _, _, _, _, _, _, _, rfl⟩)
    · exact h
  have result (q : State × List FaultEv) (h : Executing s q.1) : Executing s (match o.result with
      | some v => (((eccWrite q.1 1 bp step step cycle).1.setValue bp step v).setResult bp v, q.2 ++ (eccWrite q.1 1 bp step step cycle).2)
      | none => (q.1.setResult bp .x, q.2)).1 := by
    split
    · exact h.trans ((eccWrite_executing _ _ _ _ _ _).trans ⟨_, _, _, _, _, _, _, _, _, _, _, _, _, _, _, rfl⟩)
    · exact h.trans ⟨_, _, _, _, _, _, _, _, _, _, _, _, _, _, _, rfl⟩
  have port (t : State) (h : Executing s t) : Executing s (match o.port with
      | some (pair, pos, v) => t.updCluster (bpCluster bp) fun k => { k with port := portWrite k.port pair pos v }
      | none => t) := by
    split
    · exact h.trans ⟨_, _, _, _, _, _, _, _, _, _, _, _, _, _, _, rfl⟩
    · exact h
  have tap (t : State) (h : Executing s t) : Executing s (match o.tap with
      | some (pos, v) => t.updCluster (bpCluster bp) fun k => { k with port := { k.port with probe := mset .x pos v k.port.probe } }
      | none => t) := by
    split
    · exact h.trans ⟨_, _, _, _, _, _, _, _, _, _, _, _, _, _, _, rfl⟩
    · exact h
  have event (q : State × List FaultEv) (h : Executing s q.1) : Executing s (match o.event with
      | some (id, x) => ((postEvent q.1 bp step cycle id x).1, q.2 ++ (postEvent q.1 bp step cycle id x).2)
      | none => (q.1, q.2)).1 := by
    split
    · exact h.trans (postEvent_executing _ _ _ _ _ _)
    · exact h
  have last (t : State) (h : Executing s t) :
      Executing s (if o.heavy then (if o.stop then t.stopDue g 1 cycle else t).countHeavy (bpParcel bp) 1
        else (if o.stop then t.stopDue g 1 cycle else t)) := by
    have k := Executing.ite (c := o.stop = true) (h.trans (stopDue_executing t g 1 cycle)) h
    exact Executing.ite (k.trans ⟨_, _, _, _, _, _, _, _, _, _, _, _, _, _, _, rfl⟩) k
  have h1 := cur ((readFaults s bp step cycle o.reads).1, (readFaults s bp step cycle o.reads).2
    ++ (match o.illegal with | some acc => [bpFault 0x1007 acc bp step cycle 0] | none => [])) h0
  exact last _ (event (_, _) (tap _ (port _ (result (_, _) (stage (_, _) h1)))))

/-- One instruction of a BP, whatever its word: where it can reach. -/
theorem oneIns_executing (s : State) (bp : Nat) (i : InsWord) : Executing s (oneIns s bp i) := by
  unfold oneIns
  split
  · exact Executing.refl s
  · exact (bpApply_executing _ _ _ _ _ _).trans (raiseAll_faulting _ _).executing

/-- A row that names a BP answers the execution of its instruction, or a fault for a BP that does not exist. -/
theorem bpRow_cases (s : State) (bp : Nat) (i : InsWord) :
    (bp < 32768 ∧ bpRow s bp i = .next (oneIns s bp i)) ∨ (32768 ≤ bp ∧ bpRow s bp i = .fault .noSuchUnit) := by
  unfold bpRow
  split
  · exact .inl ⟨‹_›, rfl⟩
  · exact .inr ⟨by omega, rfl⟩

end Sys2Proof.Machine
end

