-- ==== Sys2Proof/Tests/Slice0.lean ====
section
/-! SUPPORT. Tests: ill-formed commands are refused, small steps against the spec's own examples, and for every statement a state that
meets its hypotheses. -/
set_option exponentiation.threshold 400
set_option Elab.async false
namespace Sys2Proof.Tests
open Sys2Proof.Machine

-- the states of the tests

/-- The image of the test design: one parcel, HBM budget 40 steps. -/
def img : Image :=
  { hdrCrc := 0, imageId := 7, parcels := [0], spanning := false, sheet := 0, dx := 0, dy := 0, footW := 4, footE := 0,
    hbmBudget := 40, cls := 4, nVquads := 0, nVbridges := 0, quadClass := 0, classMask := 0, keySlot := none, quadBind := [],
    bridgeBind := [], allots := [], compare := [] }

/-- A run group of depth 256 on parcel 0, at step 10 of cycle 5. -/
def rg0 : RunGroup :=
  { RunGroup.init with parcels := [0], images := [img], n := 256, step := 10, cycle := 5, state := .running, lastOpp := some 0
                       ranLast := true }

/-- A part in full service on which that group runs, owned by group 0. -/
def up : State :=
  { State.reset with
    boot := { Boot.init with stage := .full, s3Done := true, s4Done := true, s5Done := true, afterVstby := false, fwMajor := 3 }
    parcels := [(0, { Parcel.init with owned := true, load := .loaded, rg := some 0 })]
    groups := [(0, rg0)]
    clusters := [(0, { Cluster.init with winSide := 0, winLog := 10 })] }

/-- The command ends in a state. -/
def ends (c : Instr) (s t : State) : Bool :=
  match exec c s with
  | .next u => decide (u = t)
  | _ => false


/-- A packet with parameter fields: byte offset and value. -/
def pkt (session : Nat) (fields : List (Nat × Nat)) : Packet :=
  { session := session, flow := 0, flags := 0, tag := 1, buf := 0, len := 0
    params := BitVec.ofNat 352 ((fields.map fun f => f.2 * 2 ^ ((f.1 - 20) * 8)).sum) }

/-- The state after a command, or the same state where it stops. -/
def after (c : Instr) (s : State) : State := match exec c s with | .next t => t | _ => s


-- well-formed commands: each check refuses a term that breaks it, and takes the greatest term that does not

/-- The greatest packet, and codeword, and network packet that are well formed. -/
def pktMax : Packet := { session := 1023, flow := 255, flags := 0, tag := 0, buf := 0, len := 0, params := 0 }
def cw0 : Codeword :=
  { type := 15, vc := 3, hold := false, retx := false, stepTag := 4095, cyc := 15, pseq := 255, ack := 255, credit := 63, zero := 511
    body := 0, corr := 2, time := 0 }
def net0 : NetPacket :=
  { vc := 3, prio := false, dst := 1023, src := 1023, type := 15, tag := 4095, group := 63, internal := false
    addr := 2 ^ 36 - 1, data := [], ue := 2 ^ 64 - 1, fixed := 72, badSide := true }

theorem test_wf_packet : packetWf pktMax = true ∧ packetWf { pktMax with session := 1024 } = false
    ∧ packetWf { pktMax with flow := 256 } = false := by decide +kernel
theorem test_wf_codeword : codewordWf cw0 = true ∧ codewordWf { cw0 with type := 16 } = false
    ∧ codewordWf { cw0 with vc := 4 } = false
    ∧ codewordWf { cw0 with stepTag := 4096 } = false ∧ codewordWf { cw0 with cyc := 16 } = false
    ∧ codewordWf { cw0 with pseq := 256 } = false ∧ codewordWf { cw0 with ack := 256 } = false
    ∧ codewordWf { cw0 with credit := 64 } = false ∧ codewordWf { cw0 with zero := 512 } = false
    ∧ codewordWf { cw0 with corr := 3 } = false := by decide +kernel
theorem test_wf_net : netPacketWf net0 = true ∧ netPacketWf { net0 with vc := 4 } = false
    ∧ netPacketWf { net0 with dst := 1024 } = false ∧ netPacketWf { net0 with src := 1024 } = false
    ∧ netPacketWf { net0 with type := 16 } = false ∧ netPacketWf { net0 with tag := 4096 } = false
    ∧ netPacketWf { net0 with group := 64 } = false ∧ netPacketWf { net0 with addr := 2 ^ 36 } = false
    ∧ netPacketWf { net0 with data := List.replicate 513 0 } = false ∧ netPacketWf { net0 with ue := 2 ^ 64 } = false
    ∧ netPacketWf { net0 with fixed := 73 } = false := by decide +kernel
theorem test_wf_units : (Instr.stepExecute 31).wf = true ∧ (Instr.stepExecute 32).wf = false ∧ (Instr.nop 32768).wf = false
    ∧ (Instr.probeShip 512).wf = false ∧ (Instr.insetReceive 0 8).wf = false ∧ (Instr.receiveSlotArrival 0 256).wf = false
    ∧ (Instr.cargoDelivery 36 0).wf = false ∧ (Instr.cargoDelivery 0 8).wf = false ∧ (Instr.autoTimeout 2).wf = false
    ∧ (Instr.timedEventDue (.surveyAt 32)).wf = false ∧ (Instr.backdoorGrantTimeout 0 4).wf = false
    ∧ (Instr.trigOutEdge 4).wf = false ∧ (Instr.peerDelayExchange 36).wf = false ∧ (Instr.codewordTransmit 144).wf = false
    ∧ (Instr.resend 144 cw0 0).wf = false ∧ (Instr.resend 0 cw0 8).wf = false ∧ (Instr.nak 144 cw0).wf = false
    ∧ (Instr.nak 0 { cw0 with corr := 3 }).wf = false ∧ (Instr.stopCodeword 0 cw0 8).wf = false
    ∧ (Instr.xoff { lane := 144, cw := cw0 }).wf = false ∧ (Instr.sleep { lane := 0, cw := { cw0 with vc := 4 } }).wf = false
    ∧ (Instr.checkerLock { lane := 144, syms := 0, errs := 0 }).wf = false
    ∧ (Instr.pauseFrame 0 true 256 0).wf = false ∧ (Instr.pauseFrame 0 true 0 65536).wf = false
    ∧ (Instr.pauseExpiry 0 9).wf = false ∧ (Instr.parcelAutoSleep 32).wf = false := by decide +kernel
theorem test_wf_part : (Instr.domainWakeDone (.parcel 32)).wf = false ∧ (Instr.domainWakeDone (.stack 4)).wf = false
    ∧ (Instr.domainWakeDone (.quad 36)).wf = false ∧ (Instr.domainWakeDone (.trace 2)).wf = false
    ∧ (Instr.domainWakeDone (.bridge 8)).wf = false ∧ (Instr.reconfigurationAbandon 40).wf = false
    ∧ (Instr.tagTimeout 4096).wf = false ∧ (Instr.hubReset 6).wf = false ∧ (Instr.fwWatchdog 9).wf = false
    ∧ (Instr.sqTail 1024 0).wf = false ∧ (Instr.functionLevelReset 64).wf = false ∧ (Instr.vfEnableChange true 64).wf = false
    ∧ (Instr.mainRailsChange 0 (some 8)).wf = false ∧ (Instr.railExcursion 8 0).wf = false
    ∧ (Instr.sensorSample []).wf = false ∧ (Instr.throttlePeriod (2 ^ 32)).wf = false ∧ (Instr.s1Ready 65536).wf = false
    ∧ (Instr.mctpLogRead 256 0).wf = false ∧ (Instr.mctpLogRead 0 (2 ^ 64)).wf = false
    ∧ (Instr.hbmRefresh 4).wf = false := by decide +kernel


-- Boolean processors. The constants of the selector table are 7168 (0), 7169 (1), 7170 (Z) and 7171 (X), a state entry j is 4096 + j.

/-- The examples of R46: a table of AND decides 0 with one input 0 and the other X, and gives X with 1 and X. -/
theorem test_lut4x : lut4x 0x8888 .zero .x .zero .z = .zero ∧ lut4x 0x8888 .one .x .zero .zero = .x := by decide
/-- Lut4xExact: a completion keeps what is known and sets the rest to either value; there are tables that give one value, and both. -/
theorem wit_Lut4xExact : known .x = false ∧ known .z = false ∧ V4.one = v4b true ∧ lut4x 0xFFFF .x .z .x .x = .one
    ∧ lut4x 0xCACA .x .x .zero .zero = .x := by decide
theorem test_lut4p : lut4p 0x8888 .zero .x .zero .zero = .x := by decide
theorem test_lut2s : lut2s 0x8888 .one .z .zero .zero = .zero := by decide

/-- BpResults: the four operands are readable in `up`, at the last BP of the cluster too. -/
theorem wit_BpResults : AtStep up 63 0 rg0 ∧ Readable up 63 rg0.cycle [7168, 7169, 7171, 7170] ∧ Readable up 63 rg0.cycle [7168, 4095]
    ∧ Readable up 63 rg0.cycle [6143 - 960, 7424, 7360] ∧ bitsOf (0x000D : BitVec 16).toNat 0 3 < 6
    ∧ bitsOf (71 : BitVec 16).toNat 0 7 < 72 ∧ (71 : BitVec 16).getLsbD 7 = false
    ∧ bitsOf (0x80 + 35 : BitVec 16).toNat 0 6 < 36 ∧ (0x80 + 35 : BitVec 16).getLsbD 7 = true := by
  simp only [AtStep, Readable, List.forall_mem_cons, List.not_mem_nil, false_imp_iff, implies_true, and_true]; decide +kernel
theorem test_BpResults :
    exec (.lut4x 63 0x8888 7168 7171 7168 7168) up = .next ((up.wrote 63 10 .zero).countHeavy 0 1)
    ∧ exec (.resolve 63 0 7169 7170 7170 7170) up = .next (up.wrote 63 10 .one)
    ∧ exec (.caseq 63 0 7171 7171) up = .next (up.wrote 63 10 .one)
    ∧ exec (.mux2x 63 7168 7168 7171) up = .next ((up.wrote 63 10 .zero).countHeavy 0 1)
    ∧ exec (.const 63 2) up = .next (up.wrote 63 10 .z) ∧ exec (.portrd 63 0) up = .next (up.wrote 63 10 .x) := by and_intros <;> rfl

/-- BpStateWrites: each of the seven enables. -/
theorem wit_BpStateWrites : AtStep up 0 0 rg0 ∧ selOf 5119 = .state 1023 ∧ up.eccAt 8 (0 * 128 + 1023 / 8) = 0
    ∧ (∀ b ∈ ([7168, 7169, 7171] : List (BitVec 13)), Readable up 0 rg0.cycle [7169, b, 5119])
    ∧ lg (up.val 0 rg0.cycle 7169) = .one ∧ lg (up.val 0 rg0.cycle 7168) = .zero ∧ lg (up.val 0 rg0.cycle 7171) = .x
    ∧ up.val 0 rg0.cycle 7169 ≠ up.val 0 rg0.cycle 5119 ∧ up.val 0 rg0.cycle 7171 = up.val 0 rg0.cycle 5119 := by
  simp only [AtStep, Readable, List.forall_mem_cons, List.not_mem_nil, false_imp_iff, implies_true, and_true]; decide +kernel
theorem test_latch :
    exec (.latch 0 0 7169 7169 5119) up = .next ((up.setCur 0 1023 .one).wrote 0 10 .one)
    ∧ exec (.latch 0 0 7169 7171 5119) up = .next ((up.setCur 0 1023 .x).wrote 0 10 .x)
    ∧ exec (.latch 0 1 7169 7169 5119) up = .next (up.wrote 0 10 .x) := by and_intros <;> rfl
theorem test_ffnext :
    exec (.ffnext 0 0 7169 7168 5119) up = .next ((up.setStaged 0 1023 .one).wrote 0 10 .one)
    ∧ exec (.ffnext 0 1 7169 7168 5119) up = .next (up.wrote 0 10 .x)
    ∧ exec (.ffnext 0 1 7168 7171 5119) (up.setStaged 0 1023 .zero) = .next ((up.setStaged 0 1023 .zero).wrote 0 10 .zero) := by and_intros <;> rfl

/-- BpActions: the operands, the room of the FIFO, the words. -/
theorem wit_BpActions : AtStep up 1 0 rg0 ∧ Readable up 1 rg0.cycle [7168] ∧ Readable up 1 rg0.cycle [7169]
    ∧ Readable up 1 rg0.cycle [7171] ∧ (105 : BitVec 16).getLsbD 7 = false ∧ bitsOf (105 : BitVec 16).toNat 0 7 < 106
    ∧ (0x80 + 35 : BitVec 16).getLsbD 7 = true ∧ bitsOf (0x80 + 35 : BitVec 16).toNat 0 6 < 36
    ∧ lg (up.val 1 rg0.cycle 7168) = .zero ∧ lg (up.val 1 rg0.cycle 7171) ≠ .zero ∧ (up.cluster 0).asserts.length < 16
    ∧ up.watcher 0 = none ∧ lg (up.val 1 rg0.cycle 7169) = .one ∧ ((1 : BitVec 16).getLsbD 0 = true ∧ lg (up.val 1 rg0.cycle 7171) = .x)
    ∧ (insOf (15 * 2 ^ 68 : BitVec 72)).illegal = some 4 ∧ (15 * 2 ^ 68 : BitVec 72).extractLsb' 68 4 = 15 := by
  simp only [AtStep, Readable, List.forall_mem_cons, List.not_mem_nil, false_imp_iff, implies_true, and_true]; decide +kernel
theorem test_BpActions :
    exec (.portwr 1 5 7169) up = .next ((up.wrote 1 10 .one).updCluster 0 fun k => { k with port := portWrite k.port false 5 .one })
    ∧ exec (.tap 1 63 7170) up = .next ((up.wrote 1 10 .z).updCluster 0 fun k =>
        { k with port := { k.port with probe := [(63, .z)] } })
    ∧ exec (.assert 1 9 7171) up = .next ((up.wrote 1 10 .x).updCluster 0 fun k =>
        { k with asserts := [{ cycle := 5, step := 10, id := 9, isX := true, bp := 1 }] })
    ∧ exec (.stop 1 0 7169) up = .next ((up.wrote 1 10 .one).stopDue 0 1 5)
    ∧ exec (.nop 1) up = .next (up.setResult 1 .x) := by and_intros <;> rfl
/-- The engine that watches cluster 0 with a matcher that takes every event, and a FIFO with a number of events. -/
def sAssert (n : Nat) : State :=
  (up.setEngine 0 { Engine.init with state := .filling, rg := some 0, clusters := [0], matchers := [{ id := 0, mask := 0, val := 3 }] }).updCluster 0
    fun v => { v with asserts := List.replicate n { cycle := 5, step := 1, id := 9, isX := true, bp := 1 } }
theorem wit_BpActions_watched : AtStep (sAssert 15) 1 0 rg0 ∧ AtStep (sAssert 16) 1 0 rg0 ∧ Readable (sAssert 15) 1 rg0.cycle [7169]
    ∧ Readable (sAssert 16) 1 rg0.cycle [7169] ∧ ((sAssert 15).watcher 0).isSome = true ∧ ((sAssert 15).cluster 0).asserts.length < 16
    ∧ 16 ≤ ((sAssert 16).cluster 0).asserts.length ∧ (0 : BitVec 16).getLsbD 0 = false ∧ lg (up.val 1 rg0.cycle 7171) = .x := by
  simp only [AtStep, Readable, List.forall_mem_cons, List.not_mem_nil, false_imp_iff, implies_true, and_true]; decide +kernel
theorem test_assertFull : let t := after (.assert 1 9 7169) (sAssert 16)
    (t.cluster 0).asserts.length = 16 ∧ (t.cluster 0).matched = [(0, some 10)] ∧ t.faultCount 0x1004 = 1
    ∧ ((after (.stop 1 0 7171) up).group 0).stops = [] := by decide +kernel
theorem test_illegal :
    let t := after (.reservedOpcode 1 (15 * 2 ^ 68)) up
    t.valueAt 1 10 = .x ∧ (t.faultRec 0).map (·.code) = some 0x1007 := by decide +kernel


-- the cluster port

/-- `up` with values on the write side of the port of cluster 0. -/
def sPort : State := up.updCluster 0 fun v =>
  { v with port := { v.port with staging := 0x155123456789ABCDEF0, x := 0xFFFF, y := 2, bankWen := .x, hbmWen := .one } }
/-- The same with an unknown bit in the register Y. -/
def sPortX : State := sPort.updCluster 0 fun v => { v with port := { v.port with yu := 4, xu := 1 } }

/-- BankSlots: slot B with a wrap of the address; unknown bits. -/
theorem wit_BankSlots :
    sPort.runningAt 0 = some (0, rg0) ∧ sPort.eccAt 6 (0 * 65536 + 0x0F) = 0
    ∧ 0x0F = ((⟨0x10, true⟩ : PortAddr).addr.toNat + (sPort.cluster 0).port.x.toNat) % 65536
    ∧ (sPort.cluster 0).port.xu = 0 ∧ (sPort.cluster 0).port.bankWen = .x
    ∧ sPortX.runningAt 0 = some (0, rg0) ∧ (sPortX.cluster 0).port.yu ≠ 0
    ∧ { sPort with ecc := [(eccKey 6 0x0F, 2)] }.runningAt 0 = some (0, rg0)
    ∧ { sPort with ecc := [(eccKey 6 0x0F, 2)] }.eccAt 6 (0 * 65536 + 0x0F) ≠ 0 := by decide +kernel
theorem test_BankSlots :
    exec (.bankRead 0 .b ⟨0x10, true⟩) sPort
      = .next ((sPort.addLanding 0 { step := 17, hbm := false, data := 0, known := true, ready := true }).countHeavy 0 2)
    ∧ exec (.bankWrite 0 .a ⟨0x10, true⟩) sPort = .next ((sPort.bankStore 0 0x0F 0x5123456789ABCDEF0).countHeavy 0 2)
    ∧ exec (.bankWriteIfEnable 0 .b ⟨0x10, true⟩) sPort
      = .next ((sPort.bankStore 0 0x12 0xFFFFFFFFFFFFFFFF).countHeavy 0 2) := by and_intros <;> rfl
theorem test_BankSlots_unknown :
    exec (.bankRead 0 .a ⟨0x10, true⟩) sPortX
      = .next ((sPortX.addLanding 0 { step := 16, hbm := false, data := 0, known := false, ready := true }).countHeavy 0 2)
    ∧ exec (.bankWrite 0 .b ⟨0x10, true⟩) sPortX = .next (sPortX.countHeavy 0 2) := by and_intros <;> rfl

theorem test_BankSlots_marked : let t := after (.bankRead 0 .b ⟨0x10, false⟩) { sPort with ecc := [(eccKey 6 0x10, 2)] }
    (t.cluster 0).landings.map (·.known) = [false] ∧ (t.cluster 0).checks = [{ wait := 2, word := 0x10, mark := 2 }]
    ∧ t.faults = up.faults := by decide +kernel

/-- BankStoreReadsBack, at the last word. -/
theorem wit_BankStoreReadsBack : up.memoriesWf = true ∧ 65535 < 65536 ∧ bankAddr 0 65535 + 8 ≤ bankAddr 1 0 := by decide +kernel

/-- HbmAndInsetPort: a queue with room and a full one (16 entries), a staging queue with room and a full one (8 entries), the bridge's
queue empty and filled, and the valid bit. -/
def rdReq : HbmReq :=
  { cycle := 5, step := 9, isWrite := false, stack := 0, word := none, wdata := none, sent := true, applied := false, rdata := none
    back := false }
def sReqs : State := sPort.updCluster 0 fun v => { v with reqs := List.replicate 16 rdReq }
def sStaged : State := sPort.updCluster 0 fun v => { v with staged := List.replicate 8 (.hbm 5 9) }
def fr : BFrame := { bytes := (List.range 20).map fun i => BitVec.ofNat 8 i, error := false, stamp := 0, cycle := 0, step := 0 }
def sRx : State := sPort.updBridge 3 fun q => { q with rxQ := [fr], rxPos := 8, rg := some 0 }
theorem wit_HbmAndInsetPort :
    sPort.runningAt 0 = some (0, rg0) ∧ (sPort.cluster 0).winSide < 2 ∧ sPort.rowPairUse 0 < sPort.rowPairShare 0
    ∧ (sPort.cluster 0).staged.length < 8 ∧ (sPort.cluster 0).port.hbmWen = .one
    ∧ sReqs.runningAt 0 = some (0, rg0) ∧ sReqs.rowPairShare 0 ≤ sReqs.rowPairUse 0
    ∧ sStaged.runningAt 0 = some (0, rg0) ∧ sStaged.rowPairUse 0 < sStaged.rowPairShare 0 ∧ 8 ≤ (sStaged.cluster 0).staged.length
    ∧ (sPort.bridge 7).rxQ = [] ∧ (sPort.cluster 0).port.staging.getLsbD 64 = true
    ∧ (up.cluster 0).port.staging.getLsbD 64 = false ∧ sPort.boot.pairMode < 2
    ∧ sRx.runningAt 0 = some (0, rg0) ∧ (sRx.bridge 3).rxQ = [fr] ∧ (sRx.bridge 3).rg = some 0 ∧ 0 < (sRx.bridge 3).rxPos
    ∧ (sRx.bridge 3).rxPos + 8 < fr.bytes.length := by decide +kernel
theorem test_hbm : let v := sPort.cluster 0
    exec (.hbmRead 0 ⟨0x10, false⟩) sPort
      = .next (((sPort.setCluster 0 { v with reqs := [{ rdReq with step := 10, word := some 0x10 }] }).addLanding 0
          { step := 50, hbm := true, data := 0, known := false, ready := false }).countHeavy 0 4)
    ∧ exec (.hbmWriteIfEnable 0 ⟨0x11, true⟩) sPort
      = .next ((sPort.setCluster 0 { v with
          reqs := [{ rdReq with step := 10, isWrite := true, word := some 0x10, wdata := some 0x5123456789ABCDEF0, sent := false }]
          staged := [.hbm 5 10] }).countHeavy 0 4) := by and_intros <;> rfl
theorem test_inset :
    exec (.insetReceive 0 3) sRx = .next ((sRx.setBridge 3 { sRx.bridge 3 with rxPos := 16 }).addLanding 0
      { step := 14, hbm := false, data := insetWord fr 8, known := true, ready := true })
    ∧ exec (.insetSend 0 7) sPort = .next (sPort.setCluster 0 { sPort.cluster 0 with
        staged := [.inset 7 0x155123456789ABCDEF0 5 10] })
    ∧ exec (.insetStatus 0 3) sRx = .next (sRx.addLanding 0
      { step := 11, hbm := false, data := 1 + 16 * 256, known := true, ready := true }) := by and_intros <;> rfl

/-- ShipsAndArrivals: a watching engine with the tap FIFO at 31 and 32, a landing, a flight that arrives, a codeword that has come. -/
def sWatch : State := (up.setEngine 0 { Engine.init with state := .filling, rg := some 0, clusters := [0] }).updCluster 0 fun v =>
  { v with taps := List.replicate 31 { cycle := 5, nth := 0, probe := [] } }
def sWatch32 : State := sWatch.updCluster 0 fun v => { v with taps := List.replicate 32 { cycle := 5, nth := 0, probe := [] } }
def ld0 : Landing := { step := 10, hbm := false, data := 5, known := true, ready := true }
def sLand : State := up.updCluster 0 fun v => { v with landings := [ld0] }
def fl : Flight :=
  { group := 0, owner := 0, cl := 1, mesh := true, route := 3, chan := 0, age := 1, dist := 1, slot := 255, val := .one }
def sFl : State := { up.updGroup 0 fun v => { v with flights := [fl] } with opp := 44 }
def sCargo : State :=
  { ((up.setQuad 0 { Quad.init with rg := some 0 }).updGroup 0 fun v => { v with cycle := 0 }) with
    opp := 44, quadAct := [(81, BitVec.ofNat 40 (2 ^ 19 + 3 * 2 ^ 8 + 220))] }
/-- The same in a cycle past the lag, with the codeword in the lane's receive buffer. -/
def sHere : State :=
  { (up.setQuad 0 { Quad.init with rg := some 0, cls := 4 }).updLane 0 fun v =>
      { v with rxBuf := [{ stepTag := (sendingStep 256 (classLimit 4) 10 3).getD 0 / 4 * 4, cyc := 2, cycle := 2, words := [0, 0, 0, 0, 0, 5, 0, 0] }] } with
    opp := 44, quadAct := [(81, BitVec.ofNat 40 (2 ^ 19 + 3 * 2 ^ 8 + 220))] }
def eng0 : Engine := { Engine.init with state := .filling, rg := some 0, clusters := [0] }
theorem wit_ShipsAndArrivals :
    up.watcher 0 = none ∧ sWatch.runningAt 0 = some (0, rg0) ∧ sWatch.watcher 0 = some eng0 ∧ eng0.state = .filling
    ∧ (sWatch.cluster 0).taps.length < 32 ∧ sWatch32.watcher 0 = some eng0 ∧ 32 ≤ (sWatch32.cluster 0).taps.length
    ∧ sLand.runningAt 0 = some (0, rg0) ∧ (sLand.cluster 0).landings = [ld0] ∧ ld0.step = rg0.step ∧ (sLand.cluster 0).reqs = []
    ∧ (sFl.group 0).flights = [fl] ∧ (sFl.group 0).moved = false ∧ fl.at fl.dist = 0 ∧ fl.age + 1 = fl.latency
    ∧ sFl.arrOpp ≠ sFl.nextOpp 0 ∧ (sFl.parcel (clParcel 0)).rg = some 0 ∧ sFl.ownerOf (clParcel 0) = some fl.owner ∧ sFl.live (clParcel 0) = true
    ∧ (sCargo.quad 0).rg = some 0 ∧ (sCargo.group 0).badWord 4 (0 * 32768 + 8 * 10 + 1) = false
    ∧ sCargo.arrOpp ≠ sCargo.nextOpp 0 ∧ sCargo.runningAt 0 = some (0, sCargo.group 0) ∧ (sCargo.group 0).step = 10
    ∧ sCargo.cargoDue (sCargo.group 0) 0 1 10 = .early { cl := 0, base := 220, lag := 3 }
    ∧ sHere.runningAt 0 = some (0, rg0) ∧ (sHere.quad 0).rg = some 0 ∧ rg0.badWord 4 (0 * 32768 + 8 * 10 + 1) = false
    ∧ sHere.arrOpp ≠ sHere.nextOpp 0 ∧ sHere.cargoDue rg0 0 1 10 = .here { cl := 0, base := 220, lag := 3 } 5 := by decide +kernel
theorem test_ships : let v := sWatch.cluster 0
    exec (.probeShip 0) up = .next up
    ∧ exec (.probeShip 0) sWatch = .next (sWatch.setCluster 0 { v with compare := [], taps := v.taps ++ [{ cycle := 5, nth := 0, probe := [] }] })
    ∧ exec (.portLoadLanding 0) sLand = .next (sLand.setCluster 0 { sLand.cluster 0 with
        port := { (sLand.cluster 0).port with latch := 5, lstate := .known }, landings := [] }) := by and_intros <;> rfl
theorem test_arrivals :
    exec (.receiveSlotArrival 0 255) sFl = .next (State.setSlot { sFl.setGroup 0 { sFl.group 0 with flights := [] } with
      arrOpp := sFl.nextOpp 0, arrSlots := [255], arrDrops := [] } 0 255 { val := .one, written := true, step := 10 }) := by rfl
theorem test_cargo : let t := after (.cargoDelivery 0 1) sCargo
    t.slotAt 0 255 = { val := .x, written := true, step := 10 } ∧ (t.slotAt 0 220).step = 10 ∧ t.slotAt 0 219 = sCargo.slotAt 0 219 := by
  decide +kernel


-- the HBM path, steps, boundaries

def rq (wr sent applied back : Bool) (st : Nat) : HbmReq :=
  { cycle := 5, step := st, isWrite := wr, stack := 0, word := some 77, wdata := if wr then some 0xABCD else none, sent := sent
    applied := applied, rdata := none, back := back }
def h1 : State := up.updCluster 0 fun v =>
  { v with staged := [.hbm 5 9, .hbm 5 10], reqs := [rq true false false false 8, rq true false false false 9] }
def h2 : State := up.updCluster 0 fun v => { v with reqs := [rq true true false false 8, rq false true false false 9] }
def h3 : State := up.updCluster 0 fun v => { v with reqs := [rq true true true false 8, rq false true true false 9] }
def h4 : State := up.updCluster 0 fun v =>
  { v with reqs := [{ rq false true true true 9 with rdata := some 5 }]
           landings := [{ step := 49, hbm := true, data := 0, known := false, ready := false }] }
/-- A read at the head, and a write with nothing to store. -/
def h5 : State := up.updCluster 0 fun v => { v with reqs := [rq false true false false 8] }
def h6 : State := up.updCluster 0 fun v => { v with reqs := [{ rq true true false false 8 with wdata := none }] }
/-- `h2` with the stack asleep. -/
def h8 : State := h2.updStack 0 fun v => { v with asleep := true }
def h7 : State := (up.updCluster 0 fun v => { v with staged := [.inset 7 0x155123456789ABCDEF0 5 10] }).updBridge 7
  fun q => { q with rg := some 0 }
def sAsleep : State := up.updStack 3 fun v => { v with asleep := true }
def sTrained : State := up.updStack 3 fun v => { v with s3Trained := true }
theorem wit_HbmPath :
    (h1.cluster 0).staged = [.hbm 5 9, .hbm 5 10]
    ∧ (h1.cluster 0).reqs = [rq true false false false 8] ++ rq true false false false 9 :: []
    ∧ h2.runGroups = [0]
    ∧ sortBy (stampRank (h2.group 0).n) (h2.hbmQueue 0 0) = (0, rq true true false false 8) :: [(0, rq false true false false 9)]
    ∧ (h2.cluster 0).reqs = [] ++ rq true true false false 8 :: [rq false true false false 9]
    ∧ h2.unready (.stack 0) = false ∧ h2.isDown (.stack 0) = false ∧ h5.runGroups = [0]
    ∧ sortBy (stampRank (h5.group 0).n) (h5.hbmQueue 0 0) = [(0, rq false true false false 8)]
    ∧ h5.eccAt 9 (0 * 2 ^ 33 + 77) = 0
    ∧ sortBy (stampRank (h6.group 0).n) (h6.hbmQueue 0 0) = [(0, { rq true true false false 8 with wdata := none })]
    ∧ h8.runGroups = [0] ∧ (h8.stack 0).asleep = true ∧ Domain.stack 0 ∉ h8.net.waking ∧ h8.isDown (.stack 0) = false
    ∧ Domain.stack 0 ∉ h8.net.isolated ∧ h8.hbmQueue 0 0 = h2.hbmQueue 0 0
    ∧ (h3.cluster 0).reqs = [rq true true true false 8] ++ rq false true true false 9 :: []
    ∧ (h4.cluster 0).reqs = [{ rq false true true true 9 with rdata := some 5 }] ∧ 49 = 9 + h4.budgetOf 0
    ∧ (h7.bridge 7).rg = h7.rgOfCluster 0 ∧ (assembleWord (h7.bridge 7) 0x155123456789ABCDEF0 5 10).2 = false
    ∧ (sTrained.stack 3).asleep = false ∧ (sTrained.stack 3).s3Trained = true ∧ (sTrained.stack 3).refresh + 1 < 2 ^ 48
    ∧ (sAsleep.stack 3).asleep = true ∧ (up.stack 3).trained = false ∧ (up.stack 3).s3Trained = false := by decide +kernel
theorem test_staging :
    exec (.stagingQueueDrain 0) h1 = .next (h1.setCluster 0 { h1.cluster 0 with
      staged := [.hbm 5 10], drained := true, reqs := [rq true false false false 8, rq true true false false 9] })
    ∧ exec (.stagingQueueDrain 0) h7 = .next ((h7.setCluster 0 { h7.cluster 0 with staged := [], drained := true }).setBridge 7
        (assembleWord (h7.bridge 7) 0x155123456789ABCDEF0 5 10).1) := by and_intros <;> rfl
theorem test_controller :
    (after (.hbmDesignRequest { stack := 0 }) h2).hbmWord 0 77 = 0xABCD
    ∧ ((after (.hbmDesignRequest { stack := 0 }) h2).cluster 0).reqs = [rq true true true false 8, rq false true false false 9]
    ∧ (after (.hbmDesignRequest { stack := 0 }) h8).net.waking = [.stack 0]
    ∧ ((after (.hbmDesignRequest { stack := 0 }) h5).cluster 0).reqs = [{ rq false true true false 8 with rdata := some 0 }] := by decide +kernel
theorem test_returns :
    exec (.hbmDesignReturn { cl := 0, lost := false }) h3 = .next (h3.setCluster 0 { h3.cluster 0 with
      reqs := [rq true true true false 8, rq false true true true 9] })
    ∧ exec (.hbmWriteAccept 0) h3 = .next (h3.setCluster 0 { h3.cluster 0 with reqs := [rq false true true false 9] })
    ∧ exec (.hbmDataArrival 0) h4 = .next (h4.setCluster 0 { h4.cluster 0 with
      landings := [{ step := 49, hbm := true, data := 5, known := true, ready := true }] }) := by and_intros <;> rfl
theorem test_returnLost : let t := after (.hbmDesignReturn { cl := 0, lost := true }) h3
    (t.cluster 0).reqs.map (·.rdata) = [none, none] ∧ t.net.ueSide = 1 ∧ (t.faultRec 0).map (·.code) = some 0x2004 := by decide +kernel
theorem test_refresh : exec (.hbmRefresh 3) sTrained = .next (sTrained.setStack 3 { sTrained.stack 3 with refresh := 1 })
    ∧ exec (.hbmRefresh 3) up = .next up
    ∧ exec (.hbmRefresh 3) sAsleep = .next sAsleep := by and_intros <;> rfl

/-- BPs 0 and 1 issue LUT4X and read slots 0 and 1; slot A of the bank of cluster 0 writes the word that slot B reads; the other state has
two flights that reach slot 255 of cluster 0 with this step. -/
def sQuiet : State :=
  { up with istore := [(10, BitVec.ofNat 72 (2 ^ 68 + 6144 * 2 ^ 39)), (4096 + 10, BitVec.ofNat 72 (2 ^ 68 + 6145 * 2 ^ 39))]
            ptable := [(10, BitVec.ofNat 72 (2 * 2 ^ 70 + 2 ^ 68 + 9 * 2 ^ 50 + 9 * 2 ^ 34))] }
def sMeet : State := { up.updGroup 0 fun v => { v with flights := [fl, { fl with val := .zero }] } with opp := 44 }
theorem quiet_counts (s : State) (h : s.faults.cnt = []) (code : Nat) : s.faultCount code + 1 < 2 ^ 48 := by
  rw [State.faultCount, h]; exact (by decide : 0 + 1 < 2 ^ 48)
theorem wit_StepOrHold_quiet : up.Quiet 0 ∧ sQuiet.Quiet 0 ∧ { sQuiet with ecc := [(eccKey 0 2, 1)] }.Quiet 0 ∧ sMeet.Quiet 0 := by
  unfold State.Quiet State.Inv
  and_intros <;> first | decide +kernel | exact quiet_counts _ rfl
theorem wit_StepOrHold_raises : (sQuiet.group 0).flights = [] ∧ sQuiet.ecc = []
    ∧ (insOf (mget 0 10 sQuiet.istore)).exactIssue = true ∧ (insOf (mget 0 (4096 + 10) sQuiet.istore)).exactIssue = true
    ∧ (insOf (mget 0 10 sQuiet.istore)).illegal = none ∧ 6144 ∈ (insOf (mget 0 10 sQuiet.istore)).reads ∧ selOf 6144 = .slot 0 false
    ∧ (sQuiet.slotAt 0 0).written = false ∧ 2 = 0 * 1024 + (10 + 1) / 4
    ∧ (let i := portInsOf (mget 0 10 sQuiet.ptable)
      i.bad = false ∧ i.aop = 2 ∧ i.bop = 1 ∧ slotAddr (sQuiet.cluster 0).port .a i.a = some 9 ∧ slotAddr (sQuiet.cluster 0).port .b i.b = some 9)
    ∧ sMeet.ecc = [] ∧ sMeet.arrOpp ≠ sMeet.nextOpp 0 ∧ (∀ f ∈ [fl, { fl with val := .zero }], f.age + 1 = f.latency
      ∧ f.at f.dist = 0 ∧ f.slot = 255 ∧ sMeet.ownerOf (clParcel 0) = some f.owner ∧ clParcel 0 ∈ (sMeet.group 0).parcels) := by decide +kernel
/-- StepOrHold, in both cases; the second is at the last step of the cycle. -/
def sGated : State := up.updGroup 0 fun v => { v with prev := 128, step := 255 }
theorem wit_StepOrHold :
    (up.group 0).parcels ≠ [] ∧ (up.group 0).state = .running ∧ (up.group 0).step < (up.group 0).n ∧ up.boot.sheetsHeld = false
    ∧ (up.group 0).halting = none ∧ up.gatedNext 0 = false
    ∧ (sGated.group 0).state = .running ∧ (sGated.group 0).step < (sGated.group 0).n ∧ (sGated.group 0).halting = none
    ∧ sGated.gatedNext 0 = true := by decide +kernel
theorem test_stepExecute :
    ((after (.stepExecute 0) sGated).group 0).step = 255
    ∧ (after (.stepExecute 0) sGated).opp = 1 := by decide +kernel
theorem test_stepRaises : let t := after (.stepExecute 0) { sMeet with istore := sQuiet.istore, ptable := sQuiet.ptable, ecc := [(eccKey 0 2, 1)] }
    [0x1001, 0x1002, 0x1003, 0x1006, 0x2001].map t.faultCount = [1, 1, 2, 1, 1] ∧ t.valueAt 0 10 = .zero := by decide +kernel

/-- BoundaryCommitsState: entry 5 pends, entry 6 does not. -/
def sBound : State :=
  { up.updGroup 0 fun r => { r with step := 256 } with pend := [(5, true)], stg := [(5, .one)], cur := [(6, .zero)] }
theorem wit_BoundaryCommitsState : let r := sBound.group 0
    r.parcels ≠ [] ∧ r.state = .running ∧ 0 < r.n ∧ r.step = r.n ∧ r.surrender = false ∧ r.surveys = []
    ∧ sBound.boot.tripDue = false ∧ sBound.ecc = [] ∧ mwf V4.x sBound.cur = true ∧ mwf V4.x sBound.stg = true
    ∧ mwf false sBound.pend = true ∧ r.parcels.contains (bpParcel 0) = true ∧ sBound.live (bpParcel 0) = true ∧ sBound.pendAt 0 5 = true
    ∧ sBound.pendAt 0 1023 = false := by decide +kernel
theorem test_cycleBoundary : let t := after (.cycleBoundary 0) sBound
    (t.group 0).cycle = 6 ∧ (t.group 0).step = 0 ∧ t.curAt 0 5 = .one ∧ t.curAt 0 6 = .zero ∧ t.pendAt 0 5 = false := by
  decide +kernel

/-- BankFreeSlots: a write-back that waits, a passed slot, an undecided slot, the last word of a MEM_WRITE, a read that timed out. -/
def pk0 : Packet := { session := 0, flow := 0, flags := 0, tag := 1, buf := 0, len := 8, params := 0 }
def sFree (w : Wait) (op : Nat) (f : Cluster → Cluster) : State :=
  { (up.updGroup 0 fun r => { r with state := .stopped }).updCluster 0 f with
    hub := { Hub.init with entries := [{ opcode := op, pkt := pk0, state := .parked w }] } }
def gr0 : SlotGrant := { master := some 0, skips := false, past := false }
def sGrant : State := sFree (.bank 0 true 0 1 65535 7) 0x0501 fun v =>
  { v with arb := { v.arb with a := gr0, seen := [true, false, false, false] }, host := [.wr 65535 0x55 7] }
def sBack : State := sFree (.bank 0 true 0 1 65535 7) 0x0501 fun v => { v with wb := some 65535, host := [.wr 65535 0x55 7] }
def sAsk : State := sFree (.bank 0 false 1 3 9 7) 0x0500 fun v => { v with host := [.rd 9 7] }
def sHalf : State := sFree (.atomicOp 0 9 7) 0x0502 fun v => { v with second := some (9, 5), atomics := [.add 9 3 7] }
/-- The opportunity after the one that the arbiter decided, with a line that was down at its start. -/
def sNew : State :=
  { sFree (.bank 0 false 1 3 9 7) 0x0500 fun v => { v with host := [.rd 9 7], arb := { v.arb with seen := [false, false, false, false] } } with
    opp := 1 }
/-- A step with both slots scheduled has just executed. -/
def sBusy : State := { up.updCluster 0 fun v => { v with wb := some 9 } with busyMap := [(9, true)] }
theorem wit_BankFreeSlots :
    (sGrant.cluster 0).arb.opp = sGrant.opp ∧ (sGrant.cluster 0).arb.past .a = false
    ∧ sGrant.slotFree 0 .a = true ∧ (sGrant.cluster 0).second = none ∧ (sGrant.cluster 0).wb = none
    ∧ (sGrant.cluster 0).arb.a.master = some 0 ∧ (sGrant.cluster 0).host = [.wr 65535 0x55 7] ∧ sGrant.boot.pairMode ≠ 2
    ∧ sGrant.hub.entries = [{ opcode := 0x0501, pkt := pk0, state := .parked (.bank 0 true 0 (0 + 1) 65535 7) }]
    ∧ (sHalf.cluster 0).arb.opp = sHalf.opp ∧ (sHalf.cluster 0).arb.past .b = false ∧ sHalf.slotFree 0 .b = true
    ∧ (sHalf.cluster 0).second = some (9, 5) ∧ (sHalf.cluster 0).atomics = .add 9 3 7 :: [] ∧ sHalf.boot.pairMode ≠ 2
    ∧ (sHalf.hub.entries.map fun e => e.atBank 0 7) = [true]
    ∧ (sBack.cluster 0).arb.opp = sBack.opp ∧ (sBack.cluster 0).arb.past .b = false ∧ sBack.slotFree 0 .b = true
    ∧ (sBack.cluster 0).second = none ∧ (sBack.cluster 0).wb = some 65535 ∧ sBack.slotFree 0 .a = true
    ∧ (sAsk.cluster 0).arb.opp = sAsk.opp ∧ (sAsk.cluster 0).arb.past .a = false ∧ sAsk.slotFree 0 .a = true
    ∧ (sAsk.cluster 0).arb.a.master = none ∧ (sAsk.cluster 0).host = [.rd 9 7] ∧ (sAsk.cluster 0).atomics = []
    ∧ sAsk.hub.entries = [{ opcode := 0x0500, pkt := pk0, state := .parked (.bank 0 false 1 3 9 7) }]
    ∧ (sNew.cluster 0).arb.opp + 1 = sNew.opp ∧ sNew.runsAt 0 = none ∧ (sNew.cluster 0).second = none ∧ (sNew.cluster 0).wb = none
    ∧ (sNew.cluster 0).arb.seen = [false, false, false, false]
    ∧ (sBusy.cluster 0).arb.opp = sBusy.opp ∧ sBusy.slotFree 0 .a = false ∧ (sBusy.cluster 0).wb = some 9
    ∧ (sBusy.cluster 0).second = none := by decide +kernel
theorem wit_arbiter : arbitrate 3 [false, false, false, false] true = (none, false)
    ∧ arbitrate 3 [true, true, true, true] true = (some 0, false) ∧ arbitrate 0 [true, false, true, true] true = (some 2, false)
    ∧ (arbitrate 2 [true, false, false, true] false).2 = true ∧ (arbitrate 2 [true, false, false, true] false).1 = some 0 := by
  decide
theorem test_grant : let t := after (.dynamicSlotGrant 0 .a) sGrant
    t.bankWord 0 65535 = 0x55 ∧ (t.cluster 0).host = [] ∧ (t.cluster 0).arb.a.past = true := by decide +kernel
theorem test_grantNext : let t := after (.dynamicSlotGrant 0 .a) sNew
    (t.cluster 0).host = [.rd 9 7] ∧ (t.cluster 0).arb.seen = [true, false, false, false] ∧ (t.cluster 0).arb.opp = 1 := by decide +kernel
theorem test_atomicSecond : (after (.dynamicSlotGrant 0 .b) sHalf).bankWord 0 9 = 8 := by decide +kernel
theorem test_writeback : (after (.eccWriteback 0) { sBack with ecc := [(eccKey 6 65535, 1)] }).ecc = []
    ∧ ((after (.dynamicSlotGrant 0 .b) sBack).cluster 0).wb = none := by decide +kernel
theorem test_grantTimeout : ((after (.backdoorGrantTimeout 0 0) sAsk).cluster 0).host = [] := by decide +kernel


-- trace engines and run groups

/-- A transition word: valid, under AND or OR of three inputs; input 127 with inverted polarity always reads 1 where line 127 is 0. -/
def sSeq : Engine := { Engine.init with trans := [0, 0, BitVec.ofNat 64 (2 ^ 25 + 2 ^ 24 + 1), BitVec.ofNat 64 (2 ^ 25)] }
/-- SequencerTakesLowest: no match of words 0 and 1, a match of word 2 under OR, and no match at all without the lines. -/
theorem wit_SequencerTakesLowest :
    let word (j : Nat) : Nat := (sSeq.trans.getD (4 * sSeq.seqState + j) 0).toNat
    bitOf (word 0) 25 = false ∧ bitOf (word 1) 25 = false ∧ bitOf (word 2) 25 = true ∧ bitOf (word 2) 24 = true
    ∧ bitOf 2 (bitsOf (word 2) 0 7) ≠ bitOf (word 2) 7 ∧ bitOf (word 3) 24 = false ∧ bitOf 1 (bitsOf (word 3) 16 7) ≠ bitOf (word 3) 23
    ∧ bitOf 0 (bitsOf (word 3) 0 7) = bitOf (word 3) 7 ∧ bitOf 0 (bitsOf (word 2) 0 7) = bitOf (word 2) 7 := by decide +kernel
theorem test_sequencer : (sSeq.pick 3).map (·.1) = some 2 ∧ (sSeq.pick 1).map (·.1) = some 2 ∧ (sSeq.pick 0) = none := by decide +kernel

def smp (n : Nat) : Sample := { cycle := BitVec.ofNat 64 n, nth := n, post := false, stamp := 0, flags := 0, words := [] }
def engA : Engine :=
  { eng0 with state := .armed, queue := [smp 5], lastCyc := some 4, capacity := 2, autoCnt := 3, armedFor := 2 }
def evA : AssertEvent := { cycle := 5, step := 1, id := 9, isX := true, bp := 1 }
def sEng : State := { up.setEngine 0 engA with clusters := [(0, { Cluster.init with asserts := [evA, evA], taps := [{ cycle := 5, nth := 5, probe := [(0, .one)] }] })] }
def sEngFull : State := sEng.setEngine 0 { engA with buffer := [smp 3, smp 4] }
/-- TraceEvents: an empty queue (engine 1), a buffer with room and a full one, the count one below auto_timeout, an event. -/
theorem wit_TraceEvents :
    (sEng.engine 1).queue = [] ∧ (sEng.engine 0).queue = smp 5 :: [] ∧ (sEng.engine 0).state = .armed
    ∧ (smp 5).post = false ∧ (sEng.engine 0).lastCyc = some ((smp 5).cycle - 1) ∧ (sEng.engine 0).buffer.length < (sEng.engine 0).capacity
    ∧ (sEngFull.engine 0).queue = smp 5 :: [] ∧ (sEngFull.engine 0).capacity ≤ (sEngFull.engine 0).buffer.length
    ∧ (sEng.engine 0).autoCnt ≠ 0 ∧ (sEng.engine 0).autoCnt ≤ (sEng.engine 0).armedFor + 1
    ∧ mwf Cluster.init sEng.clusters = true ∧ sEng.clusters = [(0 * 256 + 0, sEng.cluster 0)]
    ∧ (sEng.cluster 0).asserts = evA :: [evA] ∧ (sEng.engine 0).clusters.contains 0 = true
    ∧ (sEng.engine 0).rg = sEng.rgOfCluster (0 * 256 + 0) ∧ (sEng.engine 0).events.length < 4096
    ∧ (sEng.engine 1).state ≠ .armed ∧ (sEng.engine 1).state ≠ .filling := by decide +kernel
theorem test_sampleStore : let t := after (.traceSampleStore 0) sEngFull
    (t.engine 0).buffer.map (·.cycle) = [4, 5] ∧ (t.engine 0).wrapped = true ∧ (t.cluster 0).taps = []
    ∧ ((t.engine 0).buffer.getD 1 (smp 0)).words.headD 0 = BitVec.ofNat 72 (2 ^ 72 - 1 - 3 + 1) := by decide +kernel
theorem test_autoTimeout : exec (.autoTimeout 0) sEng = .next (sEng.setEngine 0 { engA with autoHit := true }) := by rfl
set_option maxRecDepth 50000 in
theorem test_eventDrain : exec (.assertionEventDrain 0) sEng
    = .next ((sEng.setCluster 0 { sEng.cluster 0 with asserts := [evA] }).setEngine 0
        { engA with events := [{ ev := evA, cl := 0 }] }) := by rfl

def sCopy : State := up.updParcel 0 fun v => { v with copyBusy := true }
def sMirror : State := up.updGroup 0 fun r => { r with sigDue := true }
def sDiv : State := sMirror.updCluster 51 fun v => { v with sigLast := 1 }
def svq : SurveyReq := { parcels := [0], stamp := 0, flags := 2, atCycle := 0, atTime := 0, dest := 0, length := 0,
                          taking := false }
def svT : SurveyReq := { svq with taking := true }
def sSurv : State := up.updGroup 0 fun r => { r with surveys := [svT], state := .stopped }
/-- GroupEvents: a copy in progress; equal signatures, and a difference in the last cluster only; a capture that has drained. -/
theorem wit_GroupEvents :
    (up.group 0).parcels ≠ [] ∧ sCopy.copying 0 = true ∧ (sCopy.anyParked fun w => match w with | .commit h _ => decide (h = 0) | _ => false) = false
    ∧ (sMirror.group 0).sigDue = true
    ∧ (∀ c ∈ (sMirror.group 0).clusters, c < 256 → (sMirror.cluster c).sigLast = (sMirror.cluster (c + 256)).sigLast)
    ∧ 51 ∈ (sDiv.group 0).clusters ∧ (sDiv.group 0).sigDue = true ∧ (sDiv.group 0).diverged = false
    ∧ (sDiv.cluster 51).sigLast ≠ (sDiv.cluster (51 + 256)).sigLast
    ∧ (∀ d ∈ (sDiv.group 0).clusters, d < 51 → (sDiv.cluster d).sigLast = (sDiv.cluster (d + 256)).sigLast)
    ∧ (sDiv.group 0).response = 0 ∧ (sDiv.group 0).stops = []
    ∧ (sSurv.group 0).surveys = [svT] ∧ svT.taking = true ∧ (sSurv.group 0).imageOf (svT.parcels.headD 0) = some img
    ∧ sSurv.ecc = [] ∧ sSurv.groupDrained 0 = true ∧ img.hbmBytes svT.flags = 0 := by decide +kernel
theorem test_mirrorCompare : let t := after (.mirrorCompare 0) sDiv
    (t.group 0).firstCl = 51 ∧ (t.group 0).divN = 1 ∧ (t.group 0).divHeld = true ∧ (t.group 0).divCycle = 4
    ∧ (t.faultRec 0).map (·.code) = some 0x1010 := by decide +kernel
theorem test_tableCopyDone : ((after (.tableCopyDone 0) sCopy).parcel 0).copyBusy = false := by decide +kernel

def sArmed : State := up.updGroup 0 fun r => { r with state := .armed, startTime := some 0 }
def sSoon : State := up.updGroup 0 fun r => { r with state := .armed, startTime := some 1 }
def pz : Pause := { pauseTime := 0, resumeTime := none, again := none, raised := false }
def sPause : State := up.updGroup 0 fun r => { r with pauses := [pz] }
def sResume : State := up.updGroup 0 fun r => { r with pauses := [{ pz with raised := true, again := some 0 }] }
/-- The command that each waits for. -/
def sPauseW : State := sPause.setEntries [{ opcode := 0x0302, pkt := pkt 0 [], state := .parked (.pauseRaise 0 0) }]
def sResumeW : State := sResume.setEntries [{ opcode := 0x0303, pkt := pkt 0 [], state := .parked (.pauseRelease 0) }]
def sArmAt : State := up.updGroup 0 fun r => { r with state := .stopped, traceArm := some 0 }
def sSurvAt : State := up.updGroup 0 fun r => { r with state := .stopped, surveys := [svq] }
/-- TimedEvents: each event exactly due, and a start that is not. -/
theorem wit_TimedEvents :
    (sArmed.group 0).startTime = some 0 ∧ (sArmed.group 0).state = .armed ∧ (0 : Int) ≤ signed64 (sArmed.tOpen sArmed.opp) 0
    ∧ (sSoon.group 0).startTime = some 1 ∧ (sSoon.group 0).state = .armed ∧ signed64 (sSoon.tOpen sSoon.opp) 1 < 0
    ∧ (sPause.group 0).pauses = [pz] ∧ pz.raised = false ∧ (0 : Int) ≤ signed64 (sPause.tOpen sPause.opp) pz.pauseTime
    ∧ sPause.hub.entries = [] ∧ (sResume.group 0).pauses = [{ pz with raised := true, again := some 0 }]
    ∧ sPauseW.group 0 = sPause.group 0 ∧ sResumeW.group 0 = sResume.group 0
    ∧ sPauseW.hub.entries.map (·.wait?) = [some (.pauseRaise 0 pz.pauseTime)]
    ∧ sResumeW.hub.entries.map (·.wait?) = [some (.pauseRelease 0)] ∧ timedGroup (.surveyAt 0) = 0
    ∧ (sArmAt.group 0).traceArm = some 0 ∧ (sArmAt.group 0).state ≠ .running
    ∧ (sSurvAt.group 0).surveys = [svq] ∧ svq.taking = false ∧ (sSurvAt.group 0).state ≠ .armed
    ∧ (sSurvAt.group 0).state ≠ .running ∧ bitOf svq.flags 1 = true
    ∧ (0 : Int) ≤ signed64 (sSurvAt.tOpen sSurvAt.opp) svq.atTime := by decide +kernel
theorem test_timedEvents :
    ((after (.timedEventDue (.runStart 0)) sArmed).group 0).state = .running
    ∧ ((after (.timedEventDue (.runStart 0)) sArmed).group 0).step = 0
    ∧ ((after (.timedEventDue (.runStart 0)) sSoon).group 0).state = .armed
    ∧ ((after (.timedEventDue (.pauseBegin 0)) sPause).group 0).pauses = [{ pz with raised := true }]
    ∧ ((after (.timedEventDue (.pauseEnd 0)) sResume).group 0).pauses = []
    ∧ (after (.timedEventDue (.pauseBegin 0)) sPauseW).sent.replies.map (fun x => (x.2.status, x.2.results.toNat)) = [(0, 5 + 10 * 2 ^ 64)]
    ∧ (after (.timedEventDue (.pauseEnd 0)) sResumeW).sent.replies.map (fun x => (x.2.status, x.2.results.toNat)) = [(0, 5)]
    ∧ ((after (.timedEventDue (.surveyAt 0)) sSurvAt).group 0).surveys.map (·.taking) = [true] := by decide +kernel


-- host commands: checks, sessions, rings

def ses (v : SessState) : Session :=
  { Session.init with state := v, enable := true, sqBase := 0x10000, cqBase := 0x20000, sqLog := 4, cqLog := 4, prio := 1
                      coalUs := 5, unsig := 2 }
def lk (h session : Nat) : Lock :=
  { handle := h, session := session, kind := 0, unit := 0, cluster := 0, mask := 1, first := 0, count := 0 }
/-- Sessions 0 and 1 of the physical function and session 16 of function 1 in service; locks of sessions 1 and 16; a key slot of function 1. -/
def sSess : State :=
  { up with sessions := [(0, ses .enabled), (1, ses .enabled), (16, ses .enabled)]
            hub := { Hub.init with vfEnable := true, numVfs := 3, locks := [lk 1 1, lk 2 16] }
            keys := [(3, { KeySlot.init with bound := some 1 })] }
/-- A command of session 1 that waits, and the same finished. -/
def ent (st : EntryState) : Entry := { opcode := 0x0110, pkt := pkt 1 [], state := st }
def sWaits : State := { sSess with hub := { sSess.hub with entries := [ent .queued] } }
def sParked : State := { sSess with hub := { sSess.hub with entries := [ent (.parked .datumEdge)] } }
/-- The same packet with a FENCE. -/
def pFence : Packet := { pkt 1 [] with flags := 1 }
def sDown : State := { sSess with boot := { sSess.boot with stage := .s1 } }
def sBoot : State := { sSess with boot := { sSess.boot with stage := .s2 } }
/-- CommandChecksInOrder: a hub that does not run, a malformed packet, each of the cases of a good one; the BOOT phase. -/
theorem wit_CommandChecksInOrder :
    sDown.hubUp = false ∧ sSess.hubUp = true ∧ packetBad sSess { pkt 0 [] with flags := 0x80 } ≠ none ∧ packetBad sSess (pkt 0 []) = none
    ∧ sBoot.hubUp = true ∧ sBoot.phase = 0 ∧ bootAllowed 0x0400 = false ∧ bootAllowed 0x0100 = true
    ∧ sSess.gate 0x0110 (pkt 0 []) = .run ∧ sParked.gate 0x0110 (pkt 1 []) = .wait ∧ sWaits.gate 0x0000 (pkt 1 []) = .arrive
    ∧ fenceOf 0x0000 pFence = true ∧ (∀ e ∈ sParked.hub.entries, (e.opcode ≠ 0 ∨ e.pkt ≠ pFence) ∧ e.pkt.session = pFence.session)
    ∧ sSess.hub.entries = [] ∧ (sSess.sess 0).state = .enabled := by decide +kernel
theorem test_fence : (after (.sessionNop pFence) sParked).hub.entries.map (·.state) = [.parked .datumEdge, .queued]
    ∧ (after (.sessionNop pFence) { sSess with hub := sSess.hub }).hub.entries = [] := by decide +kernel
theorem test_checks : let st (c : Instr) (s : State) := leNat (memBytes (after c s).hostMem (0x20000 + 4) 4)
    st (.sessionNop { pkt 0 [] with flags := 0x80 }) sSess = 0x8002 ∧ (after (.sessionNop (pkt 0 [])) sDown).hostMem = []
    ∧ st (.runStop (pkt 0 [(20, 1)])) sBoot = 0x8008 + 0x20 * 2 ^ 16 := by decide +kernel

/-- ReplyReachesRing: session 0 of `sSess`. -/
theorem wit_ReplyReachesRing :
    sSess.hub.entries = [] ∧ (sSess.sess 0).state = .enabled ∧ (sSess.sess 0).cqFull = false ∧ (sSess.sess 0).wbEn = false
    ∧ sSess.memoriesWf = true ∧ (∀ e ∈ sSess.sessions, e.2.state ≠ .resetting) ∧ sSess.hostFails 0x20000 = false
    ∧ { sSess with hostBad := [0x20] }.hostFails 0x20000 = true := by decide +kernel
theorem test_replyFails : ((conclude 0x0000 (pkt 0 []) (.reply 5 6 7 { sSess with hostBad := [0x20] })).sess 0).errCause = 4 := by decide +kernel
theorem test_reply : let t := conclude 0x0000 { pkt 0 [] with tag := 77 } (.reply 5 6 7 sSess)
    memBytes t.hostMem 0x20000 32 = [77, 0, 0, 0, 5, 0, 6, 0, 0, 0, 0, 0, 0, 0, 0, 0, 7, 0, 0, 0, 0, 0, 0, 0, 0, 0, 0, 0, 0, 0, 0, 0]
    ∧ (t.sess 0).cqTail = 1 := by decide +kernel

def sEnded : State := { sSess with hub := { sSess.hub with entries := [ent (.done { tag := 1, status := 0, detail := 0, time := 0, results := 0 })] } }
def sOff : State := { sSess with sessions := [(0, ses .enabled), (1, ses .resetting), (2, ses .disabled)] }
/-- The reset that session 1 has sent for itself, dispatched. -/
def sSelf : State := { sOff with hub := { sOff.hub with entries := [{ opcode := 0x0002, pkt := pkt 1 [(20, 1)], state := .prefetched 0 }] } }
/-- SessionCommands: each target of a cancel, each state of a session that is reset. -/
theorem wit_SessionCommands :
    Accepted 0x0000 (pkt 0 []) sSess (parCheck (pkt 0 []) [] true) false
    ∧ (let p := pkt 0 [(20, 1), (24, 1)]
      Accepted 0x0001 p sSess (parCheck p [(20, 1), (24, 4)] (decide (par p 20 1 < 16))) false
      ∧ Accepted 0x0001 p sWaits (parCheck p [(20, 1), (24, 4)] (decide (par p 20 1 < 16))) false
      ∧ Accepted 0x0001 p sEnded (parCheck p [(20, 1), (24, 4)] (decide (par p 20 1 < 16))) false
      ∧ (∀ s ∈ [sWaits, sEnded], (s.hub.entries.find? fun e =>
          decide (e.pkt.session = p.session / 16 * 16 + par p 20 1) && decide (e.pkt.tag = BitVec.ofNat 32 (par p 24 4)))
          = s.hub.entries.head?) ∧ sSess.hub.entries = [])
    ∧ (let p := pkt 0 [(20, 1)]
      Accepted 0x0002 p sSess (parCheck p [(20, 1)] (decide (par p 20 1 < 16))) false
      ∧ (sSess.sess 1).state = .enabled ∧ (sSess.sess 0).state = .enabled
      ∧ (sSess.hub.entries.filter fun e => decide (e.pkt.session = 1)) = [])
    ∧ (let p := pkt 0 [(20, 2)]
      Accepted 0x0002 p sOff (parCheck p [(20, 1)] (decide (par p 20 1 < 16))) false ∧ (sOff.sess 2).state = .disabled)
    ∧ (let p := pkt 1 [(20, 1)]
      Accepted 0x0002 p sSelf (parCheck p [(20, 1)] (decide (par p 20 1 < 16))) false ∧ (sSelf.sess 1).state = .resetting)
    ∧ sSess.hubUp = true ∧ sSess.gate 0xFFFF (pkt 0 []) = .run ∧ definedOpcodes.contains (0xFFFF : BitVec 16).toNat = false := by
  unfold Accepted; decide +kernel
theorem test_cancel : exec (.cmdCancel (pkt 0 [(20, 1), (24, 1)])) sSess
      = .next (conclude 0x0001 (pkt 0 [(20, 1), (24, 1)]) (.reply 5 0 3 sSess))
    ∧ exec (.cmdCancel (pkt 0 [(20, 1), (24, 1)])) sEnded = .next (conclude 0x0001 (pkt 0 [(20, 1), (24, 1)]) (done sEnded 2)) := by
  and_intros <;> rfl
theorem test_sessionReset : ((after (.sessionReset (pkt 0 [(20, 1)])) sSess).sess 1).state = .disabled := by decide +kernel
theorem test_undefinedOpcode : leNat (memBytes (after (.undefinedOpcode 0xFFFF (pkt 0 [])) sSess).hostMem (0x20000 + 4) 2) = 0x8001 := by
  decide +kernel

/-- SessionRegisters: the last pointer of a ring and the first outside it, each state. -/
def sCfg : State := { sSess with sessions := [(0, { ses .disabled with enable := false })] }
def sBadCfg : State := { sSess with sessions := [(0, { ses .disabled with enable := false, sqLog := 0 })] }
theorem wit_SessionRegisters :
    sSess.clocked = true ∧ sCfg.clocked = true ∧ sBadCfg.clocked = true ∧ (sSess.sess 1).state = .enabled ∧ 15 % 4096 < 2 ^ (sSess.sess 1).sqLog
    ∧ ((sSess.sess 1).sqTail + 16 - (sSess.sess 1).sqHead) % 16 ≤ (15 % 4096 + 16 - (sSess.sess 1).sqHead) % 16
    ∧ 2 ^ (sSess.sess 1).sqLog ≤ 16 % 4096
    ∧ (0 % 8192 + 16 - (sSess.sess 1).cqHead) % 16 ≤ ((sSess.sess 1).cqTail + 16 - (sSess.sess 1).cqHead) % 16
    ∧ (sCfg.sess 0).state = .disabled ∧ sCfg.fnEnabled 0 = true
    ∧ { sCfg.sess 0 with prio := 0, vector := 0, coalCnt := 0, coalUs := 0, wbEn := false }.configOk = true
    ∧ { sBadCfg.sess 0 with prio := 0, vector := 0, coalCnt := 0, coalUs := 0, wbEn := false }.configOk = false
    ∧ { sBadCfg.sess 0 with prio := 0, vector := 0, coalCnt := 0, coalUs := 0, wbEn := false } ≠ Session.init
    ∧ sSess.hub.entries = [] ∧ mwf Session.init sSess.sessions = true ∧ (sSess.sess 0).state = .enabled
    ∧ (sSess.sess 1).coalUs ≠ 0 ∧ 0 < (sSess.sess 1).unsig := by decide +kernel
theorem test_sqTail : ((after (.sqTail 1 15) sSess).sess 1).sqTail = 15 ∧ ((after (.sqTail 1 16) sSess).sess 1).state = .error := by decide +kernel
theorem test_cqHead : ((after (.cqHead 1 16) sSess).sess 1).errCause = 2 := by decide +kernel
theorem test_sessCtl : ((after (.sessCtlEnable 0 1) sCfg).sess 0).state = .enabled ∧ ((after (.sessCtlEnable 0 1) sBadCfg).sess 0).errCause = 1
    ∧ ((after (.sessCtlReset 1 2) sSess).sess 1).state = .disabled ∧ (after (.sessCtlReset 1 2) sSess).hub.locks.map (·.handle) = [2] := by
  decide +kernel
theorem test_bar0 : ((after (.bar0RegisterWrite 0 0x1000 { data := 0x12345 }) sCfg).sess 0).sqBase = 0x12000 := by decide +kernel
theorem test_bar0Read : sSess.bar0Read 0 0x08 = 0x40 ∧ sSess.bar0Read 1 0x08 = 0x100001 ∧ sSess.bar0Read 0 0x10 = 3
    ∧ (after (.sqTail 1 16) sSess).bar0Read 0 0x10 = 0x20001 := by decide +kernel
theorem test_coalescing : ((after (.coalescingTimer 1) sSess).sess 1).unsig = 0 := by decide +kernel

/-- FunctionResets: the last virtual function that is enabled, and a change to more functions. -/
theorem wit_FunctionResets :
    sSess.hub.entries = [] ∧ sSess.memoriesWf = true ∧ sSess.tablesWf = true ∧ sSess.log.queue.length ≤ 64 ∧ mwf none sSess.keks = true
    ∧ (∀ l ∈ sSess.hub.locks, (sSess.sess l.session).state ≠ .disabled ∧ (sSess.sess l.session).state ≠ .resetting)
    ∧ (∀ k < 64, 0 < k → sSess.fnEnabled k = true → true = true ∧ k ≤ 63) := by decide +kernel
/-- Function 1 owns the group, which runs, or stands stopped, or has surrendered and ends its cycle. -/
def sOwn (f : RunGroup → RunGroup) : State :=
  { (sSess.updParcel 0 fun v => { v with group := 1 }).updGroup 0 f with keks := [(1, some 5)], bank := [(9, 1)] }
def sSur : State := sOwn fun v => { v with surrender := true, step := 256 }
theorem wit_FunctionResets_groups :
    (∀ s ∈ [sOwn id, sOwn fun v => { v with state := .stopped }, sSur], s.runGroups = [0] ∧ (∃ p ∈ (s.group 0).parcels, s.ownerOf p = some 1)
      ∧ s.hub.entries = [] ∧ s.memoriesWf = true ∧ s.tablesWf = true ∧ s.log.queue.length ≤ 64 ∧ mwf none s.keks = true)
    ∧ ((sOwn id).group 0).state = .running ∧ ((sOwn fun v => { v with state := .stopped }).group 0).surrender = false
    ∧ (let r := sSur.group 0
      r.state = .running ∧ r.surrender = true ∧ r.step = r.n ∧ 0 < r.n ∧ r.halting = none ∧ r.images ≠ [] ∧ r.surveys = [])
    ∧ sSur.ecc = [] ∧ sSur.boot.tripDue = false ∧ ∀ e < 2, (sSur.engine e).rg ≠ some 0 := by decide +kernel
set_option maxRecDepth 20000 in
theorem test_physicalReset : (after (.functionLevelReset 0) sSess).hub.vfEnable = false := by decide +kernel
def gone (t : State) : Bool :=
  decide ((t.parcel 0).load = .blank) && decide (t.keks = []) && decide ((t.key 3).bound = none) && decide (t.bankWord 0 1 = 0)
    && decide ((t.parcel 0).rg = none)
theorem test_surrender :
    gone (after (.functionLevelReset 1) (sOwn fun v => { v with state := .stopped })) = true ∧ gone (after (.cycleBoundary 0) sSur) = true
    ∧ ((after (.functionLevelReset 1) (sOwn id)).group 0).surrender = true ∧ (after (.functionLevelReset 1) (sOwn id)).keks = [(1, some 5)] := by
  decide +kernel
theorem test_functionReset : let t := after (.functionLevelReset 1) sSess
    (t.sess 16).state = .disabled ∧ t.hub.locks.map (·.handle) = [1] ∧ (t.key 3).bound = none := by decide +kernel
theorem test_vfEnable : ((after (.vfEnableChange true 7) sSess).hub.numVfs) = 7
    ∧ ((after (.vfEnableChange false 3) sSess).sess 16).state = .disabled := by decide +kernel

/-- FetchAndDispatch: the last packet of session 1's ring; a queued command. -/
def sFetch : State :=
  { sSess.setSess 1 { ses .enabled with sqHead := 15, sqTail := 0 } with
    hostMem := memSetBytes (0x10000 + 64 * 15) [0x10, 0x01, 3, 0, 9] [], boot := { up.boot with perstN := true } }
/-- A group that does not run, and an unload of its image in a prefetch slot. -/
def sStop : State := up.updGroup 0 fun r => { r with state := .stopped }
def eUnload : Entry := { opcode := 0x0204, pkt := pkt 0 [(20, 1)], state := .prefetched 0 }
def sUnload : State := { sStop with hub := { Hub.init with entries := [eUnload] } }
theorem wit_FetchAndDispatch :
    sFetch.hubUp = true ∧ sFetch.boot.perstN = true
    ∧ (sFetch.enabledSessions.filter fun k => decide ((sFetch.sess k).sqHead ≠ (sFetch.sess k).sqTail)) = [1]
    ∧ (sFetch.sess 1).state = .enabled ∧ (sFetch.sess 1).sqHead ≠ (sFetch.sess 1).sqTail
    ∧ ((sFetch.sess 1).sqHead + 1) % 2 ^ (sFetch.sess 1).sqLog = (sFetch.sess 1).sqTail ∧ sFetch.entryFree 1 = true
    ∧ sFetch.hostFails ((sFetch.sess 1).sqBase.toNat + 64 * (sFetch.sess 1).sqHead) = false
    ∧ { sFetch with hostBad := [0x10] }.hostFails ((sFetch.sess 1).sqBase.toNat + 64 * (sFetch.sess 1).sqHead) = true
    ∧ (packetAt sFetch.hostMem 1 ((sFetch.sess 1).sqBase.toNat + 64 * (sFetch.sess 1).sqHead)).1 ≠ 1
    ∧ sWaits.hubUp = true ∧ sWaits.hub.entries = [ent .queued] ∧ (sWaits.sess 1).prio < 4
    ∧ sUnload.hubUp = true ∧ sUnload.hub.entries = [eUnload]
    ∧ (beginWork eUnload.opcode eUnload.pkt sUnload).map (fun x => x.2.hub.entries) = some [eUnload] := by decide +kernel
theorem test_fetch : let t := after .commandFetch sFetch
    t.hub.entries.map (fun e => (e.opcode, e.pkt.flow, e.pkt.tag)) = [(0x0110, 3, 9)] ∧ (t.sess 1).sqHead = 0 := by decide +kernel
theorem test_fetchFails : ((after .commandFetch { sFetch with hostBad := [0x10] }).sess 1).errCause = 3 := by decide +kernel
theorem test_dispatch : (after .commandDispatch sWaits).hub.entries = [ent (.prefetched 0)]
    ∧ (after .commandDispatch sWaits).hub.turn = 1 := by decide +kernel
theorem test_dispatchBegins : let t := after .commandDispatch sUnload
    (t.parcel 0).load = .unloading ∧ t.inWork 0 = true ∧ (t.parcel 0).rg = some 0 := by decide +kernel


-- identity, registers, images, keys

/-- A packet with a host buffer. -/
def bpkt (session buf len : Nat) (fields : List (Nat × Nat)) : Packet :=
  { pkt session fields with buf := BitVec.ofNat 64 buf, len := BitVec.ofNat 32 len }

/-- IdentityCommands: a buffer of exactly the least length, a new part number and the one it has. -/
theorem wit_IdentityCommands :
    Accepted 0x0100 (pkt 0 []) up (parCheck (pkt 0 []) [] true) false
    ∧ (let p := bpkt 0 0x10000 2048 []
      Accepted 0x0101 p up (parCheck p [] true) false ∧ 2048 ≤ p.len.toNat)
    ∧ (let p := bpkt 0 0x10000 144 [(20, 99)]
      Accepted 0x0102 p up (parCheck p [(20, 32)] true) false ∧ 144 ≤ p.len.toNat)
    ∧ (∀ n ∈ [1023, 0xFFFF], let p := pkt 15 [(20, n)]
      Accepted 0x0103 p up (parCheck p [(20, 2)] (decide (par p 20 2 < 1024) || decide (par p 20 2 = 0xFFFF))) false
      ∧ p.session < 16 ∧ up.datum.role = 0 ∧ ∀ g ∈ up.runGroups, (up.group g).joined = false) := by
  unfold Accepted; decide +kernel
theorem test_partNumber : (after (.partNumberSet (pkt 0 [(20, 1023)])) up).boot.part = some 1023
    ∧ (after (.partNumberSet (pkt 0 [(20, 0xFFFF)])) up).boot.part = none := by decide +kernel

def sSel : State := { up with faults := { up.faults with sel := 5 } }
/-- RegisterCommands: a parcel register, a register of no number, a read-only register. -/
theorem wit_RegisterCommands : up.hubUp = true
    ∧ (let p := pkt 0 [(20, 0x02000000), (24, 1)]
      Accepted 0x0110 p up (regReadBad p) (decide (par p 24 2 = 0)) ∧ p.len = 0 ∧ par p 24 2 = 1 ∧ up.mayRead 0 (par p 20 4) = true)
    ∧ (let p := pkt 16 [(20, 0x60000020), (24, 1)]
      Accepted 0x0110 p up (regReadBad p) (decide (par p 24 2 = 0)) ∧ up.mayRead 1 (par p 20 4) = false)
    ∧ (∀ h ∈ [0x10 * 2 ^ 24 + 31 * 2 ^ 12 + 0x160, 0x60 * 2 ^ 24 + 0x30, 0x02 * 2 ^ 24], let p := pkt 0 [(20, h), (24, 3), (32, 1)]
      Accepted 0x0111 p up (match parCheck p [(20, 4), (24, 8), (32, 8)] true with
          | some d => some d
          | none => if handleOk (par p 20 4) then none else some 0x12) (decide (par p 32 8 = 0))
      ∧ par p 20 4 = h ∧ p.session < 16) := by
  unfold Accepted; decide +kernel
theorem test_regWrite : (after (.regWrite (pkt 0 [(20, 0x60 * 2 ^ 24 + 0x30), (24, 0x52), (32, 0x0F)])) sSel).faults.sel = 2
    ∧ ((after (.regWrite (pkt 0 [(20, 0x10 * 2 ^ 24 + 31 * 2 ^ 12 + 0x160), (24, 0x30002), (32, 0xFFFFFFFF)])) up).parcel 31).stgW = 3 := by
  decide +kernel
theorem test_datumNowRead : (after .datumNowRead { up with datum := { up.datum with epoch := 9 } }).datum.lat = 9 := by decide +kernel
theorem test_latchedClear : let s := up.raise { code := 0x1004, unit := 3, access := 5, master := 0, address := 0, cycle := 0 }
    (s.faultRec 3).isSome = true ∧ (after (.faultLatchedClear 8 0) s).faultRec 3 = none
    ∧ (after (.faultLatchedClear 7 0) s).faultRec 3 = s.faultRec 3 := by decide +kernel

/-- PairCommits: a staged cap that is consistent, equal, inconsistent; a datum pair with unequal and equal tags; the FRAME edge. -/
def sCap (c w : Nat) : State := up.updParcel 31 fun v => { v with stgClass := c, stgW := w }
def sTag (a : Nat) (t : Nat) : State := { up with datum := { up.datum with stgAddend := BitVec.ofNat 60 a, stgTag := t, offTag := 7, offset := 5 } }
def sEdge : State := { up with datum := { up.datum with apply := some { addend := up.datum.addend + 1, tag := 7, changes := [(0, false)] } } }
theorem wit_PairCommits : up.hubUp = true
    ∧ (let p := pkt 0 [(20, 0x10 * 2 ^ 24 + 31 * 2 ^ 12)]
      (∀ s ∈ [sCap 1 65535, sCap 1 0, up], Accepted 0x0112 p s (match parCheck p [(20, 4)] true with
        | some x => some x
        | none => if handleOk (par p 20 4) && decide (hOff (par p 20 4) = 0) && [0x10, 0x20, 0x38, 0x50].contains (hBlock (par p 20 4)) then none else some 0x12) false
        ∧ s.failed 31 = false ∧ s.parcelLocked p.session [31] = false ∧ s.boot.pairMode < 2 ∧ s.loadedClass 31 = 0)
      ∧ capOk 1 65535 = true ∧ 65535 ≠ (up.parcel 31).capW ∧ capOk 1 0 = false ∧ (1 ≠ (up.parcel 31).capClass ∨ 0 ≠ (up.parcel 31).capW)
      ∧ capOk (up.parcel 31).stgClass (up.parcel 31).stgW = true ∧ (up.parcel 31).stgClass = (up.parcel 31).capClass
      ∧ (up.parcel 31).stgW = (up.parcel 31).capW)
    ∧ (let p := pkt 0 [(20, 0x50 * 2 ^ 24)]
      (∀ s ∈ [sTag 5 6, sTag (up.datum.addend.toNat + 1) 7], Accepted 0x0112 p s (match parCheck p [(20, 4)] true with
        | some x => some x
        | none => if handleOk (par p 20 4) && decide (hOff (par p 20 4) = 0) && [0x10, 0x20, 0x38, 0x50].contains (hBlock (par p 20 4)) then none else some 0x12) false
        ∧ s.datum.role < 2)
      ∧ (sTag 5 6).datum.stgTag ≠ (sTag 5 6).datum.offTag
      ∧ addendOk (sTag (up.datum.addend.toNat + 1) 7).datum.stgAddend.toNat = true ∧ (sTag (up.datum.addend.toNat + 1) 7).datum.apply = none
      ∧ (sTag (up.datum.addend.toNat + 1) 7).datum.stgAddend ≠ (sTag (up.datum.addend.toNat + 1) 7).datum.addend)
    ∧ (let p := pkt 0 [(20, 0x50 * 2 ^ 24)]
      Accepted 0x0112 p sBoot (match parCheck p [(20, 4)] true with
        | some x => some x
        | none => if handleOk (par p 20 4) && decide (hOff (par p 20 4) = 0) && [0x10, 0x20, 0x38, 0x50].contains (hBlock (par p 20 4)) then none else some 0x12) false
      ∧ sBoot.phase = 0 ∧ up.phase ≠ 0)
    ∧ sEdge.clocked = true ∧ { sEdge with boot := { sEdge.boot with stage := .s0 } }.clocked = false
    ∧ up.datum.apply = none ∧ sEdge.datum.apply = some { addend := up.datum.addend + 1, tag := 7, changes := [(0, false)] }
    ∧ sEdge.datum.now.toNat * 2 ^ 32 + sEdge.datum.frac + sEdge.datum.addend.toNat < 2 ^ 96
    ∧ (sEdge.anyParked fun w => decide (w = .datumEdge)) = false := by
  unfold Accepted; decide +kernel
theorem test_regCommit : let p := pkt 0 [(20, 0x10 * 2 ^ 24 + 31 * 2 ^ 12)]
    ((after (.regCommit p) (sCap 1 65535)).parcel 31).capW = 65535 ∧ (after (.regCommit p) (sCap 1 0)).boot.lastStatus = 0x8009
    ∧ (after (.regCommit p) (sCap 1 0)).boot.mismatches = 1 := by decide +kernel
theorem test_datumPair : (after (.regCommit (pkt 0 [(20, 0x50 * 2 ^ 24)])) (sTag (up.datum.addend.toNat + 1) 7)).datum.offset = 0
    ∧ (after .datumPairApply sEdge).datum.addend = up.datum.addend + 1 ∧ (after .datumPairApply sEdge).datum.tag = 7 := by decide +kernel

/-- ImageCommands: a load descriptor with no image behind it, at its start and in each state of a worker; a batch of the loaded image, a
group that does not run. -/
def sDesc : State := { sStop with sessions := [(0, ses .enabled)], hostMem := memSetBytes 0x10000 ([0, 255, 0, 0, 0, 0, 0, 0, 0, 0, 1, 0, 0, 0, 0, 0, 64]
  ++ List.replicate 7 0 ++ List.replicate 44 255) [] }
def pLoad : Packet := bpkt 0 0x10000 256 []
def sWork (phase : WorkPhase) (fault : Option Nat) : State :=
  { sDesc with hub := { sDesc.hub with entries := [{ opcode := 0x0200, pkt := pLoad, state := .executing 3 { plainClaim phase [1] with
                          desc := some (descOf (bufMem sDesc pLoad)), fault := fault } }] } }.updParcel 1 fun v => { v with load := .checking }
theorem wit_ImageCommands : up.hubUp = true
    ∧ sDesc.workOf 0x0200 pLoad = none
    ∧ (match loadHead sDesc pLoad (descOf (bufMem sDesc pLoad)) with | .ok _ => 0 | .error e => e.detail) = 0x0611
    ∧ (∀ x ∈ [(WorkPhase.check, some 0x1002), (.check, none), (.write, none)],
        (((sWork x.1 x.2).workOf 0x0200 pLoad).map fun y => (y.2.2.desc.isSome, y.2.2.phase, y.2.2.fault)) = some (true, x.1, x.2))
    ∧ (let p := bpkt 0 0x10000 256 []
      Accepted 0x0200 p sDesc (imageLoadBad p sDesc) (decide (memNat (bufMem sDesc p) 16 8 = 0)))
    ∧ (let p := bpkt 0 0x10000 1 [(20, 1), (24, 255)]
      sDesc.imageOfMask (maskList 32 (par p 20 4)) = some (0, img) ∧ sDesc.ownCheck 0 (maskList 32 (par p 20 4)) = none
      ∧ (maskList 32 (par p 20 4)).any sDesc.inWork = false ∧ sDesc.parcelLocked p.session (maskList 32 (par p 20 4)) = false
      ∧ Accepted 0x0201 p sDesc (parCheck p [(20, 4), (24, 1)] (decide (par p 24 1 < 64) || decide (par p 24 1 = 255)))
            (decide (par p 20 4 = 0) || decide (p.len = 0) || decide (64 ≤ p.len.toNat ∧ memNat (bufMem sDesc p) 4 4 = 0))
      ∧ 64 ≤ par p 24 1 ∧ slotMatches img (par p 24 1) = true ∧ sDesc.copying 0 = false)
    ∧ (let p := pkt 0 [(20, 1)]
      Accepted 0x0204 p sStop (parCheck p [(20, 4)] true) (decide (par p 20 4 = 0)) ∧ (sStop.group 0).state ≠ .armed
      ∧ (sStop.group 0).state ≠ .running ∧ sStop.imageOfMask (maskList 32 (par p 20 4)) = some (0, img)
      ∧ sStop.ownCheck 0 (maskList 32 (par p 20 4)) = none ∧ (maskList 32 (par p 20 4)).any sStop.inWork = false
      ∧ sStop.parcelLocked p.session (maskList 32 (par p 20 4)) = false) := by
  unfold Accepted; and_intros <;> decide +kernel
/-- An image of one parcel, N = 256, whose tables are all 0, of a power class: its cartouche, and its bytes in host memory. -/
def blankHead (cls : Nat) : Memory :=
  let sect (k type off len vp : Nat) : Memory :=
    cellsAt (0x200 + 32 * k) (leBytes 4 type ++ leBytes 4 (crcSparse [] len) ++ leBytes 8 off ++ leBytes 8 len ++ leBytes 4 vp)
  let h : Memory := cellsAt 0 (leBytes 4 0x54434B53 ++ leBytes 2 1 ++ leBytes 2 4096 ++ leBytes 2 0x5C92 ++ [1, 0, 3, 7, 0, 0, 1, 0, 0, 0] ++ leBytes 2 256
      ++ [0, 0, BitVec.ofNat 8 cls, 8, 64, 16, 32, 16, 0, 0, 4, 0] ++ leBytes 6 0 ++ leBytes 8 2662400)
    ++ cellsAt 0x48 (leBytes 8 2662400) ++ sect 0 1 4096 2359296 1 ++ sect 1 2 2363392 36864 1 ++ sect 2 3 2400256 262144 1
    ++ sect 3 0xF0 2662400 0 0
  h ++ cellsAt 0xFFC (leBytes 4 (crcSparse h 0xFFC))
def toCells (base : Nat) (m : Memory) : Memory := m.map fun x => (base + x.1, x.2)
def sLoad (cls : Nat) (asleep : Bool) : State :=
  { up with sessions := [(0, ses .enabled)], groups := [], parcels := [(0, { Parcel.init with owned := true, load := .blank, asleep := asleep })]
            hostMem := memSetBytes 0x10000 ([0, 255, 1, 0, 0, 0, 0, 0] ++ leBytes 8 0x100000 ++ leBytes 8 2662400 ++ List.replicate 44 255) []
              ++ toCells 0x100000 (blankHead cls) }
def okPlan {e : Type} (x : Except e Plan) : Bool := match x with | .ok q => decide (q.img.parcels = [0] ∧ q.img.allots = []) | .error _ => false
def headOk (s : State) : Bool := match loadHead s pLoad (descOf (bufMem s pLoad)) with | .ok _ => true | .error _ => false
/-- The claim of a worker whose stage holds an uncorrectable word. -/
def sStaged2 : State :=
  { (sWork .check none).updStack 3 fun v => { v with trained := true } with
    stages := [{ handle := 9, stack := 3, base := 0, units := 1, owner := 0, length := 4096 }], ecc := [(eccKey 9 (3 * 2 ^ 33 + 7), 2)] }
def dStage : Desc := { descOf (bufMem sDesc pLoad) with source := 1, image := 9, length := 4096 }
/-- A load from host memory reads no stack. -/
theorem readStage_host (s : State) (p : Packet) (d : Desc) (h : s.stageOf d = none) :
    s.readStage p d = ([], s) ∧ s.sourceStack d = [] := by simp [State.readStage, State.sourceStack, h]
theorem wit_ImageCommands_load :
    (∀ s ∈ [sLoad 4 false, sLoad 4 true, sLoad 0 false], s.workOf 0x0200 pLoad = none
      ∧ Accepted 0x0200 pLoad s (imageLoadBad pLoad s) (decide (memNat (bufMem s pLoad) 16 8 = 0)) ∧ headOk s = true
      ∧ s.stageOf (descOf (bufMem s pLoad)) = none)
    ∧ (∀ s ∈ [sLoad 4 false, sLoad 4 true], okPlan (loadCheck s pLoad (descOf (bufMem s pLoad))) = true)
    ∧ (match loadCheck (sLoad 0 false) pLoad (descOf (bufMem (sLoad 0 false) pLoad)) with | .ok _ => 0 | .error e => e.detail) = 0x0204
    ∧ loadDomains [0] [] = [.parcel 0] ∧ (sLoad 4 false).Takes (.parcel 0) ∧ (sLoad 4 true).unready (.parcel 0) = true := by
  unfold Accepted State.Takes; decide +kernel
theorem wit_ImageCommands_worker :
    (∀ x ∈ [(WorkPhase.check, some 0x1002), (.check, none), (.write, none)], ∀ y ∈ (sWork x.1 x.2).workOf 0x0200 pLoad,
      (sWork x.1 x.2).loadAwake y.2.2 = true ∧ ((sWork x.1 x.2).updParcel 1 fun v => { v with asleep := true }).loadAwake y.2.2 = false
      ∧ (sWork x.1 x.2).stageOf (descOf (bufMem sDesc pLoad)) = none)
    ∧ (sStaged2.readStage pLoad dStage).1 ≠ []
    ∧ ∀ y ∈ sStaged2.workOf 0x0200 pLoad, y.2.2.fault = none ∧ sStaged2.loadAwake { y.2.2 with desc := some dStage } = true := by decide +kernel
theorem test_load : ((after (.imageLoad pLoad) (sLoad 4 true)).hub.entries.map (·.wait?)) = [some (.domains [.parcel 0])]
    ∧ ((after (.imageLoad pLoad) (sLoad 0 false)).parcel 0).lastDetail = 0x0204 := by decide +kernel
/-- ImageCommands, SurveyCommands: none of these commands has been begun by a worker. -/
theorem wit_resumed : sDesc.resumed 0x0201 (bpkt 0 0x10000 1 [(20, 1), (24, 255)]) = sDesc
    ∧ sStop.resumed 0x0204 (pkt 0 [(20, 1)]) = sStop ∧ sStop.resumed 0x0401 (bpkt 0 0x10000 32 []) = sStop := by and_intros <;> rfl
theorem test_imageLoad : leNat (memBytes (after (.imageLoad (bpkt 0 0x10000 256 [])) sDesc).hostMem (0x20000 + 4) 4)
    = errTruncated + 0x0611 * 2 ^ 16 := by decide +kernel
theorem test_imageLoad_worker :
    ((after (.imageLoad pLoad) (sWork .check none)).parcel 1).load = .blank
    ∧ ((after (.imageLoad pLoad) (sWork .write none)).parcel 1).lastDetail = 0x0613
    ∧ ((after (.imageLoad pLoad) (sWork .check (some 0x1002))).parcel 1).lastDetail = 0x1002 := by decide +kernel
theorem test_imageUnload : let t := after (.imageUnload (pkt 0 [(20, 1)])) sStop
    (t.parcel 0).load = .blank ∧ (t.parcel 0).rg = none ∧ t.runGroups = [] := by decide +kernel
theorem wit_LoadAndUnloadStates : mwf Parcel.init up.parcels = true ∧ mwf RunGroup.init up.groups = true ∧ up.memoriesWf = true
    ∧ 0 ∈ img.parcels := by decide +kernel
theorem test_restoreBad : let t := restoreSpoil sStop 0 img { cargo := [], frames := [], hbmAt := 0, hbm := 0 }
    (t.parcel 0).restoreBad = true ∧ (t.group 0).cycle = 0 ∧ t.values = [] ∧ t.runnable 0 = false := by decide +kernel

/-- StagesAndKeys: a stack with its one free unit last, a stage of the caller, an empty slot and a bound one, a KEK. -/
def sKeys : State :=
  { up.updStack 3 fun v => { v with trained := true, designEnd := 2 } with
    stages := [{ handle := 9, stack := 3, base := 0, units := 1, owner := 0, length := 64 }], nextStage := 10
    keys := [(63, { KeySlot.init with bound := some 0, key := 5 })], keks := [(0, some 77)] }
theorem wit_StagesAndKeys : up.hubUp = true
    ∧ (let p := bpkt 0 0x10000 64 [(20, 3)]
      Accepted 0x0202 p sKeys (parCheck p [(20, 1)] (decide (par p 20 1 < 4))) (decide (p.len = 0)) ∧ (sKeys.stack 3).trained = true ∧ sKeys.Takes (.stack 3)
      ∧ firstFit (sKeys.designUsed 3) 0 (sKeys.stack 3).designEnd (ceilDiv p.len.toNat unitBytes) = some 1)
    ∧ (let p := pkt 0 [(20, 9)]
      Accepted 0x0203 p sKeys (parCheck p [(20, 4)] true) false
      ∧ ((sKeys.stages.find? fun x => decide (x.handle = par p 20 4)).map (·.owner)) = some 0 ∧ sKeys.claims = [])
    ∧ (let p := pkt 0 [(20, 62), (24, 1)]
      Accepted 0x0210 p sKeys (parCheck p [(20, 1), (24, 40)] (decide (par p 20 1 < 64))) false ∧ (sKeys.key 62).bound = none
      ∧ sKeys.keyLocked p.session 62 = false ∧ mget none 0 sKeys.keks = some 77)
    ∧ (let p := pkt 0 [(20, 63)]
      Accepted 0x0211 p sKeys (parCheck p [(20, 1)] (decide (par p 20 1 < 64))) false ∧ (sKeys.key 63).bound = some 0
      ∧ sKeys.keyLocked p.session 63 = false ∧ ∀ i ∈ sKeys.images, i.keySlot ≠ some 63)
    ∧ (let p := bpkt 0 0x10000 97 []
      Accepted 0x0212 p sKeys (parCheck p [] (decide (p.len.toNat = 97))) false) := by
  unfold Accepted State.Takes; and_intros <;> decide +kernel
theorem test_stage : let t := after (.imageStage (bpkt 0 0x10000 64 [(20, 3)])) sKeys
    t.stages.map (fun g => (g.handle, g.base)) = [(9, 0), (10, 1)]
    ∧ (after (.imageUnstage (pkt 0 [(20, 9)])) sKeys).stages = [] := by decide +kernel
theorem test_keyClear : ((after (.keyClear (pkt 0 [(20, 63)])) sKeys).key 63).bound = none := by decide +kernel


-- tables, run control, surveys, memory

/-- A check answers a number. -/
def okIs {e : Type} (x : Except e Nat) (g : Nat) : Bool := match x with | .ok v => decide (v = g) | .error _ => false
/-- TableCommands: a commit now, at the first cycle and before it, on a running group; one on a stopped group, without and with a copy in
progress; a poke two steps ahead, one behind, and one for the next step. -/
def sCopyStop : State := sStop.updParcel 0 fun v => { v with copyBusy := true }
def sPokeQ : State := up.setQuad 35 { Quad.init with rg := some 0 }
theorem wit_TableCommands : up.hubUp = true
    ∧ (∀ at_ ∈ [0, 4, 5], let p := pkt 0 [(20, 1), (28, at_)]
      Accepted 0x0220 p up (parCheck p [(20, 4), (28, 8)] true) (decide (par p 20 4 = 0)) ∧ par p 28 8 = at_)
    ∧ (let p := pkt 0 [(20, 1)]
      okIs (ownedGroup p up) 0 = true ∧ (up.group 0).state = .running
      ∧ (∀ s ∈ [sStop, sCopyStop], Accepted 0x0220 p s (parCheck p [(20, 4), (28, 8)] true) (decide (par p 20 4 = 0))
        ∧ okIs (ownedGroup p s) 0 = true ∧ (s.group 0).state ≠ .running) ∧ sStop.copying 0 = false ∧ sCopyStop.copying 0 = true)
    ∧ (∀ e ∈ [12, 9, 11, 10], let p := pkt 0 [(22, 15), (23, 15), (24, e), (28, 65535)]
      Accepted 0x0221 p up (parCheck p [(20, 1), (21, 1), (22, 1), (23, 1), (24, 2), (28, 8)] (pokeOk p)) false
      ∧ par p 21 1 = 0 ∧ up.ownCheck (p.session / 16) [par p 20 1] = none ∧ up.parcelLocked p.session [par p 20 1] = false
      ∧ (up.parcel (par p 20 1)).rg = some 0 ∧ up.inWork (par p 20 1) = false ∧ (up.group 0).step < (up.group 0).n ∧ par p 24 2 = e
      ∧ mget none (clOf (par p 20 1) (par p 22 1) * 4096 + e) up.fetchSnd = none)
    ∧ (let p := pkt 0 [(21, 1), (22, 35), (24, 8 * 12), (28, 77)]
      Accepted 0x0221 p sPokeQ (parCheck p [(20, 1), (21, 1), (22, 1), (23, 1), (24, 2), (28, 8)] (pokeOk p)) false ∧ par p 21 1 = 1
      ∧ sPokeQ.ownCheck (p.session / 16) [par p 20 1] = none ∧ sPokeQ.parcelLocked p.session [par p 20 1] = false
      ∧ (sPokeQ.parcel (par p 20 1)).rg = some 0 ∧ sPokeQ.inWork (par p 20 1) = false ∧ (sPokeQ.quad (par p 22 1)).rg = some 0
      ∧ (sPokeQ.quad (par p 22 1)).group = p.session / 16 ∧ sPokeQ.quadLocked p.session (par p 22 1) = false
      ∧ (sPokeQ.group 0).state = .running ∧ (sPokeQ.group 0).step < (sPokeQ.group 0).n ∧ (sPokeQ.group 0).step + 2 ≤ par p 24 2 / 8) := by
  unfold Accepted; and_intros <;> decide +kernel
theorem test_tableCommit : ((after (.tableCommit (pkt 0 [(20, 1)])) up).parcel 0).commitPend = true
    ∧ ((after (.tableCommit (pkt 0 [(20, 1)])) sCopyStop).parcel 0).commitPend = true := by decide +kernel
theorem test_poke : let t := after (.tablePokeActive (pkt 0 [(22, 15), (23, 15), (24, 11), (28, 65535)])) up
    mget 0 (51 * 4096 + 11) t.sendAct = BitVec.ofNat 512 (65535 * 2 ^ 240) ∧ mget none (51 * 4096 + 11) t.fetchSnd = some 0
    ∧ mget none (51 * 4096 + 10) (after (.tablePokeActive (pkt 0 [(22, 15), (23, 15), (24, 10), (28, 65535)])) up).fetchSnd = some 0
    ∧ mget 0 (35 * 32768 + 96) (after (.tablePokeActive (pkt 0 [(21, 1), (22, 35), (24, 96), (28, 77)])) sPokeQ).quadShd = 77 := by
  decide +kernel

/-- RunControl: a start exactly 2,000 ns ahead and just below; a stop now and at a cycle, and of a stopped group; a pause ahead and due; a
resume ahead, and with no pause. -/
def sRes : State := up.updGroup 0 fun r => { r with pauses := [{ pz with raised := true }] }
theorem wit_RunControl : up.hubUp = true
    ∧ (∀ t ∈ [131072000, 131071999], let p := pkt 0 [(20, 1), (28, t)]
      okIs (runGroupOf p sStop) 0 = true ∧ Accepted 0x0300 p sStop (parCheck p [(20, 4), (28, 8)] true)
        (decide (par p 20 4 = 0)) ∧ sStop.runnable 0 = true ∧ sStop.cargoQuads 0 = []
      ∧ inWindow (BitVec.ofNat 64 (par p 28 8)) sStop.datum.now = true
      ∧ (decide ((131072000 : Int) ≤ signed64 (BitVec.ofNat 64 (par p 28 8)) sStop.datum.now) = decide (t = 131072000)))
    ∧ inWindow (BitVec.ofNat 64 (par (pkt 0 [(20, 1), (28, 2 ^ 63)]) 28 8)) sStop.datum.now = false
    ∧ (∀ t ∈ [0, 5], let p := pkt 0 [(20, 1), (28, t)]
      okIs (runGroupOf p up) 0 = true ∧ Accepted 0x0301 p up (parCheck p [(20, 4), (28, 8)] true) (decide (par p 20 4 = 0))
      ∧ (up.group 0).state = .running ∧ (up.group 0).joined = false ∧ (up.group 0).paused = false ∧ (up.group 0).step < (up.group 0).n
      ∧ (up.group 0).cycle.toNat ≤ 5 ∧ (up.group 0).stops.contains { cause := 2, cycle := 5 } = false)
    ∧ (sStop.group 0).state ≠ .running ∧ (sStop.group 0).state ≠ .armed := by
  unfold Accepted; decide +kernel
theorem wit_RunControl_pauses :
    (∀ t ∈ [0, 1], let p := pkt 0 [(20, 1), (28, t), (36, 2)]
      let e : Word := BitVec.ofNat 64 (par p 36 8)
      Accepted 0x0302 p up (parCheck p [(20, 4), (28, 8), (36, 8)] (inWindow (BitVec.ofNat 64 (par p 28 8)) up.datum.now
          && (decide (e = 0) || (inWindow e up.datum.now && decide (0 < signed64 e (BitVec.ofNat 64 (par p 28 8))))))) (decide (par p 20 4 = 0))
      ∧ (up.group 0).paused = false ∧ (decide (signed64 (up.tOpen up.opp) (BitVec.ofNat 64 (par p 28 8)) < 0) = decide (t = 1))
      ∧ signed64 (up.tOpen up.opp) e < 0)
    ∧ (let p := pkt 0 [(20, 1), (28, 1)]
      (∀ s ∈ [up, sRes], okIs (runGroupOf p s) 0 = true
        ∧ Accepted 0x0303 p s (parCheck p [(20, 4), (28, 8)] (inWindow (BitVec.ofNat 64 (par p 28 8)) s.datum.now)) (decide (par p 20 4 = 0)))
      ∧ (sRes.group 0).pauses = [{ pz with raised := true }] ∧ signed64 (sRes.tOpen sRes.opp) (BitVec.ofNat 64 (par p 28 8)) < 0) := by
  unfold Accepted; decide +kernel
theorem test_runAt : ((after (.runAt (pkt 0 [(20, 1), (28, 131072000)])) sStop).group 0).state = .armed
    ∧ ((after (.runAt (pkt 0 [(20, 1), (28, 131071999)])) sStop).group 0).state = .stopped
    ∧ ((after (.runAt (pkt 0 [(20, 1), (28, 2 ^ 63)])) sStop).group 0).state = .stopped := by decide +kernel
theorem test_runStop : ((after (.runStop (pkt 0 [(20, 1)])) up).group 0).stops = [{ cause := 2, cycle := 5 }] := by decide +kernel
theorem test_pauseAt : ((after (.pauseAt (pkt 0 [(20, 1), (28, 1)])) up).group 0).pauses.map (·.raised) = [false]
    ∧ ((after (.pauseAt (pkt 0 [(20, 1)])) up).group 0).pauses.map (·.raised) = [true] := by decide +kernel
theorem test_resumeAt : ((after (.resumeAt (pkt 0 [(20, 1), (28, 1)])) sRes).group 0).pauses.map (·.again) = [some 1] := by decide +kernel

/-- SurveyCommands: a buffer of exactly the length needed and one byte less, on a stopped and on a running group; a restore. -/
def need0 : Nat := 256 + up.bodyLen 0 img 0
def sSv (s : State) (len : Nat) : State :=
  { s with hostMem := memSetBytes 0x10000 ([1, 0, 0, 0, 0, 255, 0, 0] ++ leBytes 8 0 ++ leBytes 8 0 ++ leBytes 8 0x100000 ++ leBytes 8 len) [] }
def sRestore : State := { sStop with hostMem := memSetBytes 0x10000 ([1, 0, 0, 0, 255, 0, 0, 0] ++ leBytes 8 0x100000 ++ leBytes 8 64) [] }
theorem wit_SurveyCommands : up.hubUp = true
    ∧ (let p := bpkt 0 0x10000 64 []
      ∀ s ∈ [sSv up (need0 - 1), sSv up need0, sSv sStop need0],
        let d := bufMem s p
        s.imageOfMask (maskList 32 (memNat d 0 4)) = some (0, img) ∧ s.ownCheck 0 (maskList 32 (memNat d 0 4)) = none
        ∧ s.parcelLocked p.session (maskList 32 (memNat d 0 4)) = false
        ∧ Accepted 0x0400 p s (surveyBad p s) (decide (memNat d 32 8 = 0) || decide (memNat d 0 4 = 0)) ∧ slotMatches img (memNat d 5 1) = true
        ∧ (∀ q ∈ maskList 32 (memNat d 0 4), s.inWork q = false ∧ (s.parcel q).svState = .idle) ∧ (s.group 0).state ≠ .armed ∧ (s.group 0).state ≠ .faultHalted ∧ memNat d 8 8 = 0
        ∧ bitOf (memNat d 4 1) 1 = false ∧ 256 + s.bodyLen 0 img (memNat d 4 1) = need0 ∧ (s.group 0).step < (s.group 0).n)
    ∧ memNat (bufMem (sSv up (need0 - 1)) (bpkt 0 0x10000 64 [])) 32 8 < need0
    ∧ need0 ≤ memNat (bufMem (sSv up need0) (bpkt 0 0x10000 64 [])) 32 8
    ∧ (let p := bpkt 0 0x10000 32 []
      let d := bufMem sRestore p
      (maskList 32 (memNat d 0 4)).any sRestore.inWork = false
      ∧ sRestore.imageOfMask (maskList 32 (memNat d 0 4)) = some (0, img) ∧ sRestore.ownCheck 0 (maskList 32 (memNat d 0 4)) = none
      ∧ sRestore.parcelLocked p.session (maskList 32 (memNat d 0 4)) = false
      ∧ Accepted 0x0401 p sRestore (parCheck p [] (decide (p.len = 32) && zeroAt d 5 3 && zeroAt d 24 8))
        (decide (memNat d 16 8 = 0) || decide (memNat d 0 4 = 0))) := by
  unfold Accepted; decide +kernel
theorem test_survey : let p := bpkt 0 0x10000 64 []
    ((after (.survey p) (sSv sStop need0)).group 0).surveys.map (·.taking) = [true]
    ∧ ((after (.survey p) (sSv up need0)).group 0).surveys.map (fun q => (q.atCycle, q.taking)) = [(5, false)]
    ∧ ((after (.survey p) (sSv up (need0 - 1))).group 0).surveys = [] := by decide +kernel

/-- MemoryCommands: the last word of a bank, the first word of a unit of an image's allotment, a partition that moves only free units. -/
def sMem : State :=
  { sStop.updGroup 0 fun r => { r with images := [{ img with allots := [(3, 1, 1)] }] } with
    hostMem := memSetBytes 0x10000 [1, 2, 3, 4, 5, 6, 7, 8] [] }
theorem wit_MemoryCommands : sMem.boot.pairMode ≠ 2
    ∧ (let p := bpkt 0 0x10000 8 [(20, 0), (22, 15), (24, 65535)]
      sMem.ownCheck 0 [par p 21 1] = none ∧ (sMem.parcel (par p 21 1)).load = .loaded
      ∧ (sMem.lockedBy p.session fun l => l.onBank (clOf 0 15) 65535 1) = false
      ∧ Accepted 0x0500 p sMem (memBad p sMem false) (decide (p.len = 0)) ∧ Accepted 0x0501 p sMem (memBad p sMem true) (decide (p.len = 0)))
    ∧ (let p := bpkt 0 0x10000 8 [(20, 1), (21, 3), (24, unitWords)]
      par p 20 1 = 1 ∧ p.len.toNat / 8 = 1
      ∧ (sMem.imageAt 0 (par p 21 1) (par p 24 8 / unitWords)).isSome = true ∧ sMem.phase ≠ 1 ∧ sMem.Takes (.stack 3)
      ∧ sMem.workOf 0x0500 p = none ∧ sMem.workOf 0x0501 p = none
      ∧ (sMem.updStack 3 fun v => { v with asleep := true }).unready (.stack 3) = true
      ∧ Accepted 0x0500 p (sMem.updStack 3 fun v => { v with asleep := true }) (memBad p sMem false) (decide (p.len = 0))
      ∧ sMem.parcelLocked p.session [0] = false ∧ sMem.eccAt 9 (3 * 2 ^ 33 + unitWords) = 0
      ∧ Accepted 0x0500 p sMem (memBad p sMem false) (decide (p.len = 0)) ∧ Accepted 0x0501 p sMem (memBad p sMem true) (decide (p.len = 0)))
    ∧ (let p := pkt 0 [(22, 15), (23, 1), (24, 65535), (28, 7)]
      Accepted 0x0502 p sMem (parCheck p [(20, 1), (21, 1), (22, 1), (23, 1), (24, 2), (28, 8)]
          (decide (p.buf = 0) && decide (p.len = 0) && decide (par p 20 1 = 0) && decide (par p 21 1 < 32) && decide (par p 22 1 < 16)
            && decide (par p 23 1 < 2) && !(decide (sMem.boot.pairMode = 2) && decide (16 ≤ par p 21 1)))) false
      ∧ (sMem.lockedBy p.session fun l => l.onBank (clOf 0 15) 65535 1) = false)
    ∧ (let p := pkt 0 [(20, 3), (24, 576), (26, 576), (28, 576)]
      Accepted 0x0510 p up (parCheck p [(20, 1), (24, 2), (26, 2), (28, 2)] (decide (par p 20 1 < 4) && decide (par p 24 2 ≤ par p 26 2)
          && decide (par p 26 2 ≤ par p 28 2) && decide (par p 28 2 ≤ 576))) false ∧ p.session < 16
      ∧ ∀ x ∈ up.designUsed 3 ++ up.traceUsed 3 ++ up.insetUsed 3, ∀ j < x.2,
          regionOf (up.stack 3).designEnd (up.stack 3).traceEnd (up.stack 3).insetEnd (x.1 + j)
            = regionOf (par p 24 2) (par p 26 2) (par p 28 2) (x.1 + j)) := by
  unfold Accepted State.Takes; and_intros <;> decide +kernel
theorem test_memWrite : ((after (.memWrite (bpkt 0 0x10000 8 [(22, 15), (24, 65535)])) sMem).cluster 51).host = [.wr 65535 0x0807060504030201 0]
    ∧ (after (.memWrite (bpkt 0 0x10000 8 [(20, 1), (21, 3), (24, unitWords)])) sMem).hbmWord 3 unitWords = 0x0807060504030201 := by
  decide +kernel
theorem test_memRead : ((after (.memRead (bpkt 0 0x10000 8 [(22, 15), (24, 65535)])) sMem).cluster 51).host = [.rd 65535 0]
    := by decide +kernel
theorem test_memAsleep : (after (.memRead (bpkt 0 0x10000 8 [(20, 1), (21, 3), (24, unitWords)]))
    (sMem.updStack 3 fun v => { v with asleep := true })).hub.entries.map (·.wait?) = [some (.domains [.stack 3])] := by decide +kernel
theorem test_memAtomic : ((after (.memAtomic (pkt 0 [(22, 15), (23, 1), (24, 65535), (28, 7)])) sMem).cluster 51).atomics = [.swap 65535 7 0] := by
  decide +kernel
/-- The boundaries are in force once the reply has left (R188): not while it waits for a place in the ring. -/
theorem test_partition : let p := pkt 0 [(20, 3), (24, 5), (26, 6), (28, 576)]
    ((after (.hbmPartition p) { up with sessions := [(0, ses .enabled)] }).stack 3).traceEnd = 6
    ∧ ((after (.hbmPartition p) { up with sessions := [(0, { ses .enabled with cqHead := 1 })] }).stack 3).traceEnd = (up.stack 3).traceEnd := by
  decide +kernel


-- trace, datum, pins

def blkHead : List Byte := leBytes 4 0x52544B53 ++ leBytes 2 1 ++ [0, 0] ++ leBytes 2 1 ++ leBytes 2 1 ++ leBytes 48 0
/-- A stopped group whose cluster 0 ships its probes in step 255, and a trace block for cluster 0 in host memory. -/
def sBlk : State :=
  { sStop.updStack 0 fun v => { v with trained := true, designEnd := 0, traceEnd := 1 } with
    ptable := [(255, 256)], hostMem := memSetBytes 0x10000 (blkHead ++ leBytes 4 (crc32c blkHead)) [] }
/-- The blocks of a packet parse, name no engine that is taken, and bind awake engines. -/
def binds (s : State) (p : Packet) : Bool :=
  match parseBlocks (bufMem s p) p.len.toNat with
  | none => false
  | some bs => decide (bindError s 0 0 (s.group 0) bs s.hasShip = none)
      && match bindAll s 0 0 (s.group 0) bs (s.groupEngines (s.group 0)) with
        | none => false
        | some t => decide (t.groupEngines (s.group 0) = s.groupEngines (s.group 0))
            && (s.groupEngines (s.group 0)).all fun e => !t.unready (.trace e) && !t.isDown (.trace e)
def sBnd : State := sStop.setEngine 0 { Engine.init with state := .bound, rg := some 0, clusters := [0], capacity := 2000, units := 1 }
def sBndRun : State := sBnd.updGroup 0 fun r => { r with state := .running }
def sBndArm : State := sBnd.updEngine 0 fun e => { e with state := .armed }
def sBndBuf : State := sBnd.updEngine 0 fun e => { e with state := .done, buffer := [smp 3, smp 4], events := [{ ev := evA, cl := 0 }] }
/-- TraceCommands: a block that binds, an arm of a stopped and of a running group, a force of an armed engine, both reads, a release. -/
theorem wit_TraceCommands : okIs (traceGroup (pkt 0 [(20, 1)]) sBlk) 0 = true
    ∧ (let p := bpkt 0 0x10000 0xE00 [(20, 1)]
      Accepted 0x0600 p sBlk (parCheck p [(20, 4)] true) (decide (p.len = 0) || decide (par p 20 4 = 0))
      ∧ (sBlk.group 0).state ≠ .armed ∧ (sBlk.group 0).state ≠ .running
      ∧ binds sBlk p = true)
    ∧ (let p := pkt 0 [(20, 1), (28, 1000)]
      ∀ s ∈ [sBnd, sBndRun], Accepted 0x0601 p s (parCheck p [(20, 4), (24, 1), (28, 8), (36, 6), (44, 8)] (decide (par p 24 1 < 2)))
          (decide (par p 20 4 = 0)) ∧ s.traceBound 0 = true ∧ par p 24 1 = 0 ∧ okIs (traceGroup p s) 0 = true)
    ∧ (let p := pkt 0 [(20, 1)]
      Accepted 0x0602 p sBndArm (parCheck p [(20, 4)] true) (decide (par p 20 4 = 0)) ∧ sBndArm.traceBound 0 = true
      ∧ (∀ e ∈ sBndArm.groupEngines (sBndArm.group 0), (sBndArm.engine e).state = .armed) ∧ okIs (traceGroup p sBndArm) 0 = true)
    ∧ (∀ k ∈ [0, 1], let p := bpkt 0 0x10000 128 [(20, 1), (25, k), (28, 1)]
      Accepted 0x0603 p sBndBuf (parCheck p [(20, 4), (24, 1), (25, 1), (28, 8)] (decide (par p 24 1 < 2) && decide (par p 25 1 < 2)))
        (decide (p.len = 0) || decide (par p 20 4 = 0)) ∧ sBndBuf.traceBound 0 = true ∧ (sBndBuf.engine (par p 24 1)).rg = some 0
      ∧ (sBndBuf.engine (par p 24 1)).state ≠ .armed ∧ (sBndBuf.engine (par p 24 1)).state ≠ .filling ∧ par p 25 1 = k
      ∧ sBndBuf.Takes (.stack (2 * par p 24 1 + (sBndBuf.engine (par p 24 1)).side)) ∧ sBndBuf.ecc = []) := by
  unfold Accepted State.Takes; and_intros <;> decide +kernel
theorem test_traceConfig : let e := (after (.traceConfig (bpkt 0 0x10000 0xE00 [(20, 1)])) sBlk).engine 0
    e.rg = some 0 ∧ e.clusters = [0] ∧ e.state = .bound := by decide +kernel
theorem test_traceArm : ((after (.traceArm (pkt 0 [(20, 1), (28, 1000)])) sBnd).engine 0).state = .armed
    ∧ ((after (.traceArm (pkt 0 [(20, 1), (28, 1000)])) sBndRun).engine 0).state = .bound := by decide +kernel
theorem test_traceForce : ((after (.traceForce (pkt 0 [(20, 1)])) sBndArm).engine 0).force = true := by decide +kernel
theorem test_traceRead : memNat (memSlice (after (.traceRead (bpkt 0 0x10000 128 [(20, 1), (28, 1)])) sBndBuf).hostMem 0x10000 128) 0 8 = 4 := by
  decide +kernel
theorem test_traceRelease : ((after (.traceRelease (pkt 0 [(20, 1)])) sBndArm).engine 0).rg = none := by decide +kernel

def sDt (role lock : Nat) (part : Option Nat) : State :=
  { up with datum := { up.datum with role := role, lock := lock }, boot := { up.boot with part := part } }
/-- DatumCommands: the role it has, each other role, a part without a number; an adjustment in a free and in a steered role; an origin; a quad. -/
theorem wit_DatumCommands : up.hubUp = true
    ∧ (∀ r ∈ [0, 1, 2, 3], let p := pkt 15 [(20, r), (22, if r = 3 then 1023 else 0)]
      ∀ s ∈ [sDt 0 0 none, sDt 0 0 (some 9), sDt 1 2 (some 9)],
        Accepted 0x0700 p s (parCheck p [(20, 1), (22, 2)] (datumRoleOk p s)) false ∧ s.boot.stage = .full ∧ par p 20 1 = r
        ∧ s.joinedBusy = false ∧ p.session < 16)
    ∧ (∀ s ∈ [sDt 1 2 (some 9), sDt 2 1 (some 9)], let p := pkt 0 [(20, up.datum.addend.toNat + 1), (28, 5)]
      Accepted 0x0701 p s (parCheck p [(20, 8), (28, 8)] (datumAdjustOk p)) (decide (par p 20 8 = 0) && decide (par p 28 8 = 0))
      ∧ s.datum.apply = none)
    ∧ (let p := pkt 0 [(20, 2 ^ 48 - 1), (28, 999999999)]
      Accepted 0x0702 p up (parCheck p [(20, 8), (28, 4)] (decide (par p 20 8 < 2 ^ 48) && decide (par p 28 4 < 1000000000))) false)
    ∧ (let p := pkt 0 [(20, 35), (22, 0xFFFF)]
      Accepted 0x0703 p up (parCheck p [(20, 1), (22, 2)] (decide (par p 20 1 < 36))) false) := by
  unfold Accepted; decide +kernel
theorem test_datumRole : (after (.datumRole (pkt 0 [(20, 3), (22, 1023)])) (sDt 0 0 (some 9))).datum.gmPart = 1023
    ∧ (after (.datumRole (pkt 0 [(20, 1)])) (sDt 0 0 (some 9))).datum.lock = 2
    ∧ (after (.datumRole (pkt 0 [(20, 1)])) (sDt 0 0 none)).datum.role = 0 := by decide +kernel
theorem test_datumAdjust : let p := pkt 0 [(20, up.datum.addend.toNat + 1), (28, 5)]
    ((after (.datumAdjust p) (sDt 1 2 (some 9))).datum.apply.map (·.changes)) = some [(5, false)]
    ∧ (after (.datumAdjust p) (sDt 2 1 (some 9))).datum.apply = none := by decide +kernel
theorem test_origin : (after (.datumOrigin (pkt 0 [(20, 7), (28, 999999999)])) up).datum.originNs = 999999999
    ∧ ((after (.datumLinkCal (pkt 0 [(20, 35), (22, 0xFFFF)])) up).quad 35).asym = -1 := by decide +kernel
theorem wit_DatumAdvances : up.clocked = true ∧ up.datum.apply = none ∧ up.datum.frac < 2 ^ 32 ∧ (up.anyParked fun w => decide (w = .datumEdge)) = false := by
  decide +kernel
theorem test_datumTick : let t := after .datumTick { up with datum := { up.datum with now := 0xFFFFFFFFFFFFFFFF } }
    t.datum.epoch = 1 ∧ t.opp = 4 := by decide +kernel

def bnd : TrigPin := { TrigPin.init with parcels := 1, owner := 0, seqWidth := 7 }
def trn (next : Nat) : TrigPin := { bnd with train := some { start := 0, count := 1, width := 0, period := 0, next := next } }
def sPins : State := { (up.setTrigOut 3 bnd).setTrigIn 3 bnd with trigOut := [(1, trn 1), (2, { bnd with train := some { start := 0, count := 2, width := 1, period := 2, next := 0 } }), (3, bnd)] }
/-- Pin 3 used by the engine of the running group, before and after an edge of the cycle; a part with parcel 31 failed at the factory. -/
def sTin : State := sPins.setEngine 0 { eng0 with trigUse := 8 }
def sTin1 : State := after (.trigInEdge 3 false 500) sTin
def sFailed : State := { sPins with factory := [31] }
/-- Output 3 in the middle of a pulse, and a train that waits for its end with its command. -/
def sMid : State := sPins.setTrigOut 3 { bnd with train := some { start := 0, count := 2, width := 1, period := 2, next := 1 } }
def sNewTrain : State :=
  (sPins.setTrigOut 3 { bnd with train := some { start := 0, count := 2, width := 0, period := 2, next := 1 }
                                 newTrain := some { start := 70000000, count := 1, width := 1, period := 0, next := 0 } }).setEntries
    [{ opcode := 0x0705, pkt := pkt 0 [], state := .parked (.pulse 3) }]
def sEdge1 : State := sPins.setTrigIn 2 { bnd with lastEdge := some 100 }
/-- PinCommands: a free output and input, a bound input, an unbinding; a train at exactly 1,000 ns and one below; a rise and the last fall;
an edge 419,430 du after the last one, and the first edge. -/
theorem wit_PinCommands : sPins.hubUp = true
    ∧ (∀ v ∈ [(1, 0, 0, 1), (0, 0, 0, 1), (0, 3, 0, 1), (1, 3, 1, 0)], let p := pkt 0 [(20, v.1), (21, v.2.1), (22, v.2.2.1), (24, v.2.2.2), (28, 1600)]
      Accepted 0x0704 p sPins (parCheck p [(20, 1), (21, 1), (22, 1), (24, 4), (28, 4)] (trigBindOk p))
        (decide (par p 22 1 = 0) && decide (par p 24 4 = 0)) ∧ p.session < 16 ∧ par p 20 1 = v.1 ∧ par p 21 1 = v.2.1 ∧ par p 22 1 = v.2.2.1)
    ∧ sPins.maskOwner [0] = some 0 ∧ (sPins.trigOutPin 0).parcels = 0 ∧ (sPins.trigInPin 0).parcels = 0 ∧ (sPins.trigInPin 3).parcels ≠ 0
    ∧ (sPins.trigOutPin 3).parcels ≠ 0
    ∧ (∀ t ∈ [65536000, 65535999], let p := pkt 0 [(20, 3), (24, 1), (28, t), (36, 400000), (40, 0)]
      Accepted 0x0705 p sPins (parCheck p [(20, 1), (21, 1), (24, 4), (28, 8), (36, 4), (40, 8)] (trigPulseOk p sPins))
        (decide (par p 21 1 = 0) && (decide (par p 24 4 = 0) || decide (par p 36 4 = 0)))
      ∧ (sPins.trigOutPin 3).parcels ≠ 0 ∧ (sPins.trigOutPin 3).owner = p.session / 16 ∧ par p 21 1 = 0
      ∧ decide ((65536000 : Int) ≤ signed64 (BitVec.ofNat 64 (par p 28 8)) sPins.datum.now) = decide (t = 65536000)
      ∧ (sPins.trigOutPin 3).train = none)
    ∧ (sPins.trigOutPin 2).seqHigh = false ∧ (sPins.trigOutPin 2).train = some { start := 0, count := 2, width := 1, period := 2, next := 0 }
    ∧ (0 : Int) ≤ signed64 (sPins.tOpen sPins.opp) (Train.edge { start := 0, count := 2, width := 1, period := 2, next := 0 } 0)
    ∧ (sPins.trigOutPin 1).train = some { start := 0, count := 1, width := 0, period := 0, next := 1 }
    ∧ (0 : Int) ≤ signed64 (sPins.tOpen sPins.opp) (Train.edge { start := 0, count := 1, width := 0, period := 0, next := 1 } 1)
    ∧ (sEdge1.trigInPin 2).lastEdge = some 100 ∧ ((100 + 419430 : Word) - 100).toNat * 10 ≤ 4194304
    ∧ (let p := pkt 0 [(20, 3), (24, 1), (28, 65536000), (36, 400000)]
      Accepted 0x0705 p sMid (parCheck p [(20, 1), (21, 1), (24, 4), (28, 8), (36, 4), (40, 8)] (trigPulseOk p sMid))
        (decide (par p 21 1 = 0) && (decide (par p 24 4 = 0) || decide (par p 36 4 = 0)))
      ∧ ((sMid.trigOutPin 3).train.map (·.next)) = some 1 ∧ (sMid.trigOutPin 3).parcels ≠ 0 ∧ (sMid.trigOutPin 3).owner = p.session / 16)
    ∧ (sNewTrain.trigOutPin 3).newTrain.isSome = true ∧ (sNewTrain.trigOutPin 3).seqHigh = false
    ∧ (0 : Int) ≤ signed64 (sNewTrain.tOpen sNewTrain.opp) (Train.edge { start := 0, count := 2, width := 0, period := 2, next := 1 } 1)
    ∧ (sPins.trigInPin 3).parcels ≠ 0 ∧ (sPins.trigInPin 3).lastEdge = none := by
  unfold Accepted; and_intros <;> decide +kernel
/-- PinCommands: an edge that no engine uses, the first and a second one of a cycle that one uses, a failed parcel. -/
theorem wit_PinCommands_edges : mwf Engine.init sPins.engines = true
    ∧ (∀ e < 2, (sPins.engine e).rg = none)
    ∧ (sTin.engine 0).rg = some 0 ∧ (sTin.group 0).state = .running ∧ bitOf (sTin.engine 0).trigUse 3 = true
    ∧ bitOf (sTin.engine 0).inPol 3 = false ∧ (sTin.engine 1).rg = none ∧ mwf Engine.init sTin.engines = true
    ∧ (sTin.engine 0).edgeIn (placeEdge sTin 0 500).1 3 = none
    ∧ (sTin1.engine 0).edgeIn (placeEdge sTin1 0 (500 + 419431)).1 3 ≠ none ∧ sFailed.failed 31 = true
    ∧ (let p := pkt 0 [(20, 0), (21, 0), (24, 2 ^ 31)]
      Accepted 0x0704 p sFailed (parCheck p [(20, 1), (21, 1), (22, 1), (24, 4), (28, 4)] (trigBindOk p))
        (decide (par p 22 1 = 0) && decide (par p 24 4 = 0)) ∧ maskList 32 (par p 24 4) = [31]) := by
  unfold Accepted; decide +kernel
theorem test_trigBind : ((after (.trigBind (pkt 0 [(20, 1), (21, 0), (24, 1), (28, 1600)])) sPins).trigOutPin 0).seqWidth = 1600
    ∧ ((after (.trigBind (pkt 0 [(20, 1), (21, 3), (22, 1)])) sPins).trigOutPin 3).parcels = 0
    ∧ ((after (.trigBind (pkt 0 [(20, 0), (21, 0), (24, 2 ^ 31)])) sFailed).trigInPin 0).parcels = 0 := by decide +kernel
theorem test_trigPulse :
    ((after (.trigPulse (pkt 0 [(20, 3), (24, 1), (28, 65536000), (36, 400000)])) sPins).trigOutPin 3).train.isSome = true
    ∧ ((after (.trigPulse (pkt 0 [(20, 3), (24, 1), (28, 65535999), (36, 400000)])) sPins).trigOutPin 3).train = none := by decide +kernel
theorem test_trigPulse_waits : ((after (.trigPulse (pkt 0 [(20, 3), (24, 1), (28, 65536000), (36, 400000)])) sMid).hub.entries.map (·.wait?))
      = [some (.pulse 3)]
    ∧ ((after (.trigOutEdge 3) sNewTrain).trigOutPin 3).train.map (·.start) = some 70000000
    ∧ (after (.trigOutEdge 3) sNewTrain).sent.replies.map (fun x => x.2.results.toNat) = [70000000] := by decide +kernel
theorem test_trigOutEdge : ((after (.trigOutEdge 2) sPins).trigOutPin 2).trainHigh = true
    ∧ ((after (.trigOutEdge 1) sPins).trigOutPin 1).train = none := by decide +kernel
theorem test_trigInEdge : ((after (.trigInEdge 3 false 500) sPins).trigInPin 3).lastEdge = some 500
    ∧ ((after (.trigInEdge 2 false 419530) sEdge1).trigInPin 2).lastEdge = some 100
    ∧ ((after (.trigInEdge 2 false 419531) sEdge1).trigInPin 2).lastEdge = some 419531
    ∧ ((sTin1.engine 0).edges.map fun x => (x.pin, x.time)) = [(3, 500)]
    ∧ ((after (.trigInEdge 3 false (500 + 419431)) sTin1).engine 0).edges.map (·.time) = [500] := by decide +kernel
theorem test_ppsOut : (after .ppsOutEdge { up with ppsHigh := false }).ppsHigh = true := by decide +kernel


-- the datum's events

def cw (body : Nat) : Codeword :=
  { type := 0, vc := 0, hold := false, retx := false, stepTag := 8, cyc := 5, pseq := 0, ack := 255, credit := 0, zero := 0
    body := BitVec.ofNat 576 body, corr := 0, time := 0 }
/-- A TIME codeword. -/
def tcw (body : Nat) : Codeword := { cw body with type := 3 }
def laneUp : Lane := { Lane.init with state := .up }
/-- A follower of part 9 with lane 143 UP on quad 35, LOCKED, and a SYNC of part 9 with seq 3. -/
def sFol : State :=
  { up with lanes := [(143, laneUp)], datum := { up.datum with role := 3, lock := 2, gmPart := 9, now := 1000 } }
def sSeen : State := sFol.setDatum { sFol.datum with seqs := [(9, [3, 2])] }
def syncBody : Nat := 9 * 2 ^ 8 + 3 * 2 ^ 32 + 1000 * 2 ^ 64
def sPps (good : Nat) (lock : Nat) : State := { up with datum := { up.datum with role := 2, lock := lock, ppsGood := good } }
def sReq : State := sFol.updQuad 35 fun q => { q with reqTime := some 100, reqSeq := 7 }
/-- DatumEvents: an edge in another role, the third and the fourth good edge; a grandmaster; SYNCs of a part without a role, seen, and new at
a time error of exactly 1 ns; requests and answers. -/
theorem wit_DatumEvents : up.datum.role ≠ 2 ∧ up.clocked = true ∧ { up with boot := { up.boot with stage := .s0 } }.clocked = false
    ∧ (∀ g ∈ [2, 3], (sPps g 1).clocked = true) ∧ sFol.pairHeld 143 = false ∧ sSeen.pairHeld 143 = false ∧ sReq.pairHeld 143 = false
    ∧ (∀ g ∈ [2, 3], (sPps g 1).datum.role = 2 ∧ (sPps g 1).phase = 2 ∧ (sPps g 1).boot.stage = .full
      ∧ (-65536 ≤ (sPps g 1).datum.secondError 65536 ∧ (sPps g 1).datum.secondError 65536 ≤ 65536) ∧ (sPps g 1).datum.ppsGood = g)
    ∧ (sDt 1 2 (some 9)).boot.part = some 9
    ∧ (sFol.lane 143).state = .up ∧ (sFol.lane 143).fec = 0 ∧ (tcw syncBody).zero = 0 ∧ (tcw syncBody).type = 3 ∧ (tcw syncBody).vc < 3
    ∧ timeBodyOk (tcw syncBody).body.toNat 0 = true
    ∧ ({ sFol with datum := up.datum }).datum.role = 0 ∧ bitsOf syncBody 32 16 ∈ mget [] (bitsOf syncBody 8 10) sSeen.datum.seqs
    ∧ bitsOf (syncBody + 15 * 2 ^ 4) 4 4 = 15 ∧ bitsOf syncBody 32 16 ∉ mget [] (bitsOf syncBody 8 10) sFol.datum.seqs ∧ bitsOf syncBody 4 4 < 15 ∧ bitsOf syncBody 8 10 = sFol.datum.gmPart
    ∧ sFol.phase = 2 ∧ mwf Lane.init sFol.lanes = true ∧ (∀ q < 36, q ≠ 143 / 4 → sFol.timeLane q = none)
    ∧ (sFol.datum.now.toNat : Int) + signed64 (1000 + 65536 : Word) sFol.datum.now
        - ((bitsOf syncBody 64 64 : Int) + (BitVec.ofNat 32 (bitsOf syncBody 256 32) - sFol.datum.epoch).toInt * 2 ^ 64)
        - (BitVec.ofNat 64 (bitsOf syncBody 128 64)).toInt - (sFol.quad (143 / 4)).meanDelay = 65536
    ∧ sFol.timeLane 35 = some 143 ∧ timeBodyOk (1 + 4 * 2 ^ 32) 1 = true ∧ timeBodyOk (2 + 7 * 2 ^ 32) 2 = true
    ∧ (sReq.quad 35).reqTime = some 100 ∧ bitsOf (2 + 7 * 2 ^ 32) 32 16 = (sReq.quad 35).reqSeq ∧ (sFol.quad 35).reqTime = none := by
  decide +kernel
theorem test_ppsInEdge : (after (.ppsInEdge 65536) (sPps 3 1)).datum.lock = 2 ∧ (after (.ppsInEdge 65536) (sPps 2 1)).datum.lock = 1
    ∧ (after (.ppsInEdge 65537) (sPps 3 1)).datum.ppsOk = false := by decide +kernel
theorem test_ppsTimeout : (after .ppsTimeout (sPps 3 2)).datum.lock = 3 ∧ (after .ppsTimeout (sPps 3 2)).datum.unlocks = 1 := by decide +kernel
theorem test_syncOriginate : (after .syncOriginate { (sDt 1 2 (some 9)) with lanes := [(143, laneUp)] }).datum.txSeq = 1
    ∧ ((after .syncOriginate { (sDt 1 2 (some 9)) with lanes := [(143, laneUp)] }).lane 143).timeQ.length = 1 := by decide +kernel
theorem test_sync : (after (.sync 143 { tcw syncBody with time := 1000 + 65536 }) sFol).datum.offLast = 65536
    ∧ (after (.sync 143 (tcw syncBody)) sSeen).datum.discarded = 1 := by decide +kernel
theorem test_syncTimeout : (after .syncTimeout sFol).datum.lock = 3 := by decide +kernel
theorem test_peerDelay : let t := after (.peerDelayExchange 35) sFol
    (t.quad 35).reqSeq = 1 ∧ (t.lane 143).timeQ = [BitVec.ofNat 576 (1 + 2 ^ 32)] := by decide +kernel
theorem test_pdelayReq : ((after (.pdelayReq 143 { tcw (1 + 4 * 2 ^ 32) with time := 50 }) sFol).lane 143).timeQ
    = [BitVec.ofNat 576 (2 + 4 * 2 ^ 32 + 50 * 2 ^ 192)] := by decide +kernel
theorem test_pdelayResp : ((after (.pdelayResp 143 { tcw (2 + 7 * 2 ^ 32 + 340 * 2 ^ 64 + 300 * 2 ^ 192) with time := 200 }) sReq).quad 35).delays
    = [60] := by decide +kernel

-- lanes and Fjarlek

/-- The lanes of quad 35 in one state each theorem names. -/
def sL (v : Lane) : State := { up with lanes := [(140, v), (141, v), (142, v), (143, v)] }
def idl : Lane := { Lane.init with state := .idleTrained, stored := true }
/-- LaneCommands: the four lanes of the last quad, UP, idle and in TEST; a Fjarlek mode and another one. -/
theorem wit_LaneCommands :
    (∀ v ∈ [laneUp, idl, { idl with state := .test }], (sL v).boot.stage = .full ∧ mwf Lane.init (sL v).lanes = true ∧ (sL v).Takes (.quad 35) ∧ (sL v).quadHeld 35 = false
      ∧ (sL v).quadLocked 0 35 = false ∧ (∀ l ∈ [140, 141, 142, 143], (sL v).pairHeld l = false) ∧ (sL v).quadBound 35 = false
      ∧ (sL v).quadBusy 35 = false ∧ v.fec = 0 ∧ v.held = false ∧ v.trainDue = false)
    ∧ (maskList 4 (par (pkt 0 [(20, 35), (21, 15)]) 21 1)).map (4 * par (pkt 0 [(20, 35), (21, 15)]) 20 1 + ·) = [140, 141, 142, 143]
    ∧ (∀ m ∈ [(0, 0), (1, 1)], let p := pkt 0 [(20, 35), (21, 15), (22, m.1), (23, m.2), (24, 3)]
      Accepted 0x0800 p (sL laneUp) (parCheck p [(20, 1), (21, 1), (22, 1), (23, 1), (24, 1)]
        (laneParOk p && modeOk (par p 22 1) (par p 23 1) && decide (par p 24 1 < 4))) (decide (par p 21 1 = 0)))
    ∧ (∀ k ∈ [0, 1], let p := pkt 0 [(20, 35), (21, 15), (22, k)]
      (∀ v ∈ [laneUp, idl], Accepted 0x0801 p (sL v) (parCheck p [(20, 1), (21, 1), (22, 1)] (laneParOk p && decide (par p 22 1 < 2)))
        (decide (par p 21 1 = 0)))
      ∧ ∀ v ∈ [laneUp, idl], Accepted 0x0802 p (sL v) (parCheck p [(20, 1), (21, 1), (22, 1)] (laneParOk p && decide (par p 22 1 < 2)))
        (decide (par p 21 1 = 0)))
    ∧ (∀ m ∈ [(5, 5, 1), (0, 0, 0)], let p := pkt 0 [(20, 35), (21, 15), (22, m.1), (23, m.2.1), (24, m.2.2), (28, 77)]
      Accepted 0x0803 p (sL { idl with state := .test }) (parCheck p [(20, 1), (21, 1), (22, 1), (23, 1), (24, 1), (28, 10)]
        (laneParOk p && decide (par p 22 1 ≤ 5) && decide (par p 23 1 ≤ 5) && decide (par p 24 1 < 2))) (decide (par p 21 1 = 0)))
    ∧ (let p := pkt 0 [(20, 35), (21, 15), (22, 2), (23, 64)]
      Accepted 0x0804 p (sL laneUp) (parCheck p [(20, 1), (21, 1), (22, 1), (23, 1), (24, 4)]
        (laneParOk p && decide (par p 22 1 ≤ 3) && decide (par p 23 1 ≤ 64)))
        (decide (par p 21 1 = 0) || (decide (par p 22 1 = 2) && decide (par p 23 1 = 0)))) := by
  unfold Accepted State.Takes; and_intros <;> decide +kernel
/-- A LANE_CONFIG whose port has not drained, and has. -/
def pLc : Packet := pkt 0 [(20, 35), (21, 8), (24, 3)]
def sLc : State := (sL idl).setEntries [{ opcode := 0x0800, pkt := pLc, state := .ready true }]
theorem wit_LaneCommands_drained : (sL idl).hasDrained 0x0800 pLc = false ∧ sLc.hasDrained 0x0800 pLc = true
    ∧ Accepted 0x0800 pLc sLc (parCheck pLc [(20, 1), (21, 1), (22, 1), (23, 1), (24, 1)]
        (laneParOk pLc && modeOk (par pLc 22 1) (par pLc 23 1) && decide (par pLc 24 1 < 4))) (decide (par pLc 21 1 = 0)) := by
  unfold Accepted; and_intros <;> decide +kernel
theorem test_laneConfig : let t := after (.laneConfig pLc) sLc
    (t.lane 143).state = .training ∧ (t.lane 143).preRx = true ∧ t.lane 142 = idl
    ∧ (after (.laneConfig pLc) (sL idl)).hub.entries.map (·.wait?) = [some (.drain (domainRouters (.quad 35)))] := by decide +kernel
theorem test_laneTrain : let t := after (.laneTrain (pkt 0 [(20, 35), (21, 15), (22, 1)])) (sL idl)
    (t.lane 140).phase = 3 ∧ t.hub.entries.map (·.wait?) = [some (.train 35 15)] := by decide +kernel
theorem test_laneIdle : ((after (.laneIdle (pkt 0 [(20, 35), (21, 15)])) (sL laneUp)).lane 140).ctrl = [.sleep]
    ∧ ((after (.laneIdle (pkt 0 [(20, 35), (21, 15), (22, 1)])) (sL idl)).lane 143).burst = 2 := by decide +kernel
theorem test_lanePattern :
    ((after (.lanePattern (pkt 0 [(20, 35), (21, 15), (22, 5), (23, 5), (24, 1), (28, 77)])) (sL idl)).lane 143).state = .test
    ∧ ((after (.lanePattern (pkt 0 [(20, 35), (21, 15)])) (sL { idl with state := .test })).lane 143).state = .idleTrained := by decide +kernel
theorem test_laneInject : ((after (.laneInject (pkt 0 [(20, 35), (21, 8), (22, 2), (23, 64)])) (sL laneUp)).lane 143).injLeft = 64 := by
  decide +kernel

def flit : BitVec 576 := BitVec.ofNat 576 (2 ^ 532)
def tr : Lane := { laneUp with state := .training, trainDue := true, phase := 4, farDone := 3, echoes := 40 :: List.replicate 15 30 }
def dn : Lane := { laneUp with state := .down }
def sc : SchedCw := { stepTag := 8, cyc := 5, cycle := 5, words := List.replicate 8 0 }
/-- Lane 143 DOWN, its quad held by a load that a worker has begun. -/
def sHeldQ : State :=
  (sL dn).setEntries [{ opcode := 0x0200, pkt := pkt 0 [], state := .executing 0 { plainClaim .check [1] with quads := [35] } }]
/-- LaneEvents: every state that a clause names; sixteen replays; a CTRL codeword, cargo, a flit with one credit, nothing; a generator. -/
theorem wit_LaneEvents :
    ((sL laneUp).lane 143).state = .up ∧ ((sL laneUp).lane 143).farSleep = false ∧ ((sL { laneUp with farSleep := true }).lane 143).farSleep = true
    ∧ (sL dn).quadHeld 35 = false ∧ sHeldQ.quadHeld 35 = true ∧ ({ tr with freed := [1, 0, 3] }).freed = [1, 0, 3]
    ∧ mwf Lane.init (sL { tr with freed := [1, 0, 3] }).lanes = true ∧ tr.fec = 0 ∧ tr.held = false ∧ laneUp.state ≠ .test
    ∧ ((sL dn).lane 143).state = .down ∧ ((sL dn).lane 143).trainDue = false ∧ (sL dn).pairHeld 143 = false
    ∧ { sL dn with boot := { up.boot with pairMode := 2 } }.pairHeld 143 = true ∧ tr.trainDue = true ∧ tr.phase = 4 ∧ tr.farDone = 3
    ∧ (tr.rate = 0 → tr.echoes.length = 16) ∧ (sL tr).pairHeld 143 = false ∧ ((sL tr).lane 143).state = .training
    ∧ ((sL { dn with trainDue := true }).lane 143).trainDue = true ∧ mwf Lane.init (sL tr).lanes = true
    ∧ ((sL { idl with state := .test, chk := 5 }).lane 143).chk ≠ 0 ∧ ((sL { idl with state := .test, chk := 5 }).lane 143).chkLock = false
    ∧ ((sL { idl with state := .test, gen := 1 }).lane 143).gen ≠ 0 ∧ (sL laneUp).pairHeld 143 = false ∧ ((sL { idl with state := .test, chkLock := true }).lane 143).chkLock = true
    ∧ ((sL { laneUp with unacked := [(0, 0, flit)], replayN := 15 }).lane 143).replayN < 16
    ∧ 16 ≤ ((sL { laneUp with unacked := [(0, 0, flit)], replayN := 16 }).lane 143).replayN
    ∧ laneUp.fec = 0 ∧ laneUp.held = false ∧ laneUp.trainDue = false ∧ laneUp.freed = [0, 0, 0] ∧ laneUp.ctrl = [] ∧ laneUp.reTx = []
    ∧ laneUp.cargoQ = [] ∧ laneUp.timeQ = [] ∧ laneUp.replayAt = none ∧ laneUp.flits = [] ∧ laneUp.unacked.length < 64
    ∧ ({ laneUp with credits := [1, 0, 0] }).credits[0]? = some (0 + 1) := by decide +kernel
theorem test_laneLost : ((after (.laneLockLoss 143) (sL laneUp)).lane 143).state = .down
    ∧ ((after (.headerTimeout 143) (sL laneUp)).faultRec 71).map (·.code) = some 0x3002
    ∧ ((after (.laneLockLoss 143) (sL { laneUp with farSleep := true })).lane 143).state = .up := by decide +kernel
theorem test_laneRetry : ((after (.laneRetry 143) (sL { dn with phase := 3 })).lane 143).phase = 3
    ∧ ((after (.laneRetry 143) (sL dn)).lane 143).phase = 1 ∧ ((after (.laneRetry 143) sHeldQ).lane 143).trainDue = false := by decide +kernel
theorem test_trainingDone : let t := after (.laneTrainingDone 143) (sL tr)
    (t.lane 143).state = .up ∧ (t.lane 143).trained = 40 ∧ ((after (.trainingTimeout 143) (sL tr)).lane 143).state = .idleUntrained := by
  decide +kernel
theorem test_checker : ((after (.checkerLock { lane := 143, syms := 0, errs := 0 }) (sL { idl with state := .test, chk := 5 })).lane 143).chkLock = true := by decide +kernel
theorem test_checkerLoss : let v := (after (.checkerLockLoss { lane := 143, syms := 1000, errs := 3 })
      (sL { idl with state := .test, chkLock := true, errCnt := 4 })).lane 143
    v.chkLock = false ∧ v.errCnt = 7 ∧ v.testSym = 1000 := by decide +kernel
theorem test_replayTimeout : ((after (.replayTimeout 143) (sL { laneUp with unacked := [(0, 0, flit)], replayN := 15 })).lane 143).replayAt = some 0
    ∧ ((after (.replayTimeout 143) (sL { laneUp with unacked := [(0, 0, flit)], replayN := 16 })).lane 143).state = .down := by decide +kernel
theorem test_schedQueue : ((after (.schedCodewordQueue 143) (sL { laneUp with complete := [sc] })).lane 143).cargoQ = [sc] := by decide +kernel
theorem test_transmit : let types (v : Lane) := (after (.codewordTransmit 143) (sL v)).sent.cws.map fun c => (c.1, c.2.1)
    types { laneUp with ctrl := [.xoff], cargoQ := [sc] } = [(143, 4)] ∧ types { laneUp with cargoQ := [sc], flits := [(0, flit)] } = [(143, 1)]
    ∧ types { laneUp with flits := [(0, flit)], credits := [1, 0, 0] } = [(143, 2)] ∧ types laneUp = [(143, 0)]
    ∧ types { idl with state := .test, gen := 1 } = [(143, 16)] ∧ types { tr with freed := [1, 0, 3] } = [(143, 5)]
    ∧ ((after (.codewordTransmit 143) (sL { tr with freed := [1, 0, 3] })).lane 143).freed = [0, 0, 0] := by decide +kernel

/-- Quad 35 bound to the running group of `up`, with lanes as named. -/
def sG (v : Lane) : State := { sL v with quads := [(35, { Quad.init with rg := some 0 })] }
/-- The group has seen a stop for cycle 5, and a fault stop. -/
def sStops (st : RunState) : State :=
  { sG laneUp with groups := [(0, { rg0 with state := st, seenStops := [5], faultSent := true })] }
/-- Codewords of the types SCHED, PKT and CTRL. -/
def scw (body : Nat) : Codeword := { cw body with type := 1 }
def fcw (pseq : Nat) : Codeword := { cw flit.toNat with type := 2, pseq := pseq }
def ccw (body : Nat) : Codeword := { cw body with type := 4 }
def rx (body : Nat) : LaneRx := { lane := 143, cw := ccw body }
/-- The West lane 71 of quad 17, UP, in DIFFERENTIAL pairing. -/
def sWest : State :=
  { up with lanes := [(71, laneUp)], quads := [(17, { Quad.init with rg := some 0 })], boot := { up.boot with pairMode := 3 } }
/-- ReceivedCodewords: codewords with a reserved field, of the cycle of the group and seen before, the next flit and a later one; gaps
with a NAK 256 frames ago and a later one; the 31st uncorrectable one in 64; kept codewords; eight answers; a NAK for the oldest; stops of
this cycle. -/
theorem wit_ReceivedCodewords :
    (sG laneUp).pairHeld 143 = false ∧ ((sG laneUp).lane 143).state = .up ∧ ((sG laneUp).lane 143).fec = 0 ∧ mwf Lane.init (sG laneUp).lanes = true
    ∧ ({ cw 0 with zero := 511 }).zero ≠ 0 ∧ 3 ≤ ({ cw 0 with vc := 3 }).vc ∧ 6 ≤ ({ cw 0 with type := 6 }).type ∧ (cw 0).type = 0
    ∧ (scw 0).type = 1 ∧ (fcw 0).type = 2 ∧ (ccw 0).type = 4 ∧ (cw 0).zero = 0 ∧ ({ cw 0 with vc := 2 }).vc < 3
    ∧ laneUp.unacked = [] ∧ ((sG laneUp).quad (143 / 4)).rg = some 0 ∧ (cw 0).cyc = ((sG laneUp).group 0).cycle.toNat % 16
    ∧ ((sG laneUp).group 0).step ≤ (cw 0).stepTag / 4 * 4 + 7 + classLimit ((sG laneUp).quad (143 / 4)).cls
    ∧ laneUp.rxBuf = [] ∧ sc.stepTag = (cw 0).stepTag / 4 * 4 ∧ sc.cycle = ((sG { laneUp with rxBuf := [sc] }).group 0).cycle := by
  decide +kernel
theorem wit_ReceivedCodewords_frames :
    sWest.pairHeld 71 = false ∧ (sWest.lane 71).state = .up ∧ (sWest.lane 71).fec = 0 ∧ mwf Lane.init sWest.lanes = true ∧ (sWest.quad (71 / 4)).rg = some 0
    ∧ (sWest.group 0).step ≤ (scw 0).stepTag / 4 * 4 + 7 + classLimit (sWest.quad (71 / 4)).cls ∧ 2 ≤ sWest.boot.pairMode
    ∧ (sWest.lane (71 + 72)).rxBuf.length < (3 * classLimit (sWest.quad (71 / 4)).cls + 32) / 4
    ∧ (fcw 0).pseq = laneUp.rxSeq ∧ bitOf (fcw 0).body.toNat 532 = true ∧ bitOf (fcw 0).body.toNat 533 = false
    ∧ (fcw 255).pseq ≠ laneUp.rxSeq ∧ laneUp.gap = none ∧ 0 + 256 ≤ { sG laneUp with opp := 1024 }.opp / 4
    ∧ (sG { laneUp with gap := some 0 }).opp / 4 < 0 + 256 ∧ laneUp.trainDue = false
    := by decide +kernel
theorem wit_ReceivedCodewords_ctrl :
    ((sL laneUp).quad (143 / 4)).rg = none ∧ (laneUp.uncorr64.take 63).count true < 31
    ∧ (({ laneUp with uncorr64 := List.replicate 31 true }).uncorr64.take 63).count true = 31
    ∧ ({ laneUp with retained := [(0, sc)] }).retained = [(0, sc)] ∧ (sG laneUp).opp / 4 ≤ 0 + (sG laneUp).keepFrames 143
    ∧ laneUp.relink = false ∧ 5 = ((sG laneUp).group 0).cycle.toNat % 16
    ∧ laneUp.rxBuf.length < (3 * classLimit ((sG laneUp).quad (143 / 4)).cls + 32) / 4
    ∧ (∀ b ∈ [1, 2, 7, 8, 3 + 8 * 2 ^ 4 + 5 * 2 ^ 16, 5, 4 + 5 * 2 ^ 8, 4 + 2 ^ 4 + 5 * 2 ^ 8], (ccw b).zero = 0 ∧ (ccw b).vc < 3
      ∧ (∀ x ∈ ([(0, 0, flit)] : List (Nat × Nat × BitVec 576)), x.1 ≠ (ccw b).ack)
      ∧ ∀ j < 8, 0 < j → bitsOf (ccw b).body.toNat (72 * j) 4 = 0)
    ∧ (∀ x ∈ ([(0, 0, flit)] : List (Nat × Nat × BitVec 576)), x.1 ≠ (0 + 255) % 256) ∧ laneUp.replayN < 16
    ∧ ((sG laneUp).group 0).state = .running ∧ (5 : Word) ∉ ((sG laneUp).group 0).seenStops
    ∧ (5 : Word) ∈ ((sStops .running).group 0).seenStops ∧ ((sStops .stopped).group 0).state ≠ .running
    ∧ ((sStops .stopped).group 0).state ≠ .armed ∧ (4 : Word) ∉ ((sStops .stopped).group 0).seenStops
    ∧ ((sStops .armed).updGroup 0 fun r => { r with faultSent := false }).runGroups = [0]
    ∧ ((sG laneUp).group 0).faultSent = false ∧ ((sStops .running).group 0).faultSent = true := by decide +kernel
theorem test_received : ((after (.idle 143 { cw 0 with vc := 3 }) (sG laneUp)).lane 143).cwBad = 1
    ∧ ((after (.idle 143 { cw 0 with type := 6 }) (sG laneUp)).lane 143).cwBad = 1
    ∧ ((after (.sched 143 (scw 0)) (sG laneUp)).lane 143).rxBuf = [sc] ∧ ((after (.sched 143 (scw 0)) (sG { laneUp with rxBuf := [sc] })).lane 143).rxBuf = [sc]
    ∧ ((after (.sched 71 (scw 0)) sWest).lane 143).rxBuf = [sc] := by
  decide +kernel
theorem test_pkt : ((after (.pkt 143 (fcw 0)) (sG laneUp)).lane 143).rxSeq = 1
    ∧ ((after (.pkt 143 (fcw 255)) (sG laneUp)).lane 143).ctrl = [.nak 0] ∧ ((after (.pkt 143 (fcw 255)) (sG { laneUp with gap := some 0 })).lane 143).ctrl = []
    ∧ ((after (.pkt 143 (fcw 255)) { sG { laneUp with gap := some 0 } with opp := 1024 }).lane 143).ctrl = [.nak 0] := by decide +kernel
theorem test_train : ((after (.train 143 { cw (1023 + 2 ^ 10 + 35 * 2 ^ 11 + 3 * 2 ^ 17) with type := 5 }) (sG laneUp)).lane 143).farQuad = 35 := by
  decide +kernel
theorem test_uncorrectable : ((after (.codewordUncorrectable 143) (sL laneUp)).lane 143).cwUncorr = 1
    ∧ ((after (.codewordUncorrectable 143) (sL { laneUp with uncorr64 := List.replicate 31 true })).lane 143).state = .down := by decide +kernel
theorem test_ctrl : ((after (.xoff (rx 1)) (sG laneUp)).lane 143).holdIn = true ∧ ((after (.xon (rx 2)) (sG { laneUp with holdIn := true })).lane 143).holdIn = false
    ∧ ((after (.sleep (rx 7)) (sG laneUp)).lane 143).farSleep = true ∧ ((after (.xoff (rx 8)) (sG laneUp)).lane 143).cwBad = 1 := by decide +kernel
theorem test_resend : ((after (.resend 143 (ccw (3 + 8 * 2 ^ 4 + 5 * 2 ^ 16)) 0) (sG { laneUp with retained := [(0, sc)] })).lane 143).reTx = [sc]
    ∧ ((after (.resend 143 (ccw (3 + 12 * 2 ^ 4 + 5 * 2 ^ 16)) 0) (sG { laneUp with retained := [(0, sc)] })).lane 143).reTx = [] := by decide +kernel
theorem test_resendRetry :
    ((after (.resendRetry 143) (sG { laneUp with wanted := [{ stepTag := 8, cyc := 5, count := 7 }] })).lane 143).ctrl = [.resend 8 5]
    ∧ ((after (.resendRetry 143) (sG { laneUp with wanted := [{ stepTag := 8, cyc := 5, count := 8 }] })).faultRec 71).map (·.code) = some 0x3001 := by
  decide +kernel
theorem test_nak : ((after (.nak 143 (ccw 5)) (sG { laneUp with unacked := [(0, 0, flit)] })).lane 143).replayAt = some 0 := by decide +kernel
theorem test_stopArmed : ((after (.stopCodeword 143 (ccw (4 + 2 ^ 4 + 5 * 2 ^ 8)) 0)
      ((sStops .armed).updGroup 0 fun r => { r with faultSent := false })).group 0).halting = some 0 := by decide +kernel
theorem test_stopCodeword : ((after (.stopCodeword 143 (ccw (4 + 5 * 2 ^ 8)) 0) (sG laneUp)).group 0).stops = [{ cause := 4, cycle := 5 }]
    ∧ ((after (.stopCodeword 143 (ccw (4 + 5 * 2 ^ 8)) 0) (sStops .running)).group 0).stops = []
    ∧ ((after (.stopCodeword 143 (ccw (4 + 4 * 2 ^ 8)) 0) (sStops .stopped)).group 0).seenStops = [5, 4]
    ∧ ((after (.stopCodeword 143 (ccw (4 + 2 ^ 4 + 5 * 2 ^ 8)) 0) (sG laneUp)).group 0).halting = some 0 := by decide +kernel

/-- Joining: a stopped group with quad 35 bound and its four lanes UP; the far JOIN that agrees and one of another grandmaster. -/
def sJ : State :=
  { sG laneUp with groups := [(0, { rg0 with state := .stopped })], datum := { up.datum with role := 1, lock := 2, gmPart := 9 }
                   boot := { up.boot with part := some 9 } }
def jPkt : Packet := pkt 0 [(20, 1), (24, 2), (25, 1)]
def sJw : State := sJ.setEntries [{ opcode := 0x0810, pkt := jPkt, state := .parked (.join 0) }]
def jA : BitVec 72 := BitVec.ofNat 72 (6 + (sJw.quad 35).inCrc * 2 ^ 4 + (sJw.quad 35).outCrc * 2 ^ 36)
def jcw (a b : BitVec 72) : Codeword := ccw (a.toNat + b.toNat * 2 ^ 72)
def jB (gm : Nat) : BitVec 72 := BitVec.ofNat 72 (6 + stepsCode 256 * 2 ^ 4 + 2 * 2 ^ 9 + gm * 2 ^ 17)
theorem wit_Joining :
    mwf RunGroup.init sJ.groups = true ∧ mwf Quad.init sJ.quads = true ∧ mwf Lane.init sJ.lanes = true
    ∧ Accepted 0x0810 jPkt sJ (parCheck jPkt [(20, 4), (24, 1), (25, 1)]
        (decide (0 < par jPkt 24 1) && decide (0 < par jPkt 25 1))) (decide (par jPkt 20 4 = 0)) ∧ okIs (ownedGroup jPkt sJ) 0 = true
    ∧ sJ.linkQuads 0 = [35]
    ∧ ceilDiv (par jPkt 25 1 * (2 * [35].foldl (fun a q => max a (classLimit (sJ.quad q).cls)) 0 + 40)) (sJ.group 0).n + 1 ≤ par jPkt 24 1
    ∧ sJ.phase = 2 ∧ (sJ.group 0).joined = false ∧ sJ.boot.part.isSome = true ∧ (sJ.group 0).state = .stopped ∧ sJ.datum.lock = 2
    ∧ sJ.hub.entries = [] ∧ sJ.quadLocked jPkt.session 35 = false ∧ (sJ.quad 35).joinMsg = none ∧ (sJ.quad 35).cls < 4
    ∧ (∀ i < 4, (sJ.lane (4 * 35 + i)).state = .up ∧ (sJ.lane (4 * 35 + i)).fec = 0 ∧ (sJ.lane (4 * 35 + i)).rate = 0
      ∧ (sJ.lane (4 * 35 + i)).crossed = false)
    := by
  unfold Accepted; decide +kernel
/-- Joining: the far JOIN that agrees and one of another grandmaster; the timeout. -/
theorem wit_Joining_far :
    (∀ gm ∈ [9, 8], let x := (jcw jA (jB gm)).body.toNat
      bitsOf x 0 4 = 6 ∧ bitsOf x 72 4 = 6 ∧ bitsOf x 0 72 = jA.toNat ∧ bitsOf x 72 72 = (jB gm).toNat
      ∧ ∀ j < 8, 1 < j → bitsOf x (72 * j) 4 = 0)
    ∧ sJw.pairHeld 143 = false ∧ (sJw.lane 143).state = .up ∧ (sJw.lane 143).fec = 0 ∧ (sJw.quad (143 / 4)).rg = some 0
    ∧ sJw.linkQuads 0 = [143 / 4] ∧ sJw.hub.entries = [{ opcode := 0x0810, pkt := jPkt, state := .parked (.join 0) }]
    ∧ (let q := sJw.quad 35
      bitsOf (jB 9).toNat 17 10 = sJw.datum.gmPart ∧ bitsOf jA.toNat 4 32 = q.inCrc ∧ bitsOf jA.toNat 36 32 = q.outCrc
      ∧ bitsOf (jB 9).toNat 4 3 = stepsCode (sJw.group 0).n ∧ bitsOf (jB 9).toNat 7 2 = q.cls ∧ bitsOf (jB 9).toNat 9 8 = par jPkt 24 1)
    ∧ bitsOf (jB 8).toNat 17 10 ≠ sJw.datum.gmPart ∧ (sJw.sess jPkt.session).state = .disabled
    ∧ (sJw.group 0).parcels ≠ [] ∧ sJw.anyParked (fun w => decide (w = .join 0)) = true := by decide +kernel
theorem test_join : ((after (.join 143 (jcw jA (jB 9)) 0) sJw).group 0).joined = true ∧ ((after (.join 143 (jcw jA (jB 8)) 0) sJw).group 0).joined = false := by
  decide +kernel
theorem test_joinTimeout : (after (.joinTimeout 0) sJw).hub.entries = [] := by decide +kernel
theorem test_fjJoin : let t := after (.fjJoin jPkt) sJ
    (t.lane 140).ctrl.length = 1 ∧ t.hub.entries.map (·.wait?) = [some (.join 0)] ∧ (t.group 0).joined = false := by decide +kernel


-- inset bridges

/-- Bridge 7 configured on quad 18, its image bound, in a link state. -/
def brg (link : BridgeLink) : Bridge :=
  { Bridge.init with pmd := 1, quad := 18, link := link, rg := some 0, rxUnits := 1, txUnits := 1 }
def sB (v : Bridge) : State := { up.updStack 3 fun k => { k with trained := true, traceEnd := 0, insetEnd := 4 } with bridges := [(7, v)] }
def sB0 : State := { sB (brg .up) with bridges := [], lanes := [(141, laneUp), (142, dn), (143, tr)] }
def bfr (k n : Nat) : BFrame := { bytes := List.replicate n (BitVec.ofNat 8 k), error := false, stamp := 0, cycle := 5, step := 9 }
def cfgPkt : Packet := pkt 0 [(20, 7), (21, 4), (22, 35), (25, 2), (26, 9212), (28, 3), (29, 1), (30, 255), (31, 254)]
def sBd : State := sB0.setEntries [{ opcode := 0x0900, pkt := cfgPkt, state := .ready true }]
/-- InsetCommands: a configuration whose four units just fit, a flush and a read of stamps, each state of the link. -/
theorem wit_InsetCommands :
    (∀ s ∈ [sB0, sB (brg .up)], mwf Bridge.init s.bridges = true ∧ mwf Quad.init s.quads = true ∧ mwf Lane.init s.lanes = true)
    ∧ Accepted 0x0900 cfgPkt sB0 (insetConfigBad cfgPkt)
        (decide (par cfgPkt 21 1 ≠ 0) && (decide (par cfgPkt 28 1 = 0) || decide (par cfgPkt 29 1 = 0)))
    ∧ (sB0.bridge 7).pmd ≠ 4 ∧ (sB0.bridge 7).rg = none ∧ sB0.bridgeHeld 7 = false ∧ sB0.quadHeld 35 = false ∧ sB0.boot.pairMode < 2 ∧ sB0.quadLocked 0 35 = false ∧ 35 / 18 = 7 / 4
    ∧ (sB0.quad 35).rg = none ∧ (sB0.quad 35).bridge = none ∧ (sB0.quad 35).awake = true ∧ (sB0.stack 3).trained = true
    ∧ 2 * (7 / 4) + bitsOf (par cfgPkt 25 1) 1 1 = 3
    ∧ firstFit (sB0.insetUsed 3 7) (sB0.stack 3).traceEnd (sB0.stack 3).insetEnd 3 = some 0
    ∧ firstFit ((0, 3) :: sB0.insetUsed 3 7) (sB0.stack 3).traceEnd (sB0.stack 3).insetEnd 1 = some 3
    ∧ (let p := pkt 0 [(20, 7), (21, 3)]
      Accepted 0x0901 p (sB (brg .up)) (parCheck p [(20, 1), (21, 1)] (decide (par p 20 1 < 8) && decide (par p 21 1 < 4))) (decide (par p 21 1 = 0)))
    ∧ (let p := bpkt 0 0x10000 64 [(20, 7), (21, 1), (24, 1)]
      Accepted 0x0902 p (sB (brg .up)) (parCheck p [(20, 1), (21, 1), (24, 8)]
          (decide (par p 20 1 < 8) && decide (par p 21 1 < 2) && decide (p.len.toNat % 32 = 0))) (decide (p.len = 0)))
    ∧ (∀ k ∈ [BridgeLink.training, .up, .down], let v := (sB (brg k)).bridge 7
      v.pmd ≠ 0 ∧ v.bad = false ∧ (sB (brg k)).bridgeLive 7 = true ∧ v.awake = true ∧ v.link = k ∧ (sB (brg k)).boot.sheetsHeld = false)
    ∧ ((sB (brg .up)).updParcel 0 fun v => { v with load := .unloading }).bridgeLive 7 = false
    ∧ sB0.hasDrained 0x0900 cfgPkt = false ∧ sBd.hasDrained 0x0900 cfgPkt = true ∧ sBd.bridgeHeld 7 = false ∧ sBd.quadHeld 35 = false
    ∧ Accepted 0x0900 cfgPkt sBd (insetConfigBad cfgPkt)
        (decide (par cfgPkt 21 1 ≠ 0) && (decide (par cfgPkt 28 1 = 0) || decide (par cfgPkt 29 1 = 0)))
    ∧ (sB0.lane 141).state = .up ∧ (sB0.lane 141).fec = 0 ∧ (sB0.lane 142).state = .down ∧ (sB0.lane 143).state = .training := by
  unfold Accepted; and_intros <;> decide +kernel
theorem test_insetConfig : let t := after (.insetConfig cfgPkt) sBd
    (t.bridge 7).pmd = 4 ∧ (t.quad 35).bridge = some 7 ∧ (t.bridge 7).rxUnits = 3
    ∧ (after (.insetConfig cfgPkt) sB0).hub.entries.map (·.wait?) = [some (.drain (domainRouters (.bridge 7)))] := by decide +kernel
/-- The binding of a quad: the lane of the PHY, one that goes idle by SLEEP, two that are quiet. -/
theorem test_insetBind : let t := sB0.insetBind 7 4 35
    (t.quad 35).bridge = some 7 ∧ (t.lane 140).rate = 1 ∧ (t.lane 140).fec = 1 ∧ t.lane 141 = { laneUp with ctrl := [.sleep] }
    ∧ (t.lane 142).state = .idleUntrained ∧ (t.lane 143).state = .idleUntrained ∧ (t.lane 143).trainDue = false := by decide +kernel
theorem test_insetFlush : let t := after (.insetFlush (pkt 0 [(20, 7), (21, 3)])) (sB { brg .up with rxBuf := [bfr 1 60], rxQ := [bfr 2 60] })
    (t.bridge 7).rxBuf = [] ∧ (t.bridge 7).rxQ = [bfr 2 60] := by decide +kernel
theorem test_insetStamps : let v := { brg .up with txLog := [{ seq := 0, length := 60, error := false, stamp := 1, cycle := 5, step := 9 }, { seq := 1, length := 61, error := false, stamp := 2, cycle := 5, step := 9 }] }
    memNat (memSlice (after (.insetStamps (bpkt 0 0x10000 64 [(20, 7), (21, 1), (24, 1)])) (sB v)).hostMem 0x10000 64) 0 4 = 1 := by decide +kernel
theorem test_insetLink : ((after (.insetLinkUp 7) (sB (brg .training))).bridge 7).link = .up
    ∧ ((after (.insetLinkDown 7) (sB (brg .up))).faultRec 79).map (·.code) = some 0x7002
    ∧ ((after (.insetTrainingRetry 7) (sB (brg .down))).bridge 7).link = .training
    ∧ ((after (.insetLinkUp 7) ((sB (brg .training)).updParcel 0 fun v => { v with load := .unloading })).bridge 7).link = .training := by decide +kernel

/-- The stack of the buffers sleeps. -/
def sBz : State := (sB { brg .up with rxBuf := [bfr 1 60], txBuf := [bfr 2 60] }).updStack 2 fun v => { v with asleep := true }
/-- InsetFrames: an empty buffer of one unit and one of none, frames of 60 and of max_len bytes and outside, a mark of 0, the pauses, a queue of
15 and of 16 frames, both pairings. -/
def brs (units : Nat) (n : Nat) : Bridge := { brg .up with rxUnits := units, rxQ := List.replicate n (bfr 1 60) }
theorem wit_InsetFrames_stack : (sB (brg .up)).insetStack 7 = 2 ∧ (sB (brg .up)).Takes (.stack 2) ∧ (sB (brg .up)).ecc = []
    ∧ sBz.unready (.stack 2) = true := by unfold State.Takes; decide +kernel
theorem test_insetAsleep : (after (.insetFrameMove 7) sBz).net.waking = [.stack 2] ∧ (after (.insetFrameDepart 7) sBz).net.waking = [.stack 2] := by
  decide +kernel
theorem wit_InsetFrames :
    mwf Bridge.init (sB (brg .up)).bridges = true ∧ ((sB (brg .up)).bridge 7).link = .up
    ∧ occupancy (brg .up).rxBuf + (ceilDiv 9212 64 * 64 + 64) ≤ (brg .up).rxUnits * unitBytes ∧ (brg .up).overRx = false
    ∧ (brs 0 0).rxUnits * unitBytes < occupancy (brs 0 0).rxBuf + (ceilDiv 60 64 * 64 + 64)
    ∧ ({ brg .up with overRx := true }).fc = 0
    ∧ (59 < 60 ∨ 1514 < 59) ∧ (brg .up).maxLen = 1514 ∧ (brg .up).deliverBad = false ∧ ({ brg .up with deliverBad := true }).deliverBad = true
    ∧ 0 * ((brg .up).rxUnits * unitBytes) ≤ occupancy ([] ++ [bfr 1 60]) * 256
    ∧ occupancy ([] ++ [bfr 1 60]) * 256 < 1 * ((brg .up).rxUnits * unitBytes)
    ∧ ({ brg .up with arriving := some (60, 1), fc := 1 }).fc ≠ 0 ∧ 0 < (brg .up).rxUnits * unitBytes
    ∧ (brg .up).pauseSent = false ∧ ({ brg .up with pauseSent := true }).pauseSent = true
    ∧ (brs 1 15).rxQ.length < 16 ∧ 16 ≤ (brs 1 16).rxQ.length ∧ (sB (brg .up)).boot.pairMode < 2
    ∧ occupancy (brg .up).txBuf + (ceilDiv (bfr 1 60).bytes.length 64 * 64 + 64) ≤ (brg .up).txUnits * unitBytes
    ∧ 0 * unitBytes < occupancy (brg .up).txBuf + (ceilDiv (bfr 1 60).bytes.length 64 * 64 + 64)
    ∧ framePrio (bfr 1 60) ∈ [0, 1, 2, 3, 4, 5, 6, 7] ∧ (brg .up).paused = [] ∧ (brg .down).link ≠ .up := by decide +kernel
theorem test_frameArrival : ((after (.insetFrameArrival 7 1514) (sB (brg .up))).bridge 7).arriving = some (1514, 1)
    ∧ ((after (.insetFrameArrival 7 60) (sB (brs 0 0))).bridge 7).arriving = some (60, 0)
    ∧ ((after (.insetFrameArrival 7 60) (sB (brs 0 0))).faultRec 79).map (·.code) = some 0x7001 := by decide +kernel
theorem test_frameReceived : let f (n : Nat) (ok : Bool) : Frame := { bytes := List.replicate n 1, fcsOk := ok, stamp := 0 }
    let go (x : Frame) := (after (.insetFrameReceived 7 x) (sB { brg .up with arriving := some (x.bytes.length, 1), hiWm := 0, fc := 1 })).bridge 7
    (go (f 60 true)).rxBuf = [bfr 1 60 |> fun x => { x with cycle := 0, step := 0 }] ∧ (go (f 60 true)).pauseSent = true
    ∧ (go (f 59 true)).rxBuf = [] ∧ (go (f 60 false)).rxBuf = [] ∧ mget 0 5 (go (f 59 true)).cnt = 1 := by decide +kernel
theorem test_pause : ((after (.pauseFrame 7 true 0xFF 9) (sB { brg .up with fc := 2, pfcMask := 0x81 })).bridge 7).paused = [0, 7]
    ∧ ((after (.pauseExpiry 7 7) (sB { brg .up with paused := [0, 7] })).bridge 7).paused = [0]
    ∧ (after (.pauseRepeat 7) (sB { brg .up with pauseSent := true })).sent.flow = [(7, none, 0xFFFF)]
    ∧ (after (.pauseRepeat 7) (sB { brg .up with pauseSent := true, fc := 2, pfcMask := 0x81 })).sent.flow = [(7, some 0x81, 0xFFFF)] := by decide +kernel
theorem test_frameMove : ((after (.insetFrameMove 7) (sB { brs 1 15 with rxBuf := [bfr 2 60] })).bridge 7).rxQ.length = 16
    ∧ ((after (.insetFrameMove 7) (sB { brs 1 16 with rxBuf := [bfr 2 60] })).bridge 7).rxQ.length = 16 := by decide +kernel
theorem test_outbound : ((after (.insetOutboundComplete 7) (sB { brg .up with txQ := [bfr 2 60] })).bridge 7).txBuf = [bfr 2 60]
    ∧ mget 0 8 ((after (.insetOutboundComplete 7) (sB { brg .up with txQ := [bfr 2 60], txUnits := 0 })).bridge 7).cnt = 1 := by decide +kernel
theorem test_depart : ((after (.insetFrameDepart 7) (sB { brg .up with txBuf := [bfr 2 20] })).sent.frames.map fun f => f.2.length) = [64]
    ∧ ((after (.insetFrameDepart 7) (sB { brg .up with txBuf := [bfr 2 20], paused := [0, 1, 2, 3, 4, 5, 6, 7] })).bridge 7).txBuf.length = 1
    ∧ mget 0 9 ((after (.insetFrameDepart 7) (sB { brg .down with txBuf := [bfr 2 20] })).bridge 7).cnt = 1 := by decide +kernel

-- locks and faults

def lkq : Lock := { handle := 0, session := 0, kind := 2, unit := 35, cluster := 0, mask := 0, first := 0, count := 0 }
def sLk (l : Lock) : State := { up with hub := { up.hub with locks := [l] } }
/-- A DEVICE fault of unit 82 is latched. -/
def sAlert : State := up.raise { code := 0x5001, unit := 82, access := 0, master := 0, address := 0, cycle := 0 }
def sFlt : State := up.raise { code := 0x1004, unit := 82, access := 5, master := 0, address := 0, cycle := 0 }
/-- LocksAndFaults: a lock on the last quad, free, held by another session, held by the caller; a record of the last unit; the pin. -/
theorem wit_LocksAndFaults :
    (∀ s ∈ [up, sLk { lkq with session := 1 }], let p := pkt 0 [(20, 2), (21, 35)]
      Accepted 0x0A00 p s (parCheck p [(20, 1), (21, 1), (22, 1), (24, 4), (28, 4), (32, 4)] (lockFieldsOk (lockOf p 0)))
        ((decide (par p 20 1 = 0) && decide (par p 24 4 = 0)) || (decide (par p 20 1 = 1) && decide (par p 32 4 = 0)))
      ∧ lockRights p s 2 35 [35] = none)
    ∧ up.hub.locks = [] ∧ lkq.units = [544 + 35] ∧ lkq.meets { lkq with session := 1 } = true
    ∧ (let p := pkt 0 []
      Accepted 0x0A01 p (sLk lkq) (parCheck p [(20, 4)] true) false ∧ par p 20 4 = lkq.handle)
    ∧ (let p := pkt 0 [(20, 2), (21, 35)]
      Accepted 0x0A02 p (sLk lkq) (parCheck p [(20, 1), (21, 1), (22, 1)] (decide (par p 21 1 < 36) && decide (par p 22 1 = 0))) false)
    ∧ (let p := bpkt 0 0x10000 64 [(20, 82)]
      Accepted 0x0B00 p sFlt (parCheck p [(20, 1)] (faultUnitOk (par p 20 1) && decide (p.len.toNat % 64 = 0))) (decide (p.len = 0))
      ∧ (sFlt.faultRec 82).isSome = true)
    ∧ (let p := pkt 0 [(20, 82)]
      ∀ s ∈ [up, sFlt], Accepted 0x0B01 p s (parCheck p [(20, 1)] (faultUnitOk (par p 20 1))) false) ∧ up.faultRec 82 = none
    ∧ (let p := pkt 0 [(20, 1 - up.faults.pinLevel)]
      Accepted 0x0B02 p up (parCheck p [(20, 1)] (decide (par p 20 1 < 2))) false ∧ par p 20 1 ≠ up.faults.pinLevel)
    ∧ up.faults.pulsing = false ∧ up.faults.driven ≠ 1 - up.faults.pinLevel ∧ up.faultPulse.faults.pulsing = true
    ∧ up.faultPulse.faults.driven = 0 ∧ up.faultPulse.faults.pinLevel = 1 := by
  unfold Accepted; and_intros <;> decide +kernel
theorem test_lockAcquire : (after (.lockAcquire (pkt 0 [(20, 2), (21, 35)])) up).hub.locks = [{ lkq with handle := up.hub.nextLock }]
    ∧ (after (.lockAcquire (pkt 0 [(20, 2), (21, 35)])) (sLk { lkq with session := 1 })).hub.locks = [{ lkq with session := 1 }] := by decide +kernel
theorem test_lockRelease : let t := after (.lockRelease (pkt 0 [])) (sLk lkq)
    t.hub.locks = [] ∧ (t.lockUnit (544 + 35)).gen = 1 := by decide +kernel
theorem test_faultRead : memNat (memSlice (after (.faultRead (bpkt 0 0x10000 64 [(20, 82)])) sFlt).hostMem 0x10000 64) 0 1 = 82 := by decide +kernel
theorem wit_alert : sAlert.alert = true ∧ (sAlert.faultRec 82).isSome = true
    ∧ { sAlert with faults := { sAlert.faults with recs := mset none 82 none sAlert.faults.recs } }.alert = false
    ∧ Accepted 0x0B01 (pkt 0 [(20, 82)]) sAlert (parCheck (pkt 0 [(20, 82)]) [(20, 1)] (faultUnitOk 82)) false := by
  unfold Accepted; and_intros <;> decide +kernel
theorem test_alert : sAlert.sent.pins = [(5, false), (6, false)]
    ∧ (after (.faultClear (pkt 0 [(20, 82)])) sAlert).sent.pins = [(5, false), (6, false), (6, true)] := by decide +kernel
theorem test_faultClear : (after (.faultClear (pkt 0 [(20, 82)])) sFlt).faultRec 82 = none := by decide +kernel
theorem test_faultPin : (after (.faultPinSet (pkt 0 [(20, 0)])) up).faults.driven = 0
    ∧ (after .faultNPulseEnd up.faultPulse).faults.driven = 1 := by decide +kernel

/-- FaultLatching: a unit without a record, one with a CORRECTED record, one with another; each class. -/
theorem wit_FaultLatching :
    mwf none up.faults.recs = true ∧ mwf 0 up.faults.cnt = true ∧ up.faultRec 3 = none ∧ up.log.queue.length < 64
    ∧ 0x1003 ∈ faultCodes ∧ 0x1004 ∈ faultCodes ∧ faultClass 0x2001 3 = 0 ∧ faultClass 0x1004 3 = 2 ∧ faultClass 0x5001 82 = 3
    ∧ ((up.raise { code := 0x2001, unit := 3, access := 0, master := 0, address := 0, cycle := 0 }).faultRec 3).map (·.cls) = some 0
    ∧ faultClass 0x3002 71 = 1 ∧ up.alert = false ∧ up.faultRec 82 = none ∧ (∃ p ∈ (up.group 0).parcels, up.ownerOf p ≠ none ∧ up.ownerOf p = up.unitOwner 0)
    ∧ (∀ p ∈ (up.group 0).parcels, up.ownerOf p ≠ up.unitOwner 3)
    ∧ up.runGroups = [0] ∧ mwf RunGroup.init up.groups = true ∧ (up.group 0).state = .running := by decide +kernel
theorem test_raise : let s := up.raise { code := 0x2001, unit := 0, access := 0, master := 0, address := 0, cycle := 0 }
    let t := s.raise { code := 0x1004, unit := 0, access := 5, master := 0, address := 0, cycle := 5 }
    let v := t.raise { code := 0x5001, unit := 0, access := 5, master := 0, address := 0, cycle := 5 }
    (t.faultRec 0).map (fun r => (r.code, r.replaced, r.more)) = some (0x1004, true, false)
    ∧ (v.faultRec 0).map (fun r => (r.code, r.more, r.maxCls)) = some (0x1004, true, 3)
    ∧ (t.group 0).halting = some 0x1004 ∧ s.log.queue.length = up.log.queue.length ∧ v.faults.pulsing = true := by decide +kernel


-- logbook, parcels, pairs, power domains

def lrec (seq kind flags : Nat) : LogRec :=
  { seq := seq, kind := kind, flags := flags, stamp := 0, epoch := 0, boots := 1, stbyUs := 0, legend := 0, payload := 0 }
def lgb (queue ring : List LogRec) (dropped : Nat) : Logbook :=
  { nextSeq := 2 ^ 32 - 1, ring := ring, pinned := [lrec 0 1 1], queue := queue, dropped := dropped, dropFirst := 3, dropLast := 4
    boots := 1, usable := true, torn := none, retired := [], control := [5, 4] }
def sLog (queue ring : List LogRec) (dropped : Nat) : State := { up with log := lgb queue ring dropped }
def sDark : State := { sLog [] [] 0 with boot := { up.boot with vstby := false } }
/-- LogbookCommands: no power; a pinned record, a records-lost record, drops; an empty queue; a read from the last record. -/
theorem wit_LogbookCommands :
    (sDark.boot.vstby && sDark.log.usable) = false
    ∧ ((sLog [] [] 0).boot.vstby && (sLog [] [] 0).log.usable) = true
    ∧ (sLog [lrec 0 0x10 1] [] 0).log.queue = lrec 0 0x10 1 :: [] ∧ (lrec 0 0x10 1).kind ≠ 0x11 ∧ (sLog [lrec 0 0x10 1] [] 0).log.dropped = 0
    ∧ (sLog [lrec 0 0x10 1] [] 0).log.ring.length < 61440
    ∧ ((sLog [] [] 0).log.retired.filter fun x => decide (x.1 / 32768 = ringSlot (2 ^ 32 - 1) / 32768)).length < 1912
    ∧ (lrec 0 0x10 1).flags % 2 = 1 ∧ (lrec 0 0x10 1).kind ≠ 1 ∧ (lrec 0 0x10 0).flags % 2 = 0 ∧ (lrec 0 0x11 0).kind = 0x11
    ∧ 0 < (sLog [lrec 0 0x10 1] [] 1).log.dropped ∧ (sLog [] [] 0).log.queue = []
    ∧ (sLog [] [lrec 8 0x10 0, lrec 9 0x10 0] 0).log.from 0 9 = (9, lrec 9 0x10 0) :: []
    ∧ (let p := bpkt 0 0x10000 256 [(20, 1)]
      Accepted 0x0B10 p (sLog [] [] 0) (parCheck p [(20, 1), (24, 8)] (decide (par p 20 1 < 2) && decide (p.len.toNat % 256 = 0))) (decide (p.len = 0)))
    ∧ Accepted 0x0B11 (pkt 0 []) (sLog [] [] 0) (parCheck (pkt 0 []) [] true) false := by
  unfold Accepted; and_intros <;> decide +kernel
theorem test_logCommit : let t := after .logbookCommit (sLog [lrec 0 0x10 1] [] 0)
    t.log.ring.map (·.seq) = [2 ^ 32 - 1] ∧ t.log.nextSeq = 0 ∧ t.log.pinned.length = 2 ∧ t.log.control = [5, 6] := by decide +kernel
theorem test_logLost : ((after .logbookCommit (sLog [lrec 0 0x11 0] [] 7)).log.ring.map fun r => bitsOf r.payload.toNat 0 64) = [7] := by decide +kernel
theorem test_logRead : memNat (memSlice (after (.logRead (bpkt 0 0x10000 256 [(24, 9)])) (sLog [] [lrec 8 0x10 0, lrec 9 0x20 0] 0)).hostMem 0x10000 256) 0 4 = 9
    ∧ ((after (.mctpLogRead 0 9) (sLog [] [lrec 8 0x10 0, lrec 9 0x20 0] 0)).sent.mctp.map (·.length)) = [262] := by decide +kernel
theorem test_logInfo : (after .mctpLogInfo (sLog [] [lrec 8 0x10 0] 0)).sent.mctp.map (fun m => (m.headD 0, m.drop 5))
      = [(0x7F, [1, 1, 0, 0, 0, 1, 0, 0, 0, 255, 255, 255, 255, 8, 0, 0, 0])]
    ∧ (after (.logInfo (pkt 0 [])) (sLog [] [lrec 8 0x10 0] 0)).hostMem = [] := by decide +kernel

/-- No parcel is given, parcels 0 and 31 as named. -/
def sP (v w : Parcel) : State := { up with parcels := [(0, v), (31, w)], groups := [] }
def unw : Parcel := { Parcel.init with peak := 1 }
def blk : Parcel := { Parcel.init with owned := true, load := .blank }
/-- A PARCEL_ASSIGN for function 5 waits for parcel 0, which clears. -/
def sAssignW : State :=
  (sP { unw with clearing := true } unw).setEntries [{ opcode := 0x0C00, pkt := pkt 0 [], state := .parked (.assign 1 5) }]
/-- ParcelsAndPairs: unowned parcels awake and asleep, BLANK ones of the caller, one that clears; each kind of pairing; a mirrored group. -/
def sPair (m : Nat) : State := { { up with quads := [(35, { Quad.init with awake := false })] } with parcels := [], groups := [], boot := { up.boot with pairMode := m } }
def sMir (d : Bool) : State := { up.updGroup 0 fun r => { r with diverged := d, divHeld := d } with boot := { up.boot with pairMode := 2 } }
theorem wit_ParcelsAndPairs :
    (∀ s ∈ [sP unw unw, sP blk { blk with asleep := true }, sP { unw with clearing := true } { unw with asleep := true }],
      mwf Parcel.init s.parcels = true ∧ (∀ i ∈ [0, 31], s.failed i = false) ∧ s.memoriesWf = true ∧ mwf none s.faults.recs = true)
    ∧ (let p := pkt 0 [(20, 0x80000001), (24, 0)]
      ∀ s ∈ [sP unw unw, sP unw { unw with asleep := true }], s.maskParcels (par p 20 4) = [0, 31]
        ∧ Accepted 0x0C00 p s (parCheck p [(20, 4), (24, 1)] (s.maskFits (par p 20 4) && s.fnEnabled (par p 24 1))) (decide (par p 20 4 = 0))
        ∧ ∀ i ∈ [0, 31], (s.parcel i).load = .unowned ∧ (s.parcel i).owned = false)
    ∧ (∀ i ∈ [0, 31], (sP unw unw).unready (.parcel i) = false ∧ Domain.parcel i ∉ (sP unw unw).net.down)
    ∧ (sP unw { unw with asleep := true }).unready (.parcel 31) = true ∧ Domain.parcel 31 ∉ (sP unw { unw with asleep := true }).net.isolated
    ∧ (let s := (sP unw unw).setNet { (sP unw unw).net with down := [.parcel 31], isolated := [.parcel 31] }
      s.unready (.parcel 31) = true ∧ Accepted 0x0C00 (pkt 0 [(20, 0x80000001), (24, 0)]) s none (decide (0x80000001 = 0)))
    ∧ (let s := sAssignW
      (s.parcel 0).clearing = true ∧ (s.parcel 0).owned = false ∧ (s.parcel 0).asleep = false ∧ Domain.parcel 0 ∉ s.net.waking
      ∧ Domain.parcel 0 ∉ s.net.isolated ∧ s.hub.entries.map (·.wait?) = [some (.assign 1 5)] ∧ s.maskParcels 1 = [0])
    ∧ (let p := pkt 0 [(20, 0x80000001), (24, 4), (26, 145)]
      Accepted 0x0C02 p (sP unw unw) (parCheck p [(20, 4), (24, 1), (26, 2)] ((sP unw unw).maskFits (par p 20 4) && capOk (par p 24 1) (par p 26 2)))
        (decide (par p 20 4 = 0)) ∧ ∀ i ∈ [0, 31], (sP unw unw).loadedClass i ≤ par p 24 1)
    ∧ (let p := pkt 0 [(20, 0x80000001)]
      ∀ s ∈ [sP blk blk, sP { blk with asleep := true } { blk with asleep := true }],
        s.ownCheck 0 [0, 31] = none ∧ s.parcelLocked 0 [0, 31] = false ∧ (∀ i ∈ [0, 31], (s.parcel i).load = .blank)
        ∧ Accepted 0x0C01 p s (parCheck p [(20, 4)] (s.maskFits (par p 20 4))) (decide (par p 20 4 = 0))
        ∧ Accepted 0x0C03 p s (parCheck p [(20, 4)] (s.maskFits (par p 20 4))) (decide (par p 20 4 = 0)))
    ∧ (sP unw unw).assignWaits 31 = false ∧ Domain.parcel 31 ∉ (sP unw unw).net.down ∧ (sP unw unw).hub.entries = []
    ∧ ((sP { unw with clearing := true } unw).parcel 0).clearing = true := by
  unfold Accepted; and_intros <;> decide +kernel
/-- A PAIR_SET whose routers have drained. -/
def sPairD (m : Nat) : State := (sPair 0).setEntries [{ opcode := 0x0C10, pkt := pkt 0 [(20, m)], state := .ready true }]
theorem wit_ParcelsAndPairs_pairs : up.hubUp = true
    ∧ (∀ m ∈ [1, 2, 3], let p := pkt 0 [(20, m)]
      Accepted 0x0C10 p (sPair 0) (parCheck p [(20, 1)] (decide (par p 20 1 < 4))) false) ∧ (∀ q < 36, (sPair 0).quadLocked 0 q = false)
    ∧ (∀ i < 32, ((sPair 0).parcel i).load = .unowned ∧ ((sPair 0).parcel i).owned = false) ∧ (sPair 0).boot.pairMode < 2
    ∧ (∀ m ∈ [2, 3], (sPair 0).hasDrained 0x0C10 (pkt 0 [(20, m)]) = false ∧ (sPairD m).hasDrained 0x0C10 (pkt 0 [(20, m)]) = true
      ∧ Accepted 0x0C10 (pkt 0 [(20, m)]) (sPairD m) none false) ∧ mwf Quad.init (sPairD 2).quads = true
    ∧ ((sPair 0).quad 35).awake = false ∧ mwf Lane.init (sPair 0).lanes = true ∧ (sPair 0).log.queue.length < 64
    ∧ (∀ d ∈ [false, true], ((sMir d).group 0).diverged = d
      ∧ (let p := pkt 0 [(20, 1), (24, 1)]
        Accepted 0x0C12 p (sMir d) (parCheck p [(20, 4), (24, 1)] (decide (par p 24 1 < 2))) (decide (par p 20 4 = 0))
        ∧ okIs (pairGroup p (sMir d) [2]) 0 = true)
      ∧ (let p := pkt 0 [(20, 1)]
        Accepted 0x0C11 p (sMir d) (parCheck p [(20, 4)] true) (decide (par p 20 4 = 0)) ∧ okIs (pairGroup p (sMir d) [2, 3]) 0 = true)) := by
  unfold Accepted; and_intros <;> decide +kernel
/-- ParcelsAndPairs: East lanes that are UP, DOWN and in training. -/
def sPairL (m : Nat) : State := { sPair m with lanes := [(71, laneUp), (141, tr), (142, dn), (143, laneUp)] }
theorem wit_ParcelsAndPairs_lanes : mwf Lane.init (sPairL 0).lanes = true ∧ ((sPairL 0).lane 143).state = .up ∧ ((sPairL 0).lane 143).fec = 0
    ∧ { sPairL 0 with hub := (sPairD 2).hub }.hasDrained 0x0C10 (pkt 0 [(20, 2)]) = true
    ∧ ((sPairL 0).lane 141).state = .training ∧ ((sPairL 0).lane 142).state = .down := by decide +kernel
theorem test_assign : ((after (.parcelAssign (pkt 0 [(20, 0x80000001), (24, 0)])) (sP unw unw)).parcel 31).load = .blank
    ∧ (after (.parcelAssign (pkt 0 [(20, 0x80000001), (24, 0)])) (sP unw { unw with asleep := true })).net.waking = [.parcel 31] := by decide +kernel
theorem test_release : ((after (.parcelRelease (pkt 0 [(20, 0x80000001)])) (sP blk blk)).parcel 31).owned = false := by decide +kernel
theorem test_cap : ((after (.parcelCap (pkt 0 [(20, 0x80000001), (24, 4), (26, 145)])) (sP unw unw)).parcel 31).capW = 145 := by decide +kernel
theorem test_parcelSleep : (after (.parcelSleep (pkt 0 [(20, 0x80000001)])) (sP blk blk)).net.down = [.parcel 0, .parcel 31]
    ∧ (after (.parcelAutoSleep 31) (sP unw unw)).net.down = [.parcel 31] := by decide +kernel
theorem test_clearDone : ((after (.parcelClearDone 0) (sP { unw with clearing := true } unw)).parcel 0).clearing = false
    ∧ ((after (.parcelClearDone 0) sAssignW).parcel 0).group = 5 ∧ (after (.parcelClearDone 0) sAssignW).sent.replies.length = 1 := by decide +kernel
theorem test_pairSet : (after (.pairSet (pkt 0 [(20, 1)])) (sPair 0)).boot.pairMode = 1
    ∧ (after (.pairSet (pkt 0 [(20, 2)])) (sPair 0)).boot.pairMode = 0
    ∧ let t := after (.pairSet (pkt 0 [(20, 2)])) { sPairL 0 with hub := (sPairD 2).hub }
      t.boot.pairMode = 2 ∧ t.hub.entries.map (·.wait?) = [some .pairWake] ∧ t.net.waking = [.quad 35] ∧ t.lane 71 = laneUp ∧ (t.lane 141).state = .idleUntrained ∧ (t.lane 142).state = .idleUntrained
      ∧ t.lane 143 = { laneUp with ctrl := [.sleep] } := by decide +kernel
theorem test_pairResponse : ((after (.pairResponse (pkt 0 [(20, 1), (24, 1)])) (sMir true)).group 0).divHeld = false
    ∧ ((after (.pairDivergeClear (pkt 0 [(20, 1)])) (sMir true)).group 0).diverged = false := by decide +kernel

def slp : Stack := { Stack.init with trained := true, asleep := true }
def sDom : State := { up with hbmStacks := [(3, slp)], quads := [(35, { Quad.init with awake := false })] }
def sDn (ds : List Domain) : State :=
  sDom.setNet { sDom.net with down := ds, draining := ds.flatMap fun d => (domainRouters d).map fun r => (d, r) }
def sWk (ds : List Domain) : State := sDom.setNet { sDom.net with waking := ds }
/-- A power-down that has drained: its domains are isolated. -/
def sKeep : State :=
  let s := up.updGroup 0 fun r => { r with images := [{ img with allots := [(3, 1, 1)] }] }
  s.setNet { s.net with down := [.stack 3] }
def sTr : State := sDom.updStack 2 fun v => { v with trained := true }
def sIso (ds : List Domain) : State := sDom.setNet { sDom.net with down := ds, isolated := ds }
def sDrainW : State := sDom.setEntries [{ opcode := 0x0800, pkt := pkt 0 [], state := .parked (.drain [7]) }]
def parked (w : Wait) : Entry := { opcode := 0x0C20, pkt := pkt 0 [], state := .parked w }
/-- PowerDomains: stacks and quads awake and asleep, a power-down that has drained, one that meets a packet, one that is abandoned. -/
theorem wit_PowerDomains :
    mwf Parcel.init sDom.parcels = true ∧ mwf Stack.init sDom.hbmStacks = true ∧ mwf Quad.init sDom.quads = true
    ∧ mwf Engine.init sDom.engines = true ∧ mwf Bridge.init sDom.bridges = true
    ∧ (∀ v ∈ [(0, 0, 7), (0, 0, 8), (0, 1, 8), (0, 1, 7), (1, 0, 2 ^ 34), (1, 1, 2 ^ 35)],
        let p := pkt 0 [(20, v.1), (21, v.2.1), (24, v.2.2)]
        Accepted 0x0C20 p sDom (parCheck p [(20, 1), (21, 1), (24, 8)]
          (decide (par p 20 1 < 2) && decide (par p 21 1 < 2) && decide (par p 24 8 < if par p 20 1 = 0 then 16 else 2 ^ 36)))
          (decide (par p 24 8 = 0))
        ∧ (∀ q ∈ maskList 36 (par p 24 8), sDom.quadLocked 0 q = false)
        ∧ (∀ i ∈ maskList 36 (par p 24 8), (if par p 20 1 = 0 then sDom.keepsStack i = false else sDom.keepsQuad i = false)
          ∧ sDom.isAsleep (powerUnit (par p 20 1) i) = decide (v.2.2 = 8 ∨ v.2.2 = 2 ^ 35)))
    ∧ (∀ d ∈ [Domain.parcel 31, .stack 2, .quad 34, .trace 1, .bridge 7], domainOk d = true ∧ sDom.isAsleep d = false ∧ d ∉ sDom.net.waking
        ∧ d ∈ (sDn [d]).net.down ∧ (∀ k ∈ (sIso [d]).net.held, (nodeOf k.dst).bind Node.domain ≠ some d) ∧ d ∉ (sDn [d]).net.isolated
        ∧ d ∈ (sIso [d]).net.down ∧ d ∈ (sIso [d]).net.isolated ∧ d ∉ (sIso [d]).net.called ∧ d ∉ (sIso [d]).net.waking
        ∧ (sIso [d]).isAsleep d = false)
    ∧ (∀ d ∈ [Domain.parcel 31, .stack 2], (sIso [d]).staysUp d = false ∧ (sDn [d]).staysUp d = false)
    ∧ sKeep.staysUp (.stack 3) = true ∧ Domain.stack 3 ∈ sKeep.net.down ∧ sKeep.isAsleep (.stack 3) = false ∧ Domain.stack 3 ∉ sKeep.net.waking
    ∧ sDom.autoSleeps (.trace 1) = true ∧ Domain.trace 1 ∉ sDom.net.down
    ∧ (sDom.stack 2).trained = false ∧ (sDom.stack 2).s3Trained = false ∧ (sTr.stack 2).trained = true ∧ sTr.keepsStack 2 = false
    ∧ (sTr.stack 2).asleep = false ∧ (sTr.setNet (sIso [.stack 2]).net).keepsStack 2 = false
    ∧ sDrainW.hub.entries.map (·.wait?) = [some (.drain [7])]
    ∧ Domain.parcel 31 ∈ (sDom.setNet { sDom.net with retry := [.parcel 31] }).net.retry ∧ sDom.autoSleeps (.parcel 31) = true
    ∧ sDom.keepsStack 2 = false ∧ Domain.stack 2 ∉ sDom.net.waking ∧ (sDom.stack 2).asleep = false ∧ sDom.net.held = []
    ∧ (up.updGroup 0 fun r => { r with images := [{ img with allots := [(3, 1, 1)] }] }).keepsStack 3 = true
    ∧ Domain.stack 3 ∈ (sWk [.stack 3]).net.waking ∧ Domain.parcel 31 ∈ (sWk [.parcel 31]).net.waking
    ∧ (∃ r < 40, (sDn [.quad 35]).drainsAt r = [.quad 35])
    ∧ (parked (.power 1 (2 ^ 35) false true)).wait? = some (.power 1 (2 ^ 35) false true)
    ∧ (Wait.power 1 (2 ^ 35) false true).wantsDown (.quad 35) = true ∧ (sDom.sess 0).state = .disabled := by
  unfold Accepted; and_intros <;> decide +kernel
theorem test_powerSet : (after (.powerSet (pkt 0 [(20, 0), (21, 0), (24, 7)])) sDom).net.down = [.stack 0, .stack 1, .stack 2]
    ∧ (after (.powerSet (pkt 0 [(20, 1), (21, 1), (24, 2 ^ 35)])) sDom).net.waking = [.quad 35] := by decide +kernel
theorem test_powerDown : (after (.domainPowerDown (.stack 2) false) (sIso [.stack 2])).isAsleep (.stack 2) = true
    ∧ (after (.domainPowerDown (.stack 3) false) sKeep).net.cancelled = 1 ∧ (after (.domainPowerDown (.trace 1) false) sDom).net.down = [.trace 1]
    ∧ (after (.domainPowerDown (.stack 2) false) (sDn [.stack 2])).net.down = [.stack 2]
    ∧ (after (.domainPowerDown (.stack 2) true) (sDn [.stack 2])).net.cancelled = 1
    ∧ (after (.powerDownRetry (.parcel 31)) (sDom.setNet { sDom.net with retry := [.parcel 31] })).net.down = [.parcel 31] := by decide +kernel
theorem test_selfRefresh : ((after (.hbmSelfRefreshEntry 3) (up.updGroup 0 fun r => { r with images := [{ img with allots := [(3, 1, 1)] }] })).stack 3).asleep = false
    ∧ (after (.hbmSelfRefreshEntry 2) sTr).net.down = [.stack 2]
    ∧ ((after (.hbmSelfRefreshEntry 2) (sTr.setNet (sIso [.stack 2]).net)).stack 2).asleep = true
    ∧ ((after (.domainWakeDone (.stack 3)) (sWk [.stack 3])).stack 3).asleep = false
    ∧ ((after (.domainWakeDone (.parcel 31)) (sWk [.parcel 31])).parcel 31).clearing = true := by decide +kernel
theorem test_router : let r := ((List.range 40).find? fun r => decide ((sDn [.quad 35]).drainsAt r = [.quad 35])).getD 0
    (after (.routerReconfiguration r 65536) (sDn [.quad 35])).net.isolated = [.quad 35]
    ∧ (after (.routerReconfiguration 7 9) sDrainW).hub.entries.map (·.state) = [.ready true]
    ∧ (after (.reconfigurationAbandon 7) sDrainW).sent.replies.map (fun x => x.2.status) = [0x8005]
    ∧ (after (.reconfigurationAbandon r) (sDn [.quad 35])).net.abandoned = 1 ∧ (after (.routerReconfiguration r 65537) (sDn [.quad 35])).net.retry = [.quad 35] := by
  decide +kernel


-- packets

/-- A packet of the host: 256 is the controller of stack 1, 0 the agent of parcel 0. -/
def np (type vc dst : Nat) (data : List Byte) : NetPacket :=
  { vc := vc, prio := false, dst := dst, src := 2, type := type, tag := 2047, group := 0, internal := false, addr := 36 * 2 ^ 30 - 64
    data := data, ue := 0, fixed := 0, badSide := false }
def ctl1 : Nat := 4 * 64
/-- Stack 1 trained; the same with the packet's tag in use, and asleep. -/
def sNet : State := up.updStack 1 fun v => { v with trained := true }
def sTag0 : State := sNet.setNet { sNet.net with tags := [(2047, np 0 0 3 [])] }
def sSlp : State := { up with hbmStacks := [(1, slp)] }
/-- Every tag of the survey engines is in use, and a packet of one. -/
def agentRead : NetPacket := { np 0 0 3 [] with src := 0, tag := 3072 }
@[irreducible] def heldTags (n : Nat) : List (Nat × NetPacket) := (List.range n).map fun i => (3072 + i, agentRead)
def sFull : State := sNet.setNet { sNet.net with tags := heldTags 512 }
/-- A MEM_READ of a bank of parcel 0 that waits behind a request of the host. -/
def bankEnt : Entry := { opcode := 0x0500, pkt := pkt 0 [], state := .parked (.bank 0 false 0 1 9 7) }
def sDep : State := { (sNet.setNet { sNet.net with tags := [(2047, np 0 0 0 [])] }).updCluster 0 fun v => { v with host := [.rd 9 7] } with
  hub := { up.hub with entries := [bankEnt] } }
/-- NetworkPackets: a wrong channel, a bad sideband, no node, a free tag and one in use, the last 64 bytes of a stack awake and asleep, an
uncorrectable word. -/
theorem wit_NetworkPackets :
    sNet.running = true ∧ sNet.boot.sheetsHeld = false ∧ typeVc 0 ≠ some 3 ∧ ({ np 2 0 ctl1 [] with badSide := true }).badSide = true
    ∧ (np 0 0 3 []).badSide = false ∧ nodeOf 3 = none ∧ fromPart (np 0 0 3 []) = false ∧ holdsTag 2 2047 = true
    ∧ (∀ e ∈ sNet.net.tags, e.1 ≠ 2047) ∧ sNet.net.tags = [] ∧ holdsTag 2 4095 = false
    ∧ nodeOf ctl1 = some (.controller 1) ∧ Domain.stack 1 ∉ sNet.net.waking ∧ Domain.stack 1 ∉ sNet.net.isolated ∧ Domain.stack 1 ∉ sNet.net.down
    ∧ (sNet.stack 1).asleep = false ∧ (sNet.stack 1).trained = true ∧ sNet.net.held = [] ∧ sNet.net.sheetDatum = [false, false]
    ∧ (np 0 0 ctl1 []).addr + 64 ≤ 36 * 2 ^ 30 ∧ sNet.ecc = [] ∧ (np 0 0 ctl1 []).addr % 8 = 0
    ∧ (np 1 0 ctl1 (List.replicate 64 7)).addr + (np 1 0 ctl1 (List.replicate 64 7)).data.length ≤ 36 * 2 ^ 30
    ∧ (sSlp.stack 1).asleep = true ∧ Domain.stack 1 ∉ sSlp.net.waking := by decide +kernel
/-- NetworkPackets: an agent of another function and for a node of the part, the mailbox, the host, a request that something waits for and one
that nothing waits for. -/
theorem wit_NetworkPackets_agents :
    nodeOf 0 = some (.agent 0) ∧ sNet.isAsleep (.parcel 0) = false ∧ Domain.parcel 0 ∉ sNet.net.waking ∧ Domain.parcel 0 ∉ sNet.net.isolated
    ∧ Domain.parcel 0 ∉ sNet.net.down ∧ sNet.ownerOf 0 ≠ some ({ np 3 0 0 [] with group := 63 }).group ∧ ({ np 3 0 0 [] with internal := true }).internal = true
    ∧ nodeOf (2 + 4 * 1 + 64 * 2) = some .mailbox ∧ nodeOf 2 = some .host ∧ sTag0.net.waiting = []
    ∧ (sTag0.net.tags.map (·.1)) = [2047] ∧ (np 0 0 3 []).type = 0 ∧ (sTag0.dependent (np 0 0 3 [])).isNone = true
    ∧ (sDep.net.tags.map fun e => (e.1, e.2.src, e.2.dst)) = [(2047, 2, 0)] ∧ clParcel 0 = 0 ∧ sDep.net.waiting = [] ∧ sDep.boot.pairMode ≠ 2
    ∧ sDep.hub.entries = [bankEnt] ∧ bankEnt.wait? = some (.bank 0 false 0 1 9 7) ∧ (sDep.sess bankEnt.pkt.session).state = .disabled := by
  decide +kernel
theorem wit_NetworkPackets_full (t : Nat) (h : holdsTag agentRead.src t = true) : ∃ e ∈ sFull.net.tags, e.1 = t := by
  have hr : tagRange agentRead.src = (3072, 512) := by decide
  simp only [holdsTag, hr, Bool.and_eq_true, decide_eq_true_eq] at h
  have hm (n : Nat) (hn : t - 3072 < n) : (t, agentRead) ∈ heldTags n := by
    rw [heldTags]
    exact List.mem_map.2 ⟨t - 3072, List.mem_range.2 hn, Prod.ext (Nat.add_sub_cancel' h.1) rfl⟩
  exact ⟨(t, agentRead), hm 512 (by omega), rfl⟩
theorem test_netBad : (after (.read (np 0 3 ctl1 [])) sNet).net.badType = 1 ∧ (after (.read (np 0 0 3 [])) sNet).net.badDst = 1
    ∧ (after (.read (np 0 0 3 [])) sNet).sent.packets.map (·.type) = [9] ∧ (after (.read { np 0 0 3 [] with tag := 4095 }) sNet).net.tags.map (·.1) = [0]
    ∧ (after (.posted { np 2 0 ctl1 [7] with badSide := true }) sNet).net.ueSide = 1 := by decide +kernel
theorem test_netWaits : let t := after (.read agentRead) sFull
    t.net.waits = 1 ∧ t.net.waiting.length = 1 := by decide +kernel
theorem test_netStore : let t := after (.posted (np 2 0 ctl1 (List.replicate 64 7))) sNet
    memNat t.hbm (2 ^ 36 + 36 * 2 ^ 30 - 8) 8 = 0x0707070707070707 ∧ t.sent.packets = []
    ∧ (after (.write (np 1 0 ctl1 [7])) sNet).sent.packets.map (·.type) = [7]
    ∧ (after (.posted { np 2 0 ctl1 (List.replicate 8 7) with ue := 1 }) sNet).eccAt 9 (2 ^ 33 + (36 * 2 ^ 30 - 64) / 8) = 2 := by decide +kernel
theorem test_netRead : (after (.read (np 0 0 ctl1 [])) sNet).sent.packets.map (·.data.length) = [64]
    ∧ (after (.read (np 0 0 ctl1 [])) sSlp).net.waking = [.stack 1] ∧ (after (.wake (np 11 2 ctl1 [])) sSlp).net.held.length = 1 := by decide +kernel
theorem test_netTime : (after (.time (np 10 2 ctl1 [])) sNet).net.sheetDatum = [true, false] := by decide +kernel
theorem test_netAtomic : (after (.atomic { np 3 0 0 [] with group := 63 }) sNet).sent.packets.map (·.type) = [9]
    ∧ (after (.atomic { np 3 0 0 [] with internal := true }) sNet).sent.packets.map (·.type) = [6] := by decide +kernel
theorem test_netMessage : (after (.message (np 4 0 (2 + 4 * 1 + 64 * 2) [])) sNet).net.mail.length = 1 := by decide +kernel
theorem test_netAnswers : (after (.readResponse (np 6 1 2 [])) sTag0).net.tags = [] ∧ (after (.ack (np 7 1 2 [])) sTag0).net.tags = []
    ∧ (after (.errorResponse (np 9 1 2 [])) sTag0).net.tags = [] := by decide +kernel
theorem test_netFailed : ((after (.tagTimeout 2047) sDep).sent.replies.map fun x => x.2.status) = [0x8021]
    ∧ ((after (.readResponse { np 6 1 2 [] with ue := 1 }) sDep).sent.replies.map fun x => (x.2.status, x.2.detail)) = [(0x8020, 0x2002)] := by
  decide +kernel
theorem test_tagTimeout : (after (.tagTimeout 2047) sTag0).net.timeouts = 1 ∧ (after (.tagTimeout 2046) sTag0).net.tags.length = 1 := by decide +kernel

-- firmware, sensors, throttling

def fwc (st major : Nat) : FwCopy := { FwCopy.init with state := st, major := major }
def sFw (c : FwCopy) (pending : Option Nat) : State := { up with flash := { up.flash with copy1 := c, pending := pending } }
/-- FirmwareCommands: the copy in use and the other one, VALID at the floor, below it, EMPTY; a write; a busy part. -/
theorem wit_FirmwareCommands : up.boot.bootCopy = 0
    ∧ Accepted 0x0D00 (pkt 0 []) up (parCheck (pkt 0 []) [] true) false
    ∧ (let p := bpkt 0 0x10000 512 [(20, 1)]
      ∀ s ∈ [up, sFw (fwc 2 0) none], Accepted 0x0D01 p s (parCheck p [(20, 1)] (decide (par p 20 1 < 2))) (decide (p.len = 0))
        ∧ s.workOf 0x0D01 p = none) ∧ (sFw (fwc 2 0) none).flash.copy1.state = 2 ∧ up.hub.reset = false ∧ sStop.hub.reset = false
    ∧ (∀ k ∈ [0, 1], let p := pkt 15 [(20, k)]
      (∀ s ∈ [sFw (fwc 1 3) none, sFw (fwc 1 2) (some 1), sFw (fwc 0 0) none], Accepted 0x0D02 p s (parCheck p [(20, 1)] (decide (par p 20 1 < 2))) false)
      ∧ Accepted 0x0D03 p up (parCheck p [(20, 1)] (decide (par p 20 1 < 2))) false ∧ par p 20 1 = k ∧ p.session < 16)
    ∧ (sFw (fwc 1 3) none).flash.floor ≤ (fwc 1 3).major ∧ (fwc 1 2).major < (sFw (fwc 1 2) none).flash.floor ∧ (fwc 0 0).state ≠ 1
    ∧ (sFw (fwc 1 2) (some 1)).flash.pending ≠ none ∧ up.boot.stage = .full ∧ up.resetBusy = true ∧ sStop.resetBusy = false := by
  unfold Accepted; and_intros <;> decide +kernel
theorem test_fwSwitch : (after (.fwSwitch (pkt 0 [(20, 1)])) (sFw (fwc 1 3) none)).flash.pending = some 1
    ∧ (after (.fwSwitch (pkt 0 [(20, 1)])) (sFw (fwc 1 2) none)).flash.pending = none
    ∧ (after (.fwSwitch (pkt 0 [(20, 0)])) (sFw (fwc 1 3) (some 1))).flash.pending = none := by decide +kernel
theorem test_fwWrite : let t := after (.fwWrite (bpkt 0 0x10000 512 [(20, 1)])) up
    t.flash = up.flash ∧ t.log.queue.length = up.log.queue.length + 1 := by decide +kernel
theorem test_pldmUpdate : ((after (.pldmFirmwareUpdate []) up).sent.mctp.map (·.length)) = [4] := by decide +kernel
theorem test_partReset : (after (.partReset (pkt 0 [(20, 0)])) up).hub.reset = false ∧ (after (.partReset (pkt 0 [(20, 1)])) up).hub.reset = true
    ∧ (after (.partReset (pkt 0 [(20, 0)])) sStop).boot.resetDue = some 2 := by decide +kernel

def sBt (f : Boot → Boot) : State := { up with boot := f up.boot }
def temps (hub : Int) : List Int := List.replicate 35 600 ++ [hub] ++ List.replicate 4 600
def sTh (lt cool : Nat) (hot : Bool) : State :=
  { up with thermal := { up.thermal with lt := lt, coolT := cool, lp := lt, coolP := cool, hotSeen := hot }, groups := [], parcels := [] }
/-- PowerAndThermal: readings just below each threshold and at it; a period with and without a cause, the 99th calm one; the limits of power; a
window at its limit and one above. -/
def sHeavy (n : Nat) : State := (up.updParcel 0 fun v => { v with heavy := n }).updGroup 0 fun r => { r with step := 64 }
theorem wit_PowerAndThermal :
    mwf 0 up.faults.live = true ∧ mwf RunGroup.init up.groups = true ∧ up.thermal.temps.length = 40
    ∧ Accepted 0x0D10 (pkt 0 []) up (parCheck (pkt 0 []) [] true) false ∧ up.boot.stage = .full ∧ sDown.boot.stage = .s1
    ∧ (temps 869).length = 40 ∧ (∀ x ∈ temps 869, x < 870) ∧ 950 ≤ (temps 950).getD 35 0
    ∧ (∀ i < 40, (temps 1099).getD i 0 < if i < 36 then 1100 else 1050) ∧ 1100 ≤ (temps 1100).getD 35 0
    ∧ up.boot.tripDue = false ∧ up.boot.sheetsHeld = false ∧ mwf none up.faults.recs = true ∧ up.thermal.temps.getD 35 0 < 1100
    ∧ (sLog [] [] 0).isLive 81 0x6001 = false ∧ (sLog [] [] 0).log.queue = [] ∧ (sBt fun b => { b with sheetsHeld := true }).boot.sheetsHeld = true
    ∧ ((sHeavy 5).updGroup 0 fun r => { r with step := 65 }).group 0 = { sHeavy 5 |>.group 0 with step := 65 }
    ∧ (∃ g ∈ up.runGroups, (up.group g).state = .running) ∧ (∀ g ∈ (sTh 0 0 false).runGroups, ((sTh 0 0 false).group g).state ≠ .running)
    ∧ (∀ i < 32, ((sTh 1 99 false).parcel i).msWindow = 0) ∧ (sTh 1 0 true).thermal.hotSeen = true ∧ (sTh 1 99 false).thermal.hotSeen = false
    ∧ (sTh 1 99 false).thermal.warmSeen = false ∧ (sTh 1 99 false).thermal.coolT = 99 ∧ (sTh 1 98 false).thermal.coolT < 99
    ∧ 9500 < 9501 ∧ (sTh 1 99 false).thermal.coolP = 99
    ∧ ((sHeavy 24576).parcel 0).heavy ≤ heavyLimit ((((sHeavy 0).group 0).imageOf 0).map (·.cls) |>.getD 4) ∧ (up.parcel 0).rg = some 0
    ∧ heavyLimit ((((sHeavy 0).group 0).imageOf 0).map (·.cls) |>.getD 4) < ((sHeavy 24577).parcel 0).heavy
    ∧ ((sHeavy 24577).parcel 0).excess + 1 < 2 ^ 16 := by unfold Accepted; and_intros <;> decide +kernel
theorem test_sensors : (after (.sensorSample (temps 950)) up).isLive 81 0x6001 = true ∧ (after (.sensorSample (temps 949)) up).isLive 81 0x6001 = false
    ∧ (after (.sensorSample (temps 1100)) up).boot.tripDue = true ∧ (after (.sensorSample (temps 1100)) (sTh 0 0 false)).boot.sheetsHeld = true := by
  decide +kernel
theorem test_tripHeld : (after (.sensorSample (temps 1100)) (sBt fun b => { b with sheetsHeld := true })).faultCount 0x6002 = 1
    ∧ ((after (.sensorSample (temps 950)) up).log.queue.map fun r => (r.kind, bitsOf r.payload.toNat 0 8)).getLast? = some (0x20, 3) := by
  decide +kernel
theorem test_throttle : (after (.throttlePeriod 9501) (sTh 1 99 true)).thermal.lt = 2 ∧ (after (.throttlePeriod 9501) (sTh 1 99 true)).thermal.lp = 2
    ∧ (after (.throttlePeriod 9000) (sTh 1 99 false)).thermal.lp = 0 ∧ (after (.throttlePeriod 9001) (sTh 1 99 false)).thermal.lp = 1 := by
  decide +kernel
theorem test_partSensors : ((after .pldmPlatformMonitoring up).sent.mctp.map (·.length)) = [14]
    ∧ (after (.partSensors (pkt 0 [])) up).hub.entries = [] := by decide +kernel
theorem test_powerWindow : ((after (.powerWindowEnd 0) (sHeavy 24576)).parcel 0).excess = 0
    ∧ ((after (.powerWindowEnd 0) (sHeavy 24577)).faultRec 0).map (·.code) = some 0x1005
    ∧ ((after (.powerWindowEnd 0) (sHeavy 24577)).parcel 0).peak = 24577
    ∧ ((after (.powerWindowEnd 0) ((sHeavy 24577).updGroup 0 fun r => { r with step := 65 })).parcel 0).heavy = 24577 := by decide +kernel

-- power-up, resets, bring-up, test access

/-- A fallback waits for S1's conditions; an instruction of the test access port that takes the pins, RESET_N high and low. -/
def sFall : State := sBt fun b => { b with stage := .s0, resetN := false, fallTo := some 1, fellBack := true, cause := 5 }
def sTap (ir : BitVec 8) (resetN : Bool) : State :=
  { sBt fun b => { b with resetN := resetN } with tap := { up.tap with ir := ir, taken := !resetN } }
/-- Resets: the part in service, held by each pin, by the rails, by the clock, without VSTBY. -/
theorem wit_Resets : let b := up.boot
    b.stage ≠ .s0 ∧ b.vstby = true ∧ b.testMode = false ∧ b.rails = 0xFF ∧ b.railHold = false ∧ b.resetN = true ∧ b.pllLock = true ∧ b.perstN = true
    ∧ (up.flash.copy (up.flash.pending.getD up.flash.lastBoot)).state = 1 ∧ (up.flash.copy 0).minSi ≤ 2 ∧ up.flash.floor ≤ (up.flash.copy 0).major
    ∧ (sBt fun b => { b with stage := .s0, resetN := false }).boot.stage = .s0 ∧ (sBt fun b => { b with perstN := false }).boot.perstN = false
    ∧ (sBt fun b => { b with vstby := false, rails := 0 }).boot.rails = 0 ∧ (sBt fun b => { b with stage := .s0, rails := 0xFE }).boot.rails = 0xFE
    ∧ (sBt fun b => { b with stage := .s0, pllLock := false }).boot.pllLock = false ∧ b.fallTo = none
    ∧ (sBt fun b => { b with vstby := false }).boot.rails ≠ 0 ∧ (sBt fun b => { b with stage := .s0, rails := 0 }).boot.rails = 0
    ∧ sFall.boot.fallTo = some 1 ∧ sFall.boot.resetN = false ∧ sFall.boot.stage = .s0 ∧ (sFall.flash.copy 1).state = 1
    ∧ (sFall.flash.copy 1).minSi ≤ 2 ∧ sFall.flash.floor ≤ (sFall.flash.copy 1).major
    ∧ takesPins (sTap 0 true).tap.ir = true ∧ (sTap 0 true).boot.resetN = true ∧ (sTap 0 true).boot.rails.getLsbD 7 = true
    ∧ (sTap 0 false).tap.taken = true ∧ (sTap 0 false).boot.resetN = false ∧ up.log.ring.length < 61440
    ∧ (railLimits 7).1 * (100 - (railLimits 7).2) ≤ (1656 : BitVec 16).toNat * 100 ∧ (1656 : BitVec 16).toNat * 100 ≤ (railLimits 7).1 * (100 + (railLimits 7).2)
    ∧ (railLimits 7).1 * (100 + (railLimits 7).2) < (1945 : BitVec 16).toNat * 100 ∧ mwf none up.faults.recs = true := by decide +kernel
theorem test_hubReset : let t := after (.hubReset 3) up
    t.boot.stage = .s1 ∧ t.boot.cause = 3 ∧ t.groups = [] ∧ t.log.queue.length = up.log.queue.length + 1 := by decide +kernel
theorem test_resetN : (after (.resetN false false) up).boot.stage = .s0
    ∧ (after (.resetN true true) (sBt fun b => { b with stage := .s0, resetN := false })).boot.stage = .s0
    ∧ (after (.resetN true false) (sBt fun b => { b with stage := .s0, resetN := false })).boot.stage = .s1
    ∧ (after (.resetN true false) sFall).boot.bootCopy = 1 ∧ (after (.resetN false false) (sTap 0 true)).tap.taken = true
    ∧ (after (.resetN true false) (sTap 0 false)).tap.ir = 1 := by decide +kernel
theorem test_perstN : (after .perstN up).boot.cause = 1 ∧ (after .perstNRelease (sBt fun b => { b with perstN := false })).boot.perstN = true := by
  decide +kernel
theorem test_vstby : (after .vstbyRemoved up).log.queue = [] ∧ (after .vstbyRemoved up).boot.vstby = false
    ∧ (after .vstbyApplied (sBt fun b => { b with vstby := false, rails := 0, stage := .s0 })).log.boots = 2 := by decide +kernel
theorem test_rails : (after (.mainRailsChange 0xFF none) (sBt fun b => { b with stage := .s0, rails := 0xFE })).boot.stage = .s1
    ∧ (after (.mainRailsChange 1 none) (sBt fun b => { b with stage := .s0, rails := 0 })).boot.railHold = true
    ∧ (after (.mainRailsChange 0xFF (some 3)) (sBt fun b => { b with stage := .s0, rails := 0xFE })).boot.railHold = true
    ∧ (after (.railExcursion 7 1656) up).boot.sheetsHeld = false ∧ (after (.railExcursion 7 1655) up).boot.sheetsHeld = true := by decide +kernel
theorem test_clock : (after .referenceLoss up).boot.stage = .s0
    ∧ (after .pllRelock (sBt fun b => { b with stage := .s0, pllLock := false })).boot.stage = .s1 := by decide +kernel

def sSt (st : BootStage) (f : Boot → Boot) : State := sBt fun b => f { b with stage := st, s3Done := false, s4Done := false, s5Done := false }
/-- BringUp: each stage, the first failure and the second. -/
theorem wit_BringUp :
    (sSt .s1 id).boot.stage = .s1 ∧ (sSt .s1 id).boot.fellBack = false ∧ ((sSt .s1 id).flash.copy (1 - (sSt .s1 id).boot.bootCopy)).state = 1
    ∧ ((sSt .s1 id).flash.copy 1).minSi ≤ 2 ∧ (sSt .s1 id).flash.floor ≤ ((sSt .s1 id).flash.copy 1).major
    ∧ (sSt .s1 fun b => { b with fellBack := true }).boot.fellBack = true ∧ (sSt .s1 id).canStart = true
    ∧ (sSt .s1 fun b => { b with rails := 0xFE }).canStart = false
    ∧ (sSt .s2 id).boot.stage = .s2 ∧ mwf Parcel.init (sSt .s2 id).parcels = true ∧ mwf none (sSt .s2 id).faults.recs = true
    ∧ 31 ∉ (sSt .s2 id).factory ∧ (0x7FFFFFFF : BitVec 32).getLsbD 31 = false ∧ (sSt .s2 id).failed 30 = false
    ∧ mwf Lane.init (sSt .s2 id).lanes = true ∧ ((sSt .s2 id).quad (143 / 4)).awake = true ∧ ((sSt .s2 id).lane 143).fec = 0
    ∧ ((sSt .s2 id).lane 143).held = false ∧ (sSt .s2 id).pairHeld 143 = false
    ∧ (sSt .s3s4 id).boot.stage = .s3s4 ∧ mwf Stack.init (sSt .s3s4 id).hbmStacks = true ∧ (sSt .s3s4 id).boot.s3Done = false
    ∧ (sSt .s3s4 id).boot.s4Done = false ∧ (sSt .s3s4 fun b => { b with s4Done := true }).datum.role = 0 ∧ (sSt .s3s4 id).boot.sheetsHeld = false
    ∧ (sSt .s5 id).boot.stage = .s5 ∧ up.boot.stage = .full := by decide +kernel
theorem test_s1 : (after (.s1Ready 65535) (sSt .s1 id)).boot.stage = .s2 ∧ (after .bootFailure (sSt .s1 id)).boot.bootCopy = 1
    ∧ (after .bootFailure (sSt .s1 fun b => { b with rails := 0xFE })).boot.fallTo = some 1
    ∧ (after (.stageBoundExpiry .s1) (sSt .s1 fun b => { b with fellBack := true })).boot.stage = .failed := by decide +kernel
theorem test_s2 : let t := after (.s2Complete 0x7FFFFFFF 9) (sSt .s2 id)
    t.failed 31 = true ∧ t.failed 30 = false ∧ t.boot.stage = .s3s4 ∧ (t.faultRec 31).isSome = true := by decide +kernel
theorem test_s3s4 : (after (.s3Complete 0xF 9) (sSt .s3s4 fun b => { b with s4Done := true })).boot.stage = .full
    ∧ (after (.s4Complete 9) (sSt .s3s4 id)).boot.stage = .s3s4 ∧ (after (.stageBoundExpiry .s3) (sSt .s3s4 id)).boot.s3Done = true := by decide +kernel
theorem test_watchdog : (after (.fwWatchdog 8) up).boot.resetDue = some 3 ∧ ((after (.fwWatchdog 8) up).faultRec 82).isSome = true := by decide +kernel
theorem wit_TestAccess : (up.boot.vstby && up.boot.rails.getLsbD 7) = true
    ∧ (sTap 0 false).faults.pulled = false ∧ ((sTap 0 false).boot.vstby && (sTap 0 false).boot.rails.getLsbD 7) = true
    ∧ ((sBt fun b => { b with rails := 0x7F }).boot.vstby && (sBt fun b => { b with rails := 0x7F }).boot.rails.getLsbD 7) = false
    ∧ (3 : BitVec 8).toNat = 3 ∧ 5 < (6 : BitVec 8).toNat := by decide +kernel
theorem test_tapPins : let t := after .extest { sTap 1 false with tap := { up.tap with preload := List.replicate 17 true } }
    t.tap.cells.length = 17 ∧ t.pinOut 0 = some true ∧ (List.range 7).map (after .highz (sTap 1 false)).pinOut = List.replicate 7 none
    ∧ (after (.samplePreload []) up).tap.cells.length = 17 := by decide +kernel
theorem test_tap : (after .extest (sBt fun b => { b with resetN := false })).tap.taken = true ∧ (after .extest up).tap.taken = false
    ∧ (after .clamp up).tap.ir = 4 ∧ (after .highz up).tap.ir = 5 ∧ (after .idcode up).tapReg = .idcode
    ∧ (after (.samplePreload [true]) up).tap.preload = [true] ∧ (after (.bypass 6) up).tapReg = .bypass
    ∧ (after .idcode (sBt fun b => { b with rails := 0x7F })).tap = up.tap := by decide +kernel

-- the whole block

theorem wit_StepRunsFront : step { up with pending := [.nop 1] } = exec (.nop 1) up ∧ step up = .next up := by and_intros <;> rfl
theorem wit_WellFormedCommandsGoOn : (Instr.stepExecute 31).wf = true ∧ (Instr.sessionNop pktMax).wf = true := by decide +kernel
theorem wit_StepKeepsInv : up.Inv ∧ step { up with pending := [.nop 1] } = .next (up.setResult 1 .x) := by
  unfold State.Inv; exact ⟨by decide +kernel, rfl⟩
theorem wit_GradeAndFloor : step up = .next up := by rfl

end Sys2Proof.Tests
end

-- ==== Grade and floor: what no command changes ====
section
/-! PROOFS. The grade, the parcels that failed factory test (R2, R3) and the rollback floor (R411) through every command of the table.

One equation per operation of the model says that it keeps these three; an operation that is built from others is simplified by the
equations of its parts. S1_READY alone raises the floor, and is treated at the end. -/
namespace Sys2Proof.Machine

-- the lasting part

/-- What lasts as long as the part does: the grade, the parcels that failed factory test, the rollback floor. -/
def State.lasting (s : State) : Nat × List Nat × Nat := (s.grade, s.factory, s.flash.floor)

@[simp] theorem lasting_fold (s : State) : (s.grade, s.factory, s.flash.floor) = s.lasting := rfl

/-- An update of other fields: only three of the fields of the updated state matter. -/
@[simp] theorem lasting_mk {pending istore values cur stg pend result slots ptable busyMap sendAct sendShd quadAct quadShd fetchSnd fetchQd ecc fences
    confOpp arrOpp arrSlots arrDrops clusters bank hbm hostMem hostBad opp groups parcels hbmStacks stages nextStage keys keks
    datum trigIn trigOut ppsHigh quads lanes bridges engines sessions hub faults log flash boot thermal net tap grade factory
    s2Failed trackMap freeCtr sent} :
    (State.mk pending istore values cur stg pend result slots ptable busyMap sendAct sendShd quadAct quadShd fetchSnd fetchQd ecc
    fences confOpp arrOpp arrSlots arrDrops clusters bank hbm hostMem hostBad opp groups parcels hbmStacks stages nextStage
    keys keks datum trigIn trigOut ppsHigh quads lanes bridges engines sessions hub faults log flash boot thermal net tap
    grade factory s2Failed trackMap freeCtr sent).lasting = (grade, factory, flash.floor) := rfl

@[simp] theorem lasting_ite {c : Prop} [Decidable c] (a b : State) :
    (if c then a else b).lasting = if c then a.lasting else b.lasting := apply_ite _ _ _ _

theorem Faulting.lasting {s t : State} (h : Faulting s t) : t.lasting = s.lasting := by
  obtain ⟨_, _, _, _, _, _, _, rfl⟩ := h; rfl

theorem Replying.lasting {s t : State} (h : Replying s t) : t.lasting = s.lasting := by
  obtain ⟨_, _, _, _, _, _, _, _, _, _, rfl⟩ := h; rfl

theorem Executing.lasting {s t : State} (h : Executing s t) : t.lasting = s.lasting := by
  obtain ⟨_, _, _, _, _, _, _, _, _, _, _, _, _, _, _, rfl⟩ := h; rfl

/-- The state that an answer carries. -/
def Ans.state : Ans → State
  | .reply _ _ _ t => t
  | .park _ t => t
  | .silent t => t

@[simp] theorem state_reply (st d r t) : (Ans.reply st d r t).state = t := rfl
@[simp] theorem state_park (w t) : (Ans.park w t).state = t := rfl
@[simp] theorem state_silent (t) : (Ans.silent t).state = t := rfl
@[simp] theorem state_ite {c : Prop} [Decidable c] (a b : Ans) : (if c then a else b).state = if c then a.state else b.state :=
  apply_ite _ _ _ _

-- repetition: a loop keeps what every turn keeps

@[simp] theorem forEach_lasting {l : List Nat} {f : Nat → State → State} (h : ∀ i s, (f i s).lasting = s.lasting) (s : State) :
    (forEach l f s).lasting = s.lasting :=
  forEach_keep (P := fun t => t.lasting = s.lasting) (fun i t k => (h i t).trans k) rfl

/-- A loop over a state with something beside it keeps a part of it that every turn keeps. -/
theorem foldl_proj {σ α τ : Type} (π : σ → τ) {f : σ → α → σ} (h : ∀ a x, π (f a x) = π a) (l : List α) (a : σ) :
    π (l.foldl f a) = π a := by
  induction l generalizing a with
  | nil => rfl
  | cons x l ih => exact (ih _).trans (h a x)

@[simp] theorem foldl_lasting {α : Type} {l : List α} {f : State → α → State} (h : ∀ s a, (f s a).lasting = s.lasting) (s : State) :
    (l.foldl f s).lasting = s.lasting := foldl_proj State.lasting h l s
@[simp] theorem foldl_fst_lasting {α β : Type} {l : List α} {f : State × β → α → State × β}
    (h : ∀ a x, (f a x).1.lasting = a.1.lasting) (a : State × β) : (l.foldl f a).1.lasting = a.1.lasting :=
  foldl_proj (fun a : State × β => a.1.lasting) h l a
@[simp] theorem foldl_snd_lasting {α β : Type} {l : List α} {f : β × State → α → β × State}
    (h : ∀ a x, (f a x).2.lasting = a.2.lasting) (a : β × State) : (l.foldl f a).2.lasting = a.2.lasting :=
  foldl_proj (fun a : β × State => a.2.lasting) h l a
@[simp] theorem foldFaults_lasting {α : Type} {f : State → α → State × List FaultEv} {l : List α}
    (h : ∀ s a, (f s a).1.lasting = s.lasting) (s : State) : (foldFaults f l s).1.lasting = s.lasting := by
  induction l generalizing s with
  | nil => rfl
  | cons a l ih => exact (ih _).trans (h s a)

variable (s : State)

-- Ops

@[simp] theorem State.setParcel_lasting (i p) : (s.setParcel i p).lasting = s.lasting := by simp [State.setParcel]
@[simp] theorem State.updParcel_lasting (i f) : (s.updParcel i f).lasting = s.lasting := by simp [State.updParcel]
@[simp] theorem State.setCluster_lasting (c v) : (s.setCluster c v).lasting = s.lasting := by simp [State.setCluster]
@[simp] theorem State.updCluster_lasting (c f) : (s.updCluster c f).lasting = s.lasting := by simp [State.updCluster]
@[simp] theorem State.setGroup_lasting (g r) : (s.setGroup g r).lasting = s.lasting := by simp [State.setGroup]
@[simp] theorem State.updGroup_lasting (g f) : (s.updGroup g f).lasting = s.lasting := by simp [State.updGroup]
@[simp] theorem State.setStack_lasting (k v) : (s.setStack k v).lasting = s.lasting := by simp [State.setStack]
@[simp] theorem State.updStack_lasting (k f) : (s.updStack k f).lasting = s.lasting := by simp [State.updStack]
@[simp] theorem State.setKey_lasting (k v) : (s.setKey k v).lasting = s.lasting := by simp [State.setKey]
@[simp] theorem State.setQuad_lasting (q v) : (s.setQuad q v).lasting = s.lasting := by simp [State.setQuad]
@[simp] theorem State.updQuad_lasting (q f) : (s.updQuad q f).lasting = s.lasting := by simp [State.updQuad]
@[simp] theorem State.setLane_lasting (l v) : (s.setLane l v).lasting = s.lasting := by simp [State.setLane]
@[simp] theorem State.updLane_lasting (l f) : (s.updLane l f).lasting = s.lasting := by simp [State.updLane]
@[simp] theorem State.setBridge_lasting (b v) : (s.setBridge b v).lasting = s.lasting := by simp [State.setBridge]
@[simp] theorem State.updBridge_lasting (b f) : (s.updBridge b f).lasting = s.lasting := by simp [State.updBridge]
@[simp] theorem State.setEngine_lasting (e v) : (s.setEngine e v).lasting = s.lasting := by simp [State.setEngine]
@[simp] theorem State.updEngine_lasting (e f) : (s.updEngine e f).lasting = s.lasting := by simp [State.updEngine]
@[simp] theorem State.setSess_lasting (i v) : (s.setSess i v).lasting = s.lasting := by simp [State.setSess]
@[simp] theorem State.updSess_lasting (i f) : (s.updSess i f).lasting = s.lasting := by simp [State.updSess]
@[simp] theorem State.setTrigIn_lasting (i v) : (s.setTrigIn i v).lasting = s.lasting := by simp [State.setTrigIn]
@[simp] theorem State.setTrigOut_lasting (i v) : (s.setTrigOut i v).lasting = s.lasting := by simp [State.setTrigOut]
@[simp] theorem State.setLockUnit_lasting (u v) : (s.setLockUnit u v).lasting = s.lasting := by simp [State.setLockUnit]
@[simp] theorem State.setFaultRec_lasting (u r) : (s.setFaultRec u r).lasting = s.lasting := by simp [State.setFaultRec]
@[simp] theorem State.setHub_lasting (h) : (s.setHub h).lasting = s.lasting := by simp [State.setHub]
@[simp] theorem State.setDatum_lasting (d) : (s.setDatum d).lasting = s.lasting := by simp [State.setDatum]
@[simp] theorem State.setLog_lasting (l) : (s.setLog l).lasting = s.lasting := by simp [State.setLog]
@[simp] theorem State.setNet_lasting (n) : (s.setNet n).lasting = s.lasting := by simp [State.setNet]
@[simp] theorem State.setBoot_lasting (b) : (s.setBoot b).lasting = s.lasting := by simp [State.setBoot]
@[simp] theorem State.setThermal_lasting (t) : (s.setThermal t).lasting = s.lasting := by simp [State.setThermal]
@[simp] theorem State.setSent_lasting (t) : (s.setSent t).lasting = s.lasting := by simp [State.setSent]
@[simp] theorem State.fresh_lasting (w) : (s.fresh w).2.lasting = s.lasting := by simp [State.fresh]
@[simp] theorem State.setMsixWord_lasting (f q v) : (s.setMsixWord f q v).lasting = s.lasting := by simp [State.setMsixWord]
@[simp] theorem State.setMsixPending_lasting (f v) : (s.setMsixPending f v).lasting = s.lasting := by simp [State.setMsixPending]
@[simp] theorem State.irq_lasting (f v) : (s.irq f v).lasting = s.lasting := by simp [State.irq]
@[simp] theorem State.logRaw_lasting (kind flags stamp epoch payload) : (s.logRaw kind flags stamp epoch payload).lasting = s.lasting :=
    by simp [State.logRaw]
@[simp] theorem State.logHub_lasting (kind flags payload) : (s.logHub kind flags payload).lasting = s.lasting := by simp [State.logHub]
@[simp] theorem State.logCtl_lasting (kind payload) : (s.logCtl kind payload).lasting = s.lasting := by simp [State.logCtl]
@[simp] theorem State.setEntries_lasting (l) : (s.setEntries l).lasting = s.lasting := by
  unfold State.setEntries; dsimp only; simp
@[simp] theorem State.finishParked_lasting (f) : (s.finishParked f).lasting = s.lasting := rfl
@[simp] theorem State.queueCtrl_lasting (l m) : (s.queueCtrl l m).lasting = s.lasting := by simp [State.queueCtrl]
@[simp] theorem State.sendStop_lasting (g faultStop cycle except) : (s.sendStop g faultStop cycle except).lasting = s.lasting :=
    by simp [State.sendStop]
@[simp] theorem State.sendFaultStop_lasting (g) : (s.sendFaultStop g).lasting = s.lasting := by simp [State.sendFaultStop]
@[simp] theorem State.releasePause_lasting (g) : (s.releasePause g).lasting = s.lasting := by simp [State.releasePause]
@[simp] theorem State.haltBegin_lasting (g code) : (s.haltBegin g code).lasting = s.lasting := by simp [State.haltBegin]
@[simp] theorem State.alertOut_lasting (was) : (s.alertOut was).lasting = s.lasting := by simp [State.alertOut]
@[simp] theorem State.raise_lasting (e extra) : (s.raise e extra).lasting = s.lasting := (raise_faulting s e extra).lasting
@[simp] theorem State.beginEpisode_lasting (e) : (s.beginEpisode e).lasting = s.lasting := by simp [State.beginEpisode]
@[simp] theorem State.endEpisode_lasting (u code) : (s.endEpisode u code).lasting = s.lasting := by simp [State.endEpisode]
@[simp] theorem State.clearRec_lasting (u) : (s.clearRec u).lasting = s.lasting := by simp [State.clearRec]
@[simp] theorem State.clearRecs_lasting (us) : (s.clearRecs us).lasting = s.lasting := by simp [State.clearRecs]
@[simp] theorem State.noteCommit_lasting (block i status) : (s.noteCommit block i status).lasting = s.lasting := by
  unfold State.noteCommit; dsimp only; split <;> simp
@[simp] theorem State.endS5_lasting (starts) : (s.endS5 starts).lasting = s.lasting := by simp [State.endS5]

-- Operands

@[simp] theorem State.setValue_lasting (bp e v) : (s.setValue bp e v).lasting = s.lasting := by simp [State.setValue]
@[simp] theorem State.setCur_lasting (bp j v) : (s.setCur bp j v).lasting = s.lasting := by simp [State.setCur]
@[simp] theorem State.setSlot_lasting (c r v) : (s.setSlot c r v).lasting = s.lasting := by simp [State.setSlot]
@[simp] theorem State.eccClean_lasting (store word) : (s.eccClean store word).lasting = s.lasting := by simp [State.eccClean]
@[simp] theorem State.eccMerge_lasting (store word) : (s.eccMerge store word).lasting = s.lasting := by simp [State.eccMerge]

-- Group

@[simp] theorem State.raiseAll_lasting (evs) : (s.raiseAll evs).lasting = s.lasting := by simp [State.raiseAll]
@[simp] theorem State.stopDue_lasting (g cause n) : (s.stopDue g cause n).lasting = s.lasting := by simp [State.stopDue]
@[simp] theorem State.endDown_lasting (q) : (s.endDown q).lasting = s.lasting := by simp [State.endDown]
@[simp] theorem State.insetCount_lasting (b k n) : (s.insetCount b k n).lasting = s.lasting := by simp [State.insetCount]
@[simp] theorem State.countHeavy_lasting (p w) : (s.countHeavy p w).lasting = s.lasting := by simp [State.countHeavy]
@[simp] theorem State.countConflict_lasting (p m) : (s.countConflict p m).lasting = s.lasting := by simp [State.countConflict]
@[simp] theorem State.sign_lasting (c bytes) : (s.sign c bytes).lasting = s.lasting := by simp [State.sign]

-- BP

@[simp] theorem eccWrite_lasting (store bp entry step cycle) : (eccWrite s store bp entry step cycle).1.lasting = s.lasting := by
  simp [eccWrite, apply_ite Prod.fst]
@[simp] theorem bpApply_lasting (g bp step cycle o) : (bpApply s g bp step cycle o).1.lasting = s.lasting :=
  (bpApply_executing s g bp step cycle o).lasting
@[simp] theorem oneIns_lasting (bp i) : (oneIns s bp i).lasting = s.lasting := (oneIns_executing s bp i).lasting

-- Port

@[simp] theorem State.bankStore_lasting (c w d) : (s.bankStore c w d).lasting = s.lasting := by simp [State.bankStore]
@[simp] theorem State.bankRead_lasting (c w access master cycle) : (s.bankRead c w access master cycle).2.1.lasting = s.lasting := by
  simp [State.bankRead, apply_ite Prod.fst, apply_ite Prod.snd]
@[simp] theorem State.addLanding_lasting (c l) : (s.addLanding c l).lasting = s.lasting := by simp [State.addLanding]
@[simp] theorem bankCheck_lasting (c cycle k) : (bankCheck c cycle s k).1.lasting = s.lasting := by
  simp [bankCheck, apply_ite Prod.fst]
@[simp] theorem checkBanks_lasting (c cycle) : (checkBanks s c cycle).1.lasting = s.lasting := by
  simp [checkBanks, apply_ite Prod.fst]
@[simp] theorem State.abandonAtomic_lasting (c slot w) : (s.abandonAtomic c slot w).lasting = s.lasting := by
  unfold State.abandonAtomic; split <;> simp
@[simp] theorem landCluster_lasting (c step cycle) : (landCluster s c step cycle).lasting = s.lasting := by simp [landCluster]
theorem bankSlotRead_lasting (c slot a f n) : (bankSlotRead s c slot a f n).s.lasting = s.lasting := by
  unfold bankSlotRead; dsimp only; split <;> simp
theorem bankSlotWrite_lasting (c slot a e d) : (bankSlotWrite s c slot a e d).s.lasting = s.lasting := by
  unfold bankSlotWrite; split <;> simp
@[simp] theorem bankSlot_lasting (p c slot op ad f n) : (bankSlot s p c slot op ad f n).s.lasting = s.lasting := by
  unfold bankSlot; split <;> simp [bankSlotRead_lasting, bankSlotWrite_lasting]
@[simp] theorem hbmOp_lasting (p c op ad n y) : (hbmOp s p c op ad n y).s.lasting = s.lasting := by
  simp [hbmOp, apply_ite PortOut.s]
@[simp] theorem insetOp_lasting (p c op b n y) : (insetOp s p c op b n y).s.lasting = s.lasting := by
  unfold insetOp; dsimp only; split <;> simp [apply_ite PortOut.s]
@[simp] theorem ship_lasting (p c n y) : (ship s p c n y).s.lasting = s.lasting := by
  unfold ship; dsimp only; split <;> simp [apply_ite PortOut.s]
@[simp] theorem PortOut.andThen_lasting (o : PortOut) {f : State → PortOut} (h : ∀ t, (f t).s.lasting = t.lasting) :
    (o.andThen f).s.lasting = o.s.lasting := h o.s
@[simp] theorem portStep_lasting (p c n y w) : (portStep s p c n y w).s.lasting = s.lasting := by
  simp [portStep, apply_ite PortOut.s]

-- Wiring

@[simp] theorem State.fencePass_lasting (f u d leg) : (s.fencePass f u d leg).2.lasting = s.lasting := by
  unfold State.fencePass; dsimp only; (repeat' split) <;> simp
@[simp] theorem State.moveFlight_lasting (clash f) : (s.moveFlight clash f).2.lasting = s.lasting := by
  unfold State.moveFlight; split <;> simp
@[simp] theorem State.moveFlights_lasting (clash l) : (s.moveFlights clash l).2.lasting = s.lasting := by
  induction l generalizing s with
  | nil => rfl
  | cons f l ih => exact (ih _).trans (moveFlight_lasting s clash f)
@[simp] theorem State.moveAll_lasting (gs) : (s.moveAll gs).1.lasting = s.lasting := by
  simp [State.moveAll, apply_ite Prod.fst]
@[simp] theorem State.openArrivals_lasting : (s.openArrivals).lasting = s.lasting := by simp [State.openArrivals]
@[simp] theorem arrive_lasting (c r v tag step cycle) : (arrive s c r v tag step cycle).1.lasting = s.lasting := by simp [arrive]
@[simp] theorem deliver_lasting (g step cycle f) : (deliver s g step cycle f).1.lasting = s.lasting := by
  unfold deliver; dsimp only; split <;> simp
@[simp] theorem State.arriveGroup_lasting (g step cycle due) : (s.arriveGroup g step cycle due).1.lasting = s.lasting := by
  simp [State.arriveGroup, apply_ite Prod.fst]
@[simp] theorem State.arriveAll_lasting (gs) : (s.arriveAll gs).1.lasting = s.lasting := by simp [State.arriveAll]
@[simp] theorem writeCargo_lasting (d w step cycle) : (writeCargo s d w step cycle).1.lasting = s.lasting :=
  foldFaults_lasting (fun t _ => arrive_lasting t ..) s
@[simp] theorem deliverCargo_lasting (g q k) : (deliverCargo s g q k).1.lasting = s.lasting := by
  unfold deliverCargo; dsimp only; split <;> simp
@[simp] theorem State.retireCargo_lasting (g) : (s.retireCargo g).lasting = s.lasting := by simp [State.retireCargo]
@[simp] theorem shipCargo_lasting (g q k step) : (shipCargo s g q k step).lasting = s.lasting := by
  unfold shipCargo; dsimp only; split <;> simp
@[simp] theorem closeFrame_lasting (g step) : (closeFrame s g step).lasting = s.lasting := by simp [closeFrame]
@[simp] theorem shipSends_lasting (g step c) : (shipSends g step c s).lasting = s.lasting := by simp [shipSends]
@[simp] theorem State.fetchStores_lasting (g p cycle sel) : (s.fetchStores g p cycle sel).1.lasting = s.lasting := by simp [State.fetchStores]
@[simp] theorem State.fetchNext_lasting (g p cycle) : (s.fetchNext g p cycle).lasting = s.lasting := by simp [State.fetchNext]
@[simp] theorem State.inNextOpp_lasting (g) {f : State → State} (h : ∀ t, (f t).lasting = t.lasting) : (s.inNextOpp g f).lasting = s.lasting :=
  (h { s with opp := s.nextOpp g }).trans rfl

-- Hold

@[simp] theorem State.moveOpp_lasting (o) : (s.moveOpp o).lasting = s.lasting := by simp [State.moveOpp]

-- Buf

@[simp] theorem bufPut_lasting (p off bytes) : (bufPut s p off bytes).lasting = s.lasting := by simp [bufPut]
@[simp] theorem bufPutNat_lasting (p off n v) : (bufPutNat s p off n v).lasting = s.lasting := by simp [bufPutNat]

-- Cmd

@[simp] theorem fail_lasting (status detail) : (fail s status detail).state.lasting = s.lasting := by simp [fail]
@[simp] theorem done_lasting (results) : (done s results).state.lasting = s.lasting := by simp [done]
@[simp] theorem State.signal_lasting (i) : (s.signal i).lasting = s.lasting := by simp [State.signal]
@[simp] theorem State.sessionError_lasting (i cause) : (s.sessionError i cause).lasting = s.lasting := (sessionError_replying s i cause).lasting
@[simp] theorem State.settle_lasting : s.settle.lasting = s.lasting := (settle_replying s).lasting
@[simp] theorem conclude_lasting (op p) (a : Ans) : (conclude op p a).lasting = a.state.lasting := by
  have h := (conclude_replying op p a).lasting
  cases a <;> exact h
@[simp] theorem State.unclaimed_lasting (x) : (s.unclaimed x).lasting = s.lasting := by
  unfold State.unclaimed; dsimp only; split <;> simp
@[simp] theorem State.resumed_lasting (opcode p) : (s.resumed opcode p).lasting = s.lasting := by
  unfold State.resumed; split <;> simp
/-- A host command keeps the lasting part where its own answer does. -/
@[simp] theorem command_lasting (op p bad zero) {own : Ans} (h : own.state.lasting = s.lasting) :
    (command op p s bad zero own).lasting = s.lasting := by
  rcases command_cases op p s bad zero own with e | ⟨hub, e⟩ | ⟨st, d, e⟩ | e <;> rw [e]
  · rfl
  · exact conclude_lasting op p (fail s st d)
  · exact (conclude_lasting op p own).trans h
@[simp] theorem checks_lasting (l) {ok : Ans} (h : ok.state.lasting = s.lasting) : (checks s l ok).state.lasting = s.lasting := by
  unfold checks; split
  · rfl
  · exact h
@[simp] theorem State.endTrain_lasting : (s.endTrain).lasting = s.lasting := by
  unfold State.endTrain; dsimp only; simp

-- Clock

@[simp] theorem State.shiftTimes_lasting (d) : (s.shiftTimes d).lasting = s.lasting := by
  unfold State.shiftTimes; dsimp only; simp
@[simp] theorem State.datumStepped_lasting (off first) : (s.datumStepped off first).lasting = s.lasting := by simp [State.datumStepped]
@[simp] theorem datumEdge_lasting : (datumEdge s).lasting = s.lasting := by simp [datumEdge]
@[simp] theorem State.askDatum_lasting (addend offset tag first) : (s.askDatum addend offset tag first).lasting = s.lasting := by
  unfold State.askDatum; dsimp only; split <;> simp

-- Domain

@[simp] theorem State.countWake_lasting : (s.countWake).lasting = s.lasting := by simp [State.countWake]
@[simp] theorem State.startWake_lasting (d packet) : (s.startWake d packet).lasting = s.lasting := by
  unfold State.startWake; dsimp only; split <;> simp
@[simp] theorem State.tellPower_lasting (d sleeps completed) : (s.tellPower d sleeps completed).lasting = s.lasting := by
  unfold State.tellPower; dsimp only; simp
@[simp] theorem State.leaveDown_lasting (d) : (s.leaveDown d).lasting = s.lasting := by simp [State.leaveDown]
@[simp] theorem State.cancelDown_lasting (d) : (s.cancelDown d).lasting = s.lasting := by simp [State.cancelDown]
@[simp] theorem State.callDomain_lasting (d k) : (s.callDomain d k).lasting = s.lasting := by simp [State.callDomain]
@[simp] theorem State.calls_lasting (d) {f : State → State} (h : ∀ t, (f t).lasting = t.lasting) : (s.calls d f).lasting = s.lasting := by
  simp [State.calls, h]
@[simp] theorem State.tellReady_lasting (d) : (s.tellReady d).lasting = s.lasting := by
  unfold State.tellReady; dsimp only; simp
@[simp] theorem State.noteDrain_lasting (router drain) : (s.noteDrain router drain).lasting = s.lasting := by simp [State.noteDrain]
@[simp] theorem State.tellDrained_lasting (router) : (s.tellDrained router).lasting = s.lasting := by
  unfold State.tellDrained; dsimp only; simp

-- Hbm

@[simp] theorem awaken_lasting (ds) {ok : State → Ans} (h : ∀ t, (ok t).state.lasting = t.lasting) :
    (awaken s ds ok).state.lasting = s.lasting := by
  simp [awaken, h]
@[simp] theorem drained_lasting (op p rs) {ok : State → Ans} (h : ∀ t, (ok t).state.lasting = t.lasting) :
    (drained op p s rs ok).state.lasting = s.lasting := by
  simp [drained, h]
@[simp] theorem State.zeroUnits_lasting (stack base units) : (s.zeroUnits stack base units).lasting = s.lasting := by simp [State.zeroUnits]
@[simp] theorem State.hbmStore_lasting (k w d) : (s.hbmStore k w d).lasting = s.lasting := by simp [State.hbmStore]
@[simp] theorem State.hbmRead_lasting (k w unit access master cycle) : (s.hbmRead k w unit access master cycle).2.lasting = s.lasting := by
  simp [State.hbmRead, apply_ite Prod.snd]
@[simp] theorem State.hbmScan_lasting (k w n unit access master cycle) : (s.hbmScan k w n unit access master cycle).2.lasting = s.lasting :=
    by simp [State.hbmScan]

-- Inset

@[simp] theorem State.relink_lasting (b) : (s.relink b).lasting = s.lasting := by
  unfold State.relink; dsimp only; (repeat' split) <;> simp
@[simp] theorem State.cleanFrame_lasting (b base units place n) : (s.cleanFrame b base units place n).lasting = s.lasting :=
    by simp [State.cleanFrame]
@[simp] theorem State.readFrame_lasting (b base units f) : (s.readFrame b base units f).2.lasting = s.lasting := by
  simp [State.readFrame, apply_ite Prod.snd]
@[simp] theorem State.overBegin_lasting (b tx) : (s.overBegin b tx).lasting = s.lasting := by simp [State.overBegin]
@[simp] theorem State.overEnd_lasting (b tx) : (s.overEnd b tx).lasting = s.lasting := by simp [State.overEnd]
@[simp] theorem State.sendFlow_lasting (b quanta) : (s.sendFlow b quanta).lasting = s.lasting := by simp [State.sendFlow]
@[simp] theorem State.watchRx_lasting (b) : (s.watchRx b).lasting = s.lasting := by simp [State.watchRx]
@[simp] theorem State.watchTx_lasting (b) : (s.watchTx b).lasting = s.lasting := by simp [State.watchTx]
@[simp] theorem arriveFrame_lasting (b length) : (arriveFrame s b length).lasting = s.lasting := by simp [arriveFrame]
@[simp] theorem receiveFrame_lasting (b f) : (receiveFrame s b f).lasting = s.lasting := by
  unfold receiveFrame; dsimp only; split <;> simp
@[simp] theorem takeFlow_lasting (b pfc mask quanta) : (takeFlow s b pfc mask quanta).lasting = s.lasting := by simp [takeFlow]
@[simp] theorem moveFrame_lasting (b) : (moveFrame s b).lasting = s.lasting := by
  unfold moveFrame; dsimp only; split <;> simp
@[simp] theorem completeOut_lasting (b) : (completeOut s b).lasting = s.lasting := by
  unfold completeOut; dsimp only; split <;> simp
@[simp] theorem departFrame_lasting (b) : (departFrame s b).lasting = s.lasting := by
  unfold departFrame; dsimp only; split <;> simp
@[simp] theorem State.insetBind_lasting (b pmd quad) : (s.insetBind b pmd quad).lasting = s.lasting := by simp [State.insetBind]
@[simp] theorem insetConfigOwn_lasting (p) : (insetConfigOwn p s).state.lasting = s.lasting := by simp [insetConfigOwn]
@[simp] theorem insetFlushOwn_lasting (p) : (insetFlushOwn p s).state.lasting = s.lasting := by simp [insetFlushOwn]
@[simp] theorem insetStampsOwn_lasting (p) : (insetStampsOwn p s).state.lasting = s.lasting := by simp [insetStampsOwn]

-- Bank

@[simp] theorem State.syncArb_lasting (c o) : (s.syncArb c o).lasting = s.lasting := by simp [State.syncArb]
@[simp] theorem State.raiseLine_lasting (c f) : (s.raiseLine c f).lasting = s.lasting := by simp [State.raiseLine]
@[simp] theorem advanceBank_lasting (c id data) : (advanceBank s c id data).lasting = s.lasting := by
  unfold advanceBank; dsimp only; (repeat' split) <;> simp
@[simp] theorem finishAtomic_lasting (c id status detail results) : (finishAtomic s c id status detail results).lasting = s.lasting :=
    by simp [finishAtomic]
@[simp] theorem State.dynStore_lasting (c w d) : (s.dynStore c w d).lasting = s.lasting := by simp [State.dynStore]
@[simp] theorem doAccess_lasting (c a) : (doAccess s c a).lasting = s.lasting := by
  unfold doAccess; dsimp only; split <;> simp
@[simp] theorem atomicRead_lasting (c a) : (atomicRead s c a).lasting = s.lasting := by
  unfold atomicRead; dsimp only; split <;> simp
@[simp] theorem atomicWrite_lasting (c w old) : (atomicWrite s c w old).lasting = s.lasting := by
  unfold atomicWrite; dsimp only; split <;> simp
@[simp] theorem transfer_lasting (c m) : (transfer s c m).lasting = s.lasting := by
  unfold transfer; dsimp only; (repeat' split) <;> simp
@[simp] theorem writeBack_lasting (c) : (writeBack s c).lasting = s.lasting := by
  unfold writeBack; split <;> simp
@[simp] theorem freeSlot_lasting (c slot) : (freeSlot s c slot).lasting = s.lasting := by
  unfold freeSlot; dsimp only; (repeat' split) <;> simp
@[simp] theorem dynamicSlot_lasting (c slot) : (dynamicSlot s c slot).lasting = s.lasting := by simp [dynamicSlot]
@[simp] theorem eccWriteback_lasting (c) : (eccWriteback s c).lasting = s.lasting := by
  unfold eccWriteback; split <;> simp
@[simp] theorem State.dropAccess_lasting (c id) : (s.dropAccess c id).lasting = s.lasting := by simp [State.dropAccess]
@[simp] theorem endAccess_lasting (e status detail) : (endAccess s e status detail).lasting = s.lasting := by
  unfold endAccess; dsimp only; split <;> simp
@[simp] theorem grantTimeout_lasting (c m) : (grantTimeout s c m).lasting = s.lasting := by
  unfold grantTimeout; dsimp only; split <;> simp
@[simp] theorem drainStaging_lasting (c) : (drainStaging s c).lasting = s.lasting := by
  unfold drainStaging; dsimp only; split <;> simp
@[simp] theorem applyReq_lasting (c q) : (applyReq s c q).lasting = s.lasting := by
  unfold applyReq; dsimp only; (repeat' split) <;> simp
@[simp] theorem State.countFlits_lasting (fixed ue) : (s.countFlits fixed ue).lasting = s.lasting := by simp [State.countFlits]
@[simp] theorem applyFlit_lasting (c q r) : (applyFlit s c q r).lasting = s.lasting := by
  unfold applyFlit; dsimp only; split <;> simp
@[simp] theorem serveStack_lasting (req) : (serveStack s req).lasting = s.lasting := by
  unfold serveStack; dsimp only; split <;> simp
@[simp] theorem hbmReturn_lasting (r) : (hbmReturn s r).lasting = s.lasting := by
  unfold hbmReturn; dsimp only; split <;> simp
@[simp] theorem landData_lasting (c) : (landData s c).lasting = s.lasting := by
  unfold landData; dsimp only; split <;> simp

-- Unload

@[simp] theorem State.copyPages_lasting (cs qs) : (s.copyPages cs qs).lasting = s.lasting := by simp [State.copyPages]
@[simp] theorem State.clearClusters_lasting (cs) : (s.clearClusters cs).lasting = s.lasting := by simp [State.clearClusters]
@[simp] theorem State.clearSchedules_lasting (qs) : (s.clearSchedules qs).lasting = s.lasting := by simp [State.clearSchedules]
@[simp] theorem State.freeQuad_lasting (q) : (s.freeQuad q).lasting = s.lasting := by simp [State.freeQuad]
@[simp] theorem State.emptyBridge_lasting (b) : (s.emptyBridge b).lasting = s.lasting := by simp [State.emptyBridge]
@[simp] theorem State.freeBridge_lasting (b) : (s.freeBridge b).lasting = s.lasting := by simp [State.freeBridge]
@[simp] theorem State.freeEngine_lasting (e) : (s.freeEngine e).lasting = s.lasting := by simp [State.freeEngine]
@[simp] theorem State.freeImage_lasting (i) : (s.freeImage i).lasting = s.lasting := by
  unfold State.freeImage
  extract_lets s₁ quads s₂
  have h : s₁.lasting = s.lasting := forEach_lasting (fun k t => by split <;> simp) s
  simp [s₂, h]
@[simp] theorem State.setPin_lasting (k new) : (s.setPin k new).lasting = s.lasting := by simp [State.setPin]
@[simp] theorem State.lowerPins_lasting (ps) : (s.lowerPins ps).lasting = s.lasting := by simp [State.lowerPins]
@[simp] theorem State.zeroBanks_lasting (cs) : (s.zeroBanks cs).lasting = s.lasting := by simp [State.zeroBanks]
@[simp] theorem State.unloadImage_lasting (g i) : (s.unloadImage g i).lasting = s.lasting := by simp [State.unloadImage]
@[simp] theorem State.unloadGroup_lasting (g) : (s.unloadGroup g).lasting = s.lasting := by simp [State.unloadGroup]
@[simp] theorem State.noteLoad_lasting (ps status detail) : (s.noteLoad ps status detail).lasting = s.lasting := by simp [State.noteLoad]
@[simp] theorem State.dropWriting_lasting : (s.dropWriting).lasting = s.lasting := by simp [State.dropWriting]
@[simp] theorem State.endClaim_lasting (c) : (s.endClaim c).lasting = s.lasting := by simp [State.endClaim]
@[simp] theorem State.finishEntry_lasting (e status detail results) : (s.finishEntry e status detail results).lasting = s.lasting :=
    by simp [State.finishEntry]
@[simp] theorem stopWork_lasting (e c status) : (stopWork s e c status).1.lasting = s.lasting := by
  unfold stopWork; dsimp only; split <;> simp
@[simp] theorem cancelWork_lasting (e c) : (cancelWork s e c).1.lasting = s.lasting := by simp [cancelWork]
@[simp] theorem State.endWaits_lasting (status detail f) : (s.endWaits status detail f).lasting = s.lasting := by simp [State.endWaits]
@[simp] theorem State.surrenderGroup_lasting (g) : (s.surrenderGroup g).lasting = s.lasting := by simp [State.surrenderGroup]
@[simp] theorem State.dropKeys_lasting (fn) : (s.dropKeys fn).lasting = s.lasting := by simp [State.dropKeys]
@[simp] theorem State.endSurrender_lasting (fn) : (s.endSurrender fn).lasting = s.lasting := by simp [State.endSurrender]
@[simp] theorem State.surrender_lasting (fn) : (s.surrender fn).lasting = s.lasting := by
  unfold State.surrender
  extract_lets s₁ gs
  have h : s₁.lasting = s.lasting := foldl_lasting (fun t e => by split <;> simp) s
  simp [h]

-- Trace

theorem bindEngine_lasting {t} (g fn e i b) (h : bindEngine s g fn e i b = some t) : t.lasting = s.lasting := by
  unfold bindEngine at h
  extract_lets old list s₁ k st at h
  have h₁ : s₁.lasting = s.lasting := by simp [s₁]
  split at h
  · cases h; simp
  · split at h
    · cases h; simpa using h₁
    · split at h
      · split at h <;> cases h
        simpa using h₁
      · cases h
theorem bindAll_lasting {t} (g fn r bs l) (h : bindAll s g fn r bs l = some t) : t.lasting = s.lasting := by
  induction l generalizing s with
  | nil => cases h; rfl
  | cons e l ih =>
    unfold bindAll at h
    split at h
    · cases h
    · split at h
      · cases h
      · next u hu => exact (ih u h).trans (bindEngine_lasting s _ _ _ _ _ hu)
@[simp] theorem State.dropTaps_lasting (ei e) : (s.dropTaps ei e).lasting = s.lasting := by simp [State.dropTaps]
@[simp] theorem State.closeEngine_lasting (ei cycle stamp v partner) : (s.closeEngine ei cycle stamp v partner).lasting = s.lasting := by
  unfold State.closeEngine; dsimp only; split <;> simp
@[simp] theorem State.latchDiv_lasting (g cycle) : (s.latchDiv g cycle).1.lasting = s.lasting := by
  unfold State.latchDiv; dsimp only; (repeat' split) <;> simp
@[simp] theorem State.closeTrace_lasting (g cycle stamp) : (s.closeTrace g cycle stamp).1.lasting = s.lasting := by
  unfold State.closeTrace
  extract_lets d s₁ es vs fires t
  have h : t.lasting = s₁.lasting := foldl_lasting (fun a x => by simp) s₁
  exact h.trans (by simp [s₁, d])
@[simp] theorem State.endTraceCycle_lasting (g cycle) : (s.endTraceCycle g cycle).lasting = s.lasting := by
  unfold State.endTraceCycle; dsimp only; simp
@[simp] theorem State.cleanRecord_lasting (ei e i) : (s.cleanRecord ei e i).lasting = s.lasting := by simp [State.cleanRecord]
@[simp] theorem storeSample_lasting (ei) : (storeSample s ei).lasting = s.lasting := by
  unfold storeSample; dsimp only; (repeat' split) <;> simp
@[simp] theorem drainEvents_lasting (ei) : (drainEvents s ei).lasting = s.lasting := by simp [drainEvents]
@[simp] theorem State.armGroup_lasting (g p) : (s.armGroup g p).lasting = s.lasting := by simp [State.armGroup]
@[simp] theorem State.takeArm_lasting (g first) : (s.takeArm g first).lasting = s.lasting := by
  unfold State.takeArm; dsimp only; split <;> simp
@[simp] theorem traceConfigOwn_lasting (p) : (traceConfigOwn p s).state.lasting = s.lasting := by
  unfold traceConfigOwn
  split
  · rfl
  · extract_lets r
    split
    · rfl
    · split
      · rfl
      · split
        · rfl
        · split
          · rfl
          · next t ht => simp [bindAll_lasting s _ _ _ _ _ ht]
@[simp] theorem traceArmOwn_lasting (p) : (traceArmOwn p s).state.lasting = s.lasting := by
  unfold traceArmOwn; dsimp only; split <;> simp
@[simp] theorem traceForceOwn_lasting (p) : (traceForceOwn p s).state.lasting = s.lasting := by
  unfold traceForceOwn; dsimp only; split <;> simp
@[simp] theorem State.readRecords_lasting (p e ei n) : (s.readRecords p e ei n).1.lasting = s.lasting := by
  refine foldl_fst_lasting (fun a x => ?_) (s, [])
  dsimp only; split <;> simp
@[simp] theorem traceReadOwn_lasting (p) : (traceReadOwn p s).state.lasting = s.lasting := by
  unfold traceReadOwn; dsimp only; (repeat' split) <;> simp
@[simp] theorem traceReleaseOwn_lasting (p) : (traceReleaseOwn p s).state.lasting = s.lasting := by
  unfold traceReleaseOwn; dsimp only; split <;> simp

-- Survey

@[simp] theorem State.writeSurvey_lasting (view g i q) : (s.writeSurvey view g i q).lasting = s.lasting := by
  unfold State.writeSurvey; extract_lets
  split <;> exact lasting_mk
@[simp] theorem readMark_lasting (i hbm cycle a e) : (readMark i hbm cycle a e).1.lasting = a.1.lasting := by
  unfold readMark; dsimp only; (repeat' split) <;> simp
@[simp] theorem State.surveyReads_lasting (i hbm cycle) : (s.surveyReads i hbm cycle).1.lasting = s.lasting := by simp [State.surveyReads]
@[simp] theorem State.setSv_lasting (ps v) : (s.setSv ps v).lasting = s.lasting := by simp [State.setSv]
@[simp] theorem State.beginCapture_lasting (g q stamp) : (s.beginCapture g q stamp).lasting = s.lasting := by simp [State.beginCapture]
@[simp] theorem captureOne_lasting (g q) : (captureOne g s q).lasting = s.lasting := by
  unfold captureOne
  extract_lets r
  split
  · rfl
  · extract_lets len a s₁ s₂ s₃
    have h₁ : s₁.lasting = s.lasting := by simp [s₁, a]
    simp [s₂, s₃, h₁]
@[simp] theorem surveyCapture_lasting (g) : (surveyCapture s g).lasting = s.lasting := by simp [surveyCapture]
@[simp] theorem surveyOwn_lasting (p) : (surveyOwn p s).state.lasting = s.lasting := by
  unfold surveyOwn; dsimp only; (repeat' split) <;> simp
@[simp] theorem restoreCluster_lasting (m base c n) : (restoreCluster s m base c n).lasting = s.lasting := by
  unfold restoreCluster; extract_lets; exact lasting_mk
@[simp] theorem putFrame_lasting (m b err len words o) : (putFrame s m b err len words o).lasting = s.lasting := by simp [putFrame]
@[simp] theorem restoreHbm_lasting (m l o) : (restoreHbm m l o s).lasting = s.lasting := by
  induction l generalizing o s with
  | nil => rfl
  | cons a l ih => simp [restoreHbm, ih]
@[simp] theorem State.replace_lasting (g cs) : (s.replace g cs).lasting = s.lasting := by simp [State.replace]
@[simp] theorem restoreWrite_lasting (g i m items cycle) : (restoreWrite s g i m items cycle).lasting = s.lasting := by
  unfold restoreWrite
  extract_lets r s₁ s₂ s₃ s₄ s₅ s₆ s₇ s₈ s₉ s₁₀
  have h₁ : s₁.lasting = s.lasting :=
    forEach_lasting (fun v t => forEach_lasting (fun k u => forEach_lasting (fun d w => restoreCluster_lasting w ..) u) t) s
  have h₂ : s₂.lasting = s₁.lasting := lasting_mk
  have h₃ : s₃.lasting = s₂.lasting := by simp [s₃]
  have h₄ : s₄.lasting = s₃.lasting := by simp [s₄]
  have h₅ : s₅.lasting = s₄.lasting := by simp [s₅]
  have h₆ : s₆.lasting = s₅.lasting := foldl_lasting (fun t c => by split <;> simp) s₅
  have h₇ : s₇.lasting = s₆.lasting := by simp [s₇]
  have h₈ : s₈.lasting = s₇.lasting := foldl_lasting (fun t f => by split <;> simp) s₇
  have h₉ : s₉.lasting = s₈.lasting := by simp [s₉]
  have h₁₀ : s₁₀.lasting = s₉.lasting := by simp [s₁₀]
  simp only [State.replace_lasting, State.updGroup_lasting, lasting_ite, State.fetchNext_lasting, ite_self, *]
@[simp] theorem restoreSpoil_lasting (g i items) : (restoreSpoil s g i items).lasting = s.lasting := by
  unfold restoreSpoil
  extract_lets cs s₁ f m s₂ s₃ s₄ s₅ s₆ s₇
  have h₁ : s₁.lasting = s.lasting := lasting_mk
  have hf : f.2.lasting = s₁.lasting := by simp [f]
  have h₂ : s₂.lasting = f.2.lasting := by simp [s₂]
  have h₃ : s₃.lasting = s₁.lasting := by simp [s₃, h₂, hf]
  have h₄ : s₄.lasting = s₃.lasting := by simp [s₄]
  have h₅ : s₅.lasting = s₄.lasting := by simp [s₅]
  have h₆ : s₆.lasting = s₅.lasting := by simp [s₆]
  have h₇ : s₇.lasting = s₆.lasting := by simp [s₇]
  simp only [State.replace_lasting, State.updGroup_lasting, *]
@[simp] theorem surveyRestoreOwn_lasting (p) : (surveyRestoreOwn p s).state.lasting = s.lasting := by
  unfold surveyRestoreOwn
  split
  · rfl
  · dsimp only; split
    · rfl
    · refine awaken_lasting s _ fun t => ?_
      split <;> simp

-- Run

@[simp] theorem State.bumpUnits_lasting (us orphan) : (s.bumpUnits us orphan).lasting = s.lasting := by simp [State.bumpUnits]
@[simp] theorem State.freeLocks_lasting (orphan f) : (s.freeLocks orphan f).lasting = s.lasting := by simp [State.freeLocks]
@[simp] theorem State.swapPages_lasting (g n left) : (s.swapPages g n left).lasting = s.lasting := by simp [State.swapPages]
@[simp] theorem State.commitDue_lasting (g n due) : (s.commitDue g n due).lasting = s.lasting := by
  unfold State.commitDue; dsimp only; simp
@[simp] theorem State.boundaryCommits_lasting (g n) : (s.boundaryCommits g n).lasting = s.lasting := by
  unfold State.boundaryCommits; dsimp only; split <;> simp
@[simp] theorem tableCopyDone_lasting (g) : (tableCopyDone s g).lasting = s.lasting := by
  unfold tableCopyDone; dsimp only; split <;> simp
@[simp] theorem commitEntry_lasting (step cycle a key) : (commitEntry step cycle a key).1.lasting = a.1.lasting := by simp [commitEntry]
@[simp] theorem State.commitState_lasting (g step cycle) : (s.commitState g step cycle).1.lasting = s.lasting := by simp [State.commitState]
@[simp] theorem State.closeSigs_lasting (g) : (s.closeSigs g).lasting = s.lasting := by simp [State.closeSigs]
@[simp] theorem State.boundaryTrace_lasting (g n) : (s.boundaryTrace g n).lasting = s.lasting := by
  unfold State.boundaryTrace; dsimp only; (repeat' split) <;> simp
@[simp] theorem State.endRun_lasting (g n) : (s.endRun g n).lasting = s.lasting := by
  unfold State.endRun; dsimp only; split <;> simp
@[simp] theorem State.haltGroup_lasting (g code n) : (s.haltGroup g code n).lasting = s.lasting := by
  unfold State.haltGroup; dsimp only; simp
@[simp] theorem State.wipeSheets_lasting : (s.wipeSheets).lasting = s.lasting := by simp [State.wipeSheets]
@[simp] theorem State.holdSheets_lasting (code) : (s.holdSheets code).lasting = s.lasting := by simp [State.holdSheets]
@[simp] theorem State.tripHold_lasting : (s.tripHold).lasting = s.lasting := by simp [State.tripHold]
@[simp] theorem State.boundaryStop_lasting (g n) : (s.boundaryStop g n).lasting = s.lasting := by
  unfold State.boundaryStop; dsimp only; (repeat' split) <;> simp
@[simp] theorem State.boundarySurvey_lasting (g n) : (s.boundarySurvey g n).lasting = s.lasting := by simp [State.boundarySurvey]
@[simp] theorem boundary_lasting (g) : (boundary s g).lasting = s.lasting := by simp [boundary]
@[simp] theorem State.closeWindow_lasting (g p step) : (s.closeWindow g p step).1.lasting = s.lasting := by simp [State.closeWindow]
@[simp] theorem runCluster_lasting (pre g step cycle c) : (runCluster pre g step cycle s c).1.lasting = s.lasting := by
  unfold runCluster
  generalize clusterOuts pre g c step cycle = o
  simp
@[simp] theorem State.arbitrateStep_lasting (c) : (s.arbitrateStep c).lasting = s.lasting := by simp [State.arbitrateStep]
@[simp] theorem State.retagEdges_lasting (g cycle) : (s.retagEdges g cycle).lasting = s.lasting := by simp [State.retagEdges]
@[simp] theorem State.openCycle_lasting (g o) : (s.openCycle g o).lasting = s.lasting := by simp [State.openCycle]
@[simp] theorem runStep_lasting (g o) : (runStep s g o).lasting = s.lasting := by
  unfold runStep
  extract_lets s₁ s₂ r p n cs qs slots hs m₀ m k s₃ a d pre ports b s₄ s₅ s₆ s₇ s₈ w s₉ s₁₀ s₁₁ s₁₂ s₁₃
  have h₁ : s₁.lasting = s.lasting := by simp [s₁]
  have h₂ : s₂.lasting = s₁.lasting := by simp [s₂]
  have hm : m.1.lasting = s₂.lasting := by simp [m, m₀]
  have hk : k.1.lasting = m.1.lasting := by simp [k]
  have h₃ : s₃.lasting = k.1.lasting := by simp [s₃]
  have ha : a.1.lasting = s₃.lasting := by simp [a]
  have hd : pre.lasting = a.1.lasting := by simp [pre, d]
  have hp : ports.1.lasting = pre.lasting := foldl_fst_lasting (fun acc c => by simp) (pre, [], [])
  have hb : b.1.lasting = ports.1.lasting := by simp [b]
  have h₄ : s₄.lasting = b.1.lasting := by simp [s₄]
  have h₅ : s₅.lasting = s₄.lasting := by simp [s₅]
  have h₆ : s₆.lasting = s₅.lasting := by simp [s₆]
  have h₇ : s₇.lasting = s₆.lasting := by simp [s₇]
  have h₈ : s₈.lasting = s₇.lasting := by simp [s₈]
  have hw : w.1.lasting = s₈.lasting := by simp [w, apply_ite Prod.fst]
  have h₉ : s₉.lasting = w.1.lasting := by simp [s₉]
  have h₁₀ : s₁₀.lasting = s₉.lasting := by simp [s₁₀]
  have h₁₃ : s₁₃.lasting = s₁₀.lasting := by simp [s₁₃, s₁₂, s₁₁]
  simp only [foldl_lasting, State.arbitrateStep_lasting, State.fetchNext_lasting, implies_true, *]
@[simp] theorem stepExecute_lasting (g) : (stepExecute s g).lasting = s.lasting := by
  unfold stepExecute
  extract_lets s₁ r o arr held gated s₂ s₃ s₄ vec s₅
  have h₁ : s₁.lasting = s.lasting := by simp [s₁]
  have h₂ : s₂.lasting = s₁.lasting := by simp [s₂]
  have h₄ : s₄.lasting = s₂.lasting := by simp [s₄, s₃]
  have h₅ : s₅.lasting = s₄.lasting := by simp [s₅]
  simp only [lasting_ite, State.haltGroup_lasting, runStep_lasting, ite_self, *]
@[simp] theorem mirrorCompare_lasting (g) : (mirrorCompare s g).lasting = s.lasting := by
  unfold mirrorCompare; dsimp only; (repeat' split) <;> simp
@[simp] theorem startDue_lasting (g) : (startDue s g).lasting = s.lasting := by
  unfold startDue; dsimp only; split <;> simp
@[simp] theorem pauseDue_lasting (g) : (pauseDue s g).lasting = s.lasting := by
  unfold pauseDue; dsimp only; simp
@[simp] theorem resumeDue_lasting (g) : (resumeDue s g).lasting = s.lasting := by simp [resumeDue]
@[simp] theorem State.pauseEnds_lasting (g) : (s.pauseEnds g).lasting = s.lasting := by simp [State.pauseEnds]
@[simp] theorem State.pauseAfter_lasting (c) : (s.pauseAfter c).lasting = s.lasting := by
  unfold State.pauseAfter; split <;> simp
@[simp] theorem timedDue_lasting (e) : (timedDue s e).lasting = s.lasting := by
  unfold timedDue; dsimp only; (repeat' split) <;> simp

-- RunCmd

@[simp] theorem tableCommitOwn_lasting (p) : (tableCommitOwn p s).state.lasting = s.lasting := by
  unfold tableCommitOwn; dsimp only; split <;> simp
@[simp] theorem keepFetched_lasting (table key e r) : (keepFetched s table key e r).lasting = s.lasting := by simp [keepFetched]
@[simp] theorem pokePages_lasting (p table key) : (pokePages s p table key).lasting = s.lasting := by simp [pokePages]
@[simp] theorem tablePokeOwn_lasting (p) : (tablePokeOwn p s).state.lasting = s.lasting := by
  unfold tablePokeOwn; dsimp only; (repeat' split) <;> simp
@[simp] theorem runAtOwn_lasting (p) : (runAtOwn p s).state.lasting = s.lasting := by
  unfold runAtOwn; dsimp only; split <;> simp
@[simp] theorem State.disarm_lasting (g) : (s.disarm g).lasting = s.lasting := by
  unfold State.disarm; dsimp only; simp
@[simp] theorem State.stopHolds_lasting (g) : (s.stopHolds g).lasting = s.lasting := by simp [State.stopHolds]
@[simp] theorem runStopOwn_lasting (p) : (runStopOwn p s).state.lasting = s.lasting := by
  unfold runStopOwn; dsimp only; split <;> simp
@[simp] theorem pauseAtOwn_lasting (p) : (pauseAtOwn p s).state.lasting = s.lasting := by
  unfold pauseAtOwn; dsimp only; split <;> simp
@[simp] theorem resumeAtOwn_lasting (p) : (resumeAtOwn p s).state.lasting = s.lasting := by
  unfold resumeAtOwn; dsimp only; split <;> simp

-- Datum

@[simp] theorem datumRoleOwn_lasting (p) : (datumRoleOwn p s).state.lasting = s.lasting := by simp [datumRoleOwn]
@[simp] theorem datumAdjustOwn_lasting (p) : (datumAdjustOwn p s).state.lasting = s.lasting := by simp [datumAdjustOwn]
@[simp] theorem datumOriginOwn_lasting (p) : (datumOriginOwn p s).state.lasting = s.lasting := by simp [datumOriginOwn]
@[simp] theorem datumLinkCalOwn_lasting (p) : (datumLinkCalOwn p s).state.lasting = s.lasting := by simp [datumLinkCalOwn]
@[simp] theorem State.dropPulse_lasting (k) : (s.dropPulse k).lasting = s.lasting := by simp [State.dropPulse]
@[simp] theorem State.unbindPin_lasting (out k) : (s.unbindPin out k).lasting = s.lasting := by simp [State.unbindPin]
@[simp] theorem trigBindOwn_lasting (p) : (trigBindOwn p s).state.lasting = s.lasting := by
  unfold trigBindOwn; dsimp only; (repeat' split) <;> simp
@[simp] theorem trigPulseOwn_lasting (p) : (trigPulseOwn p s).state.lasting = s.lasting := by
  unfold trigPulseOwn; dsimp only; split <;> simp
@[simp] theorem trigOutEdge_lasting (k) : (trigOutEdge s k).lasting = s.lasting := by
  unfold trigOutEdge; dsimp only; (repeat' split) <;> simp
@[simp] theorem ppsOutEdge_lasting : (ppsOutEdge s).lasting = s.lasting := by simp [ppsOutEdge]
@[simp] theorem State.servoStep_lasting (off first) : (s.servoStep off first).lasting = s.lasting := by simp [State.servoStep]
@[simp] theorem State.servoSlew_lasting (th) : (s.servoSlew th).lasting = s.lasting := by simp [State.servoSlew]
@[simp] theorem State.unlock_lasting (lock) : (s.unlock lock).lasting = s.lasting := by simp [State.unlock]
@[simp] theorem ppsInEdge_lasting (t) : (ppsInEdge s t).lasting = s.lasting := by simp [ppsInEdge]
@[simp] theorem State.feedEdge_lasting (k falling t ei) : (s.feedEdge k falling t ei).lasting = s.lasting := by
  unfold State.feedEdge; dsimp only; split <;> simp
@[simp] theorem trigInEdge_lasting (k falling t) : (trigInEdge s k falling t).lasting = s.lasting := by
  unfold trigInEdge; dsimp only; split <;> simp

-- Packets

@[simp] theorem State.answerTo_lasting (k type data ue) : (s.answerTo k type data ue).lasting = s.lasting := by simp [State.answerTo]
@[simp] theorem State.refuse_lasting (k) : (s.refuse k).lasting = s.lasting := by simp [State.refuse]
@[simp] theorem State.takeTag_lasting (k) : (s.takeTag k).lasting = s.lasting := by simp [State.takeTag]
@[simp] theorem State.failDependent_lasting (k status detail) : (s.failDependent k status detail).lasting = s.lasting := by
  unfold State.failDependent; dsimp only; (repeat' split) <;> simp
@[simp] theorem readHbm_lasting (k n) : (readHbm s k n).lasting = s.lasting := by
  unfold readHbm
  split
  · simp
  · rw [State.answerTo_lasting]
    refine foldl_fst_lasting (fun a w => ?_) (s, 0)
    dsimp only; split <;> simp
@[simp] theorem writeHbm_lasting (k stack) : (writeHbm s k stack).lasting = s.lasting := by simp [writeHbm]
@[simp] theorem sendRemote_lasting (k q) : (sendRemote s k q).lasting = s.lasting := by
  unfold sendRemote; dsimp only; split <;> simp
@[simp] theorem State.answerFree_lasting (k) : (s.answerFree k).lasting = s.lasting := by simp [State.answerFree]
@[simp] theorem State.loadCopy_lasting (k) : (s.loadCopy k).lasting = s.lasting := by simp [State.loadCopy]
@[simp] theorem State.markBank_lasting (parcel n) : (s.markBank parcel n).lasting = s.lasting := by simp [State.markBank]
@[simp] theorem deliverPacket_lasting (k node) : (deliverPacket s k node).lasting = s.lasting := by
  unfold deliverPacket; dsimp only; split <;> simp
@[simp] theorem State.deliverHeld_lasting (d) : (s.deliverHeld d).lasting = s.lasting := by
  unfold State.deliverHeld
  exact (foldl_lasting (fun t k => by split <;> simp) _).trans rfl
@[simp] theorem reach_lasting (k node) : (reach s k node).lasting = s.lasting := by
  unfold reach; dsimp only; split <;> simp
@[simp] theorem travel_lasting (k) : (travel s k).lasting = s.lasting := by
  unfold travel; dsimp only; (repeat' split) <;> simp
@[simp] theorem enter_lasting (type k) : (enter s type k).lasting = s.lasting := by
  unfold enter; dsimp only; (repeat' split) <;> simp
@[simp] theorem State.passTag_lasting (tag) : (s.passTag tag).lasting = s.lasting := by
  unfold State.passTag; dsimp only; split <;> simp
@[simp] theorem State.freeTag_lasting (tag f) : (s.freeTag tag f).lasting = s.lasting := by simp [State.freeTag]
@[simp] theorem respond_lasting (type k) : (respond s type k).lasting = s.lasting := by
  unfold respond; dsimp only; (repeat' split) <;> simp
@[simp] theorem tagTimeout_lasting (tag) : (tagTimeout s tag).lasting = s.lasting := by
  unfold tagTimeout; dsimp only; split <;> simp

-- Lane

@[simp] theorem State.laneDown_lasting (l) : (s.laneDown l).lasting = s.lasting := by simp [State.laneDown]
@[simp] theorem State.watchDrift_lasting (l) : (s.watchDrift l).lasting = s.lasting := by simp [State.watchDrift]
@[simp] theorem State.askResend_lasting (l again) : (s.askResend l again).lasting = s.lasting := by
  unfold State.askResend; dsimp only; split <;> simp
@[simp] theorem State.trainDone_lasting (l) : (s.trainDone l).lasting = s.lasting := by simp [State.trainDone]
@[simp] theorem State.failTrain_lasting (l) : (s.failTrain l).lasting = s.lasting := by simp [State.failTrain]
@[simp] theorem State.startReplay_lasting (l) : (s.startReplay l).lasting = s.lasting := by simp [State.startReplay]
@[simp] theorem State.wakeQuad_lasting (q) : (s.wakeQuad q).lasting = s.lasting := by simp [State.wakeQuad]
@[simp] theorem State.trainBody_lasting (l v) : (s.trainBody l v).2.lasting = s.lasting := by
  unfold State.trainBody; dsimp only; simp
@[simp] theorem State.emit_lasting (l v type vc retx stepTag cyc pseq body) :
    (s.emit l v type vc retx stepTag cyc pseq body).lasting = s.lasting := by simp [State.emit]
@[simp] theorem State.sendCtrl_lasting (l ms) : (s.sendCtrl l ms).lasting = s.lasting := by simp [State.sendCtrl]
@[simp] theorem sendPattern_lasting (l) : (sendPattern s l).lasting = s.lasting := by simp [sendPattern]
@[simp] theorem transmit_lasting (l) : (transmit s l).lasting = s.lasting := by
  unfold transmit; dsimp only; (repeat' split) <;> simp
@[simp] theorem laneChecks_lasting (p rights bad) {ok : Ans} (h : ok.state.lasting = s.lasting) :
    (laneChecks p s rights bad ok).state.lasting = s.lasting := checks_lasting s _ h
@[simp] theorem State.laneMode_lasting (l rate fec tx rx) : (s.laneMode l rate fec tx rx).lasting = s.lasting := by simp [State.laneMode]
@[simp] theorem laneConfigOwn_lasting (p) : (laneConfigOwn p s).state.lasting = s.lasting :=
  laneChecks_lasting s _ _ _ (awaken_lasting s _ fun t => by simp)
@[simp] theorem laneTrainOwn_lasting (p) : (laneTrainOwn p s).state.lasting = s.lasting :=
  laneChecks_lasting s _ _ _ (awaken_lasting s _ fun t => by simp)
@[simp] theorem laneIdleOwn_lasting (p) : (laneIdleOwn p s).state.lasting = s.lasting :=
  laneChecks_lasting s _ _ _ (awaken_lasting s _ fun t => by simp)
@[simp] theorem lanePatternOwn_lasting (p) : (lanePatternOwn p s).state.lasting = s.lasting :=
  laneChecks_lasting s _ _ _ (awaken_lasting s _ fun t => by simp)
@[simp] theorem laneInjectOwn_lasting (p) : (laneInjectOwn p s).state.lasting = s.lasting :=
  laneChecks_lasting s _ _ _ (awaken_lasting s _ fun t => by simp)

-- Pair

@[simp] theorem State.pairEntered_lasting (was) : (s.pairEntered was).lasting = s.lasting := by simp [State.pairEntered]
@[simp] theorem pairSetOwn_lasting (p) : (pairSetOwn p s).state.lasting = s.lasting := by simp [pairSetOwn]
@[simp] theorem pairResponseOwn_lasting (p) : (pairResponseOwn p s).state.lasting = s.lasting := by
  unfold pairResponseOwn; dsimp only; split <;> simp
@[simp] theorem pairDivergeClearOwn_lasting (p) : (pairDivergeClearOwn p s).state.lasting = s.lasting := by
  unfold pairDivergeClearOwn; dsimp only; split <;> simp

-- Session

@[simp] theorem State.dropStop_lasting (g c) : (s.dropStop g c).lasting = s.lasting := by simp [State.dropStop]
@[simp] theorem cancelParked_lasting (e w) : (cancelParked s e w).1.lasting = s.lasting := by
  unfold cancelParked; dsimp only; (repeat' split) <;> simp
@[simp] theorem cancelEntry_lasting (e) : (cancelEntry s e).1.lasting = s.lasting := by
  unfold cancelEntry; split <;> simp
@[simp] theorem cmdCancelOwn_lasting (p) : (cmdCancelOwn p s).state.lasting = s.lasting := by
  unfold cmdCancelOwn; dsimp only; split <;> simp
@[simp] theorem cmdCancel_lasting (p) : (cmdCancel p s).lasting = s.lasting := by simp [cmdCancel]
@[simp] theorem State.cancelAll_lasting (i) : (s.cancelAll i).lasting = s.lasting := by simp [State.cancelAll]
@[simp] theorem State.resetSession_lasting (i) : (s.resetSession i).lasting = s.lasting := by simp [State.resetSession]
@[simp] theorem sessionResetOwn_lasting (p) : (sessionResetOwn p s).state.lasting = s.lasting := by simp [sessionResetOwn]
@[simp] theorem State.resetFunction_lasting (f) : (s.resetFunction f).lasting = s.lasting := by simp [State.resetFunction]
@[simp] theorem vfEnableChange_lasting (enable n) : (vfEnableChange s enable n).lasting = s.lasting := by simp [vfEnableChange]
@[simp] theorem sqTail_lasting (i value) : (sqTail s i value).lasting = s.lasting := by simp [sqTail]
@[simp] theorem cqHead_lasting (i value) : (cqHead s i value).lasting = s.lasting := by simp [cqHead]
@[simp] theorem State.writeCtl_lasting (i value) : (s.writeCtl i value).lasting = s.lasting := by simp [State.writeCtl]
@[simp] theorem State.unmask_lasting (f) : (s.unmask f).lasting = s.lasting := by simp [State.unmask]
@[simp] theorem writeSess_lasting (i o value) : (writeSess s i o value).lasting = s.lasting := by
  unfold writeSess; dsimp only; split <;> simp
@[simp] theorem bar0Write_lasting (f o size value) : (bar0Write s f o size value).lasting = s.lasting := by simp [bar0Write]
@[simp] theorem fetchFrom_lasting (i n) : (fetchFrom i n s).lasting = s.lasting := by
  induction n generalizing s with
  | zero => rfl
  | succ n ih => simp [fetchFrom, ih]
@[simp] theorem commandFetch_lasting : (commandFetch s).lasting = s.lasting := by
  unfold commandFetch; dsimp only; (repeat' split) <;> simp
@[simp] theorem fillSlot_lasting (w) : (fillSlot w s).lasting = s.lasting := by
  unfold fillSlot; dsimp only; (repeat' split) <;> simp

-- Power

@[simp] theorem State.startDown_lasting (d) : (s.startDown d).lasting = s.lasting := by simp [State.startDown]
@[simp] theorem State.powerOff_lasting (d) : (s.powerOff d).lasting = s.lasting := by
  unfold State.powerOff; dsimp only; split <;> simp
@[simp] theorem State.completeDown_lasting (d) : (s.completeDown d).lasting = s.lasting := by simp [State.completeDown]
@[simp] theorem powerDown_lasting (d early) : (powerDown s d early).lasting = s.lasting := by
  unfold powerDown; dsimp only; split <;> simp
@[simp] theorem enterRefresh_lasting (k) : (enterRefresh s k).lasting = s.lasting := by simp [enterRefresh]
@[simp] theorem State.abandonDown_lasting (d) : (s.abandonDown d).lasting = s.lasting := by simp [State.abandonDown]
@[simp] theorem abandonDrain_lasting (router drain) : (abandonDrain s router drain).lasting = s.lasting := by simp [abandonDrain]
@[simp] theorem reconfigure_lasting (router drain) : (reconfigure s router drain).lasting = s.lasting := by simp [reconfigure]
@[simp] theorem powerSetOwn_lasting (p) : (powerSetOwn p s).state.lasting = s.lasting := by simp [powerSetOwn]

-- Parcel

@[simp] theorem State.assign_lasting (ps fn) : (s.assign ps fn).lasting = s.lasting := by simp [State.assign]
@[simp] theorem parcelAssignOwn_lasting (p) : (parcelAssignOwn p s).state.lasting = s.lasting := by simp [parcelAssignOwn]
@[simp] theorem State.endAssigns_lasting (l) : (State.endAssigns l s).lasting = s.lasting := by
  induction l generalizing s with
  | nil => rfl
  | cons e l ih => unfold State.endAssigns; split <;> simp [ih]
@[simp] theorem clearDone_lasting (i) : (clearDone s i).lasting = s.lasting := by simp [clearDone]
@[simp] theorem State.disown_lasting (ps) : (s.disown ps).lasting = s.lasting := by simp [State.disown]
@[simp] theorem parcelReleaseOwn_lasting (p) : (parcelReleaseOwn p s).state.lasting = s.lasting := by
  unfold parcelReleaseOwn; dsimp only; split <;> simp
@[simp] theorem parcelCapOwn_lasting (p) : (parcelCapOwn p s).state.lasting = s.lasting := by simp [parcelCapOwn]
@[simp] theorem parcelSleepOwn_lasting (p) : (parcelSleepOwn p s).state.lasting = s.lasting := by
  unfold parcelSleepOwn; dsimp only; split <;> simp

-- Net

@[simp] theorem State.pausesEnd_lasting : (s.pausesEnd).lasting = s.lasting := by simp [State.pausesEnd]
@[simp] theorem State.powerOn_lasting (d) : (s.powerOn d).lasting = s.lasting := by
  unfold State.powerOn; dsimp only; split <;> simp
@[simp] theorem wakeDone_lasting (d) : (wakeDone s d).lasting = s.lasting := by simp [wakeDone]

-- Link

@[simp] theorem State.countFec_lasting (l k) : (s.countFec l k).lasting = s.lasting := by
  unfold State.countFec; split <;> simp
@[simp] theorem receive_lasting (l type c) {f : State → State} (h : ∀ t, (f t).lasting = t.lasting) :
    (receive s l type c f).lasting = s.lasting := by
  simp [receive, h]
@[simp] theorem State.putCargoCw_lasting (l r w) : (s.putCargoCw l r w).lasting = s.lasting := by simp [State.putCargoCw]
@[simp] theorem State.putCargoBoth_lasting (l r w) : (s.putCargoBoth l r w).lasting = s.lasting := by simp [State.putCargoBoth]
@[simp] theorem takeSched_lasting (l c) : (takeSched s l c).lasting = s.lasting := by
  unfold takeSched; dsimp only; split <;> simp
@[simp] theorem takeResend_lasting (l stepTag cyc) : (takeResend s l stepTag cyc).lasting = s.lasting := by
  unfold takeResend; dsimp only; split <;> simp
@[simp] theorem resendRetry_lasting (l) : (resendRetry s l).lasting = s.lasting := by
  unfold resendRetry; dsimp only; split <;> simp
@[simp] theorem State.askReplay_lasting (l) : (s.askReplay l).lasting = s.lasting := by simp [State.askReplay]
@[simp] theorem remotePacket_lasting (l vc flits) : (remotePacket s l vc flits).lasting = s.lasting := by simp [remotePacket]
@[simp] theorem takePkt_lasting (l c) : (takePkt s l c).lasting = s.lasting := by simp [takePkt]
@[simp] theorem uncorrectable_lasting (l) : (uncorrectable s l).lasting = s.lasting := by simp [uncorrectable]
@[simp] theorem takeStop_lasting (l faultStop c) : (takeStop s l faultStop c).lasting = s.lasting := by
  unfold takeStop; dsimp only; split <;> simp
@[simp] theorem takeTrain_lasting (l c) : (takeTrain s l c).lasting = s.lasting := by simp [takeTrain]
@[simp] theorem State.dropJoins_lasting (g) : (s.dropJoins g).lasting = s.lasting := by simp [State.dropJoins]
@[simp] theorem State.judgeJoin_lasting (g) : (s.judgeJoin g).lasting = s.lasting := by
  unfold State.judgeJoin; dsimp only; (repeat' split) <;> simp
@[simp] theorem takeJoin_lasting (l w0 w1) : (takeJoin s l w0 w1).lasting = s.lasting := by
  unfold takeJoin; dsimp only; split <;> simp
@[simp] theorem takeMsg_lasting (l m) : (takeMsg s l m).lasting = s.lasting := by
  unfold takeMsg; split <;> simp
@[simp] theorem takeCtrl_lasting (l c) : (takeCtrl s l c).lasting = s.lasting := by
  refine foldl_lasting (fun t m => ?_) s
  split <;> simp
@[simp] theorem fjJoinOwn_lasting (p) : (fjJoinOwn p s).state.lasting = s.lasting := by
  unfold fjJoinOwn; dsimp only; split <;> simp

-- Time

@[simp] theorem State.queueTime_lasting (q b) : (s.queueTime q b).lasting = s.lasting := by
  unfold State.queueTime; split <;> simp
@[simp] theorem State.discardTime_lasting : (s.discardTime).lasting = s.lasting := by simp [State.discardTime]
@[simp] theorem syncOriginate_lasting : (syncOriginate s).lasting = s.lasting := by simp [syncOriginate]
@[simp] theorem servoTake_lasting (th) : (servoTake s th).lasting = s.lasting := by simp [servoTake]
@[simp] theorem takeSync_lasting (l at_ b) : (takeSync s l at_ b).lasting = s.lasting := by simp [takeSync]
@[simp] theorem takeResp_lasting (l t4 b) : (takeResp s l t4 b).lasting = s.lasting := by
  unfold takeResp; dsimp only; split <;> simp

-- RegMap

@[simp] theorem State.latchEpoch_lasting : (s.latchEpoch).lasting = s.lasting := by simp [State.latchEpoch]
@[simp] theorem State.regClear_lasting (h) : (s.regClear h).lasting = s.lasting := by
  unfold State.regClear; dsimp only; (repeat' split) <;> simp

-- Regs

@[simp] theorem identCertOwn_lasting (p) : (identCertOwn p s).state.lasting = s.lasting := by simp [identCertOwn]
@[simp] theorem identAttestOwn_lasting (p) : (identAttestOwn p s).state.lasting = s.lasting := by simp [identAttestOwn]
@[simp] theorem partNumberSetOwn_lasting (p) : (partNumberSetOwn p s).state.lasting = s.lasting := by simp [partNumberSetOwn]
@[simp] theorem readRegs_lasting (fn l) : (readRegs fn l s).2.lasting = s.lasting := by
  induction l generalizing s with
  | nil => rfl
  | cons h l ih => simp [readRegs, ih]
@[simp] theorem regReadOwn_lasting (p) : (regReadOwn p s).state.lasting = s.lasting := by simp [regReadOwn]
@[simp] theorem State.clearLatched_lasting (lo n bits) : (s.clearLatched lo n bits).lasting = s.lasting := by simp [State.clearLatched]
@[simp] theorem State.regStore_lasting (h value mask) : (s.regStore h value mask).lasting = s.lasting := by
  unfold State.regStore; dsimp only; split <;> simp
@[simp] theorem regWriteOwn_lasting (p) : (regWriteOwn p s).state.lasting = s.lasting := by simp [regWriteOwn]
@[simp] theorem committed_lasting (block i status changed) : (committed s block i status changed).state.lasting = s.lasting := by simp [committed]
@[simp] theorem commitCap_lasting (p i) : (commitCap p s i).state.lasting = s.lasting := by simp [commitCap]
@[simp] theorem commitLane_lasting (p l) : (commitLane p s l).state.lasting = s.lasting := by simp [commitLane]
@[simp] theorem commitInset_lasting (p b) : (commitInset p s b).state.lasting = s.lasting := by simp [commitInset]
@[simp] theorem commitDatum_lasting : (commitDatum s).state.lasting = s.lasting := by
  unfold commitDatum; dsimp only; split <;> simp
@[simp] theorem regCommitOwn_lasting (p) : (regCommitOwn p s).state.lasting = s.lasting := by
  unfold regCommitOwn; dsimp only; (repeat' split) <;> simp

-- FaultCmd

@[simp] theorem faultReadOwn_lasting (p) : (faultReadOwn p s).state.lasting = s.lasting := by simp [faultReadOwn]
@[simp] theorem faultClearOwn_lasting (p) : (faultClearOwn p s).state.lasting = s.lasting := by simp [faultClearOwn]
@[simp] theorem State.driveFault_lasting (level) : (s.driveFault level).lasting = s.lasting := by simp [State.driveFault]
@[simp] theorem faultPinSetOwn_lasting (p) : (faultPinSetOwn p s).state.lasting = s.lasting := by simp [faultPinSetOwn]

-- Logbook

@[simp] theorem State.verifySlot_lasting (slot) : (s.verifySlot slot).lasting = s.lasting := by simp [State.verifySlot]
@[simp] theorem logCommit_lasting : (logCommit s).lasting = s.lasting := by
  unfold logCommit; dsimp only; split <;> simp
@[simp] theorem logReadOwn_lasting (p) : (logReadOwn p s).state.lasting = s.lasting := by simp [logReadOwn]
@[simp] theorem logInfoOwn_lasting (p) : (logInfoOwn p s).state.lasting = s.lasting := by simp [logInfoOwn]
@[simp] theorem State.mctpSend_lasting (b) : (s.mctpSend b).lasting = s.lasting := by simp [State.mctpSend]
@[simp] theorem mctpLogRead_lasting (area first) : (mctpLogRead area first s).lasting = s.lasting := by
  unfold mctpLogRead; dsimp only; split <;> simp

-- Firmware

@[simp] theorem State.setFlash_lasting {f} (h : f.floor = s.flash.floor) : (s.setFlash f).lasting = s.lasting := by
  simp only [State.setFlash, State.lasting, h]
@[simp] theorem fwInfoOwn_lasting (p) : (fwInfoOwn p s).state.lasting = s.lasting := by simp [fwInfoOwn]
@[simp] theorem State.dropPending_lasting (k) : (s.dropPending k).lasting = s.lasting := by
  unfold State.dropPending; split <;> simp
@[simp] theorem Flash.setCopy_floor (f : Flash) (k c) : (f.setCopy k c).floor = f.floor := by
  unfold Flash.setCopy; split <;> rfl
@[simp] theorem State.beginWriting_lasting (k) : (s.beginWriting k).lasting = s.lasting := by
  simp [State.beginWriting]
@[simp] theorem fwStore_lasting (k m len begun) : (fwStore s k m len begun).2.2.2.lasting = s.lasting := by
  unfold fwStore; dsimp only; (repeat' split) <;> simp
@[simp] theorem fwWriteOwn_lasting (p) : (fwWriteOwn p s).state.lasting = s.lasting := by
  unfold fwWriteOwn; split <;> simp
@[simp] theorem fwSwitchOwn_lasting (p) : (fwSwitchOwn p s).state.lasting = s.lasting := by
  unfold fwSwitchOwn; split <;> simp
@[simp] theorem State.dropSurveys_lasting : (s.dropSurveys).lasting = s.lasting := by simp [State.dropSurveys]
@[simp] theorem State.dropWork_lasting : s.dropWork.lasting = s.lasting :=
  foldl_lasting (fun t e => by split <;> simp) s
@[simp] theorem partResetOwn_lasting (p) : (partResetOwn p s).state.lasting = s.lasting := by simp [partResetOwn]

-- Image

@[simp] theorem writePlan_lasting (q) : (writePlan s q).lasting = s.lasting := by
  unfold writePlan
  extract_lets mi i s₁ vals sts port send quad s₂ init s₃ s₄ s₅
  have h₁ : s₁.lasting = s.lasting := by simp [s₁]
  have h₂ : s₂.lasting = s₁.lasting := lasting_mk
  have h₃ : s₃.lasting = s₂.lasting := by simp [s₃]
  have h₄ : s₄.lasting = s₃.lasting := foldl_lasting (fun t r => foldl_lasting (fun u c => lasting_mk) t) s₃
  have h₅ : s₅.lasting = s₄.lasting := by simp [s₅]
  refine (foldl_lasting (fun t r => ?_) s₅).trans (by simp only [*])
  exact foldl_lasting (fun u k => lasting_mk) t
@[simp] theorem State.bindUnits_lasting (g fn i) : (s.bindUnits g fn i).lasting = s.lasting := by
  unfold State.bindUnits
  extract_lets s₁
  have h : s₁.lasting = s.lasting := forEach_lasting (fun v t => by
    extract_lets q
    split
    · rfl
    · exact forEach_lasting (fun u w => by simp) t) s
  simp [h]
@[simp] theorem State.releaseGsr_lasting (g i n) : (s.releaseGsr g i n).lasting = s.lasting := by simp [State.releaseGsr]
@[simp] theorem State.touchEngine_lasting (e) : (s.touchEngine e).lasting = s.lasting := by simp [State.touchEngine]
@[simp] theorem State.bindEngines_lasting (g fn i bs) : (s.bindEngines g fn i bs).lasting = s.lasting := by
  unfold State.bindEngines
  split
  · rfl
  · extract_lets s₁
    have h : s₁.lasting = s.lasting := forEach_lasting (fun e t => by
      split
      · rfl
      · split
        · rfl
        · next u hu => simp [bindEngine_lasting t _ _ _ _ _ hu]) s
    simp [h]
@[simp] theorem loadWrite_lasting (fn q) : (loadWrite s fn q).lasting = s.lasting := by simp [loadWrite]
@[simp] theorem State.tierError_lasting (i) : (s.tierError i).lasting = s.lasting := by simp [State.tierError]
@[simp] theorem loadSpoil_lasting (c status detail) : (loadSpoil s c status detail).state.lasting = s.lasting := by simp [loadSpoil]
@[simp] theorem loadFinish_lasting (p d q) : (loadFinish p d q s).state.lasting = s.lasting := by
  unfold loadFinish; dsimp only; split <;> simp
@[simp] theorem State.readStage_lasting (p d) : (s.readStage p d).2.lasting = s.lasting := by
  unfold State.readStage; split <;> simp
@[simp] theorem readSource_lasting (p d) {ok bad : State → Ans} (h : ∀ t, (ok t).state.lasting = t.lasting)
    (k : ∀ t, (bad t).state.lasting = t.lasting) :
    (readSource p d s ok bad).state.lasting = s.lasting := by
  simp [readSource, h, k]
@[simp] theorem imageLoadOwn_lasting (p) : (imageLoadOwn p s).state.lasting = s.lasting := by
  unfold imageLoadOwn
  extract_lets d
  split
  · simp
  · refine awaken_lasting s _ fun t => readSource_lasting t _ _ (fun t => ?_) (fun t => by simp)
    split
    · simp
    · exact awaken_lasting t _ fun u => by simp
@[simp] theorem loadResume_lasting (p x) : (loadResume p x s).state.lasting = s.lasting := by
  unfold loadResume; dsimp only; (repeat' split) <;> simp

-- Frames

@[simp] theorem writeRecord_lasting (mirrored i w) : (writeRecord mirrored i s w).lasting = s.lasting := by
  unfold writeRecord
  extract_lets r l base groups
  refine foldl_lasting (fun t u => ?_) s
  extract_lets all n t₁ t₂ v
  have h₁ : t₁.lasting = t.lasting := lasting_mk
  have h₂ : t₂.lasting = t₁.lasting := by
    unfold t₂; split <;> simp
  simp only [lasting_ite, State.updCluster_lasting, ite_self, *]
@[simp] theorem framesSpoil_lasting (g i w) : (framesSpoil s g i w).lasting = s.lasting := by simp [framesSpoil]
@[simp] theorem State.refetch_lasting (g w) : (s.refetch g w).lasting = s.lasting := by simp [State.refetch]
@[simp] theorem failNoted_lasting (p status detail) : (failNoted p s status detail).state.lasting = s.lasting := by simp [failNoted]
@[simp] theorem imageFramesOwn_lasting (p) : (imageFramesOwn p s).state.lasting = s.lasting := by
  unfold imageFramesOwn; dsimp only; (repeat' split) <;> simp
@[simp] theorem imageStageOwn_lasting (p) : (imageStageOwn p s).state.lasting = s.lasting := by
  unfold imageStageOwn
  obtain ⟨n, hn⟩ : ∃ n, ceilDiv p.len.toNat unitBytes = n := ⟨_, rfl⟩
  rw [hn]
  dsimp only
  split
  · rfl
  · split
    · rfl
    · exact awaken_lasting s _ fun t => lasting_mk.trans (by simp)
@[simp] theorem imageUnstageOwn_lasting (p) : (imageUnstageOwn p s).state.lasting = s.lasting := by
  unfold imageUnstageOwn; split <;> simp
@[simp] theorem imageUnloadOwn_lasting (p) : (imageUnloadOwn p s).state.lasting = s.lasting := by
  unfold imageUnloadOwn; dsimp only; split <;> simp

-- Keys

@[simp] theorem keyLoadOwn_lasting (p) : (keyLoadOwn p s).state.lasting = s.lasting := by
  unfold keyLoadOwn; dsimp only; (repeat' split) <;> simp
@[simp] theorem keyClearOwn_lasting (p) : (keyClearOwn p s).state.lasting = s.lasting := by simp [keyClearOwn]
@[simp] theorem kekAgreeOwn_lasting (p) : (kekAgreeOwn p s).state.lasting = s.lasting := by
  unfold kekAgreeOwn; dsimp only; split <;> simp

-- Reset

@[simp] theorem State.pinsSince_lasting (old) : (s.pinsSince old).lasting = s.lasting := by simp [State.pinsSince]
@[simp] theorem State.setTap_lasting (t) : (s.setTap t).lasting = s.lasting := by simp [State.setTap]
@[simp] theorem State.moveTap_lasting (t) : (s.moveTap t).lasting = s.lasting := by simp [State.moveTap]
@[simp] theorem State.captured_lasting : (s.captured).2.lasting = s.lasting := by simp [State.captured]
@[simp] theorem State.releasePins_lasting : (s.releasePins).lasting = s.lasting := by simp [State.releasePins]
@[simp] theorem State.cleared_lasting : s.cleared.lasting = s.lasting := rfl
@[simp] theorem State.startCopy_lasting (k cause fell) : (s.startCopy k cause fell).lasting = s.lasting := by simp [State.startCopy]
@[simp] theorem State.bothFailed_lasting : (s.bothFailed).lasting = s.lasting := by simp [State.bothFailed]
@[simp] theorem State.fallOnto_lasting (k) : (s.fallOnto k).lasting = s.lasting := by simp [State.fallOnto]
@[simp] theorem bootFail_lasting : (bootFail s).lasting = s.lasting := by simp [bootFail]
@[simp] theorem State.enterS1_lasting (cause) : (s.enterS1 cause).lasting = s.lasting := by simp [State.enterS1]
@[simp] theorem State.hubReset_lasting (cause) : (s.hubReset cause).lasting = s.lasting := by
  unfold State.hubReset; dsimp only; (repeat' split) <;> simp
@[simp] theorem resetN_lasting (level testMode) : (resetN s level testMode).lasting = s.lasting := by
  unfold resetN; dsimp only; (repeat' split) <;> simp
@[simp] theorem vstbyApplied_lasting : (vstbyApplied s).lasting = s.lasting := by simp [vstbyApplied]
@[simp] theorem vstbyRemoved_lasting : (vstbyRemoved s).lasting = s.lasting := by simp [vstbyRemoved]
@[simp] theorem mainRails_lasting (rails marked) : (mainRails s rails marked).lasting = s.lasting := by
  unfold mainRails; dsimp only; (repeat' split) <;> simp
@[simp] theorem railExcursion_lasting (rail reading) : (railExcursion s rail reading).lasting = s.lasting := by simp [railExcursion]
@[simp] theorem fwWatchdog_lasting (core) : (fwWatchdog s core).lasting = s.lasting := by simp [fwWatchdog]
@[simp] theorem State.failParcel_lasting (i) : (s.failParcel i).lasting = s.lasting := by simp [State.failParcel]
@[simp] theorem State.startLanes_lasting : (s.startLanes).lasting = s.lasting := by simp [State.startLanes]
@[simp] theorem s2Complete_lasting (good ms) : (s2Complete s good ms).lasting = s.lasting := by simp [s2Complete]
@[simp] theorem State.fullService_lasting (ms) : (s.fullService ms).lasting = s.lasting := by
  unfold State.fullService; dsimp only; (repeat' split) <;> simp
@[simp] theorem s3Complete_lasting (trained ms) : (s3Complete s trained ms).lasting = s.lasting := by simp [s3Complete]
@[simp] theorem s4Complete_lasting (ms) : (s4Complete s ms).lasting = s.lasting := by simp [s4Complete]
@[simp] theorem stageBound_lasting (st) : (stageBound s st).lasting = s.lasting := by
  unfold stageBound; dsimp only; split <;> simp
@[simp] theorem pldmUpdate_lasting (image) : (pldmUpdate s image).lasting = s.lasting := by
  unfold pldmUpdate; split <;> simp

-- Thermal

@[simp] theorem partSensorsOwn_lasting (p) : (partSensorsOwn p s).state.lasting = s.lasting := by simp [partSensorsOwn]
@[simp] theorem State.trip_lasting (sensor reading) : (s.trip sensor reading).lasting = s.lasting := by simp [State.trip]
@[simp] theorem sensorSample_lasting (temps) : (sensorSample s temps).lasting = s.lasting := by
  unfold sensorSample; dsimp only; (repeat' split) <;> simp
@[simp] theorem throttlePeriod_lasting (power) : (throttlePeriod s power).lasting = s.lasting := by simp [throttlePeriod]

-- Jtag

@[simp] theorem State.tapLoad_lasting (code takes) : (s.tapLoad code takes).lasting = s.lasting := by simp [State.tapLoad]
@[simp] theorem State.capture_lasting : (s.capture).lasting = s.lasting := by simp [State.capture]

-- Mem

@[simp] theorem hbmReadWords_lasting (k p n w m) : (hbmReadWords k p n w m s).2.2.lasting = s.lasting := by
  induction n generalizing w m s with
  | zero => rfl
  | succ n ih => unfold hbmReadWords; dsimp only; split <;> simp [ih]
@[simp] theorem hbmWriteWords_lasting (k p t n w m) : (hbmWriteWords k p t n w m s).lasting = s.lasting := by
  induction n generalizing w m s with
  | zero => rfl
  | succ n ih => unfold hbmWriteWords; dsimp only; split <;> simp [ih]
@[simp] theorem memBank_lasting (p write) : (memBank p s write).state.lasting = s.lasting := by
  unfold memBank; dsimp only; split <;> simp
@[simp] theorem memMove_lasting (p write m) : (memMove p write m s).state.lasting = s.lasting := by simp [memMove]
@[simp] theorem memHbm_lasting (p write) : (memHbm p s write).state.lasting = s.lasting := by
  unfold memHbm; dsimp only; split <;> simp
@[simp] theorem memAtomicOwn_lasting (p) : (memAtomicOwn p s).state.lasting = s.lasting := by
  unfold memAtomicOwn; dsimp only; split <;> simp
@[simp] theorem hbmPartitionOwn_lasting (p) : (hbmPartitionOwn p s).state.lasting = s.lasting := by simp [hbmPartitionOwn]

-- Loader

@[simp] theorem State.beginLoad_lasting (d c i) : (s.beginLoad d c i).lasting = s.lasting := by simp [State.beginLoad]
@[simp] theorem State.beginUnload_lasting (i) : (s.beginUnload i).lasting = s.lasting := by simp [State.beginUnload]
theorem beginTransfer_lasting {a : Ans} {c t} (h : beginTransfer s a = some (c, t)) : t.lasting = s.lasting := by
  unfold beginTransfer at h
  split at h
  · split at h <;> cases h
    rfl
  · cases h
theorem beginWork_lasting {c t} (op p) (h : beginWork op p s = some (c, t)) : t.lasting = s.lasting := by
  unfold beginWork at h
  split at h
  case h_1 =>
    split at h
    · cases h
    · dsimp only at h
      split at h
      · cases h
      · split at h <;> cases h
        simp
  case h_2 | h_3 | h_10 =>
    split at h
    · cases h
    · split at h <;> cases h
      simp
  case h_9 =>
    split at h <;> cases h
    simp
  case h_11 => cases h
  all_goals
    split at h
    · cases h
    · exact beginTransfer_lasting s h
@[simp] theorem State.putEntry_lasting (e st) : (s.putEntry e st).lasting = s.lasting := by simp [State.putEntry]
@[simp] theorem State.transferOn_lasting (e w c) : (s.transferOn e w c).lasting = s.lasting := by
  unfold State.transferOn; dsimp only; split <;> simp
@[simp] theorem State.workOn_lasting (e) : (s.workOn e).lasting = s.lasting := by
  unfold State.workOn
  split
  · split
    · rfl
    · split
      · rfl
      · next hb => simp [beginWork_lasting s _ _ hb]
  · split
    · simp
    · simp
    · split
      · rfl
      · split <;> simp
    · simp
    · rfl
  · rfl

-- Locks

@[simp] theorem lockAcquireOwn_lasting (p) : (lockAcquireOwn p s).state.lasting = s.lasting := by
  unfold lockAcquireOwn; dsimp only; (repeat' split) <;> simp
@[simp] theorem lockReleaseOwn_lasting (p) : (lockReleaseOwn p s).state.lasting = s.lasting := by simp [lockReleaseOwn]
@[simp] theorem lockQueryOwn_lasting (p) : (lockQueryOwn p s).state.lasting = s.lasting := by
  unfold lockQueryOwn; dsimp only; split <;> simp

-- the rows of the table

/-- An outcome that goes on keeps the lasting part of `s`. -/
def Lasts (s : State) (o : Host.Outcome State Fault Refusal) : Prop := ∀ t, o = .next t → t.lasting = s.lasting

@[simp] theorem lasts_next (t) : Lasts s (.next t) ↔ t.lasting = s.lasting :=
  ⟨fun h => h t rfl, fun h _ e => by cases e; exact h⟩
@[simp] theorem lasts_fault (r) : Lasts s (.fault r) := fun _ e => by cases e
@[simp] theorem lasts_ite {c : Prop} [Decidable c] (a b) : Lasts s (if c then a else b) ↔ if c then Lasts s a else Lasts s b := by
  split <;> rfl
theorem gated_lasting (op p) {run : State} (h : run.lasting = s.lasting) : (gated op p s run).lasting = s.lasting := by
  rcases gated_cases op p s run with e | e | ⟨hub, e⟩ <;> rw [e]
  · exact h
  · rfl
@[simp] theorem bpRow_lasts (bp i) : Lasts s (bpRow s bp i) := by simp [bpRow]
@[simp] theorem portRow_lasts (c) {f : State → Port → Nat → Word → PortOut} (h : ∀ t p n y, (f t p n y).s.lasting = t.lasting) :
    Lasts s (portRow s c f) := by
  unfold portRow; dsimp only
  split
  · split <;> simp [h]
  · simp
@[simp] theorem withHeavy_lasting (w c o) : (withHeavy w c o).s.lasting = o.s.lasting := by simp [withHeavy]
section
variable {f : State → State} (h : ∀ t, (f t).lasting = t.lasting)
include h
@[simp] theorem insetRow_lasts (b) : Lasts s (insetRow b s f) := by simp [insetRow, h]
@[simp] theorem engineRow_lasts (e) : Lasts s (engineRow e s f) := by simp [engineRow, h]
@[simp] theorem groupRow_lasts (g) : Lasts s (groupRow g s f) := by simp [groupRow, h]
@[simp] theorem laneRow_lasts (l) : Lasts s (laneRow l s f) := by simp [laneRow, h]
@[simp] theorem sessRow_lasts (i) : Lasts s (sessRow i s f) := by simp [sessRow, h]
@[simp] theorem domainRow_lasts (d) : Lasts s (domainRow d s f) := by simp [domainRow, h]
end
@[simp] theorem ctrlRow_lasts (k l cw w) : Lasts s (ctrlRow k l cw w s) := by
  simp [ctrlRow]
@[simp] theorem timeRow_lasts (l cw k) {f : Nat → State → State} (h : ∀ b t, (f b t).lasting = t.lasting) : Lasts s (timeRow l cw k s f) := by
  simp [timeRow, h]

-- BP

theorem execNop_lasts (bp) : Lasts s (execNop bp s) := by simp [execNop]
theorem execLut4x_lasts (bp tt a b c d) : Lasts s (execLut4x bp tt a b c d s) := by simp [execLut4x]
theorem execLut4p_lasts (bp tt a b c d) : Lasts s (execLut4p bp tt a b c d s) := by simp [execLut4p]
theorem execLut2s_lasts (bp tt a b c d) : Lasts s (execLut2s bp tt a b c d s) := by simp [execLut2s]
theorem execResolve_lasts (bp tt a b c d) : Lasts s (execResolve bp tt a b c d s) := by simp [execResolve]
theorem execCaseq_lasts (bp tt a b) : Lasts s (execCaseq bp tt a b s) := by simp [execCaseq]
theorem execMux2x_lasts (bp a b c) : Lasts s (execMux2x bp a b c s) := by simp [execMux2x]
theorem execLatch_lasts (bp tt a b d) : Lasts s (execLatch bp tt a b d s) := by simp [execLatch]
theorem execFfnext_lasts (bp tt a b d) : Lasts s (execFfnext bp tt a b d s) := by simp [execFfnext]
theorem execPortrd_lasts (bp tt) : Lasts s (execPortrd bp tt s) := by simp [execPortrd]
theorem execPortwr_lasts (bp tt a) : Lasts s (execPortwr bp tt a s) := by simp [execPortwr]
theorem execTap_lasts (bp tt a) : Lasts s (execTap bp tt a s) := by simp [execTap]
theorem execConst_lasts (bp tt) : Lasts s (execConst bp tt s) := by simp [execConst]
theorem execAssert_lasts (bp tt a) : Lasts s (execAssert bp tt a s) := by simp [execAssert]
theorem execStop_lasts (bp tt a) : Lasts s (execStop bp tt a s) := by simp [execStop]
theorem execReservedOpcode_lasts (bp w) : Lasts s (execReservedOpcode bp w s) := by simp [execReservedOpcode]

-- Port

theorem execBankRead_lasts (cl slot ad) : Lasts s (execBankRead cl slot ad s) := by simp [execBankRead]
theorem execBankWrite_lasts (cl slot ad) : Lasts s (execBankWrite cl slot ad s) := by simp [execBankWrite]
theorem execBankWriteIfEnable_lasts (cl slot ad) : Lasts s (execBankWriteIfEnable cl slot ad s) := by simp [execBankWriteIfEnable]
theorem execHbmRead_lasts (cl ad) : Lasts s (execHbmRead cl ad s) := by simp [execHbmRead]
theorem execHbmWrite_lasts (cl ad) : Lasts s (execHbmWrite cl ad s) := by simp [execHbmWrite]
theorem execHbmWriteIfEnable_lasts (cl ad) : Lasts s (execHbmWriteIfEnable cl ad s) := by simp [execHbmWriteIfEnable]
theorem execInsetReceive_lasts (cl bridge) : Lasts s (execInsetReceive cl bridge s) := by simp [execInsetReceive]
theorem execInsetSend_lasts (cl bridge) : Lasts s (execInsetSend cl bridge s) := by simp [execInsetSend]
theorem execInsetStatus_lasts (cl bridge) : Lasts s (execInsetStatus cl bridge s) := by simp [execInsetStatus]
theorem execProbeShip_lasts (cl) : Lasts s (execProbeShip cl s) := by simp [execProbeShip]
theorem execPortLoadLanding_lasts (cl) : Lasts s (execPortLoadLanding cl s) := by simp [execPortLoadLanding]

-- Wiring

theorem execReceiveSlotArrival_lasts (cl slot) : Lasts s (execReceiveSlotArrival cl slot s) := by
  unfold execReceiveSlotArrival; dsimp only; (repeat' split) <;> simp
theorem execCargoDelivery_lasts (quad slot) : Lasts s (execCargoDelivery quad slot s) := by
  unfold execCargoDelivery; dsimp only; (repeat' split) <;> simp

-- Inset

theorem execInsetFrameArrival_lasts (bridge length) : Lasts s (execInsetFrameArrival bridge length s) := by simp [execInsetFrameArrival]
theorem execInsetFrameReceived_lasts (bridge f) : Lasts s (execInsetFrameReceived bridge f s) := by simp [execInsetFrameReceived]
theorem execPauseFrame_lasts (bridge pfc mask quanta) : Lasts s (execPauseFrame bridge pfc mask quanta s) := by simp [execPauseFrame]
theorem execPauseExpiry_lasts (bridge prio) : Lasts s (execPauseExpiry bridge prio s) := by simp [execPauseExpiry]
theorem execPauseRepeat_lasts (bridge) : Lasts s (execPauseRepeat bridge s) := by simp [execPauseRepeat]
theorem execInsetFrameMove_lasts (bridge) : Lasts s (execInsetFrameMove bridge s) := by simp [execInsetFrameMove]
theorem execInsetOutboundComplete_lasts (bridge) : Lasts s (execInsetOutboundComplete bridge s) := by simp [execInsetOutboundComplete]
theorem execInsetFrameDepart_lasts (bridge) : Lasts s (execInsetFrameDepart bridge s) := by simp [execInsetFrameDepart]
theorem execInsetLinkUp_lasts (bridge) : Lasts s (execInsetLinkUp bridge s) := by simp [execInsetLinkUp]
theorem execInsetLinkDown_lasts (bridge) : Lasts s (execInsetLinkDown bridge s) := by simp [execInsetLinkDown]
theorem execInsetTrainingRetry_lasts (bridge) : Lasts s (execInsetTrainingRetry bridge s) := by simp [execInsetTrainingRetry]
theorem execInsetConfig_lasts (p) : Lasts s (execInsetConfig p s) := by simp [execInsetConfig]
theorem execInsetFlush_lasts (p) : Lasts s (execInsetFlush p s) := by simp [execInsetFlush]
theorem execInsetStamps_lasts (p) : Lasts s (execInsetStamps p s) := by simp [execInsetStamps]

-- Bank

theorem execStagingQueueDrain_lasts (cl) : Lasts s (execStagingQueueDrain cl s) := by simp [execStagingQueueDrain]
theorem execHbmDesignRequest_lasts (req) : Lasts s (execHbmDesignRequest req s) := by simp [execHbmDesignRequest]
theorem execHbmDesignReturn_lasts (ret) : Lasts s (execHbmDesignReturn ret s) := by simp [execHbmDesignReturn]
theorem execHbmDataArrival_lasts (cl) : Lasts s (execHbmDataArrival cl s) := by simp [execHbmDataArrival]
theorem execHbmWriteAccept_lasts (cl) : Lasts s (execHbmWriteAccept cl s) := by simp [execHbmWriteAccept]
theorem execHbmRefresh_lasts (stack) : Lasts s (execHbmRefresh stack s) := by simp [execHbmRefresh]

-- Trace

theorem execTraceSampleStore_lasts (engine) : Lasts s (execTraceSampleStore engine s) := by simp [execTraceSampleStore]
theorem execAutoTimeout_lasts (engine) : Lasts s (execAutoTimeout engine s) := by simp [execAutoTimeout]
theorem execAssertionEventDrain_lasts (engine) : Lasts s (execAssertionEventDrain engine s) := by simp [execAssertionEventDrain]
theorem execTraceConfig_lasts (p) : Lasts s (execTraceConfig p s) := by simp [execTraceConfig]
theorem execTraceArm_lasts (p) : Lasts s (execTraceArm p s) := by simp [execTraceArm]
theorem execTraceForce_lasts (p) : Lasts s (execTraceForce p s) := by simp [execTraceForce]
theorem execTraceRead_lasts (p) : Lasts s (execTraceRead p s) := by simp [execTraceRead]
theorem execTraceRelease_lasts (p) : Lasts s (execTraceRelease p s) := by simp [execTraceRelease]

-- Survey

theorem execSurveyCapture_lasts (g) : Lasts s (execSurveyCapture g s) := by simp [execSurveyCapture]
theorem execSurvey_lasts (p) : Lasts s (execSurvey p s) := by simp [execSurvey]
theorem execSurveyRestore_lasts (p) : Lasts s (execSurveyRestore p s) := by simp [execSurveyRestore]

-- Run

theorem execTableCopyDone_lasts (g) : Lasts s (execTableCopyDone g s) := by simp [execTableCopyDone]
theorem execCycleBoundary_lasts (g) : Lasts s (execCycleBoundary g s) := by simp [execCycleBoundary]
theorem execPowerWindowEnd_lasts (parcel) : Lasts s (execPowerWindowEnd parcel s) := by
  unfold execPowerWindowEnd; dsimp only; (repeat' split) <;> simp
theorem execStepExecute_lasts (g) : Lasts s (execStepExecute g s) := by simp [execStepExecute]
theorem execMirrorCompare_lasts (g) : Lasts s (execMirrorCompare g s) := by simp [execMirrorCompare]
theorem execDynamicSlotGrant_lasts (cl slot) : Lasts s (execDynamicSlotGrant cl slot s) := by simp [execDynamicSlotGrant]
theorem execEccWriteback_lasts (cl) : Lasts s (execEccWriteback cl s) := by simp [execEccWriteback]
theorem execBackdoorGrantTimeout_lasts (cl master) : Lasts s (execBackdoorGrantTimeout cl master s) := by simp [execBackdoorGrantTimeout]
theorem execTimedEventDue_lasts (e) : Lasts s (execTimedEventDue e s) := by simp [execTimedEventDue]

-- RunCmd

theorem execTableCommit_lasts (p) : Lasts s (execTableCommit p s) := by simp [execTableCommit]
theorem execTablePokeActive_lasts (p) : Lasts s (execTablePokeActive p s) := by simp [execTablePokeActive]
theorem execRunAt_lasts (p) : Lasts s (execRunAt p s) := by simp [execRunAt]
theorem execRunStop_lasts (p) : Lasts s (execRunStop p s) := by simp [execRunStop]
theorem execPauseAt_lasts (p) : Lasts s (execPauseAt p s) := by simp [execPauseAt]
theorem execResumeAt_lasts (p) : Lasts s (execResumeAt p s) := by simp [execResumeAt]

-- Datum

theorem execDatumTick_lasts : Lasts s (execDatumTick s) := by simp [execDatumTick]
theorem execDatumPairApply_lasts : Lasts s (execDatumPairApply s) := by simp [execDatumPairApply]
theorem execDatumRole_lasts (p) : Lasts s (execDatumRole p s) := by simp [execDatumRole]
theorem execDatumAdjust_lasts (p) : Lasts s (execDatumAdjust p s) := by simp [execDatumAdjust]
theorem execDatumOrigin_lasts (p) : Lasts s (execDatumOrigin p s) := by simp [execDatumOrigin]
theorem execDatumLinkCal_lasts (p) : Lasts s (execDatumLinkCal p s) := by simp [execDatumLinkCal]
theorem execTrigBind_lasts (p) : Lasts s (execTrigBind p s) := by simp [execTrigBind]
theorem execTrigPulse_lasts (p) : Lasts s (execTrigPulse p s) := by simp [execTrigPulse]
theorem execTrigOutEdge_lasts (pin) : Lasts s (execTrigOutEdge pin s) := by simp [execTrigOutEdge]
theorem execPpsOutEdge_lasts : Lasts s (execPpsOutEdge s) := by simp [execPpsOutEdge]
theorem execPpsInEdge_lasts (time) : Lasts s (execPpsInEdge time s) := by simp [execPpsInEdge]
theorem execPpsTimeout_lasts : Lasts s (execPpsTimeout s) := by simp [execPpsTimeout]
theorem execTrigInEdge_lasts (pin falling time) : Lasts s (execTrigInEdge pin falling time s) := by simp [execTrigInEdge]

-- Lane

theorem execLaneTrainingDone_lasts (lane) : Lasts s (execLaneTrainingDone lane s) := by simp [execLaneTrainingDone]
theorem execTrainingTimeout_lasts (lane) : Lasts s (execTrainingTimeout lane s) := by simp [execTrainingTimeout]
theorem execLaneRetry_lasts (lane) : Lasts s (execLaneRetry lane s) := by simp [execLaneRetry]
theorem execLaneLockLoss_lasts (lane) : Lasts s (execLaneLockLoss lane s) := by simp [execLaneLockLoss]
theorem execHeaderTimeout_lasts (lane) : Lasts s (execHeaderTimeout lane s) := by simp [execHeaderTimeout]
theorem execReplayTimeout_lasts (lane) : Lasts s (execReplayTimeout lane s) := by simp [execReplayTimeout]
theorem execCodewordTransmit_lasts (lane) : Lasts s (execCodewordTransmit lane s) := by simp [execCodewordTransmit]
theorem execSchedCodewordQueue_lasts (lane) : Lasts s (execSchedCodewordQueue lane s) := by simp [execSchedCodewordQueue]
theorem execCheckerLock_lasts (rx) : Lasts s (execCheckerLock rx s) := by simp [execCheckerLock]
theorem execCheckerLockLoss_lasts (rx) : Lasts s (execCheckerLockLoss rx s) := by simp [execCheckerLockLoss]
theorem execLaneConfig_lasts (p) : Lasts s (execLaneConfig p s) := by simp [execLaneConfig]
theorem execLaneTrain_lasts (p) : Lasts s (execLaneTrain p s) := by simp [execLaneTrain]
theorem execLaneIdle_lasts (p) : Lasts s (execLaneIdle p s) := by simp [execLaneIdle]
theorem execLanePattern_lasts (p) : Lasts s (execLanePattern p s) := by simp [execLanePattern]
theorem execLaneInject_lasts (p) : Lasts s (execLaneInject p s) := by simp [execLaneInject]

-- Pair

theorem execPairSet_lasts (p) : Lasts s (execPairSet p s) := by simp [execPairSet]
theorem execPairResponse_lasts (p) : Lasts s (execPairResponse p s) := by simp [execPairResponse]
theorem execPairDivergeClear_lasts (p) : Lasts s (execPairDivergeClear p s) := by simp [execPairDivergeClear]

-- Session

theorem execCmdCancel_lasts (p) : Lasts s (execCmdCancel p s) := by simp [execCmdCancel]
theorem execSessionNop_lasts (p) : Lasts s (execSessionNop p s) := by simp [execSessionNop]
theorem execSessionReset_lasts (p) : Lasts s (execSessionReset p s) := by simp [execSessionReset]
theorem execFunctionLevelReset_lasts (function) : Lasts s (execFunctionLevelReset function s) := by simp [execFunctionLevelReset]
theorem execVfEnableChange_lasts (enable numVfs) : Lasts s (execVfEnableChange enable numVfs s) := by simp [execVfEnableChange]
theorem execSqTail_lasts (session value) : Lasts s (execSqTail session value s) := by simp [execSqTail]
theorem execCqHead_lasts (session value) : Lasts s (execCqHead session value s) := by simp [execCqHead]
theorem execSessCtlEnable_lasts (session value) : Lasts s (execSessCtlEnable session value s) := by simp [execSessCtlEnable]
theorem execSessCtlReset_lasts (session value) : Lasts s (execSessCtlReset session value s) := by simp [execSessCtlReset]
theorem execBar0RegisterWrite_lasts (function offset value) : Lasts s (execBar0RegisterWrite function offset value s) := by
  simp [execBar0RegisterWrite]
theorem execCoalescingTimer_lasts (session) : Lasts s (execCoalescingTimer session s) := by simp [execCoalescingTimer]
theorem execCommandFetch_lasts : Lasts s (execCommandFetch s) := by simp [execCommandFetch]
theorem execUndefinedOpcode_lasts (o p) : Lasts s (execUndefinedOpcode o p s) := by
  unfold execUndefinedOpcode
  split
  · simp
  · simp [gated_lasting]

-- Power

theorem execDomainPowerDown_lasts (d early) : Lasts s (execDomainPowerDown d early s) := by simp [execDomainPowerDown]
theorem execParcelAutoSleep_lasts (parcel) : Lasts s (execParcelAutoSleep parcel s) := by simp [execParcelAutoSleep]
theorem execPowerDownRetry_lasts (d) : Lasts s (execPowerDownRetry d s) := by simp [execPowerDownRetry]
theorem execHbmSelfRefreshEntry_lasts (stack) : Lasts s (execHbmSelfRefreshEntry stack s) := by simp [execHbmSelfRefreshEntry]
theorem execRouterReconfiguration_lasts (router drain) : Lasts s (execRouterReconfiguration router drain s) := by simp [execRouterReconfiguration]
theorem execReconfigurationAbandon_lasts (router) : Lasts s (execReconfigurationAbandon router s) := by simp [execReconfigurationAbandon]
theorem execPowerSet_lasts (p) : Lasts s (execPowerSet p s) := by simp [execPowerSet]

-- Parcel

theorem execParcelAssign_lasts (p) : Lasts s (execParcelAssign p s) := by simp [execParcelAssign]
theorem execParcelClearDone_lasts (parcel) : Lasts s (execParcelClearDone parcel s) := by simp [execParcelClearDone]
theorem execParcelRelease_lasts (p) : Lasts s (execParcelRelease p s) := by simp [execParcelRelease]
theorem execParcelCap_lasts (p) : Lasts s (execParcelCap p s) := by simp [execParcelCap]
theorem execParcelSleep_lasts (p) : Lasts s (execParcelSleep p s) := by simp [execParcelSleep]

-- Net

theorem execRead_lasts (pk) : Lasts s (execRead pk s) := by simp [execRead]
theorem execWrite_lasts (pk) : Lasts s (execWrite pk s) := by simp [execWrite]
theorem execPosted_lasts (pk) : Lasts s (execPosted pk s) := by simp [execPosted]
theorem execAtomic_lasts (pk) : Lasts s (execAtomic pk s) := by simp [execAtomic]
theorem execMessage_lasts (pk) : Lasts s (execMessage pk s) := by simp [execMessage]
theorem execReadResponse_lasts (pk) : Lasts s (execReadResponse pk s) := by simp [execReadResponse]
theorem execAck_lasts (pk) : Lasts s (execAck pk s) := by simp [execAck]
theorem execErrorResponse_lasts (pk) : Lasts s (execErrorResponse pk s) := by simp [execErrorResponse]
theorem execTime_lasts (pk) : Lasts s (execTime pk s) := by simp [execTime]
theorem execWake_lasts (pk) : Lasts s (execWake pk s) := by simp [execWake]
theorem execTagTimeout_lasts (tag) : Lasts s (execTagTimeout tag s) := by simp [execTagTimeout]
theorem execDomainWakeDone_lasts (d) : Lasts s (execDomainWakeDone d s) := by simp [execDomainWakeDone]

-- Link

theorem execIdle_lasts (lane cw) : Lasts s (execIdle lane cw s) := by simp [execIdle]
theorem execSched_lasts (lane cw) : Lasts s (execSched lane cw s) := by simp [execSched]
theorem execResendRetry_lasts (lane) : Lasts s (execResendRetry lane s) := by simp [execResendRetry]
theorem execPkt_lasts (lane cw) : Lasts s (execPkt lane cw s) := by simp [execPkt]
theorem execCodewordUncorrectable_lasts (lane) : Lasts s (execCodewordUncorrectable lane s) := by simp [execCodewordUncorrectable]
theorem execTrain_lasts (lane cw) : Lasts s (execTrain lane cw s) := by simp [execTrain]
theorem execXoff_lasts (rx) : Lasts s (execXoff rx s) := by simp [execXoff]
theorem execXon_lasts (rx) : Lasts s (execXon rx s) := by simp [execXon]
theorem execResend_lasts (lane cw word) : Lasts s (execResend lane cw word s) := by simp [execResend]
theorem execStopCodeword_lasts (lane cw word) : Lasts s (execStopCodeword lane cw word s) := by simp [execStopCodeword]
theorem execNak_lasts (lane cw) : Lasts s (execNak lane cw s) := by simp [execNak]
theorem execJoin_lasts (lane cw word) : Lasts s (execJoin lane cw word s) := by simp [execJoin]
theorem execSleep_lasts (rx) : Lasts s (execSleep rx s) := by simp [execSleep]
theorem execJoinTimeout_lasts (g) : Lasts s (execJoinTimeout g s) := by simp [execJoinTimeout]
theorem execFjJoin_lasts (p) : Lasts s (execFjJoin p s) := by simp [execFjJoin]

-- Time

theorem execSyncOriginate_lasts : Lasts s (execSyncOriginate s) := by simp [execSyncOriginate]
theorem execSync_lasts (lane cw) : Lasts s (execSync lane cw s) := by simp [execSync]
theorem execSyncTimeout_lasts : Lasts s (execSyncTimeout s) := by simp [execSyncTimeout]
theorem execPeerDelayExchange_lasts (quad) : Lasts s (execPeerDelayExchange quad s) := by
  unfold execPeerDelayExchange; dsimp only; (repeat' split) <;> simp
theorem execPdelayReq_lasts (lane cw) : Lasts s (execPdelayReq lane cw s) := by simp [execPdelayReq]
theorem execPdelayResp_lasts (lane cw) : Lasts s (execPdelayResp lane cw s) := by simp [execPdelayResp]

-- Regs

theorem execIdentRead_lasts (p) : Lasts s (execIdentRead p s) := by simp [execIdentRead]
theorem execIdentCert_lasts (p) : Lasts s (execIdentCert p s) := by simp [execIdentCert]
theorem execIdentAttest_lasts (p) : Lasts s (execIdentAttest p s) := by simp [execIdentAttest]
theorem execPartNumberSet_lasts (p) : Lasts s (execPartNumberSet p s) := by simp [execPartNumberSet]
theorem execRegRead_lasts (p) : Lasts s (execRegRead p s) := by simp [execRegRead]
theorem execDatumNowRead_lasts : Lasts s (execDatumNowRead s) := by simp [execDatumNowRead]
theorem execRegWrite_lasts (p) : Lasts s (execRegWrite p s) := by simp [execRegWrite]
theorem execFaultLatchedClear_lasts (lo hi) : Lasts s (execFaultLatchedClear lo hi s) := by simp [execFaultLatchedClear]
theorem execRegCommit_lasts (p) : Lasts s (execRegCommit p s) := by simp [execRegCommit]

-- FaultCmd

theorem execFaultRead_lasts (p) : Lasts s (execFaultRead p s) := by simp [execFaultRead]
theorem execFaultClear_lasts (p) : Lasts s (execFaultClear p s) := by simp [execFaultClear]
theorem execFaultPinSet_lasts (p) : Lasts s (execFaultPinSet p s) := by simp [execFaultPinSet]
theorem execFaultNPulseEnd_lasts : Lasts s (execFaultNPulseEnd s) := by simp [execFaultNPulseEnd]

-- Logbook

theorem execLogbookCommit_lasts : Lasts s (execLogbookCommit s) := by simp [execLogbookCommit]
theorem execLogRead_lasts (p) : Lasts s (execLogRead p s) := by simp [execLogRead]
theorem execLogInfo_lasts (p) : Lasts s (execLogInfo p s) := by simp [execLogInfo]
theorem execMctpLogInfo_lasts : Lasts s (execMctpLogInfo s) := by simp [execMctpLogInfo]
theorem execMctpLogRead_lasts (area first) : Lasts s (execMctpLogRead area first s) := by simp [execMctpLogRead]

-- Firmware

theorem execFwInfo_lasts (p) : Lasts s (execFwInfo p s) := by simp [execFwInfo]
theorem execFwWrite_lasts (p) : Lasts s (execFwWrite p s) := by simp [execFwWrite]
theorem execFwSwitch_lasts (p) : Lasts s (execFwSwitch p s) := by simp [execFwSwitch]
theorem execPartReset_lasts (p) : Lasts s (execPartReset p s) := by simp [execPartReset]

-- Image

theorem execImageLoad_lasts (p) : Lasts s (execImageLoad p s) := by
  unfold execImageLoad; split <;> simp

-- Frames

theorem execImageFrames_lasts (p) : Lasts s (execImageFrames p s) := by simp [execImageFrames]
theorem execImageStage_lasts (p) : Lasts s (execImageStage p s) := by simp [execImageStage]
theorem execImageUnstage_lasts (p) : Lasts s (execImageUnstage p s) := by simp [execImageUnstage]
theorem execImageUnload_lasts (p) : Lasts s (execImageUnload p s) := by simp [execImageUnload]

-- Keys

theorem execKeyLoad_lasts (p) : Lasts s (execKeyLoad p s) := by simp [execKeyLoad]
theorem execKeyClear_lasts (p) : Lasts s (execKeyClear p s) := by simp [execKeyClear]
theorem execKekAgree_lasts (p) : Lasts s (execKekAgree p s) := by simp [execKekAgree]

-- Reset

theorem execHubReset_lasts (cause) : Lasts s (execHubReset cause s) := by simp [execHubReset]
theorem execResetN_lasts (level testMode) : Lasts s (execResetN level testMode s) := by simp [execResetN]
theorem execPerstN_lasts : Lasts s (execPerstN s) := by
  unfold execPerstN; dsimp only; (repeat' split) <;> simp
theorem execPerstNRelease_lasts : Lasts s (execPerstNRelease s) := by simp [execPerstNRelease]
theorem execVstbyApplied_lasts : Lasts s (execVstbyApplied s) := by simp [execVstbyApplied]
theorem execVstbyRemoved_lasts : Lasts s (execVstbyRemoved s) := by simp [execVstbyRemoved]
theorem execMainRailsChange_lasts (rails outOfOrder) : Lasts s (execMainRailsChange rails outOfOrder s) := by simp [execMainRailsChange]
theorem execRailExcursion_lasts (rail reading) : Lasts s (execRailExcursion rail reading s) := by simp [execRailExcursion]
theorem execReferenceLoss_lasts : Lasts s (execReferenceLoss s) := by
  unfold execReferenceLoss; dsimp only; (repeat' split) <;> simp
theorem execPllRelock_lasts : Lasts s (execPllRelock s) := by simp [execPllRelock]
theorem execFwWatchdog_lasts (core) : Lasts s (execFwWatchdog core s) := by simp [execFwWatchdog]
theorem execBootFailure_lasts : Lasts s (execBootFailure s) := by simp [execBootFailure]
theorem execS2Complete_lasts (good ms) : Lasts s (execS2Complete good ms s) := by simp [execS2Complete]
theorem execS3Complete_lasts (trained ms) : Lasts s (execS3Complete trained ms s) := by simp [execS3Complete]
theorem execS4Complete_lasts (ms) : Lasts s (execS4Complete ms s) := by simp [execS4Complete]
theorem execStageBoundExpiry_lasts (st) : Lasts s (execStageBoundExpiry st s) := by simp [execStageBoundExpiry]
theorem execPldmFirmwareUpdate_lasts (image) : Lasts s (execPldmFirmwareUpdate image s) := by simp [execPldmFirmwareUpdate]

-- Thermal

theorem execPartSensors_lasts (p) : Lasts s (execPartSensors p s) := by simp [execPartSensors]
theorem execPldmPlatformMonitoring_lasts : Lasts s (execPldmPlatformMonitoring s) := by simp [execPldmPlatformMonitoring]
theorem execSensorSample_lasts (temps) : Lasts s (execSensorSample temps s) := by simp [execSensorSample]
theorem execThrottlePeriod_lasts (power) : Lasts s (execThrottlePeriod power s) := by simp [execThrottlePeriod]

-- Jtag

theorem execExtest_lasts : Lasts s (execExtest s) := by simp [execExtest]
theorem execIdcode_lasts : Lasts s (execIdcode s) := by simp [execIdcode]
theorem execSamplePreload_lasts (values) : Lasts s (execSamplePreload values s) := by simp [execSamplePreload]
theorem execClamp_lasts : Lasts s (execClamp s) := by simp [execClamp]
theorem execHighz_lasts : Lasts s (execHighz s) := by simp [execHighz]
theorem execBypass_lasts (code) : Lasts s (execBypass code s) := by simp [execBypass]

-- Mem

theorem execMemRead_lasts (p) : Lasts s (execMemRead p s) := by simp [execMemRead]
theorem execMemWrite_lasts (p) : Lasts s (execMemWrite p s) := by simp [execMemWrite]
theorem execMemAtomic_lasts (p) : Lasts s (execMemAtomic p s) := by simp [execMemAtomic]
theorem execHbmPartition_lasts (p) : Lasts s (execHbmPartition p s) := by simp [execHbmPartition]

-- Loader

theorem execCommandDispatch_lasts : Lasts s (execCommandDispatch s) := by simp [execCommandDispatch]

-- Locks

theorem execLockAcquire_lasts (p) : Lasts s (execLockAcquire p s) := by simp [execLockAcquire]
theorem execLockRelease_lasts (p) : Lasts s (execLockRelease p s) := by simp [execLockRelease]
theorem execLockQuery_lasts (p) : Lasts s (execLockQuery p s) := by simp [execLockQuery]

-- every command

/-- Every command but S1_READY keeps the lasting part. -/
theorem exec_lasts : ∀ i : Instr, (∀ ms, i ≠ .s1Ready ms) → Lasts s (exec i s)
  | .stepExecute g, _ => execStepExecute_lasts s g
  | .nop bp, _ => execNop_lasts s bp
  | .lut4x bp tt a b c d, _ => execLut4x_lasts s bp tt a b c d
  | .lut4p bp tt a b c d, _ => execLut4p_lasts s bp tt a b c d
  | .lut2s bp tt a b c d, _ => execLut2s_lasts s bp tt a b c d
  | .resolve bp tt a b c d, _ => execResolve_lasts s bp tt a b c d
  | .caseq bp tt a b, _ => execCaseq_lasts s bp tt a b
  | .mux2x bp a b c, _ => execMux2x_lasts s bp a b c
  | .latch bp tt a b d, _ => execLatch_lasts s bp tt a b d
  | .ffnext bp tt a b d, _ => execFfnext_lasts s bp tt a b d
  | .portrd bp tt, _ => execPortrd_lasts s bp tt
  | .portwr bp tt a, _ => execPortwr_lasts s bp tt a
  | .tap bp tt a, _ => execTap_lasts s bp tt a
  | .const bp tt, _ => execConst_lasts s bp tt
  | .assert bp tt a, _ => execAssert_lasts s bp tt a
  | .stop bp tt a, _ => execStop_lasts s bp tt a
  | .reservedOpcode bp w, _ => execReservedOpcode_lasts s bp w
  | .bankRead cl slot ad, _ => execBankRead_lasts s cl slot ad
  | .bankWrite cl slot ad, _ => execBankWrite_lasts s cl slot ad
  | .bankWriteIfEnable cl slot ad, _ => execBankWriteIfEnable_lasts s cl slot ad
  | .hbmRead cl ad, _ => execHbmRead_lasts s cl ad
  | .hbmWrite cl ad, _ => execHbmWrite_lasts s cl ad
  | .hbmWriteIfEnable cl ad, _ => execHbmWriteIfEnable_lasts s cl ad
  | .insetReceive cl bridge, _ => execInsetReceive_lasts s cl bridge
  | .insetSend cl bridge, _ => execInsetSend_lasts s cl bridge
  | .insetStatus cl bridge, _ => execInsetStatus_lasts s cl bridge
  | .probeShip cl, _ => execProbeShip_lasts s cl
  | .portLoadLanding cl, _ => execPortLoadLanding_lasts s cl
  | .receiveSlotArrival cl slot, _ => execReceiveSlotArrival_lasts s cl slot
  | .cargoDelivery quad slot, _ => execCargoDelivery_lasts s quad slot
  | .stagingQueueDrain cl, _ => execStagingQueueDrain_lasts s cl
  | .hbmWriteAccept cl, _ => execHbmWriteAccept_lasts s cl
  | .hbmDataArrival cl, _ => execHbmDataArrival_lasts s cl
  | .powerWindowEnd parcel, _ => execPowerWindowEnd_lasts s parcel
  | .cycleBoundary g, _ => execCycleBoundary_lasts s g
  | .autoTimeout engine, _ => execAutoTimeout_lasts s engine
  | .mirrorCompare g, _ => execMirrorCompare_lasts s g
  | .surveyCapture g, _ => execSurveyCapture_lasts s g
  | .tableCopyDone g, _ => execTableCopyDone_lasts s g
  | .timedEventDue e, _ => execTimedEventDue_lasts s e
  | .traceSampleStore engine, _ => execTraceSampleStore_lasts s engine
  | .assertionEventDrain engine, _ => execAssertionEventDrain_lasts s engine
  | .dynamicSlotGrant cl slot, _ => execDynamicSlotGrant_lasts s cl slot
  | .eccWriteback cl, _ => execEccWriteback_lasts s cl
  | .backdoorGrantTimeout cl master, _ => execBackdoorGrantTimeout_lasts s cl master
  | .sessionNop p, _ => execSessionNop_lasts s p
  | .cmdCancel p, _ => execCmdCancel_lasts s p
  | .sessionReset p, _ => execSessionReset_lasts s p
  | .identRead p, _ => execIdentRead_lasts s p
  | .identCert p, _ => execIdentCert_lasts s p
  | .identAttest p, _ => execIdentAttest_lasts s p
  | .partNumberSet p, _ => execPartNumberSet_lasts s p
  | .regRead p, _ => execRegRead_lasts s p
  | .datumNowRead, _ => execDatumNowRead_lasts s
  | .regWrite p, _ => execRegWrite_lasts s p
  | .faultLatchedClear lo hi, _ => execFaultLatchedClear_lasts s lo hi
  | .regCommit p, _ => execRegCommit_lasts s p
  | .datumPairApply, _ => execDatumPairApply_lasts s
  | .imageLoad p, _ => execImageLoad_lasts s p
  | .imageFrames p, _ => execImageFrames_lasts s p
  | .imageStage p, _ => execImageStage_lasts s p
  | .imageUnstage p, _ => execImageUnstage_lasts s p
  | .imageUnload p, _ => execImageUnload_lasts s p
  | .keyLoad p, _ => execKeyLoad_lasts s p
  | .keyClear p, _ => execKeyClear_lasts s p
  | .kekAgree p, _ => execKekAgree_lasts s p
  | .tableCommit p, _ => execTableCommit_lasts s p
  | .tablePokeActive p, _ => execTablePokeActive_lasts s p
  | .runAt p, _ => execRunAt_lasts s p
  | .runStop p, _ => execRunStop_lasts s p
  | .pauseAt p, _ => execPauseAt_lasts s p
  | .resumeAt p, _ => execResumeAt_lasts s p
  | .survey p, _ => execSurvey_lasts s p
  | .surveyRestore p, _ => execSurveyRestore_lasts s p
  | .memRead p, _ => execMemRead_lasts s p
  | .memWrite p, _ => execMemWrite_lasts s p
  | .memAtomic p, _ => execMemAtomic_lasts s p
  | .hbmPartition p, _ => execHbmPartition_lasts s p
  | .traceConfig p, _ => execTraceConfig_lasts s p
  | .traceArm p, _ => execTraceArm_lasts s p
  | .traceForce p, _ => execTraceForce_lasts s p
  | .traceRead p, _ => execTraceRead_lasts s p
  | .traceRelease p, _ => execTraceRelease_lasts s p
  | .datumRole p, _ => execDatumRole_lasts s p
  | .datumAdjust p, _ => execDatumAdjust_lasts s p
  | .datumOrigin p, _ => execDatumOrigin_lasts s p
  | .datumLinkCal p, _ => execDatumLinkCal_lasts s p
  | .trigBind p, _ => execTrigBind_lasts s p
  | .trigPulse p, _ => execTrigPulse_lasts s p
  | .trigOutEdge pin, _ => execTrigOutEdge_lasts s pin
  | .ppsOutEdge, _ => execPpsOutEdge_lasts s
  | .trigInEdge pin falling time, _ => execTrigInEdge_lasts s pin falling time
  | .ppsInEdge time, _ => execPpsInEdge_lasts s time
  | .ppsTimeout, _ => execPpsTimeout_lasts s
  | .syncOriginate, _ => execSyncOriginate_lasts s
  | .sync lane cw, _ => execSync_lasts s lane cw
  | .syncTimeout, _ => execSyncTimeout_lasts s
  | .peerDelayExchange quad, _ => execPeerDelayExchange_lasts s quad
  | .pdelayReq lane cw, _ => execPdelayReq_lasts s lane cw
  | .pdelayResp lane cw, _ => execPdelayResp_lasts s lane cw
  | .laneConfig p, _ => execLaneConfig_lasts s p
  | .laneTrain p, _ => execLaneTrain_lasts s p
  | .laneIdle p, _ => execLaneIdle_lasts s p
  | .lanePattern p, _ => execLanePattern_lasts s p
  | .laneInject p, _ => execLaneInject_lasts s p
  | .fjJoin p, _ => execFjJoin_lasts s p
  | .joinTimeout g, _ => execJoinTimeout_lasts s g
  | .codewordTransmit lane, _ => execCodewordTransmit_lasts s lane
  | .schedCodewordQueue lane, _ => execSchedCodewordQueue_lasts s lane
  | .sched lane cw, _ => execSched_lasts s lane cw
  | .pkt lane cw, _ => execPkt_lasts s lane cw
  | .idle lane cw, _ => execIdle_lasts s lane cw
  | .train lane cw, _ => execTrain_lasts s lane cw
  | .codewordUncorrectable lane, _ => execCodewordUncorrectable_lasts s lane
  | .xoff rx, _ => execXoff_lasts s rx
  | .xon rx, _ => execXon_lasts s rx
  | .resend lane cw word, _ => execResend_lasts s lane cw word
  | .stopCodeword lane cw word, _ => execStopCodeword_lasts s lane cw word
  | .nak lane cw, _ => execNak_lasts s lane cw
  | .join lane cw word, _ => execJoin_lasts s lane cw word
  | .sleep rx, _ => execSleep_lasts s rx
  | .resendRetry lane, _ => execResendRetry_lasts s lane
  | .replayTimeout lane, _ => execReplayTimeout_lasts s lane
  | .laneLockLoss lane, _ => execLaneLockLoss_lasts s lane
  | .headerTimeout lane, _ => execHeaderTimeout_lasts s lane
  | .laneRetry lane, _ => execLaneRetry_lasts s lane
  | .laneTrainingDone lane, _ => execLaneTrainingDone_lasts s lane
  | .trainingTimeout lane, _ => execTrainingTimeout_lasts s lane
  | .insetConfig p, _ => execInsetConfig_lasts s p
  | .insetFlush p, _ => execInsetFlush_lasts s p
  | .insetStamps p, _ => execInsetStamps_lasts s p
  | .insetFrameArrival bridge length, _ => execInsetFrameArrival_lasts s bridge length
  | .insetFrameReceived bridge f, _ => execInsetFrameReceived_lasts s bridge f
  | .pauseFrame bridge pfc mask quanta, _ => execPauseFrame_lasts s bridge pfc mask quanta
  | .pauseExpiry bridge prio, _ => execPauseExpiry_lasts s bridge prio
  | .pauseRepeat bridge, _ => execPauseRepeat_lasts s bridge
  | .insetFrameMove bridge, _ => execInsetFrameMove_lasts s bridge
  | .insetOutboundComplete bridge, _ => execInsetOutboundComplete_lasts s bridge
  | .insetFrameDepart bridge, _ => execInsetFrameDepart_lasts s bridge
  | .insetLinkUp bridge, _ => execInsetLinkUp_lasts s bridge
  | .insetLinkDown bridge, _ => execInsetLinkDown_lasts s bridge
  | .insetTrainingRetry bridge, _ => execInsetTrainingRetry_lasts s bridge
  | .lockAcquire p, _ => execLockAcquire_lasts s p
  | .lockRelease p, _ => execLockRelease_lasts s p
  | .lockQuery p, _ => execLockQuery_lasts s p
  | .faultRead p, _ => execFaultRead_lasts s p
  | .faultClear p, _ => execFaultClear_lasts s p
  | .faultPinSet p, _ => execFaultPinSet_lasts s p
  | .faultNPulseEnd, _ => execFaultNPulseEnd_lasts s
  | .logRead p, _ => execLogRead_lasts s p
  | .logInfo p, _ => execLogInfo_lasts s p
  | .logbookCommit, _ => execLogbookCommit_lasts s
  | .parcelAssign p, _ => execParcelAssign_lasts s p
  | .parcelRelease p, _ => execParcelRelease_lasts s p
  | .parcelCap p, _ => execParcelCap_lasts s p
  | .parcelSleep p, _ => execParcelSleep_lasts s p
  | .parcelAutoSleep parcel, _ => execParcelAutoSleep_lasts s parcel
  | .pairSet p, _ => execPairSet_lasts s p
  | .pairDivergeClear p, _ => execPairDivergeClear_lasts s p
  | .pairResponse p, _ => execPairResponse_lasts s p
  | .powerSet p, _ => execPowerSet_lasts s p
  | .domainPowerDown d early, _ => execDomainPowerDown_lasts s d early
  | .powerDownRetry d, _ => execPowerDownRetry_lasts s d
  | .hbmSelfRefreshEntry stack, _ => execHbmSelfRefreshEntry_lasts s stack
  | .domainWakeDone d, _ => execDomainWakeDone_lasts s d
  | .parcelClearDone parcel, _ => execParcelClearDone_lasts s parcel
  | .routerReconfiguration router drain, _ => execRouterReconfiguration_lasts s router drain
  | .reconfigurationAbandon router, _ => execReconfigurationAbandon_lasts s router
  | .read pk, _ => execRead_lasts s pk
  | .write pk, _ => execWrite_lasts s pk
  | .posted pk, _ => execPosted_lasts s pk
  | .atomic pk, _ => execAtomic_lasts s pk
  | .message pk, _ => execMessage_lasts s pk
  | .hbmDesignRequest req, _ => execHbmDesignRequest_lasts s req
  | .readResponse pk, _ => execReadResponse_lasts s pk
  | .ack pk, _ => execAck_lasts s pk
  | .hbmDesignReturn ret, _ => execHbmDesignReturn_lasts s ret
  | .errorResponse pk, _ => execErrorResponse_lasts s pk
  | .time pk, _ => execTime_lasts s pk
  | .wake pk, _ => execWake_lasts s pk
  | .tagTimeout tag, _ => execTagTimeout_lasts s tag
  | .fwInfo p, _ => execFwInfo_lasts s p
  | .fwWrite p, _ => execFwWrite_lasts s p
  | .fwSwitch p, _ => execFwSwitch_lasts s p
  | .partReset p, _ => execPartReset_lasts s p
  | .partSensors p, _ => execPartSensors_lasts s p
  | .hubReset cause, _ => execHubReset_lasts s cause
  | .fwWatchdog core, _ => execFwWatchdog_lasts s core
  | .sqTail session value, _ => execSqTail_lasts s session value
  | .cqHead session value, _ => execCqHead_lasts s session value
  | .sessCtlEnable session value, _ => execSessCtlEnable_lasts s session value
  | .sessCtlReset session value, _ => execSessCtlReset_lasts s session value
  | .bar0RegisterWrite function offset value, _ => execBar0RegisterWrite_lasts s function offset value
  | .commandFetch, _ => execCommandFetch_lasts s
  | .commandDispatch, _ => execCommandDispatch_lasts s
  | .coalescingTimer session, _ => execCoalescingTimer_lasts s session
  | .functionLevelReset function, _ => execFunctionLevelReset_lasts s function
  | .vfEnableChange enable numVfs, _ => execVfEnableChange_lasts s enable numVfs
  | .resetN level testMode, _ => execResetN_lasts s level testMode
  | .perstN, _ => execPerstN_lasts s
  | .vstbyApplied, _ => execVstbyApplied_lasts s
  | .mainRailsChange rails outOfOrder, _ => execMainRailsChange_lasts s rails outOfOrder
  | .railExcursion rail reading, _ => execRailExcursion_lasts s rail reading
  | .referenceLoss, _ => execReferenceLoss_lasts s
  | .pllRelock, _ => execPllRelock_lasts s
  | .sensorSample temps, _ => execSensorSample_lasts s temps
  | .throttlePeriod power, _ => execThrottlePeriod_lasts s power
  | .s1Ready ms, h => absurd rfl (h ms)
  | .bootFailure, _ => execBootFailure_lasts s
  | .s2Complete good ms, _ => execS2Complete_lasts s good ms
  | .s3Complete trained ms, _ => execS3Complete_lasts s trained ms
  | .s4Complete ms, _ => execS4Complete_lasts s ms
  | .stageBoundExpiry st, _ => execStageBoundExpiry_lasts s st
  | .mctpLogInfo, _ => execMctpLogInfo_lasts s
  | .mctpLogRead area first, _ => execMctpLogRead_lasts s area first
  | .pldmFirmwareUpdate image, _ => execPldmFirmwareUpdate_lasts s image
  | .pldmPlatformMonitoring, _ => execPldmPlatformMonitoring_lasts s
  | .extest, _ => execExtest_lasts s
  | .idcode, _ => execIdcode_lasts s
  | .samplePreload values, _ => execSamplePreload_lasts s values
  | .clamp, _ => execClamp_lasts s
  | .highz, _ => execHighz_lasts s
  | .bypass code, _ => execBypass_lasts s code
  | .datumTick, _ => execDatumTick_lasts s
  | .perstNRelease, _ => execPerstNRelease_lasts s
  | .vstbyRemoved, _ => execVstbyRemoved_lasts s
  | .hbmRefresh stack, _ => execHbmRefresh_lasts s stack
  | .checkerLock rx, _ => execCheckerLock_lasts s rx
  | .checkerLockLoss rx, _ => execCheckerLockLoss_lasts s rx
  | .undefinedOpcode opcode p, _ => execUndefinedOpcode_lasts s opcode p

/-- S1_READY leaves the grade and the parcels that failed factory test, and raises the floor or leaves it (R411). -/
theorem s1Ready_keeps (ms) :
    (s1Ready s ms).grade = s.grade ∧ (s1Ready s ms).factory = s.factory ∧ s.flash.floor ≤ (s1Ready s ms).flash.floor := by
  unfold s1Ready
  split
  · exact ⟨rfl, rfl, le_rfl⟩
  · exact ⟨rfl, rfl, le_max_left _ _⟩

/-- No command changes the grade or the parcels that failed factory test, and none lowers the rollback floor (R2, R3, R411). -/
theorem exec_keeps {t} (i) (h : exec i s = .next t) : t.grade = s.grade ∧ t.factory = s.factory ∧ s.flash.floor ≤ t.flash.floor := by
  by_cases hi : ∃ ms, i = .s1Ready ms
  · obtain ⟨ms, rfl⟩ := hi
    cases h
    exact s1Ready_keeps s ms
  · have k := exec_lasts s i (not_exists.mp hi) t h
    simp only [State.lasting, Prod.mk.injEq] at k
    exact ⟨k.1, k.2.1, k.2.2.ge⟩

/-- No step changes the grade or the parcels that failed factory test, and none lowers the rollback floor (R2, R3, R411). -/
theorem step_keeps {t} (h : step s = .next t) : t.grade = s.grade ∧ t.factory = s.factory ∧ s.flash.floor ≤ t.flash.floor := by
  unfold step at h
  split at h
  · cases h; exact ⟨rfl, rfl, le_rfl⟩
  · next c rest _ => exact exec_keeps { s with pending := rest } c h

/-- PARCELS of LEGEND is the grade alone (R460): the fields above it lie on multiples of 2 ^ 40, those below it under 2 ^ 34. -/
theorem legend_parcels : bitsOf s.legend 34 6 = s.grade % 64 := by
  simp only [State.legend, bitsOf, fieldAt]
  omega

/-- Settles O6: every row of the table keeps the grade and the parcels that failed factory test, and PARCELS of LEGEND is read from the
grade (R460). -/
theorem gradeNeverChanges : Obligations.GradeNeverChanges := by
  unfold Obligations.GradeNeverChanges
  intro s t h
  obtain ⟨hg, hf, -⟩ := step_keeps s h
  exact ⟨hg, hf, by rw [legend_parcels, legend_parcels, hg]⟩

end Sys2Proof.Machine
end

-- ==== The banks as memory: what a stored word leaves and reads back ====
section
/-! PROOFS. A store into a bank (R5, R166) writes the eight bytes of its word and no other byte. -/
namespace Sys2Proof.Machine

theorem length_leBytes (n v : Nat) : (leBytes n v).length = n := by
  induction n generalizing v with
  | zero => rfl
  | succ n ih => simp [leBytes, ih]

/-- The little-endian bytes of a number hold it as far as they reach. -/
theorem leNat_leBytes (n v : Nat) : leNat (leBytes n v) = v % 256 ^ n := by
  induction n generalizing v with
  | zero => simp [leBytes, leNat, Nat.mod_one]
  | succ n ih => simp [leBytes, leNat, ih, pow_succ', Nat.mod_mul]

/-- A stored word reads back. -/
theorem memWord_memSetWord {m : Memory} (h : memWf m = true) (a : Nat) (w : Word) : memWord (memSetWord a w m) a = w := by
  have hb := memBytes_memSetBytes (l := leBytes 8 w.toNat) (a := a) h
  rw [length_leBytes] at hb
  have hw : w.toNat % 256 ^ 8 = w.toNat := Nat.mod_eq_of_lt w.isLt
  rw [memWord, memNat, memSetWord, hb, leNat_leBytes, hw, BitVec.ofNat_toNat, BitVec.setWidth_eq]

/-- A store of a word leaves every byte outside its eight. -/
theorem memGet_memSetWord_outside {m : Memory} (h : memWf m = true) {a c : Nat} (w : Word) (hc : c < a ∨ a + 8 ≤ c) :
    memGet c (memSetWord a w m) = memGet c m :=
  memGet_memSetBytes_outside h (by rwa [length_leBytes])

theorem memBytes_congr {m m' : Memory} {a n : Nat} (h : ∀ i, i < n → memGet (a + i) m = memGet (a + i) m') :
    memBytes m a n = memBytes m' a n := by
  induction n generalizing a with
  | zero => rfl
  | succ n ih =>
    have h0 : memGet a m = memGet a m' := h 0 (Nat.succ_pos n)
    have hr : memBytes m (a + 1) n = memBytes m' (a + 1) n := ih fun i hi => by
      simpa only [Nat.add_assoc, Nat.add_comm 1 i] using h (i + 1) (by omega)
    simp only [memBytes, h0, hr]

/-- A store of a word leaves every word that lies apart from it. -/
theorem memWord_memSetWord_apart {m : Memory} (h : memWf m = true) {a b : Nat} (w : Word) (hb : b + 8 ≤ a ∨ a + 8 ≤ b) :
    memWord (memSetWord a w m) b = memWord m b := by
  have hbytes : memBytes (memSetWord a w m) b 8 = memBytes m b 8 :=
    memBytes_congr fun i hi => memGet_memSetWord_outside h w (by omega)
  rw [memWord, memWord, memNat, memNat, hbytes]

/-- Two words of the banks are the same one or lie apart. -/
theorem bankAddr_apart {c w c' w' : Nat} (hw : w < 65536) (hw' : w' < 65536) (hne : c' ≠ c ∨ w' ≠ w) :
    bankAddr c' w' + 8 ≤ bankAddr c w ∨ bankAddr c w + 8 ≤ bankAddr c' w' := by
  unfold bankAddr; omega

-- a store into a bank changes the banks' memory by its word, and no other memory

theorem bankStore_bank (s : State) (c w : Nat) (d : Word) : (s.bankStore c w d).bank = memSetWord (bankAddr c w) d s.bank := by
  unfold State.bankStore; dsimp only; split <;> rfl

theorem bankStore_hbm (s : State) (c w : Nat) (d : Word) : (s.bankStore c w d).hbm = s.hbm := by
  unfold State.bankStore; dsimp only; split <;> rfl

theorem bankStore_hostMem (s : State) (c w : Nat) (d : Word) : (s.bankStore c w d).hostMem = s.hostMem := by
  unfold State.bankStore; dsimp only; split <;> rfl

/-- Settles O12: the store writes the word's own eight bytes, where no other word of a bank has one. -/
theorem bankStoreReadsBack : Obligations.BankStoreReadsBack := by
  unfold Obligations.BankStoreReadsBack
  intro s c w d hwf hw
  simp only [State.memoriesWf, Bool.and_eq_true] at hwf
  obtain ⟨⟨hbank, hhbm⟩, hhost⟩ := hwf
  refine ⟨?_, ?_, fun a ha => ?_, fun c' w' hw' hne => ?_⟩
  · rw [State.bankWord, bankStore_bank, memWord_memSetWord hbank]
  · simp only [State.memoriesWf, bankStore_bank, bankStore_hbm, bankStore_hostMem, memWf_memSetWord hbank, hhbm, hhost, Bool.and_self]
  · rw [bankStore_bank, memGet_memSetWord_outside hbank d ha]
  · rw [State.bankWord, State.bankWord, bankStore_bank, memWord_memSetWord_apart hbank d (bankAddr_apart hw hw' hne)]

end Sys2Proof.Machine
end

-- ==== Resets: the record of a rail excursion that the end of a surrender clears ====
section
/-! REFUTATION. On a part in full service a rail excursion latches its record in unit 81, and the run groups halt (R423, R476). A halt ends a
waiting surrender, which unloads the group's images; each bridge b that an image binds is freed, and the record of unit 72 + b is cleared
with it. The statement speaks of every state, one whose image binds a bridge 9 among them: there the unload clears the record of unit 81
that was just latched. Such an image is in no state that a load has led to (R243), but nothing in the statement excludes it. -/
namespace Sys2Proof.Machine

/-- An image on parcel 0 whose one bridge is bound to bridge 9. -/
def strayImage : Image :=
  { hdrCrc := 0, imageId := 0, parcels := [0], spanning := false, sheet := 0, dx := 0, dy := 0, footW := 0, footE := 0, hbmBudget := 0
    cls := 0, nVquads := 0, nVbridges := 1, quadClass := 0, classMask := 0, keySlot := none, quadBind := [], bridgeBind := [9]
    allots := [], compare := [] }

/-- A part in full service on which run group 0 runs that image and is being surrendered. -/
def strayBinding : State :=
  { State.reset with
    boot := { Boot.init with stage := .full }
    groups := [(0, { RunGroup.init with parcels := [0], images := [strayImage], state := .running, surrender := true })] }

theorem exec_railExcursion (s : State) {rail : Nat} (mv : BitVec 16) (h : rail < 8) :
    exec (.railExcursion rail mv) s = .next (railExcursion s rail mv).settle := if_pos h

/-- 1,000 mV on rail 0, whose window ends at 795 mV: no record stands in unit 81 at the end of the row. -/
theorem strayBinding_loses_record : ((railExcursion strayBinding 0 1000).settle.faultRec 81).isSome = false := by decide +kernel

/-- Refutes O58: over its window, on the state `strayBinding`, a rail leaves no record in unit 81. -/
theorem not_resets : ¬ Obligations.Resets := by
  unfold Obligations.Resets
  intro h
  obtain ⟨-, -, -, -, -, -, -, -, -, -, -, -, -, -, -, -, -, -, -, -, -, -, -, -, hrail⟩ := h strayBinding
  obtain ⟨-, hover⟩ := hrail 0 1000 (by decide) rfl
  obtain ⟨t, ht, -, hrec, -⟩ := hover (by decide) rfl
  rw [exec_railExcursion strayBinding 1000 (by decide)] at ht
  rw [← Host.Outcome.next.inj ht, strayBinding_loses_record] at hrec
  exact absurd hrec (by decide)

end Sys2Proof.Machine
end

-- ==== The cycle boundary: what it commits, and what the rest of it leaves as it is ====
section
/-! PROOFS. CYCLE_BOUNDARY (R28, R43). Its first item commits the pending values; every later item, and the settling after it, leaves the
current copies and the pending flags alone, keeps a LOADED parcel LOADED, and keeps the place of the run group. `Stays` says so, and each
operation of the boundary has one rule for it. No table of run groups or parcels need be canonical: a group that holds a parcel and a
parcel that is LOADED differ from what an absent entry reads as. -/
namespace Sys2Proof.Machine

-- tables, canonical or not

section
variable {α β : Type} [DecidableEq α] {d : α}

theorem mget_mset_same_of_ne {k : Nat} {v : α} (hv : v ≠ d) (m : SMap α) : mget d k (mset d k v m) = v := by
  induction m with
  | nil => simp [mset, mget, hv]
  | cons e r ih =>
    obtain ⟨j, w⟩ := e
    simp only [mset, if_neg hv]
    split
    · simp [mget]
    · next hjk =>
      split
      · simp [mget]
      · next hkj => simp [mget, hjk, hkj, ih]

theorem mget_mset_other_of_ne {i k : Nat} {v : α} (hik : i ≠ k) {m : SMap α} (h : mget d i m ≠ d) :
    mget d i (mset d k v m) = mget d i m := by
  induction m with
  | nil => exact absurd rfl h
  | cons e r ih =>
    obtain ⟨j, w⟩ := e
    have hki : k ≠ i := Ne.symm hik
    by_cases hj : j = i
    · subst hj
      rw [mset, if_neg hik]
      split
      · next hkj => split <;> simp [mget, hki, hkj.le]
      · simp [mget]
    · have hij : ¬ i < j := fun hlt => h (by simp [mget, hj, hlt])
      simp only [mget, if_neg hj, if_neg hij] at h
      rw [mset]
      split
      · next hjk => split <;> simp [mget, hki, hj, hij, show ¬ i < k by omega]
      · split
        · next hkj => split <;> simp [mget, hki, hj, hij, show ¬ i < k by omega]
        · simp [mget, hj, hij, ih h]

/-- A write to any key keeps what `f` reads at `k`, where the written value reads as the old one did and `k` does not read as the default. -/
theorem mget_mset_reads {f : α → β} {i k : Nat} {v : α} {m : SMap α} (hv : f v = f (mget d i m)) (hk : f (mget d k m) ≠ f d) :
    f (mget d k (mset d i v m)) = f (mget d k m) := by
  by_cases hik : k = i
  · subst hik
    rw [mget_mset_same_of_ne (fun e => hk (by rw [← hv, e])), hv]
  · rw [mget_mset_other_of_ne hik (fun e => hk (by rw [e]))]

omit [DecidableEq α] in
theorem mem_of_mget_ne {k : Nat} {m : SMap α} (h : mget d k m ≠ d) : (k, mget d k m) ∈ m := by
  induction m with
  | nil => exact absurd rfl h
  | cons e r ih =>
    obtain ⟨j, w⟩ := e
    simp only [mget] at h ⊢
    split_ifs at h ⊢ with h1 h2
    · simp [h1]
    · exact absurd rfl h
    · exact List.mem_cons_of_mem _ (ih h)

theorem mget_eq_of_mem {k : Nat} {v : α} {m : SMap α} (hm : mwf d m = true) (h : (k, v) ∈ m) : mget d k m = v ∧ v ≠ d := by
  induction m with
  | nil => cases h
  | cons e r ih =>
    obtain ⟨j, w⟩ := e
    obtain ⟨hw, ha, hr⟩ := mwf_cons.mp hm
    rcases List.mem_cons.mp h with e | h
    · cases e; exact ⟨by simp [mget], hw⟩
    · have hjk : j < k := ha _ h
      rw [mget, if_neg (by omega), if_neg (by omega)]
      exact ih hr h

omit [DecidableEq α] in
/-- A dropped key reads as the default. -/
theorem mget_mdrop_of_dropped {p : Nat → Bool} {k : Nat} (hk : p k = true) (m : SMap α) : mget d k (mdrop p m) = d := by
  by_contra h
  have := (List.mem_filter.mp (mem_of_mget_ne h)).2
  simp [hk] at this

end

-- what stays

/-- The parcels of a run group, where it stands in its run, and whether it is being surrendered. -/
def RunGroup.place (r : RunGroup) : List Nat × Nat × Word × Bool := (r.parcels, r.step, r.cycle, r.surrender)

theorem place_haltMark (code : Nat) (r : RunGroup) : (haltMark code r).place = r.place := by
  unfold haltMark; split <;> rfl

/-- The fields of the state that the commit, the life of a parcel and the place of a run group are read from. -/
def State.held (s : State) : SMap V4 × SMap Bool × Boot × SMap Parcel × SMap RunGroup := (s.cur, s.pend, s.boot, s.parcels, s.groups)

/-- From `s` to `t` the current copies, the pending flags and the boot state (with its thermal trip) are the same, LOADED parcels stay LOADED,
and a run group `g` that holds parcels keeps its place. -/
structure Stays (g : Nat) (s t : State) : Prop where
  cur : t.cur = s.cur
  pend : t.pend = s.pend
  boot : t.boot = s.boot
  live : ∀ p, s.live p = true → t.live p = true
  place : (s.group g).parcels ≠ [] → (t.group g).place = (s.group g).place

namespace Stays
variable {g : Nat} {s t u : State}

theorem refl : Stays g s s := ⟨rfl, rfl, rfl, fun _ h => h, fun _ => rfl⟩

theorem parcels (h : Stays g s t) (hp : (s.group g).parcels ≠ []) : (t.group g).parcels = (s.group g).parcels :=
  congrArg (·.1) (h.place hp)
theorem step (h : Stays g s t) (hp : (s.group g).parcels ≠ []) : (t.group g).step = (s.group g).step :=
  congrArg (·.2.1) (h.place hp)
theorem cycle (h : Stays g s t) (hp : (s.group g).parcels ≠ []) : (t.group g).cycle = (s.group g).cycle :=
  congrArg (·.2.2.1) (h.place hp)
theorem surrender (h : Stays g s t) (hp : (s.group g).parcels ≠ []) : (t.group g).surrender = (s.group g).surrender :=
  congrArg (·.2.2.2) (h.place hp)

theorem trans (h : Stays g s t) (k : Stays g t u) : Stays g s u where
  cur := k.cur.trans h.cur
  pend := k.pend.trans h.pend
  boot := k.boot.trans h.boot
  live p hp := k.live p (h.live p hp)
  place hp := (k.place (h.parcels hp ▸ hp)).trans (h.place hp)

theorem ite {c : Prop} [Decidable c] {a b : State} (h : Stays g s a) (k : Stays g s b) : Stays g s (if c then a else b) := by
  split <;> assumption

theorem forEach {l : List Nat} {f : Nat → State → State} (h : Stays g s t) (hf : ∀ i u, Stays g s u → Stays g s (f i u)) :
    Stays g s (forEach l f t) := forEach_keep hf h

theorem foldl {α : Type} {l : List α} {f : State → α → State} (h : Stays g s t) (hf : ∀ u a, Stays g s u → Stays g s (f u a)) :
    Stays g s (l.foldl f t) := List.foldlRecOn l f h fun u hu a _ => hf u a hu

/-- An update of other fields. -/
theorem elsewhere (h : Stays g s t) (e : u.held = t.held := by rfl) : Stays g s u := by
  simp only [State.held, Prod.mk.injEq] at e
  obtain ⟨hc, hp, hb, hl, hg⟩ := e
  have hlive (p : Nat) : u.live p = t.live p := by unfold State.live State.parcel; rw [hl]
  have hgroup : u.group g = t.group g := by unfold State.group; rw [hg]
  exact ⟨hc.trans h.cur, hp.trans h.pend, hb.trans h.boot, fun p hp => (hlive p).trans (h.live p hp), fun hp => hgroup ▸ h.place hp⟩

theorem setGroup (h : Stays g s t) {i : Nat} {r : RunGroup} (hr : r.place = (t.group i).place) : Stays g s (t.setGroup i r) := by
  refine h.trans ⟨rfl, rfl, rfl, fun _ h => h, fun hp => ?_⟩
  exact mget_mset_reads (f := RunGroup.place) hr fun e => hp (congrArg (·.1) e)

theorem updGroup (h : Stays g s t) {i : Nat} {f : RunGroup → RunGroup} (hf : ∀ r, (f r).place = r.place := by exact fun _ => rfl) :
    Stays g s (t.updGroup i f) := h.setGroup (hf _)

theorem updParcel (h : Stays g s t) {i : Nat} {f : Parcel → Parcel} (hf : ∀ v, (f v).load = v.load := by exact fun _ => rfl) :
    Stays g s (t.updParcel i f) := by
  refine h.trans ⟨rfl, rfl, rfl, fun p hp => ?_, fun _ => rfl⟩
  have hl : (t.parcel p).load = .loaded := of_decide_eq_true hp
  have := mget_mset_reads (f := Parcel.load) (d := Parcel.init) (k := p) (hf (t.parcel i)) (by
    rw [show mget Parcel.init p t.parcels = t.parcel p from rfl, hl]; decide)
  exact decide_eq_true (this.trans hl)

-- raising faults (R420 to R427)

theorem sendStop (h : Stays g s t) {i : Nat} {fault : Bool} {c : Word} {except : Option Nat} :
    Stays g s (t.sendStop i fault c except) := h.forEach fun _ _ k => k.elsewhere

theorem finishParked (h : Stays g s t) {f : Entry → Wait → Option (Nat × Nat × Nat)} : Stays g s (t.finishParked f) := h.elsewhere

theorem endWaits (h : Stays g s t) {st d : Nat} {f : Wait → Bool} : Stays g s (t.endWaits st d f) := h.finishParked

theorem releasePause (h : Stays g s t) {i : Nat} : Stays g s (t.releasePause i) :=
  ite (finishParked (updGroup h)) h

theorem sendFaultStop (h : Stays g s t) {i : Nat} : Stays g s (t.sendFaultStop i) :=
  ite (sendStop (updGroup h)) h

theorem haltBegin (h : Stays g s t) {i code : Nat} : Stays g s (t.haltBegin i code) :=
  have k := h.updGroup (i := i) (place_haltMark code)
  ite k.releasePause.sendFaultStop k

theorem haltFor (h : Stays g s t) {cls unit code : Nat} : Stays g s (t.haltFor cls unit code) :=
  h.forEach fun _ _ k => ite k.haltBegin k

theorem irq (h : Stays g s t) {f v : Nat} : Stays g s (t.irq f v) := by
  rw [irq_frame]; exact h.elsewhere

theorem logHub (h : Stays g s t) {kind flags payload : Nat} : Stays g s (t.logHub kind flags payload) := by
  unfold State.logHub; rw [logRaw_frame]; exact h.elsewhere

theorem alertOut (h : Stays g s t) {was : Bool} : Stays g s (t.alertOut was) := ite h h.elsewhere

theorem irqTo (h : Stays g s t) (o : Option Nat) :
    Stays g s (match o with | some f => if f = 0 then t else t.irq f 31 | none => t) := by
  cases o with
  | none => exact h
  | some f => exact ite h h.irq

theorem raise (h : Stays g s t) {e : FaultEv} {extra : Option Nat} : Stays g s (t.raise e extra) := by
  unfold State.raise
  extract_lets cls new l k was s1 cnt s2 logged s4 s5 told halted
  have counted : Stays g s s2 := elsewhere h
  have hl : Stays g s logged := counted.logHub
  have ht : Stays g s told := ite (irqTo (irqTo hl.irq _) _) hl
  have hh : Stays g s halted := ht.haltFor
  exact ite counted (ite (alertOut (elsewhere hh)) hh)

theorem raiseAll (h : Stays g s t) {l : List FaultEv} : Stays g s (t.raiseAll l) := h.foldl fun _ _ k => k.raise

-- replies (R376, R377, R388, R392)

theorem signal (h : Stays g s t) {i : Nat} : Stays g s (t.signal i) := irq h.elsewhere

theorem sessionError (h : Stays g s t) {i cause : Nat} : Stays g s (t.sessionError i cause) := (raise h.elsewhere).signal

theorem releaseOne (h : Stays g s t) {i : Nat} {r : Reply} {notify : Bool} : Stays g s (t.releaseOne i r notify) :=
  ite (ite (sessionError h.elsewhere) (ite (signal h.elsewhere) h.elsewhere)) h.elsewhere

theorem applyReleased (h : Stays g s t) {e : Entry} {r : Reply} : Stays g s (t.applyReleased e r) := ite h.elsewhere h

theorem releaseLoop (l : List Entry) : ∀ kept blocked t, Stays g s t → Stays g s (releaseLoop l kept blocked t) := by
  induction l with
  | nil => exact fun _ _ _ h => h.elsewhere
  | cons e l ih =>
    intro kept blocked t h
    unfold Machine.releaseLoop
    split
    · exact ite (ih _ _ _ h.applyReleased) (ite (ih _ _ _ h.releaseOne.applyReleased) (ih _ _ _ h))
    · exact ih _ _ _ h

theorem release (h : Stays g s t) : Stays g s t.release := releaseLoop _ _ _ _ h

theorem settleSession (h : Stays g s t) {i : Nat} : Stays g s (t.settleSession i) := ite h.elsewhere h

theorem settle (h : Stays g s t) : Stays g s t.settle :=
  ite h.release (release (finishParked (h.release.forEach fun _ _ k => k.settleSession)))

-- item 1, after the commit, and item 2: signatures (R248), table pages (R112, R115)

theorem updCluster (h : Stays g s t) {i : Nat} {f : Cluster → Cluster} : Stays g s (t.updCluster i f) := h.elsewhere

theorem closeSigs (h : Stays g s t) {i : Nat} : Stays g s (t.closeSigs i) :=
  ite h (updGroup (h.forEach fun _ _ k => k.updCluster))

theorem fetchStores (h : Stays g s t) {i p : Nat} {cycle : Word} {sel : Nat → Bool} : Stays g s (t.fetchStores i p cycle sel).1 := by
  unfold State.fetchStores
  extract_lets hits bad keep v
  have k : Stays g s v := updGroup h
  exact k.elsewhere

theorem swapPages (h : Stays g s t) {i : Nat} {n : Word} {left : Bool} : Stays g s (t.swapPages i n left) :=
  forEach (raiseAll (fetchStores h.elsewhere)) fun _ _ k => k.updParcel

theorem commitDue (h : Stays g s t) {i : Nat} {n : Word} {due : Option Word → Bool} : Stays g s (t.commitDue i n due) :=
  h.swapPages.finishParked

theorem boundaryCommits (h : Stays g s t) {i : Nat} {n : Word} : Stays g s (t.boundaryCommits i n) := ite h h.commitDue

-- item 3: the trace engines and arms (R263, R264, R271)

theorem stopDue (h : Stays g s t) {i cause : Nat} {n : Word} : Stays g s (t.stopDue i cause n) := by
  unfold State.stopDue
  extract_lets r c req v
  have k : Stays g s v := setGroup h rfl
  exact ite h (ite (sendStop (updGroup k)) k)

theorem latchDiv (h : Stays g s t) {i : Nat} {cycle : Word} : Stays g s (t.latchDiv i cycle).1 := by
  unfold State.latchDiv
  dsimp only
  split
  · exact h
  · split_ifs
    · exact h
    · exact h.setGroup rfl
    · exact h.setGroup rfl

theorem closeEngine (h : Stays g s t) {i : Nat} {cycle stamp : Word} {v : TraceEval} {partner : Bool} :
    Stays g s (t.closeEngine i cycle stamp v partner) := by
  have set (e : Engine) : Stays g s (t.setEngine i e) := h.elsewhere
  exact ite (set _) (ite (set _) (ite (set _) (ite (set _) ((set _).forEach fun _ _ k => k.updCluster))))

theorem closeTrace (h : Stays g s t) {i : Nat} {cycle stamp : Word} : Stays g s (t.closeTrace i cycle stamp).1 :=
  foldl h.latchDiv fun _ _ k => k.closeEngine

theorem endTraceCycle (h : Stays g s t) {i : Nat} {cycle : Word} : Stays g s (t.endTraceCycle i cycle) :=
  forEach (h.forEach fun _ _ k => ite k k.updCluster) fun _ _ k => ite k.elsewhere k

theorem armGroup (h : Stays g s t) {i : Nat} {p : Packet} : Stays g s (t.armGroup i p) :=
  h.forEach fun _ _ k => ite (forEach k.elsewhere fun _ _ k => k.updCluster) k

theorem takeArm (h : Stays g s t) {i : Nat} {first : Word} : Stays g s (t.takeArm i first) := by
  unfold State.takeArm
  split
  · exact h
  · exact (updGroup h.armGroup).finishParked

theorem boundaryTrace (h : Stays g s t) {i : Nat} {n : Word} : Stays g s (t.boundaryTrace i n) := by
  have arms (v : State) (k : Stays g s v) (waits : Bool) (timed : Option Word) : Stays g s
      (if waits then v.updGroup i fun r => { r with armWaits := false }
        else match timed with
        | some at_ => if dueAt (v.tOpen (v.nextOpp i)) at_ then v.takeArm i (n + 1) else v
        | none => v.takeArm i (n + 1)) := by
    refine ite k.updGroup ?_
    split
    · exact ite k.takeArm k
    · exact k.takeArm
  have closed : Stays g s (((t.closeTrace i n (t.group i).stamp).1.endTraceCycle i n).updGroup i fun v => { v with sigHold := false }) :=
    h.closeTrace.endTraceCycle.updGroup
  have c3 := ite (c := (t.closeTrace i n (t.group i).stamp).2.1 = true) (closed.stopDue (i := i) (cause := 3) (n := n)) closed
  have c1 := ite (c := (t.closeTrace i n (t.group i).stamp).2.2.1 = true) (c3.stopDue (i := i) (cause := 1) (n := n)) c3
  exact arms _ (ite c1.updGroup c1) _ _

-- items 5 and 6: stops, halts and surveys (R131, R134, R230)

theorem setSv (h : Stays g s t) {ps : List Nat} {v : SurveyState} : Stays g s (t.setSv ps v) := h.forEach fun _ _ k => k.updParcel

theorem freeLocks (h : Stays g s t) {orphan : Bool} {f : Lock → Bool} : Stays g s (t.freeLocks orphan f) :=
  foldl h.elsewhere fun _ _ k => k.forEach fun _ _ k => k.elsewhere

/-- The end of a run unloads nothing, where the group is not being surrendered. -/
theorem endRun (h : Stays g s t) {n : Word} (hp : (s.group g).parcels ≠ []) (hs : (s.group g).surrender = false) :
    Stays g s (t.endRun g n) := by
  unfold State.endRun
  extract_lets s1 s2
  have k : Stays g s s2 := finishParked (updGroup h)
  rw [if_neg (by rw [k.surrender hp, hs]; decide)]
  exact k

theorem haltGroup (h : Stays g s t) {code : Nat} {n : Word} (hp : (s.group g).parcels ≠ []) (hs : (s.group g).surrender = false) :
    Stays g s (t.haltGroup g code n) := h.endWaits.setSv.updGroup.freeLocks.endRun hp hs

theorem boundaryStop (h : Stays g s t) {n : Word} (hp : (s.group g).parcels ≠ []) (hs : (s.group g).surrender = false) :
    Stays g s (t.boundaryStop g n) := by
  unfold State.boundaryStop
  dsimp only
  split
  · exact h.haltGroup hp hs
  · refine ite (h.updGroup.endRun hp hs) ?_
    split
    · exact h
    · exact h.updGroup.endRun hp hs

theorem boundarySurvey (h : Stays g s t) {i : Nat} {n : Word} : Stays g s (t.boundarySurvey i n) :=
  h.foldl fun _ _ k => k.setSv.updGroup

theorem tripHold (h : Stays g s t) (ht : s.boot.tripDue = false) : Stays g s t.tripHold := by
  unfold State.tripHold
  rw [h.boot, ht]
  exact h

end Stays

-- item 1: the commit (R43)

theorem sign_frame (s : State) (c : Nat) (bytes : List Byte) : ∃ clusters, s.sign c bytes = { s with clusters := clusters } := by
  unfold State.sign
  split
  · exact ⟨_, rfl⟩
  · exact ⟨_, rfl⟩

theorem updClusters_frame (l : List Nat) (f : Nat → Cluster → Cluster) (s : State) :
    ∃ clusters, forEach l (fun c t => t.updCluster c (f c)) s = { s with clusters := clusters } :=
  forEach_keep (P := fun t => ∃ clusters, t = { s with clusters := clusters }) (by rintro c t ⟨m, rfl⟩; exact ⟨_, rfl⟩) ⟨_, rfl⟩

/-- Where no code word is in error, committing an entry copies its staged value and raises nothing. -/
theorem commitEntry_clean {s : State} (he : s.ecc = []) (step : Nat) (cycle : Word) (evs : List FaultEv) (key : Nat) :
    ∃ clusters, commitEntry step cycle (s, evs) key
      = ({ s with cur := mset .x key (s.stgAt (key / 1024) (key % 1024)) s.cur, clusters := clusters }, evs) := by
  have ecc (store word : Nat) : s.eccAt store word = 0 := by unfold State.eccAt; rw [he]; rfl
  have h : commitEntry step cycle (s, evs) key = ((s.setCur (key / 1024) (key % 1024) (s.stgAt (key / 1024) (key % 1024))).sign
      (bpCluster (key / 1024)) (stateSig (key / 1024) (key % 1024) (s.stgAt (key / 1024) (key % 1024))), evs) := by
    simp [commitEntry, eccWrite, eccVal, ecc]
  obtain ⟨clusters, hs⟩ := sign_frame (s.setCur (key / 1024) (key % 1024) (s.stgAt (key / 1024) (key % 1024)))
    (bpCluster (key / 1024)) (stateSig (key / 1024) (key % 1024) (s.stgAt (key / 1024) (key % 1024)))
  refine ⟨clusters, ?_⟩
  rw [h, hs, State.setCur, Nat.div_add_mod']

theorem commitEntries_clean {s : State} (he : s.ecc = []) (hc : mwf V4.x s.cur = true) (step : Nat) (cycle : Word) (keys : List Nat) :
    ∃ cur clusters, keys.foldl (commitEntry step cycle) (s, []) = ({ s with cur := cur, clusters := clusters }, [])
      ∧ ∀ k, mget .x k cur = if k ∈ keys then s.stgAt (k / 1024) (k % 1024) else mget .x k s.cur := by
  induction keys generalizing s with
  | nil => exact ⟨_, _, rfl, fun k => by simp⟩
  | cons key keys ih =>
    obtain ⟨clusters, h⟩ := commitEntry_clean he step cycle [] key
    rw [List.foldl_cons, h]
    obtain ⟨cur, clusters', h', hk⟩ := ih (s := { s with cur := mset .x key (s.stgAt (key / 1024) (key % 1024)) s.cur
                                                         clusters := clusters }) he (mwf_mset hc)
    refine ⟨cur, clusters', h', fun k => (hk k).trans ?_⟩
    rw [mget_mset hc]
    by_cases hin : k ∈ keys
    · simp only [hin, if_true, List.mem_cons, or_true]; rfl
    · by_cases e : k = key
      · subst e; simp [hin]
      · simp [hin, e]

/-- The keys of the entries of some parcels that pend. -/
def State.pendingKeys (s : State) (ps : List Nat) : List Nat := (s.pend.filter fun e => ps.contains (bpParcel (e.1 / 1024))).map (·.1)

theorem mem_pendingKeys {s : State} (hp : mwf false s.pend = true) (ps : List Nat) {bp j : Nat} (hj : j < 1024)
    (hps : ps.contains (bpParcel bp) = true) :
    bp * 1024 + j ∈ s.pendingKeys ps ↔ s.pendAt bp j = true := by
  have hbp : (bp * 1024 + j) / 1024 = bp := by omega
  constructor
  · intro h
    obtain ⟨⟨k, v⟩, hm, rfl⟩ := List.mem_map.mp h
    obtain ⟨hv, hne⟩ := mget_eq_of_mem hp (List.mem_filter.mp hm).1
    simpa [State.pendAt, hv] using hne
  · intro h
    have hm := mem_of_mget_ne (d := false) (k := bp * 1024 + j) (m := s.pend) (by rw [State.pendAt] at h; simp [h])
    exact List.mem_map.mpr ⟨_, List.mem_filter.mpr ⟨hm, by simpa only [hbp] using hps⟩, rfl⟩

/-- Item 1 of R28 with every code word clean: the entries of the group's parcels. -/
theorem commitState_clean {s : State} (he : s.ecc = []) (hc : mwf V4.x s.cur = true) (hp : mwf false s.pend = true) (g step : Nat)
    (cycle : Word) :
    ∃ cur pend slots clusters, s.commitState g step cycle = ({ s with cur := cur, pend := pend, slots := slots, clusters := clusters }, [])
      ∧ ∀ bp j, j < 1024 → (s.group g).parcels.contains (bpParcel bp) = true → mget false (bp * 1024 + j) pend = false
        ∧ mget .x (bp * 1024 + j) cur = if s.pendAt bp j then s.stgAt bp j else mget .x (bp * 1024 + j) s.cur := by
  obtain ⟨cur, clusters, h, hk⟩ := commitEntries_clean he hc step cycle (s.pendingKeys (s.group g).parcels)
  unfold State.pendingKeys at h
  unfold State.commitState
  dsimp only
  rw [h]
  dsimp only
  obtain ⟨clusters', h'⟩ := updClusters_frame (s.group g).clusters (fun _ v => { v with port := Port.init, landings := [] }) _
  refine ⟨cur, mdrop (fun k => (s.group g).parcels.contains (bpParcel (k / 1024))) s.pend, _, clusters', Prod.ext h' rfl, fun bp j hj hps => ?_⟩
  have hbp : (bp * 1024 + j) / 1024 = bp := by omega
  have hmod : (bp * 1024 + j) % 1024 = j := by omega
  refine ⟨mget_mdrop_of_dropped ?_ _, ?_⟩
  · simpa only [hbp] using hps
  · simp only [hk, mem_pendingKeys hp _ hj hps, hbp, hmod]

-- the boundary

theorem group_updGroup_same {s : State} {g : Nat} {f : RunGroup → RunGroup} (h : (f (s.group g)).parcels ≠ []) :
    (s.updGroup g f).group g = f (s.group g) :=
  mget_mset_same_of_ne (fun e => h (by rw [e]; rfl)) s.groups

/-- A boundary that is due (R28): items 1 to 3 leave the place of the group as it is, then the cycle advances, and items 5 and 6 follow. -/
theorem boundary_due {s u : State} {g : Nat} {evs : List FaultEv} (hrun : (s.group g).state = .running) (hn : 0 < (s.group g).n)
    (hstep : (s.group g).step = (s.group g).n) (hu : s.commitState g ((s.group g).n - 1) (s.group g).cycle = (u, evs)) :
    ∃ w, Stays g u w ∧ boundary s g
      = (((w.updGroup g fun v => { v with cycle := (s.group g).cycle + 1, step := 0 }).boundaryStop g (s.group g).cycle).settle.boundarySurvey
          g (s.group g).cycle).tripHold := by
  refine ⟨((((u.closeSigs g).raiseAll evs).boundaryCommits g (s.group g).cycle).settle.boundaryTrace g (s.group g).cycle).settle,
    Stays.refl.closeSigs.raiseAll.boundaryCommits.settle.boundaryTrace.settle, ?_⟩
  unfold boundary
  dsimp only
  rw [if_neg (by simp [hrun, hstep]; omega), hu]

theorem exec_cycleBoundary (g : Nat) (s : State) : exec (.cycleBoundary g) s = groupRow g s fun t => (boundary t g).settle := rfl

/-- After a boundary that is due: what the commit left in `u` stays, and the group stands at step 0 of the next cycle. -/
theorem boundary_settled {s u : State} {g : Nat} {evs : List FaultEv} (hp : (s.group g).parcels ≠ []) (hrun : (s.group g).state = .running)
    (hn : 0 < (s.group g).n) (hstep : (s.group g).step = (s.group g).n) (hsur : (s.group g).surrender = false)
    (htrip : s.boot.tripDue = false) (hu : s.commitState g ((s.group g).n - 1) (s.group g).cycle = (u, evs))
    (hgroup : u.group g = s.group g) (hboot : u.boot = s.boot) :
    let t := (boundary s g).settle
    t.cur = u.cur ∧ t.pend = u.pend ∧ (∀ p, u.live p = true → t.live p = true)
      ∧ (t.group g).cycle = (s.group g).cycle + 1 ∧ (t.group g).step = 0 := by
  obtain ⟨w, hw, hb⟩ := boundary_due hrun hn hstep hu
  rw [← hgroup] at hp hsur
  have hwp : (w.group g).parcels ≠ [] := hw.parcels hp ▸ hp
  generalize hv : (w.updGroup g fun v => { v with cycle := (s.group g).cycle + 1, step := 0 }) = v at hb
  have hvg : v.group g = { w.group g with cycle := (s.group g).cycle + 1, step := 0 } := hv ▸ group_updGroup_same hwp
  have hvp : (v.group g).parcels ≠ [] := by rw [hvg]; exact hwp
  have hvs : (v.group g).surrender = false := by rw [hvg]; exact (hw.surrender hp).trans hsur
  have hvt : v.boot.tripDue = false := by rw [← hv]; exact (congrArg Boot.tripDue (hw.boot.trans hboot)).trans htrip
  have ht : Stays g v (boundary s g).settle := by
    rw [hb]
    exact (Stays.refl.boundaryStop hvp hvs).settle.boundarySurvey.tripHold hvt |>.settle
  refine ⟨ht.cur.trans (hv ▸ hw.cur), ht.pend.trans (hv ▸ hw.pend), fun p hl => ht.live p (hv ▸ hw.live p hl), ?_, ?_⟩
  · rw [ht.cycle hvp, hvg]
  · rw [ht.step hvp, hvg]

/-- Settles O17: the first item of the boundary commits, and everything after it stays. -/
theorem boundaryCommitsState : Obligations.BoundaryCommitsState := by
  unfold Obligations.BoundaryCommitsState
  intro s g hg r hp hrun hn hstep hsur _ htrip he hcur _ hpend
  obtain ⟨cur, pend, slots, clusters, hu, hcommit⟩ := commitState_clean he hcur hpend g (r.n - 1) r.cycle
  obtain ⟨htcur, htpend, htlive, htcycle, htstep⟩ := boundary_settled hp hrun hn hstep hsur htrip hu rfl rfl
  refine ⟨(boundary s g).settle, ?_, htcycle, htstep, fun bp j _ hj hps hlive => ?_⟩
  · rw [exec_cycleBoundary, groupRow, if_pos hg, if_neg (by simpa using hp)]
  · obtain ⟨hcleared, hvalue⟩ := hcommit bp j hj hps
    constructor
    · rw [State.pendAt, htpend, hcleared]
    · rw [State.curAt, if_pos (htlive _ hlive), htcur, hvalue, State.curAt, if_pos hlive]

end Sys2Proof.Machine
end

-- ==== LUT4X: exact over the completions of its unknown inputs ====
section
/-! PROOFS. The rows that LUT4X looks at are the completions of its inputs (R46), and there is always one. -/
namespace Sys2Proof.Machine

/-- A bit fits an input exactly where a completion can give it that bit. -/
theorem fits_iff {v : V4} {x : Bool} : fits v x = true ↔ v = v4b x ∨ known v = false := by
  cases v <;> cases x <;> decide

theorem exists_fits (v : V4) : ∃ x, fits v x = true := by
  cases v
  case one => exact ⟨true, rfl⟩
  all_goals exact ⟨false, rfl⟩

/-- The bits of a row number are the bits of its four inputs, a lowest (R54). -/
theorem ttIndex_lt (x y z w : Bool) : ttIndex x y z w < 16 := by
  cases x <;> cases y <;> cases z <;> cases w <;> decide

theorem bitOf_ttIndex (x y z w : Bool) : bitOf (ttIndex x y z w) 0 = x ∧ bitOf (ttIndex x y z w) 1 = y ∧ bitOf (ttIndex x y z w) 2 = z
    ∧ bitOf (ttIndex x y z w) 3 = w := by
  cases x <;> cases y <;> cases z <;> cases w <;> decide

theorem ttIndex_bitOf : ∀ m < 16, ttIndex (bitOf m 0) (bitOf m 1) (bitOf m 2) (bitOf m 3) = m := by decide

theorem mem_completions {a b c d : V4} {m : Nat} : m ∈ completions a b c d ↔
    ∃ x y z w, fits a x = true ∧ fits b y = true ∧ fits c z = true ∧ fits d w = true ∧ ttIndex x y z w = m := by
  simp only [completions, List.mem_filter, List.mem_range, Bool.and_eq_true, and_assoc]
  constructor
  · rintro ⟨hm, ha, hb, hc, hd⟩
    exact ⟨_, _, _, _, ha, hb, hc, hd, ttIndex_bitOf m hm⟩
  · rintro ⟨x, y, z, w, ha, hb, hc, hd, rfl⟩
    obtain ⟨hx, hy, hz, hw⟩ := bitOf_ttIndex x y z w
    rw [hx, hy, hz, hw]
    exact ⟨ttIndex_lt x y z w, ha, hb, hc, hd⟩

theorem completions_ne_nil (a b c d : V4) : completions a b c d ≠ [] := by
  obtain ⟨x, hx⟩ := exists_fits a
  obtain ⟨y, hy⟩ := exists_fits b
  obtain ⟨z, hz⟩ := exists_fits c
  obtain ⟨w, hw⟩ := exists_fits d
  exact List.ne_nil_of_mem (mem_completions.mpr ⟨x, y, z, w, hx, hy, hz, hw, rfl⟩)

/-- The table gives one value in every row that completes the inputs. -/
def TableGives (tt : BitVec 16) (a b c d : V4) (r : Bool) : Prop := ∀ m ∈ completions a b c d, tt.getLsbD m = r

theorem tableGives_iff {tt : BitVec 16} {a b c d : V4} {r : Bool} : TableGives tt a b c d r ↔
    ∀ x y z w, fits a x = true → fits b y = true → fits c z = true → fits d w = true → tt.getLsbD (ttIndex x y z w) = r := by
  constructor
  · exact fun h x y z w ha hb hc hd => h _ (mem_completions.mpr ⟨x, y, z, w, ha, hb, hc, hd, rfl⟩)
  · intro h m hm
    obtain ⟨x, y, z, w, ha, hb, hc, hd, rfl⟩ := mem_completions.mp hm
    exact h x y z w ha hb hc hd

/-- The table cannot give both values, for there is a completion. -/
theorem not_tableGives_both {tt : BitVec 16} {a b c d : V4} (h0 : TableGives tt a b c d false) (h1 : TableGives tt a b c d true) : False := by
  obtain ⟨m, hm⟩ := List.exists_mem_of_ne_nil _ (completions_ne_nil a b c d)
  exact Bool.false_ne_true ((h0 m hm).symm.trans (h1 m hm))

/-- The three results of LUT4X. -/
theorem lut4x_cases (tt : BitVec 16) (a b c d : V4) :
    (TableGives tt a b c d false ∧ lut4x tt a b c d = .zero) ∨ (TableGives tt a b c d true ∧ lut4x tt a b c d = .one)
      ∨ (¬TableGives tt a b c d false ∧ ¬TableGives tt a b c d true ∧ lut4x tt a b c d = .x) := by
  have hany : ((completions a b c d).map tt.getLsbD).any id = true ↔ ¬TableGives tt a b c d false := by simp [TableGives]
  have hall : ((completions a b c d).map tt.getLsbD).all id = true ↔ TableGives tt a b c d true := by simp [TableGives]
  by_cases h0 : TableGives tt a b c d false
  · exact .inl ⟨h0, by rw [lut4x, if_neg (mt hany.mp (not_not_intro h0))]⟩
  · by_cases h1 : TableGives tt a b c d true
    · exact .inr (.inl ⟨h1, by rw [lut4x, if_pos (hany.mpr h0), if_pos (hall.mpr h1)]⟩)
    · exact .inr (.inr ⟨h0, h1, by rw [lut4x, if_pos (hany.mpr h0), if_neg (mt hall.mp h1)]⟩)

/-- Settles O7: the table's rows that complete the inputs give one value, or both. -/
theorem lut4xExact : Obligations.Lut4xExact := by
  unfold Obligations.Lut4xExact
  intro tt a b c d completes row gives
  have hgives (r : Bool) : gives r ↔ TableGives tt a b c d r := by
    simp only [tableGives_iff, fits_iff]; exact Iff.rfl
  simp only [hgives]
  rcases lut4x_cases tt a b c d with ⟨h0, e⟩ | ⟨h1, e⟩ | ⟨h0, h1, e⟩
  · have h1 : ¬TableGives tt a b c d true := not_tableGives_both h0
    simp [e, h0, h1, v4b]
  · have h0 : ¬TableGives tt a b c d false := fun h => not_tableGives_both h h1
    simp [e, h0, h1, v4b]
  · simp [e, h0, h1, v4b]

end Sys2Proof.Machine
end

-- ==== The instructions that write a result and nothing else ====
section
/-! PROOFS. An instruction that reads its operands without an event and yields only a result leaves the result in its value store entry and
in the result register (R37), and one heavy unit where it counts (R141). -/
namespace Sys2Proof.Machine

-- what an instruction yields

section
variable {s : State} {bp : Nat} {cycle : Word}

/-- A readable operand gives its value, and no event. -/
theorem Readable.operand {ws : List (BitVec 13)} (h : Readable s bp cycle ws) : ∀ w ∈ ws, s.operand bp cycle w = (s.val bp cycle w, []) :=
  fun w hw => Prod.ext rfl (h w hw).2

theorem readable_nil : Readable s bp cycle [] := fun _ h => absurd h List.not_mem_nil

/-- A word that names no state entry and no place of the port's write side is legal where its operands are readable and its immediate is not
reserved (R35, R74). -/
theorem illegal_eq_none {i : InsWord} (hr : Readable s bp cycle i.reads) (hop : i.op ∉ [7, 8, 10, 15])
    (hkind : i.op = 4 → bitsOf i.tt.toNat 0 3 < 6)
    (hport : i.op = 9 → if i.tt.getLsbD 7 then ttPair i.tt < 36 else ttPos i.tt < 72) : i.illegal = none := by
  simp only [List.mem_cons, List.not_mem_nil, or_false, not_or] at hop
  obtain ⟨h7, h8, h10, h15⟩ := hop
  have hsel : ¬(i.reads.any fun w => decide (selOf w = .reserved)) = true := by simpa using fun w hw => (hr w hw).1
  have h4 : ¬(i.op = 4 ∧ 6 ≤ bitsOf i.tt.toNat 0 3) := fun h => absurd (hkind h.1) (by omega)
  have h9 : ¬(i.op = 9 ∧ if i.tt.getLsbD 7 then 36 ≤ ttPair i.tt else 72 ≤ ttPos i.tt) := by
    rintro ⟨h, hle⟩
    have hlt := hport h
    split_ifs at hle hlt <;> omega
  rw [InsWord.illegal, if_neg h15, if_neg hsel, if_neg (by simp [h7, h8]), if_neg h4, if_neg h9, if_neg (by simp [h10])]

variable (step : Nat) (tt : BitVec 16) {a b c d : BitVec 13}

theorem bpEval_lut4x (h : Readable s bp cycle [a, b, c, d]) : bpEval s bp step cycle true { op := 1, tt := tt, a := a, b := b, c := c, d := d }
    = { BpOut.plain (lut4x tt (s.val bp cycle a) (s.val bp cycle b) (s.val bp cycle c) (s.val bp cycle d)) [] with heavy := true } := by
  rw [bpEval, illegal_eq_none h (by simp) (by simp) (by simp)]
  simp [h.operand]

theorem bpEval_lut4p (h : Readable s bp cycle [a, b, c, d]) : bpEval s bp step cycle true { op := 2, tt := tt, a := a, b := b, c := c, d := d }
    = BpOut.plain (lut4p tt (s.val bp cycle a) (s.val bp cycle b) (s.val bp cycle c) (s.val bp cycle d)) [] := by
  rw [bpEval, illegal_eq_none h (by simp) (by simp) (by simp)]
  simp [h.operand]

theorem bpEval_lut2s (h : Readable s bp cycle [a, b, c, d]) : bpEval s bp step cycle true { op := 3, tt := tt, a := a, b := b, c := c, d := d }
    = BpOut.plain (lut2s tt (s.val bp cycle a) (s.val bp cycle b) (s.val bp cycle c) (s.val bp cycle d)) [] := by
  rw [bpEval, illegal_eq_none h (by simp) (by simp) (by simp)]
  simp [h.operand]

/-- A trireg reads its held value through a clean code word. -/
theorem bpEval_resolve (h : Readable s bp cycle [a, b, c, d]) (hk : bitsOf tt.toNat 0 3 < 6)
    (hecc : s.eccAt 1 (bp * 512 + step / 8) = 0) : bpEval s bp step cycle true { op := 4, tt := tt, a := a, b := b, c := c, d := d }
    = BpOut.plain (resolve (bitsOf tt.toNat 0 3) (tt.getLsbD 3) (s.val bp cycle a) (s.val bp cycle b) (s.val bp cycle c) (s.val bp cycle d)
        (s.valueAt bp step)) [] := by
  rw [bpEval, illegal_eq_none h (by simp) (fun _ => hk) (by simp)]
  simp [h.operand, hecc, eccEv, eccVal]

theorem bpEval_caseq (h : Readable s bp cycle [a, b]) : bpEval s bp step cycle true { op := 5, tt := tt, a := a, b := b, c := 0, d := 0 }
    = BpOut.plain (caseq (tt.getLsbD 0) (s.val bp cycle a) (s.val bp cycle b)) [] := by
  rw [bpEval, illegal_eq_none h (by simp) (by simp) (by simp)]
  simp [h.operand]

theorem bpEval_mux2x (h : Readable s bp cycle [a, b, c]) : bpEval s bp step cycle true { op := 6, tt := 0, a := a, b := b, c := c, d := 0 }
    = { BpOut.plain (mux2x true (s.val bp cycle a) (s.val bp cycle b) (s.val bp cycle c)) [] with heavy := true } := by
  rw [bpEval, illegal_eq_none h (by simp) (by simp) (by simp)]
  simp [h.operand]

theorem bpEval_portrd (h : if tt.getLsbD 7 then ttPair tt < 36 else ttPos tt < 72) :
    bpEval s bp step cycle true { op := 9, tt := tt, a := 0, b := 0, c := 0, d := 0 }
      = BpOut.plain (if tt.getLsbD 7 then latchPair (s.cluster (bpCluster bp)).port (ttPair tt)
          else latchBit (s.cluster (bpCluster bp)).port (ttPos tt)) [] := by
  rw [bpEval, illegal_eq_none (s := s) (bp := bp) (cycle := cycle) (by exact readable_nil) (by simp) (by simp) (by exact fun _ => h)]
  rfl

theorem bpEval_const : bpEval s bp step cycle true { op := 12, tt := tt, a := 0, b := 0, c := 0, d := 0 }
    = BpOut.plain (v4of (bitsOf tt.toNat 0 2)) [] := by
  rw [bpEval, illegal_eq_none (s := s) (bp := bp) (cycle := cycle) (by exact readable_nil) (by simp) (by simp) (by simp)]
  rfl

end

-- what is written of it

theorem raiseAll_nil (s : State) : s.raiseAll [] = s := by
  have hl : (faultCodes.flatMap fun c => ([] : List FaultEv).filter fun e => decide (e.code = c)) = [] :=
    List.flatMap_eq_nil_iff.mpr fun _ _ => rfl
  rw [State.raiseAll, hl, List.foldl_nil]

theorem eccWrite_clean {s : State} {store bp entry step : Nat} {cycle : Word}
    (h : s.eccAt store (bp * (if store = 1 then 512 else 128) + entry / 8) = 0) : eccWrite s store bp entry step cycle = (s, []) := by
  unfold eccWrite; exact if_pos h

theorem bpApply_plain {s : State} {bp step : Nat} (g : Nat) (cycle : Word) (v : V4) (heavy : Bool)
    (h : s.eccAt 1 (bp * 512 + step / 8) = 0) :
    bpApply s g bp step cycle { BpOut.plain v [] with heavy := heavy }
      = (if heavy then (s.wrote bp step v).countHeavy (bpParcel bp) 1 else s.wrote bp step v, []) := by
  have he : eccWrite s 1 bp step step cycle = (s, []) := eccWrite_clean h
  simp only [bpApply, BpOut.plain, readFaults, he]
  rfl

/-- The row of an instruction that yields a plain result, or one that counts. -/
theorem bpRow_plain {s : State} {bp g : Nat} {r : RunGroup} {i : InsWord} {v : V4} (heavy : Bool) (hat : AtStep s bp g r)
    (ho : bpEval s bp r.step r.cycle true i = { BpOut.plain v [] with heavy := heavy }) :
    bpRow s bp i = .next (if heavy then (s.wrote bp r.step v).countHeavy (bpParcel bp) 1 else s.wrote bp r.step v) := by
  obtain ⟨hbp, hrun, hecc⟩ := hat
  rw [bpRow, if_pos hbp, oneIns, hrun]
  dsimp only
  rw [ho, bpApply_plain g r.cycle v heavy hecc, raiseAll_nil]

/-- Settles O8: each of the eight yields a plain result, LUT4X and MUX2X one that counts. -/
theorem bpResults : Obligations.BpResults := by
  unfold Obligations.BpResults
  intro s bp g r tt a b c d hat v port
  have ⟨_, _, hecc⟩ := hat
  refine ⟨fun h => ⟨?_, ?_, ?_, fun hk => ?_⟩, fun h => ?_, fun h => ?_, fun h7 hlt => ?_, fun h7 hlt => ?_, ?_⟩
  · exact bpRow_plain true hat (bpEval_lut4x r.step tt h)
  · exact bpRow_plain false hat (bpEval_lut4p r.step tt h)
  · exact bpRow_plain false hat (bpEval_lut2s r.step tt h)
  · exact bpRow_plain false hat (bpEval_resolve r.step tt h hk hecc)
  · exact bpRow_plain false hat (bpEval_caseq r.step tt h)
  · exact bpRow_plain true hat (bpEval_mux2x r.step h)
  · exact bpRow_plain false hat (by rw [bpEval_portrd _ _ (by rw [h7]; exact hlt), h7]; rfl)
  · exact bpRow_plain false hat (by rw [bpEval_portrd _ _ (by rw [h7]; exact hlt), h7]; rfl)
  · exact bpRow_plain false hat (bpEval_const r.step tt)

end Sys2Proof.Machine
end

-- ==== Loads, unloads and failed restores: what they leave in the parcels, the stores and the run group ====
section
/-! PROOFS. The write pass of a load, an unload and a restore that fails write the stores of their clusters first, the parcels next and the
run group last; what they do between and after with quads, lanes, bridges, engines, pins and HBM leaves these as they are: one equation for
each operation says so. -/
namespace Sys2Proof.Machine

-- what the binding and freeing of units leaves as it is

/-- The stores of the clusters: values, current copies of state entries, receive slots, banks. -/
def State.stores (s : State) : SMap V4 × SMap V4 × SMap RSlot × Memory := (s.values, s.cur, s.slots, s.bank)

/-- The stores of the clusters, the parcels and the run groups. -/
def State.holdings (s : State) : (SMap V4 × SMap V4 × SMap RSlot × Memory) × SMap Parcel × SMap RunGroup :=
  (s.stores, s.parcels, s.groups)

@[simp] theorem holdings_ite {c : Prop} [Decidable c] (a b : State) :
    (if c then a else b).holdings = if c then a.holdings else b.holdings := apply_ite _ _ _ _

@[simp] theorem forEach_holdings {l : List Nat} {f : Nat → State → State} (h : ∀ i s, (f i s).holdings = s.holdings) (s : State) :
    (forEach l f s).holdings = s.holdings :=
  forEach_keep (P := fun t => t.holdings = s.holdings) (fun i t k => (h i t).trans k) rfl

@[simp] theorem foldl_holdings {α : Type} {l : List α} {f : State → α → State} (h : ∀ s a, (f s a).holdings = s.holdings) (s : State) :
    (l.foldl f s).holdings = s.holdings := foldl_proj State.holdings h l s

section
variable {s t : State}

theorem stores_of_holdings (h : t.holdings = s.holdings) : t.stores = s.stores := congrArg (·.1) h
theorem parcels_of_holdings (h : t.holdings = s.holdings) : t.parcels = s.parcels := congrArg (·.2.1) h
theorem groups_of_holdings (h : t.holdings = s.holdings) : t.groups = s.groups := congrArg (·.2.2) h
theorem group_of_holdings (h : t.holdings = s.holdings) (g : Nat) : t.group g = s.group g := by
  rw [State.group, State.group, groups_of_holdings h]
end

-- `(rfl)`, not `rfl`: simp is to use these as equations also below the binders of a loop

section
variable (s : State)

@[simp] theorem State.updCluster_holdings (c f) : (s.updCluster c f).holdings = s.holdings := (rfl)
@[simp] theorem State.updQuad_holdings (q f) : (s.updQuad q f).holdings = s.holdings := (rfl)
@[simp] theorem State.updLane_holdings (l f) : (s.updLane l f).holdings = s.holdings := (rfl)
@[simp] theorem State.setBridge_holdings (b v) : (s.setBridge b v).holdings = s.holdings := (rfl)
@[simp] theorem State.updBridge_holdings (b f) : (s.updBridge b f).holdings = s.holdings := (rfl)
@[simp] theorem State.setEngine_holdings (e v) : (s.setEngine e v).holdings = s.holdings := (rfl)
@[simp] theorem State.updEngine_holdings (e f) : (s.updEngine e f).holdings = s.holdings := (rfl)
@[simp] theorem State.setTrigOut_holdings (k v) : (s.setTrigOut k v).holdings = s.holdings := (rfl)
@[simp] theorem State.setSent_holdings (v) : (s.setSent v).holdings = s.holdings := (rfl)
@[simp] theorem State.setNet_holdings (n) : (s.setNet n).holdings = s.holdings := (rfl)
@[simp] theorem State.fresh_holdings (w) : (s.fresh w).2.holdings = s.holdings := (rfl)
@[simp] theorem State.finishParked_holdings (f) : (s.finishParked f).holdings = s.holdings := (rfl)
@[simp] theorem State.queueCtrl_holdings (l m) : (s.queueCtrl l m).holdings = s.holdings := (rfl)
@[simp] theorem State.clearRec_holdings (u) : (s.clearRec u).holdings = s.holdings := (rfl)
@[simp] theorem State.clearSchedules_holdings (qs) : (s.clearSchedules qs).holdings = s.holdings := (rfl)
@[simp] theorem State.leaveDown_holdings (d) : (s.leaveDown d).holdings = s.holdings := (rfl)
@[simp] theorem State.irq_holdings (f v) : (s.irq f v).holdings = s.holdings := by rw [irq_frame]; rfl
@[simp] theorem State.logHub_holdings (kind flags payload) : (s.logHub kind flags payload).holdings = s.holdings := by
  rw [State.logHub, logRaw_frame]; rfl
@[simp] theorem State.setEntries_holdings (l) : (s.setEntries l).holdings = s.holdings := (rfl)
@[simp] theorem State.tellPower_holdings (d sleeps completed) : (s.tellPower d sleeps completed).holdings = s.holdings := by
  unfold State.tellPower; dsimp only; simp
@[simp] theorem State.cancelDown_holdings (d) : (s.cancelDown d).holdings = s.holdings := by simp [State.cancelDown]
@[simp] theorem State.touchEngine_holdings (e) : (s.touchEngine e).holdings = s.holdings := by simp [State.touchEngine]
@[simp] theorem State.faultClaims_holdings (code) : (s.faultClaims code).holdings = s.holdings := by simp [State.faultClaims]
@[simp] theorem State.faultPulse_holdings : s.faultPulse.holdings = s.holdings := (rfl)
@[simp] theorem State.alertOut_holdings (was) : (s.alertOut was).holdings = s.holdings := by simp [State.alertOut]
@[simp] theorem State.sendStop_holdings (g faultStop cycle except) : (s.sendStop g faultStop cycle except).holdings = s.holdings := by
  simp [State.sendStop]
@[simp] theorem State.endEpisode_holdings (u code) : (s.endEpisode u code).holdings = s.holdings := by
  unfold State.endEpisode; split <;> rfl
@[simp] theorem State.startWake_holdings (d packet) : (s.startWake d packet).holdings = s.holdings := by
  unfold State.startWake; dsimp only; (repeat' split) <;> rfl
@[simp] theorem State.callDomain_holdings (d packet) : (s.callDomain d packet).holdings = s.holdings := by simp [State.callDomain]
@[simp] theorem State.zeroUnits_holdings (stack base units) : (s.zeroUnits stack base units).holdings = s.holdings := by
  unfold State.zeroUnits
  split
  · rfl
  · exact State.callDomain_holdings s (.stack stack) true
@[simp] theorem State.relink_holdings (b) : (s.relink b).holdings = s.holdings := by
  unfold State.relink; dsimp only; (repeat' split) <;> simp
@[simp] theorem State.overEnd_holdings (b tx) : (s.overEnd b tx).holdings = s.holdings := by simp [State.overEnd]
@[simp] theorem State.freeQuad_holdings (q) : (s.freeQuad q).holdings = s.holdings := by simp [State.freeQuad]
@[simp] theorem State.emptyBridge_holdings (b) : (s.emptyBridge b).holdings = s.holdings := by simp [State.emptyBridge]
@[simp] theorem State.freeBridge_holdings (b) : (s.freeBridge b).holdings = s.holdings := by simp [State.freeBridge]
@[simp] theorem State.freeEngine_holdings (e) : (s.freeEngine e).holdings = s.holdings := by simp [State.freeEngine]
@[simp] theorem State.freeImage_holdings (i) : (s.freeImage i).holdings = s.holdings := by
  unfold State.freeImage
  extract_lets s1 quads s2
  have h1 : s1.holdings = s.holdings := forEach_holdings (fun k t => by split <;> simp) s
  simp [s2, h1]
@[simp] theorem State.setPin_holdings (k new) : (s.setPin k new).holdings = s.holdings := by simp [State.setPin]
@[simp] theorem State.lowerPins_holdings (ps) : (s.lowerPins ps).holdings = s.holdings := by simp [State.lowerPins]
@[simp] theorem State.bindUnits_holdings (g fn i) : (s.bindUnits g fn i).holdings = s.holdings := by
  unfold State.bindUnits
  extract_lets s1
  have h1 : s1.holdings = s.holdings := by
    refine forEach_holdings (fun v t => ?_) s
    dsimp only
    split
    · rfl
    · refine forEach_holdings (fun u w => ?_) t
      rw [forEach_holdings (fun l x => State.updLane_holdings x l _), State.clearRec_holdings, State.updQuad_holdings]
  simp [h1]
@[simp] theorem State.replace_holdings (g cs) : (s.replace g cs).holdings = s.holdings := by simp [State.replace]

theorem bindEngine_holdings {u : State} {g fn e : Nat} {i : Image} {b : TraceBlock} (h : bindEngine s g fn e i b = some u) :
    u.holdings = s.holdings := by
  unfold bindEngine at h
  extract_lets old list s1 k st at h
  have freed : s1.holdings = s.holdings := by simp [s1]
  split at h
  · rw [← Option.some.inj h]; rfl
  · split at h
    · rw [← Option.some.inj h]; exact freed
    · split at h
      · split at h
        · rw [← Option.some.inj h]; exact (State.zeroUnits_holdings s1 _ _ _).trans freed
        · exact absurd h (by simp)
      · exact absurd h (by simp)

@[simp] theorem State.bindEngines_holdings (g fn i bs) : (s.bindEngines g fn i bs).holdings = s.holdings := by
  unfold State.bindEngines
  extract_lets s1
  have h1 : s1.holdings = s.holdings := by
    refine forEach_holdings (fun e t => ?_) s
    split
    · rfl
    · split
      · rfl
      · next u hu => exact (State.touchEngine_holdings u e).trans (bindEngine_holdings t hu)
  simp [h1]

@[simp] theorem restoreHbm_holdings (m : Memory) (l : List (Nat × Nat × Nat)) : ∀ o s, (restoreHbm m l o s).holdings = s.holdings := by
  induction l with
  | nil => exact fun _ _ => rfl
  | cons a l ih => exact fun o s => (ih _ _).trans (State.zeroUnits_holdings s a.1 a.2.1 a.2.2)
end

-- what a cleared or spoilt cluster reads as

/-- An entry of a cluster whose entries are dropped reads as the default. -/
theorem mget_dropClusters {α : Type} {d : α} {cs : List Nat} {per k c : Nat} (m : SMap α) (hc : c ∈ cs) (hk : k / per = c) :
    mget d k (dropClusters cs per m) = d :=
  mget_mdrop_of_dropped (by simpa [hk] using hc) m

theorem memNat_eq_zero {m : Memory} {a n : Nat} (h : ∀ i < n, memGet (a + i) m = 0) : memNat m a n = 0 := by
  rw [memNat]
  induction n generalizing a with
  | zero => rfl
  | succ n ih =>
    have h0 : memGet a m = 0 := h 0 n.succ_pos
    have hr : leNat (memBytes m (a + 1) n) = 0 := ih fun i hi => by
      simpa only [Nat.add_assoc, Nat.add_comm 1 i] using h (i + 1) (by omega)
    rw [memBytes, leNat, h0, hr]
    rfl

/-- A word of a bank whose bytes are dropped reads 0 (R172). -/
theorem bankWord_of_dropped {s t : State} {cs : List Nat} {c w : Nat} (hb : t.bank = s.bank.filter fun e => !cs.contains (e.1 / 524288))
    (hc : c ∈ cs) (hw : w < 65536) : t.bankWord c w = 0 := by
  have hz : memNat t.bank (bankAddr c w) 8 = 0 := memNat_eq_zero fun i hi => by
    have hcl : (bankAddr c w + i) / 524288 = c := by unfold bankAddr; omega
    rw [hb]
    exact mget_mdrop_of_dropped (p := fun k => cs.contains (k / 524288)) (by simpa [hcl] using hc) s.bank
  rw [State.bankWord, memWord, hz]
  rfl

theorem clOf_mem_clustersOf {ps : List Nat} {p k : Nat} (hp : p ∈ ps) (hk : k < 16) : clOf p k ∈ clustersOf ps := by
  simp only [clustersOf, parcelClusters, List.mem_flatten, List.mem_map]
  exact ⟨_, ⟨p, hp, rfl⟩, List.mem_map.mpr ⟨k, List.mem_range.mpr hk, rfl⟩⟩

-- a loop over the parcels of an image

/-- A loop keeps a part of the state that every turn keeps. -/
theorem forEach_proj {τ : Type} (π : State → τ) {f : Nat → State → State} (h : ∀ i t, π (f i t) = π t) (l : List Nat) (s : State) :
    π (forEach l f s) = π s := foldl_proj π (fun t i => h i t) l s

/-- A turn writes its own parcel, with what `Q` says of it, and no other. -/
def WritesParcel (Q : Parcel → Prop) (f : Nat → State → State) : Prop :=
  ∀ i t, ∃ v, Q v ∧ (f i t).parcels = mset Parcel.init i v t.parcels

theorem updParcel_stores (s : State) (i : Nat) (f : Parcel → Parcel) : (s.updParcel i f).stores = s.stores := rfl

theorem updParcel_writesParcel {Q : Parcel → Prop} {k : Nat → State → State} {f : Parcel → Parcel} (hQ : ∀ v, Q (f v))
    (hk : ∀ p t, (k p t).parcels = t.parcels) : WritesParcel Q fun p t => (k p t).updParcel p f :=
  fun p t => ⟨f ((k p t).parcel p), hQ _, by rw [← hk p t]; rfl⟩

/-- After the loop, `Q` holds of every parcel of the list, and still of each of which it did. -/
theorem forEach_writesParcel {Q : Parcel → Prop} {f : Nat → State → State} (hf : WritesParcel Q f) {ps : List Nat} {s : State}
    (h : mwf Parcel.init s.parcels = true) {p : Nat} (hp : p ∈ ps ∨ Q (s.parcel p)) : Q ((forEach ps f s).parcel p) := by
  induction ps generalizing s with
  | nil => simpa using hp
  | cons i ps ih =>
    obtain ⟨v, hv, e⟩ := hf i s
    have hq : (f i s).parcel p = if p = i then v else s.parcel p := by rw [State.parcel, e, mget_mset h]; rfl
    refine ih (by rw [e]; exact mwf_mset h) ?_
    by_cases hpi : p = i
    · exact .inr (by rwa [hq, if_pos hpi])
    · rw [hq, if_neg hpi]
      exact hp.imp_left fun hm => (List.mem_cons.mp hm).resolve_left hpi

-- an unload (R172, R214)

theorem zeroBanks_holdings (s : State) (cs : List Nat) : (s.zeroBanks cs).holdings = (s.clearClusters cs).holdings :=
  forEach_holdings (fun c t => State.updCluster_holdings t c _) _

/-- An unload leaves the stores of its clusters empty and its parcels BLANK and in no run group. -/
theorem unloadImage_leaves (s : State) (g : Nat) (i : Image) (h : mwf Parcel.init s.parcels = true) :
    (s.unloadImage g i).stores = (s.clearClusters (clustersOf i.parcels)).stores
      ∧ ∀ p ∈ i.parcels, ((s.unloadImage g i).parcel p).load = .blank ∧ ((s.unloadImage g i).parcel p).rg = none := by
  unfold State.unloadImage
  extract_lets s1 s2 s3 r left
  have h2 : s2.holdings = (s.clearClusters (clustersOf i.parcels)).holdings := by simp [s2, s1, zeroBanks_holdings]
  have h3 : s3.stores = s2.stores := forEach_proj State.stores
    (fun p t => by rw [updParcel_stores, stores_of_holdings (State.endEpisode_holdings t p 0x1010)]) i.parcels s2
  have hw : mwf Parcel.init s2.parcels = true := by rw [parcels_of_holdings h2]; exact h
  have hp : ∀ p ∈ i.parcels, (s3.parcel p).load = .blank ∧ (s3.parcel p).rg = none := fun p hp =>
    forEach_writesParcel (Q := fun v => v.load = .blank ∧ v.rg = none)
      (updParcel_writesParcel (fun v => ⟨rfl, rfl⟩) fun p t => parcels_of_holdings (State.endEpisode_holdings t p 0x1010)) hw (.inl hp)
  exact ⟨h3.trans (stores_of_holdings h2), hp⟩

-- a restore that fails in its write pass (R238)

/-- A spoilt restore leaves its clusters' values, state entries, slots and banks dropped, its parcels bad and its group at cycle 0. -/
theorem restoreSpoil_leaves (s : State) (g : Nat) (i : Image) (items : BodyItems) (hp : mwf Parcel.init s.parcels = true)
    (hg : mwf RunGroup.init s.groups = true) :
    (restoreSpoil s g i items).stores = (s.clearClusters (clustersOf i.parcels)).stores
      ∧ (∀ p ∈ i.parcels, ((restoreSpoil s g i items).parcel p).restoreBad = true) ∧ ((restoreSpoil s g i items).group g).cycle = 0 := by
  unfold restoreSpoil
  extract_lets cs s1 f m s2 s3 s4 s5 s6 s7
  have h3 : s3.holdings = s1.holdings := by simp [s3, s2, f]
  have h6 : s6.holdings = s1.holdings := by simp [s6, s5, s4, h3]
  have hstores : s7.stores = s6.stores := forEach_proj State.stores (fun p t => updParcel_stores t p _) i.parcels s6
  have hgroups : s7.groups = s6.groups := forEach_proj State.groups (fun p t => State.setParcel_groups t p _) i.parcels s6
  have hw : mwf Parcel.init s6.parcels = true := by rw [parcels_of_holdings h6]; exact hp
  have hwg : mwf RunGroup.init s7.groups = true := by rw [hgroups, groups_of_holdings h6]; exact hg
  refine ⟨?_, fun p hp => ?_, ?_⟩
  · rw [stores_of_holdings (State.replace_holdings _ g cs)]
    exact hstores.trans (stores_of_holdings h6)
  · rw [State.parcel, parcels_of_holdings (State.replace_holdings _ g cs)]
    exact forEach_writesParcel (Q := fun v => v.restoreBad = true) (updParcel_writesParcel (fun v => rfl) fun p t => rfl) hw (.inl hp)
  · rw [group_of_holdings (State.replace_holdings _ g cs), State.updGroup, State.setGroup, State.group, mget_mset_same hwg]

-- a fault leaves a run group that has not run as it is (R134, R420)

section
variable {s : State} {g : Nat}

theorem group_updGroup_other {i : Nat} (f : RunGroup → RunGroup) (hi : g ≠ i) (h : s.group g ≠ RunGroup.init) :
    (s.updGroup i f).group g = s.group g := mget_mset_other_of_ne hi h

theorem releasePause_group_other {i : Nat} (hi : g ≠ i) (h : s.group g ≠ RunGroup.init) : (s.releasePause i).group g = s.group g := by
  unfold State.releasePause
  split
  · rw [group_of_holdings (State.finishParked_holdings _ _), group_updGroup_other _ hi h]
  · rfl

theorem sendFaultStop_group_other {i : Nat} (hi : g ≠ i) (h : s.group g ≠ RunGroup.init) : (s.sendFaultStop i).group g = s.group g := by
  unfold State.sendFaultStop
  dsimp only
  split
  · rw [group_of_holdings (State.sendStop_holdings _ _ _ _ _), group_updGroup_other _ hi h]
  · rfl

theorem RunGroup.ne_init_of_loaded {r : RunGroup} (h : r.state = .loaded) : r ≠ RunGroup.init := by
  rintro rfl; exact absurd h (by decide)

theorem group_setGroup_loaded (s : State) (g : Nat) {v : RunGroup} (h : v.state = .loaded) : (s.setGroup g v).group g = v :=
  mget_mset_same_of_ne (RunGroup.ne_init_of_loaded h) _

/-- Only a running group is marked, released from its pauses, and told by stop codewords. -/
theorem haltBegin_group (i code : Nat) (h : (s.group g).state = .loaded) : (s.haltBegin i code).group g = s.group g := by
  have hne := RunGroup.ne_init_of_loaded h
  unfold State.haltBegin
  extract_lets t
  by_cases hi : g = i
  · subst hi
    rw [if_neg (by rw [h]; decide)]
    have hmark : haltMark code (s.group g) = s.group g := if_neg (by simp [h])
    rw [show t = s.setGroup g (s.group g) by simp only [t, State.updGroup, hmark]]
    exact group_setGroup_loaded s g h
  · have ht : t.group g = s.group g := group_updGroup_other _ hi hne
    split
    · have hp : (t.releasePause i).group g = s.group g := (releasePause_group_other hi (ht ▸ hne)).trans ht
      exact (sendFaultStop_group_other hi (hp ▸ hne)).trans hp
    · exact ht

theorem haltFor_group (cls unit code : Nat) (h : (s.group g).state = .loaded) : (s.haltFor cls unit code).group g = s.group g := by
  refine forEach_keep (P := fun t : State => t.group g = s.group g) (fun i t e => ?_) rfl
  split
  · exact (haltBegin_group i code (e ▸ h)).trans e
  · exact e

theorem raise_group (e : FaultEv) (extra : Option Nat) (h : (s.group g).state = .loaded) : (s.raise e extra).group g = s.group g := by
  unfold State.raise
  extract_lets cls new l k was s1 cnt s2 logged s4 s5 told halted
  have hlogged : logged.holdings = s.holdings := State.logHub_holdings s2 _ _ _
  have htold : told.holdings = s.holdings := by
    simp only [told, s5, s4]
    repeat' split
    all_goals simp only [State.irq_holdings, hlogged]
  have hgroup : told.group g = s.group g := group_of_holdings htold g
  have hhalted : halted.group g = s.group g := (haltFor_group cls e.unit e.code (hgroup ▸ h)).trans hgroup
  split
  · rfl
  · split
    · exact (group_of_holdings (by simp) g).trans hhalted
    · exact hhalted

theorem raiseAll_group (evs : List FaultEv) (h : (s.group g).state = .loaded) : (s.raiseAll evs).group g = s.group g :=
  List.foldlRecOn (motive := fun t : State => t.group g = s.group g) _ _ rfl
    fun _ e a _ => (raise_group a none (e ▸ h)).trans e

end

-- the write pass of a load (R49, R202)

/-- The group and the parcels of an image that a load has released from GSR. -/
structure Loaded (g n : Nat) (ps : List Nat) (s : State) : Prop where
  state : (s.group g).state = .loaded
  cycle : (s.group g).cycle = 0
  steps : (s.group g).n = n
  parcels : ∀ p ∈ ps, (s.parcel p).load = .loaded ∧ (s.parcel p).rg = some g

section
variable {s t : State} {g n : Nat} {ps : List Nat}

theorem Loaded.of_holdings (h : Loaded g n ps s) (e : t.holdings = s.holdings) : Loaded g n ps t := by
  have hg : t.group g = s.group g := group_of_holdings e g
  have hp (p : Nat) : t.parcel p = s.parcel p := by rw [State.parcel, State.parcel, parcels_of_holdings e]
  exact ⟨hg ▸ h.state, hg ▸ h.cycle, hg ▸ h.steps, fun p hm => hp p ▸ h.parcels p hm⟩

theorem releaseGsr_loaded (hw : mwf Parcel.init s.parcels = true) (i : Image) : Loaded g n i.parcels (s.releaseGsr g i n) := by
  unfold State.releaseGsr
  extract_lets s1 r
  refine ⟨by rw [group_setGroup_loaded _ g rfl], by rw [group_setGroup_loaded _ g rfl]; rfl, by rw [group_setGroup_loaded _ g rfl],
    fun p hp => ?_⟩
  exact forEach_writesParcel (Q := fun v => v.load = .loaded ∧ v.rg = some g)
    (updParcel_writesParcel (fun v => ⟨rfl, rfl⟩) fun p t => rfl) hw (.inl hp)

theorem Loaded.of_faulting (h : Loaded g n ps s) (k : Faulting s t) (hg : t.group g = s.group g) : Loaded g n ps t := by
  have hp : t.parcels = s.parcels := by obtain ⟨_, _, _, _, _, _, _, rfl⟩ := k; rfl
  exact ⟨hg ▸ h.state, hg ▸ h.cycle, hg ▸ h.steps, fun p hm => by rw [State.parcel, hp]; exact h.parcels p hm⟩

/-- What the fetch of a step notes and raises leaves a loaded group loaded. -/
theorem Loaded.fetchNext (h : Loaded g n ps s) (p : Nat) (cycle : Word) : Loaded g n ps (s.fetchNext g p cycle) := by
  unfold State.fetchNext
  extract_lets t
  obtain ⟨bad, hg⟩ : ∃ bad, t.1.group g = { s.group g with fetchBad := bad } :=
    ⟨_, group_setGroup_loaded s g (v := { s.group g with fetchBad := _ }) h.state⟩
  have ht : Loaded g n ps t.1 := ⟨hg ▸ h.state, hg ▸ h.cycle, hg ▸ h.steps, h.parcels⟩
  exact ht.of_faulting (raiseAll_faulting _ _) (raiseAll_group _ ht.state)

theorem writePlan_parcels (s : State) (q : Plan) : (writePlan s q).parcels = s.parcels := by
  unfold writePlan
  extract_lets mi i s1 vals sts port send quad s2 w s3 s4 s5
  have h3 : s3.parcels = s2.parcels := forEach_proj State.parcels (fun c t => State.setCluster_parcels t c _) _ s2
  have h4 : s4.parcels = s3.parcels := by
    refine foldl_proj State.parcels (fun t r => foldl_proj State.parcels (fun u c => ?_) _ t) q.bank s3
    rfl
  have h5 : s5.parcels = s4.parcels :=
    foldl_proj State.parcels (fun t a => parcels_of_holdings (State.zeroUnits_holdings t a.1 a.2.1 a.2.2)) i.allots s4
  refine Eq.trans (foldl_proj State.parcels (fun t r => foldl_proj State.parcels (fun u k => ?_) _ t) _ s5) (h5.trans (h4.trans h3))
  rfl

/-- The write pass of a load loads its parcels and its run group. -/
theorem loadWrite_loaded (s : State) (fn : Nat) (q : Plan) (hw : mwf Parcel.init s.parcels = true) :
    Loaded (s.groupNumber q.img) q.c.n q.img.parcels (loadWrite s fn q) := by
  unfold loadWrite
  extract_lets g s1 s2 s3 s4
  have hw2 : mwf Parcel.init s2.parcels = true := by
    rw [parcels_of_holdings (State.bindUnits_holdings s1 g fn q.img), writePlan_parcels]; exact hw
  have h3 : Loaded g q.c.n q.img.parcels s3 := releaseGsr_loaded hw2 q.img
  have h4 : Loaded g q.c.n q.img.parcels s4 := h3.of_holdings (forEach_holdings (fun b t => State.relink_holdings t b) s3)
  exact (h4.of_holdings (State.bindEngines_holdings s4 g fn q.img q.blocks)).fetchNext 0 0
end

/-- Settles O33: the parcels and the run group by the last loop that writes them, the stores by the first. -/
theorem loadAndUnloadStates : Obligations.LoadAndUnloadStates := by
  unfold Obligations.LoadAndUnloadStates
  refine ⟨fun s fn q hp _ => ?_, fun s g i hp _ => ?_, fun s g i items hp hg _ => ?_⟩
  · obtain ⟨hstate, hcycle, hsteps, hparcels⟩ := loadWrite_loaded s fn q hp
    exact ⟨hstate, hcycle, hsteps, hparcels⟩
  · obtain ⟨hs, hparcels⟩ := unloadImage_leaves s g i hp
    intro t p hm
    obtain ⟨hblank, hrg⟩ := hparcels p hm
    exact ⟨hblank, hrg, fun k w _ hk hw => bankWord_of_dropped (congrArg (·.2.2.2) hs) (clOf_mem_clustersOf hm hk) hw⟩
  · obtain ⟨hs, hbad, hcycle⟩ := restoreSpoil_leaves s g i items hp hg
    simp only [State.stores, Prod.mk.injEq] at hs
    obtain ⟨hvalues, hcur, hslots, hbank⟩ := hs
    refine ⟨hcycle, fun p hm => ⟨hbad p hm, fun k _ hk => ?_⟩⟩
    have hc : clOf p k ∈ clustersOf i.parcels := clOf_mem_clustersOf hm hk
    refine ⟨fun b e hb he => ?_, fun b j hb hj => ?_, fun r hr => ?_, fun w hw => bankWord_of_dropped hbank hc hw⟩
    · rw [hvalues]; exact mget_dropClusters _ hc (by omega)
    · rw [hcur]; exact mget_dropClusters _ hc (by omega)
    · rw [hslots]; exact congrArg RSlot.val (mget_dropClusters (d := RSlot.init) _ hc (by omega))

end Sys2Proof.Machine
end

-- ==== LATCH, FFNEXT and the instructions that act: what is stored, staged, posted and raised ====
section
/-! PROOFS. What an instruction yields beside its result is written in one order (R37): the state entry, the result, the port, the probe
register, the event, the stop. Each of these is one equation of `bpApply` where the code words written are clean; the row of an instruction is
that equation at what the instruction yields. -/
namespace Sys2Proof.Machine

-- what an instruction yields

section
variable {s : State} {bp : Nat} {cycle : Word}

/-- A word that reads neither a trireg nor the port is legal where no selector it reads is reserved, a state entry that it writes is one, and
a place on the write side of the port exists (R35, R74). -/
theorem illegal_eq_none_of_writes {i : InsWord} (hr : Readable s bp cycle i.reads) (hop : i.op ∉ [4, 9, 15])
    (hstate : i.op = 7 ∨ i.op = 8 → stateTarget i.d ≠ none)
    (hport : i.op = 10 → if i.tt.getLsbD 7 then ttPair i.tt < 36 else ttPos i.tt < 106) : i.illegal = none := by
  simp only [List.mem_cons, List.not_mem_nil, or_false, not_or] at hop
  obtain ⟨h4, h9, h15⟩ := hop
  have hsel : ¬(i.reads.any fun w => decide (selOf w = .reserved)) = true := by simpa using fun w hw => (hr w hw).1
  have h78 : ¬((i.op = 7 ∨ i.op = 8) ∧ stateTarget i.d = none) := fun h => hstate h.1 h.2
  have h10 : ¬(i.op = 10 ∧ if i.tt.getLsbD 7 then 36 ≤ ttPair i.tt else 106 ≤ ttPos i.tt) := by
    rintro ⟨h, hle⟩
    have hlt := hport h
    split_ifs at hle hlt <;> omega
  rw [InsWord.illegal, if_neg h15, if_neg hsel, if_neg h78, if_neg (by simp [h4]), if_neg (by simp [h9]), if_neg h10]

theorem stateTarget_of_state {d : BitVec 13} {j : Nat} (h : selOf d = .state j) : stateTarget d = some j := by
  rw [stateTarget, h]

variable (step : Nat) (tt : BitVec 16) {a b d : BitVec 13} {j : Nat}

theorem bpEval_latch (h : Readable s bp cycle [a, b, d]) (hd : selOf d = .state j) :
    bpEval s bp step cycle true { op := 7, tt := tt, a := a, b := b, c := 0, d := d }
      = let n := latchNew (tt.getLsbD 0) (s.val bp cycle a) (s.val bp cycle b) (s.val bp cycle d)
        { BpOut.plain (n.getD (s.val bp cycle d)) [] with cur := n.map fun v => (j, v) } := by
  have ht : stateTarget d = some j := stateTarget_of_state hd
  rw [bpEval, illegal_eq_none_of_writes h (by simp) (by simp [ht]) (by simp)]
  simp [h.operand, ht]

/-- What the entry would take without this FFNEXT: the value staged before it in the cycle, else the current one (R66). -/
def State.ffBase (s : State) (bp : Nat) (cycle : Word) (d : BitVec 13) (j : Nat) : V4 :=
  if s.pendAt bp j then s.stgAt bp j else s.val bp cycle d

theorem bpEval_ffnext (h : Readable s bp cycle (if tt.getLsbD 0 then [a, b, d] else [a, d])) (hd : selOf d = .state j)
    (hecc : s.eccAt 8 (bp * 128 + j / 8) = 0) :
    bpEval s bp step cycle true { op := 8, tt := tt, a := a, b := b, c := 0, d := d }
      = let n := ffNew (tt.getLsbD 0) (tt.getLsbD 1) (s.val bp cycle a) (s.val bp cycle b) (s.ffBase bp cycle d j)
        { BpOut.plain (n.getD (s.ffBase bp cycle d j)) [] with stage := n.map fun v => (j, v) } := by
  have ht : stateTarget d = some j := stateTarget_of_state hd
  have hbase : (if s.pendAt bp j then (eccVal 0 (s.stgAt bp j), eccEv 0 8 j) else (s.val bp cycle d, [])) = (s.ffBase bp cycle d j, []) :=
    (apply_ite (·, []) _ _ _).symm
  rw [bpEval, illegal_eq_none_of_writes (s := s) (bp := bp) (cycle := cycle) (by exact h) (by simp) (by simp [ht]) (by simp)]
  have hb : (s.operand bp cycle b).1 = s.val bp cycle b := rfl
  cases hen : tt.getLsbD 0 with
  | true =>
    rw [hen, if_pos rfl] at h
    simp [h.operand, ht, hecc, hbase]
  | false =>
    rw [hen, if_neg (by decide)] at h
    simp [h.operand, ht, hecc, hbase, hb]

theorem bpEval_portwr (h : Readable s bp cycle [a]) (hp : if tt.getLsbD 7 then ttPair tt < 36 else ttPos tt < 106) :
    bpEval s bp step cycle true { op := 10, tt := tt, a := a, b := 0, c := 0, d := 0 }
      = { BpOut.plain (s.val bp cycle a) [] with
          port := some (tt.getLsbD 7, if tt.getLsbD 7 then ttPair tt else ttPos tt, s.val bp cycle a) } := by
  rw [bpEval, illegal_eq_none_of_writes h (by simp) (by simp) (by exact fun _ => hp)]
  simp [h.operand]

theorem bpEval_tap (h : Readable s bp cycle [a]) : bpEval s bp step cycle true { op := 11, tt := tt, a := a, b := 0, c := 0, d := 0 }
    = { BpOut.plain (s.val bp cycle a) [] with tap := some (ttPair tt, s.val bp cycle a) } := by
  rw [bpEval, illegal_eq_none_of_writes h (by simp) (by simp) (by simp)]
  simp [h.operand]

theorem bpEval_assert (h : Readable s bp cycle [a]) : bpEval s bp step cycle true { op := 13, tt := tt, a := a, b := 0, c := 0, d := 0 }
    = { BpOut.plain (lg (s.val bp cycle a)) [] with
        event := if lg (s.val bp cycle a) = .zero then none
          else some (bitsOf tt.toNat 0 10, decide (lg (s.val bp cycle a) = .x)) } := by
  rw [bpEval, illegal_eq_none_of_writes h (by simp) (by simp) (by simp)]
  simp [h.operand]

theorem bpEval_stop (h : Readable s bp cycle [a]) : bpEval s bp step cycle true { op := 14, tt := tt, a := a, b := 0, c := 0, d := 0 }
    = { BpOut.plain (lg (s.val bp cycle a)) [] with
        stop := decide (lg (s.val bp cycle a) = .one) || (tt.getLsbD 0 && decide (lg (s.val bp cycle a) = .x)) } := by
  rw [bpEval, illegal_eq_none_of_writes h (by simp) (by simp) (by simp)]
  simp [h.operand]

theorem bpEval_nop : bpEval s bp step cycle true { op := 0, tt := 0, a := 0, b := 0, c := 0, d := 0 }
    = { BpOut.plain .x [] with result := none } := by
  rw [bpEval, illegal_eq_none_of_writes (s := s) (bp := bp) (cycle := cycle) (by exact readable_nil) (by simp) (by simp) (by simp)]
  rfl

theorem bpEval_illegal {i : InsWord} {acc : Nat} (h : i.illegal = some acc) : bpEval s bp step cycle true i = BpOut.bad acc := by
  rw [bpEval, h]

end

-- what is written of it

section
variable {s : State} {bp step : Nat} (g : Nat) (cycle : Word) (v w : V4)

theorem eccWrite_value_clean (h : s.eccAt 1 (bp * 512 + step / 8) = 0) : eccWrite s 1 bp step step cycle = (s, []) := eccWrite_clean h

theorem bpApply_cur {j : Nat} (h : s.eccAt 1 (bp * 512 + step / 8) = 0) (hj : s.eccAt 2 (bp * 128 + j / 8) = 0) :
    bpApply s g bp step cycle { BpOut.plain v [] with cur := some (j, w) } = ((s.setCur bp j w).wrote bp step v, []) := by
  have hc : eccWrite s 2 bp j step cycle = (s, []) := eccWrite_clean hj
  simp only [bpApply, BpOut.plain, readFaults, hc, eccWrite_value_clean (s := s.setCur bp j w) cycle h]
  rfl

theorem bpApply_stage {j : Nat} (h : s.eccAt 1 (bp * 512 + step / 8) = 0) (hj : s.eccAt 8 (bp * 128 + j / 8) = 0) :
    bpApply s g bp step cycle { BpOut.plain v [] with stage := some (j, w) } = ((s.setStaged bp j w).wrote bp step v, []) := by
  have hc : eccWrite s 8 bp j step cycle = (s, []) := eccWrite_clean hj
  simp only [bpApply, BpOut.plain, readFaults, hc, eccWrite_value_clean (s := s.setStaged bp j w) cycle h]
  rfl

variable (h : s.eccAt 1 (bp * 512 + step / 8) = 0)
include h

theorem bpApply_port (pair : Bool) (pos : Nat) :
    bpApply s g bp step cycle { BpOut.plain v [] with port := some (pair, pos, w) }
      = ((s.wrote bp step v).updCluster (bpCluster bp) fun k => { k with port := portWrite k.port pair pos w }, []) := by
  simp only [bpApply, BpOut.plain, readFaults, eccWrite_value_clean cycle h]; rfl

theorem bpApply_tap (pos : Nat) :
    bpApply s g bp step cycle { BpOut.plain v [] with tap := some (pos, w) }
      = ((s.wrote bp step v).updCluster (bpCluster bp) fun k => { k with port := { k.port with probe := mset .x pos w k.port.probe } }, []) := by
  simp only [bpApply, BpOut.plain, readFaults, eccWrite_value_clean cycle h]; rfl

theorem bpApply_event (id : Nat) (isX : Bool) :
    bpApply s g bp step cycle { BpOut.plain v [] with event := some (id, isX) } = postEvent (s.wrote bp step v) bp step cycle id isX := by
  simp only [bpApply, BpOut.plain, readFaults, eccWrite_value_clean cycle h]; rfl

theorem bpApply_stop : bpApply s g bp step cycle { BpOut.plain v [] with stop := true } = ((s.wrote bp step v).stopDue g 1 cycle, []) := by
  simp only [bpApply, BpOut.plain, readFaults, eccWrite_value_clean cycle h]; rfl

theorem bpApply_bad (acc : Nat) :
    bpApply s g bp step cycle (BpOut.bad acc) = (s.wrote bp step .x, [bpFault 0x1007 acc bp step cycle 0]) := by
  simp only [bpApply, BpOut.bad, BpOut.plain, readFaults, eccWrite_value_clean cycle h]; rfl

omit h in
theorem bpApply_nop : bpApply s g bp step cycle { BpOut.plain .x [] with result := none } = (s.setResult bp .x, []) := rfl

end

section
variable {s : State} {bp g : Nat} {r : RunGroup} {i : InsWord} {t : State}

theorem AtStep.result_clean (h : AtStep s bp g r) : s.eccAt 1 (bp * 512 + r.step / 8) = 0 := h.2.2

/-- The row of an instruction: what it yields is written, and its faults are raised. -/
theorem bpRow_of_apply {o : BpOut} {evs : List FaultEv} (hat : AtStep s bp g r) (ho : bpEval s bp r.step r.cycle true i = o)
    (ha : bpApply s g bp r.step r.cycle o = (t, evs)) : bpRow s bp i = .next (t.raiseAll evs) := by
  obtain ⟨hbp, hrun, -⟩ := hat
  rw [bpRow, if_pos hbp, oneIns, hrun]
  dsimp only
  rw [ho, ha]

theorem bpRow_of_apply_quiet {o : BpOut} (hat : AtStep s bp g r) (ho : bpEval s bp r.step r.cycle true i = o)
    (ha : bpApply s g bp r.step r.cycle o = (t, [])) : bpRow s bp i = .next t := by
  rw [bpRow_of_apply hat ho ha, raiseAll_nil]

end

-- LATCH and FFNEXT (R65, R66)

section
variable {s : State} {bp g : Nat} {r : RunGroup} {tt : BitVec 16} {a b d : BitVec 13} {j : Nat} {w : V4}

/-- An entry that is read without an event has a clean code word. -/
theorem eccAt_of_readable_state {ws : List (BitVec 13)} {cycle : Word} (h : Readable s bp cycle ws) (hd : d ∈ ws) (hj : selOf d = .state j) :
    s.eccAt 2 (bp * 128 + j / 8) = 0 := by
  have hev := (h d hd).2
  rw [State.operand, hj] at hev
  dsimp only [eccEv] at hev
  split_ifs at hev with h0
  exact h0

theorem exec_latch_of_some (hat : AtStep s bp g r) (hd : selOf d = .state j) (h : Readable s bp r.cycle [a, b, d])
    (hn : latchNew (tt.getLsbD 0) (s.val bp r.cycle a) (s.val bp r.cycle b) (s.val bp r.cycle d) = some w) :
    exec (.latch bp tt a b d) s = .next ((s.setCur bp j w).wrote bp r.step w) := by
  have ho := bpEval_latch r.step tt h hd
  rw [hn] at ho
  exact bpRow_of_apply_quiet hat ho (bpApply_cur g r.cycle w w hat.result_clean (eccAt_of_readable_state h (by simp) hd))

theorem exec_latch_of_none (hat : AtStep s bp g r) (hd : selOf d = .state j) (h : Readable s bp r.cycle [a, b, d])
    (hn : latchNew (tt.getLsbD 0) (s.val bp r.cycle a) (s.val bp r.cycle b) (s.val bp r.cycle d) = none) :
    exec (.latch bp tt a b d) s = .next (s.wrote bp r.step (s.val bp r.cycle d)) := by
  have ho := bpEval_latch r.step tt h hd
  rw [hn] at ho
  exact bpRow_plain false hat ho

theorem exec_ffnext_of_some (hat : AtStep s bp g r) (hd : selOf d = .state j)
    (h : Readable s bp r.cycle (if tt.getLsbD 0 then [a, b, d] else [a, d])) (hecc : s.eccAt 8 (bp * 128 + j / 8) = 0)
    (hn : ffNew (tt.getLsbD 0) (tt.getLsbD 1) (s.val bp r.cycle a) (s.val bp r.cycle b) (s.ffBase bp r.cycle d j) = some w) :
    exec (.ffnext bp tt a b d) s = .next ((s.setStaged bp j w).wrote bp r.step w) := by
  have ho := bpEval_ffnext r.step tt h hd hecc
  rw [hn] at ho
  exact bpRow_of_apply_quiet hat ho (bpApply_stage g r.cycle w w hat.result_clean hecc)

theorem exec_ffnext_of_none (hat : AtStep s bp g r) (hd : selOf d = .state j)
    (h : Readable s bp r.cycle (if tt.getLsbD 0 then [a, b, d] else [a, d])) (hecc : s.eccAt 8 (bp * 128 + j / 8) = 0)
    (hn : ffNew (tt.getLsbD 0) (tt.getLsbD 1) (s.val bp r.cycle a) (s.val bp r.cycle b) (s.ffBase bp r.cycle d j) = none) :
    exec (.ffnext bp tt a b d) s = .next (s.wrote bp r.step (s.ffBase bp r.cycle d j)) := by
  have ho := bpEval_ffnext r.step tt h hd hecc
  rw [hn] at ho
  exact bpRow_plain false hat ho

end

section
variable {useEn low : Bool} {a b cur base : V4}

theorem latchNew_of_one (h : enable low b = .one) : latchNew low a b cur = some a := by rw [latchNew, h]
theorem latchNew_of_zero (h : enable low b = .zero) : latchNew low a b cur = none := by rw [latchNew, h]
theorem latchNew_of_x (h : enable low b = .x) : latchNew low a b cur = if a = cur then none else some .x := by rw [latchNew, h]

theorem ffNew_of_one (h : (if useEn then enable low b else .one) = .one) : ffNew useEn low a b base = some a := by rw [ffNew, h]
theorem ffNew_of_zero (h : (if useEn then enable low b else .one) = .zero) : ffNew useEn low a b base = none := by rw [ffNew, h]
theorem ffNew_of_x (h : (if useEn then enable low b else .one) = .x) : ffNew useEn low a b base = some (merge a base) := by rw [ffNew, h]

end

/-- Settles O9: an enable of 1, 0 or X decides what LATCH stores and FFNEXT stages. -/
theorem bpStateWrites : Obligations.BpStateWrites := by
  unfold Obligations.BpStateWrites
  intro s bp g r tt a b d j hat hd v latchOn ffOn base
  refine ⟨fun h => ⟨fun hen => ?_, fun hen => ?_, fun hen heq => ?_, fun hen hne => ?_⟩,
    fun h hecc => ⟨fun hen => ?_, fun hen => ?_, fun hen => ?_⟩⟩
  · exact exec_latch_of_some hat hd h (latchNew_of_one hen)
  · exact exec_latch_of_none hat hd h (latchNew_of_zero hen)
  · exact exec_latch_of_none hat hd h ((latchNew_of_x hen).trans (if_pos heq))
  · exact exec_latch_of_some hat hd h ((latchNew_of_x hen).trans (if_neg hne))
  · exact exec_ffnext_of_some hat hd h hecc (ffNew_of_one hen)
  · exact exec_ffnext_of_none hat hd h hecc (ffNew_of_zero hen)
  · exact exec_ffnext_of_some hat hd h hecc (ffNew_of_x hen)

-- ASSERT (R72, R266)

section
variable {s : State} {bp : Nat} (step : Nat) (cycle : Word) (id : Nat) (isX : Bool)

/-- The matchers that an event of a cluster meets. -/
def State.matchersOf (s : State) (c : Nat) : List AMatcher := match s.watcher c with | some e => e.matchers | none => []

theorem markMatches_nil (m : SMap (Option Nat)) : markMatches [] id isX step m = m := rfl

/-- Where the FIFO has room the event enters it. -/
theorem postEvent_room (h : (s.cluster (bpCluster bp)).asserts.length < 16) : postEvent s bp step cycle id isX
    = (s.updCluster (bpCluster bp) fun k =>
        { k with matched := markMatches (s.matchersOf (bpCluster bp)) id isX step (s.cluster (bpCluster bp)).matched
                 asserts := k.asserts ++ [{ cycle := cycle, step := step, id := id, isX := isX, bp := bp % 64 }] }, []) := by
  unfold postEvent; dsimp only; exact if_pos h

/-- A full FIFO drops the event with QUEUE_OVF. -/
theorem postEvent_full (h : 16 ≤ (s.cluster (bpCluster bp)).asserts.length) : postEvent s bp step cycle id isX
    = (s.updCluster (bpCluster bp) fun k =>
        { k with matched := markMatches (s.matchersOf (bpCluster bp)) id isX step (s.cluster (bpCluster bp)).matched },
      [bpFault 0x1004 5 bp step cycle (fieldAt 28 4 + fieldAt 32 4)]) := by
  unfold postEvent; dsimp only; exact if_neg (by exact Nat.not_lt.mpr h)

end

section
variable {s : State} {bp g : Nat} {r : RunGroup} {tt : BitVec 16} {a : BitVec 13}

theorem exec_portwr (hat : AtStep s bp g r) (h : Readable s bp r.cycle [a])
    (hp : if tt.getLsbD 7 then ttPair tt < 36 else ttPos tt < 106) :
    exec (.portwr bp tt a) s = .next ((s.wrote bp r.step (s.val bp r.cycle a)).updCluster (bpCluster bp) fun k =>
      { k with port := portWrite k.port (tt.getLsbD 7) (if tt.getLsbD 7 then ttPair tt else ttPos tt) (s.val bp r.cycle a) }) :=
  bpRow_of_apply_quiet hat (bpEval_portwr r.step tt h hp) (bpApply_port g r.cycle _ _ hat.result_clean _ _)

theorem exec_tap (hat : AtStep s bp g r) (h : Readable s bp r.cycle [a]) :
    exec (.tap bp tt a) s = .next ((s.wrote bp r.step (s.val bp r.cycle a)).updCluster (bpCluster bp) fun k =>
      { k with port := { k.port with probe := mset .x (ttPair tt) (s.val bp r.cycle a) k.port.probe } }) :=
  bpRow_of_apply_quiet hat (bpEval_tap r.step tt h) (bpApply_tap g r.cycle _ _ hat.result_clean _)

theorem exec_assert_zero (hat : AtStep s bp g r) (h : Readable s bp r.cycle [a]) (hv : lg (s.val bp r.cycle a) = .zero) :
    exec (.assert bp tt a) s = .next (s.wrote bp r.step .zero) := by
  have ho := bpEval_assert r.step tt h
  rw [if_pos hv, hv] at ho
  exact bpRow_plain false hat ho

/-- An ASSERT of 1 or X posts its event on the state with the result. -/
theorem exec_assert_posts {t : State} {evs : List FaultEv} (hat : AtStep s bp g r) (h : Readable s bp r.cycle [a])
    (hv : lg (s.val bp r.cycle a) ≠ .zero)
    (ht : postEvent (s.wrote bp r.step (lg (s.val bp r.cycle a))) bp r.step r.cycle (bitsOf tt.toNat 0 10)
      (decide (lg (s.val bp r.cycle a) = .x)) = (t, evs)) :
    exec (.assert bp tt a) s = .next (t.raiseAll evs) := by
  have ho := bpEval_assert r.step tt h
  rw [if_neg hv] at ho
  exact bpRow_of_apply hat ho ((bpApply_event g r.cycle _ hat.result_clean _ _).trans ht)

theorem exec_stop_asks (hat : AtStep s bp g r) (h : Readable s bp r.cycle [a])
    (hv : lg (s.val bp r.cycle a) = .one ∨ (tt.getLsbD 0 = true ∧ lg (s.val bp r.cycle a) = .x)) :
    exec (.stop bp tt a) s = .next ((s.wrote bp r.step (lg (s.val bp r.cycle a))).stopDue g 1 r.cycle) := by
  have ho := bpEval_stop r.step tt h
  rw [show (decide (lg (s.val bp r.cycle a) = .one) || (tt.getLsbD 0 && decide (lg (s.val bp r.cycle a) = .x))) = true by simpa using hv] at ho
  exact bpRow_of_apply_quiet hat ho (bpApply_stop g r.cycle _ hat.result_clean)

theorem exec_stop_passes (hat : AtStep s bp g r) (h : Readable s bp r.cycle [a])
    (h1 : lg (s.val bp r.cycle a) ≠ .one) (hx : tt.getLsbD 0 = true → lg (s.val bp r.cycle a) ≠ .x) :
    exec (.stop bp tt a) s = .next (s.wrote bp r.step (lg (s.val bp r.cycle a))) := by
  have ho := bpEval_stop r.step tt h
  rw [show (decide (lg (s.val bp r.cycle a) = .one) || (tt.getLsbD 0 && decide (lg (s.val bp r.cycle a) = .x))) = false by
    simpa [h1] using hx] at ho
  exact bpRow_plain false hat ho

end

theorem illegal_of_opcode_15 {w : BitVec 72} (h : w.extractLsb' 68 4 = 15) : (insOf w).illegal = some 4 := by
  have hop : (insOf w).op = 15 := congrArg BitVec.toNat h
  rw [InsWord.illegal, if_pos hop]

/-- Settles O10: each of the instructions that act writes its result and its one action; a reserved word writes X and raises. -/
theorem bpActions : Obligations.BpActions := by
  unfold Obligations.BpActions
  refine ⟨fun s bp g r tt a hat h => ?_, fun s bp g r hat => ⟨?_, fun w acc hill => ⟨?_, illegal_of_opcode_15⟩⟩⟩
  · intro c v
    refine ⟨fun h7 hlt => ?_, fun h7 hlt => ?_, exec_tap hat h, exec_assert_zero hat h, fun hv hroom hw => ?_,
      fun hv => ⟨fun hroom => ?_, fun hfull => ?_⟩,
      exec_stop_asks hat h, fun hv => ?_, fun h0 hv => ?_⟩
    · have e := exec_portwr (tt := tt) hat h (by rw [h7]; exact hlt)
      rw [h7] at e
      exact e
    · have e := exec_portwr (tt := tt) hat h (by rw [h7]; exact hlt)
      rw [h7] at e
      exact e
    · rw [exec_assert_posts hat h hv (postEvent_room _ _ _ _ hroom), raiseAll_nil]
      have hm : (s.wrote bp r.step (lg v)).matchersOf c = [] := by
        rw [State.matchersOf, show (s.wrote bp r.step (lg v)).watcher c = none from hw]
      rw [hm, markMatches_nil]
      rfl
    · rw [exec_assert_posts hat h hv (postEvent_room _ _ _ _ hroom), raiseAll_nil]
      rfl
    · rw [exec_assert_posts hat h hv (postEvent_full _ _ _ _ hfull)]
      rfl
    · exact hv ▸ exec_stop_passes hat h (hv.trans_ne (by decide)) fun _ => hv.trans_ne (by decide)
    · exact hv ▸ exec_stop_passes hat h (hv.trans_ne (by decide)) fun h1 => absurd (h0.symm.trans h1) Bool.false_ne_true
  · exact bpRow_of_apply_quiet hat (bpEval_nop r.step) (bpApply_nop g r.cycle)
  · exact bpRow_of_apply hat (bpEval_illegal r.step hill) (bpApply_bad g r.cycle hat.result_clean acc)

end Sys2Proof.Machine
end

-- ==== The cluster port: its rows and its bank slots ====
section
/-! PROOFS. A row of a port operation leaves what its operation leaves, with its bytes in the mirror signature and its faults raised (R248,
R424). Each operation has one equation for each case of its address, its enable and its queues. -/
namespace Sys2Proof.Machine

-- the row

theorem sign_nil (s : State) (c : Nat) : s.sign c [] = s := if_neg fun h => h.2 rfl

section
variable {s : State} {c g : Nat} {r : RunGroup} {f : State → Port → Nat → Word → PortOut} {t : State} {evs : List FaultEv} {sig : List Byte}

theorem portRow_of (hc : c < 512) (hrun : s.runningAt c = some (g, r))
    (ho : f s (s.cluster c).port r.step r.cycle = { s := t, f := evs, sig := sig }) : portRow s c f = .next ((t.sign c sig).raiseAll evs) := by
  rw [portRow, if_pos hc, hrun]
  dsimp only
  rw [ho]

/-- The row of an operation that raises nothing. -/
theorem portRow_signed (hc : c < 512) (hrun : s.runningAt c = some (g, r))
    (ho : f s (s.cluster c).port r.step r.cycle = { s := t, f := [], sig := sig }) : portRow s c f = .next (t.sign c sig) := by
  rw [portRow_of hc hrun ho, raiseAll_nil]

/-- The row of an operation that writes nothing that the mirror compares. -/
theorem portRow_raises (hc : c < 512) (hrun : s.runningAt c = some (g, r))
    (ho : f s (s.cluster c).port r.step r.cycle = { s := t, f := evs, sig := [] }) : portRow s c f = .next (t.raiseAll evs) := by
  rw [portRow_of hc hrun ho, sign_nil]

/-- The row of an operation that does neither. -/
theorem portRow_quiet (hc : c < 512) (hrun : s.runningAt c = some (g, r))
    (ho : f s (s.cluster c).port r.step r.cycle = { s := t, f := [], sig := [] }) : portRow s c f = .next t := by
  rw [portRow_raises hc hrun ho, raiseAll_nil]

end

-- bank slots (R76 to R79, R168, R171)

/-- The index register of a slot, and its unknown bits (R78). -/
def Port.index (p : Port) : Slot → BitVec 16 | .a => p.x | .b => p.y
def Port.indexX (p : Port) : Slot → BitVec 16 | .a => p.xu | .b => p.yu

/-- The byte that marks a slot's write in the mirror signature (R248). -/
def slotTag : Slot → Byte | .a => 0xA0 | .b => 0xB0

section
variable {p : Port} {slot : Slot} {ad : PortAddr} {w : Nat}

theorem slotAddr_eq (p : Port) (slot : Slot) (ad : PortAddr) : slotAddr p slot ad
    = if ad.idx && decide (p.indexX slot ≠ 0) then none
      else some ((ad.addr.toNat + (if ad.idx then (p.index slot).toNat else 0)) % 65536) := by cases slot <;> rfl

/-- An address without the index bit is known, and so is one whose index register has no unknown bit. -/
theorem slotAddr_known (h : ad.idx = false ∧ w = ad.addr.toNat
    ∨ ad.idx = true ∧ p.indexX slot = 0 ∧ w = (ad.addr.toNat + (p.index slot).toNat) % 65536) : slotAddr p slot ad = some w := by
  rw [slotAddr_eq]
  rcases h with ⟨hi, rfl⟩ | ⟨hi, hx, rfl⟩
  · have hlt : ad.addr.toNat < 65536 := ad.addr.isLt
    simp [hi, Nat.mod_eq_of_lt hlt]
  · simp [hi, hx]

theorem slotAddr_unknown (hi : ad.idx = true) (hx : p.indexX slot ≠ 0) : slotAddr p slot ad = none := by
  rw [slotAddr_eq, if_pos (by rw [hi, decide_eq_true hx]; rfl)]

end

section
variable {s : State} {c g : Nat} {r : RunGroup} {slot : Slot} {ad : PortAddr} {w : Nat}

/-- A write of a bank word by a slot as the state shows it: the word, the atomic that it abandons, its heavy units and its signature. -/
def State.slotWrote (s : State) (c : Nat) (slot : Slot) (w : Nat) (d : Word) : State :=
  (((s.bankStore c w d).abandonAtomic c slot w).countHeavy (clParcel c) 2).sign c (slotTag slot :: leBytes 2 w ++ leBytes 8 d.toNat)

theorem bankSlotRead_clean (step : Nat) (h : s.eccAt 6 (c * 65536 + w) = 0) : bankSlotRead s c slot (some w) false step
    = { s := s.addLanding c { step := slotLanding slot step, hbm := false, data := (s.bankWord c w).setWidth 72, known := true, ready := true }
        f := [], sig := [] } := by
  simp only [bankSlotRead, h]; rfl

theorem bankSlotRead_marked (step : Nat) (h : s.eccAt 6 (c * 65536 + w) ≠ 0) : bankSlotRead s c slot (some w) false step
    = { s := (s.addLanding c { step := slotLanding slot step, hbm := false
                               data := if 2 ≤ s.eccAt 6 (c * 65536 + w) then 0 else (s.bankWord c w).setWidth 72
                               known := decide (s.eccAt 6 (c * 65536 + w) < 2), ready := true }).updCluster c fun v =>
            { v with checks := v.checks
                ++ [{ wait := match slot with | .a => 1 | .b => 2, word := w, mark := s.eccAt 6 (c * 65536 + w) }] }
        f := [], sig := [] } := by
  simp only [bankSlotRead, if_neg h]
  by_cases h2 : 2 ≤ s.eccAt 6 (c * 65536 + w)
  · simp only [if_pos h2, decide_eq_false (Nat.not_lt.mpr h2)]; rfl
  · simp only [if_neg h2, decide_eq_true (Nat.not_le.mp h2)]; rfl

theorem slotLanding_wait (slot : Slot) (step : Nat) : slotLanding slot step - step - 5 = match slot with | .a => 1 | .b => 2 := by
  cases slot
  · show step + 6 - step - 5 = 1; omega
  · show step + 7 - step - 5 = 2; omega

theorem exec_bankRead (c slot ad) (s : State) : exec (.bankRead c slot ad) s
    = portRow s c fun t p step _ => withHeavy 2 c (bankSlotRead t c slot (slotAddr p slot ad) false step) := rfl
theorem exec_bankWrite (c slot ad) (s : State) : exec (.bankWrite c slot ad) s
    = portRow s c fun t p _ _ => withHeavy 2 c (bankSlotWrite t c slot (slotAddr p slot ad) .one (p.staging.setWidth 64)) := rfl
theorem exec_bankWriteIfEnable (c slot ad) (s : State) : exec (.bankWriteIfEnable c slot ad) s
    = portRow s c fun t p _ _ => withHeavy 2 c (bankSlotWrite t c slot (slotAddr p slot ad) p.bankWen (p.staging.setWidth 64)) := rfl

/-- A scheduled write whose address and data are known stores the data. -/
theorem withHeavy_bankSlotWrite_some (s : State) (c : Nat) (slot : Slot) (w : Nat) {en : V4} {d v : Word} (hd : enabledData en d = some v) :
    withHeavy 2 c (bankSlotWrite s c slot (some w) en d)
      = { s := ((s.bankStore c w v).abandonAtomic c slot w).countHeavy (clParcel c) 2, f := []
          sig := slotTag slot :: leBytes 2 w ++ leBytes 8 v.toNat } := by
  simp only [bankSlotWrite, hd]; cases slot <;> rfl

/-- A scheduled write with an unknown address, or with nothing to store, writes nothing. -/
theorem withHeavy_bankSlotWrite_none (s : State) (c : Nat) (slot : Slot) {addr : Option Nat} {en : V4} {d : Word}
    (h : addr = none ∨ enabledData en d = none) :
    withHeavy 2 c (bankSlotWrite s c slot addr en d) = { s := s.countHeavy (clParcel c) 2, f := [], sig := [] } := by
  rcases h with rfl | h
  · rfl
  · cases addr <;> simp only [bankSlotWrite, h] <;> rfl

variable (hc : c < 512) (hrun : s.runningAt c = some (g, r))
include hc hrun

theorem exec_bankRead_clean (ha : slotAddr (s.cluster c).port slot ad = some w) (he : s.eccAt 6 (c * 65536 + w) = 0) :
    exec (.bankRead c slot ad) s = .next ((s.addLanding c
      { step := slotLanding slot r.step, hbm := false, data := (s.bankWord c w).setWidth 72, known := true, ready := true }).countHeavy
        (clParcel c) 2) := by
  rw [exec_bankRead]
  exact portRow_quiet hc hrun (by rw [ha, bankSlotRead_clean _ he]; rfl)

theorem exec_bankRead_marked (ha : slotAddr (s.cluster c).port slot ad = some w) (he : s.eccAt 6 (c * 65536 + w) ≠ 0) :
    exec (.bankRead c slot ad) s = .next (((s.addLanding c
      { step := slotLanding slot r.step, hbm := false
        data := if 2 ≤ s.eccAt 6 (c * 65536 + w) then 0 else (s.bankWord c w).setWidth 72
        known := decide (s.eccAt 6 (c * 65536 + w) < 2), ready := true }).updCluster c fun v =>
          { v with checks := v.checks
              ++ [{ wait := slotLanding slot r.step - r.step - 5, word := w, mark := s.eccAt 6 (c * 65536 + w) }] }).countHeavy (clParcel c) 2) := by
  rw [exec_bankRead]
  exact portRow_quiet hc hrun (by rw [ha, bankSlotRead_marked _ he, slotLanding_wait]; rfl)

theorem exec_bankRead_unknown (ha : slotAddr (s.cluster c).port slot ad = none) :
    exec (.bankRead c slot ad) s = .next ((s.addLanding c
      { step := slotLanding slot r.step, hbm := false, data := 0, known := false, ready := true }).countHeavy (clParcel c) 2) := by
  rw [exec_bankRead]
  exact portRow_quiet hc hrun (by rw [ha]; rfl)

theorem exec_bankWrite_known (ha : slotAddr (s.cluster c).port slot ad = some w) :
    exec (.bankWrite c slot ad) s = .next (s.slotWrote c slot w ((s.cluster c).port.staging.setWidth 64)) := by
  rw [exec_bankWrite]
  exact portRow_signed hc hrun (by rw [ha]; exact withHeavy_bankSlotWrite_some s c slot w rfl)

theorem exec_bankWrite_unknown (ha : slotAddr (s.cluster c).port slot ad = none) :
    exec (.bankWrite c slot ad) s = .next (s.countHeavy (clParcel c) 2) := by
  rw [exec_bankWrite]
  exact portRow_quiet hc hrun (withHeavy_bankSlotWrite_none s c slot (.inl ha))

theorem exec_bankWriteIfEnable_stores {d : Word} (ha : slotAddr (s.cluster c).port slot ad = some w)
    (hd : enabledData (s.cluster c).port.bankWen ((s.cluster c).port.staging.setWidth 64) = some d) :
    exec (.bankWriteIfEnable c slot ad) s = .next (s.slotWrote c slot w d) := by
  rw [exec_bankWriteIfEnable]
  exact portRow_signed hc hrun (by rw [ha]; exact withHeavy_bankSlotWrite_some s c slot w hd)

theorem exec_bankWriteIfEnable_skips (h : slotAddr (s.cluster c).port slot ad = none
    ∨ enabledData (s.cluster c).port.bankWen ((s.cluster c).port.staging.setWidth 64) = none) :
    exec (.bankWriteIfEnable c slot ad) s = .next (s.countHeavy (clParcel c) 2) := by
  rw [exec_bankWriteIfEnable]
  exact portRow_quiet hc hrun (withHeavy_bankSlotWrite_none s c slot h)

end

section
variable {en : V4} {d : Word}

theorem enabledData_of_one (h : en = .one) : enabledData en d = some d := by rw [h]; rfl
theorem enabledData_of_zero (h : en = .zero) : enabledData en d = none := by rw [h]; rfl
theorem enabledData_of_x (h : en = .x) : enabledData en d = some (BitVec.allOnes 64) := by rw [h]; rfl

end

/-- Settles O11: the address is known or unknown, the word read clean or marked, the enable 1, 0 or X. -/
theorem bankSlots : Obligations.BankSlots := by
  unfold Obligations.BankSlots
  intro s c g r slot ad hc hrun p reg flags land tag wrote
  have hreg : reg = p.index slot := by cases slot <;> rfl
  have hflags : flags = p.indexX slot := by cases slot <;> rfl
  have hland : land = slotLanding slot r.step := by cases slot <;> rfl
  have hwrote : wrote = s.slotWrote c slot := by cases slot <;> rfl
  rw [hreg, hflags, hland, hwrote]
  refine ⟨fun w hw => ?_, fun hi hx => ?_⟩
  · have ha : slotAddr p slot ad = some w := slotAddr_known hw
    exact ⟨exec_bankRead_clean hc hrun ha, exec_bankRead_marked hc hrun ha, exec_bankWrite_known hc hrun ha,
      fun hen => exec_bankWriteIfEnable_stores hc hrun ha (enabledData_of_one hen),
      fun hen => exec_bankWriteIfEnable_skips hc hrun (.inr (enabledData_of_zero hen)),
      fun hen => exec_bankWriteIfEnable_stores hc hrun ha (enabledData_of_x hen)⟩
  · have ha : slotAddr p slot ad = none := slotAddr_unknown hi hx
    exact ⟨exec_bankRead_unknown hc hrun ha, exec_bankWrite_unknown hc hrun ha, exec_bankWriteIfEnable_skips hc hrun (.inl ha)⟩

end Sys2Proof.Machine
end

-- ==== The cluster port: HBM requests and inset words ====
section
/-! PROOFS. A request for HBM is judged by its two queues, its offset and its enable (R78, R83, R154, R183); an inset operation by the queue that
it takes from or enters (R83 to R85). -/
namespace Sys2Proof.Machine

-- HBM requests

/-- The request that a port makes (R183): its word in the stack's window, and the data of a write. -/
def Cluster.request (v : Cluster) (c step : Nat) (cycle : Word) (isWrite : Bool) (off : Option Nat) (data : Option Word) : HbmReq :=
  { cycle := cycle, step := step, isWrite := isWrite, stack := winStack c v, word := off.map (winWord v), wdata := data, sent := !isWrite
    applied := false, rdata := none, back := false }

/-- The bytes that a write puts into the mirror signature (R248). -/
def Cluster.writeSig (v : Cluster) (off : Option Nat) (data : Option Word) : List Byte :=
  match off, data with
  | some o, some d => (0xC0 : Byte) :: leBytes 5 (winOff v o) ++ leBytes 8 d.toNat
  | _, _ => []

/-- What a write stores under an enable: nothing at an unknown offset (R78). -/
def writeData (p : Port) (off : Option Nat) (en : V4) : Option Word :=
  if off.isNone then none else enabledData en (p.staging.setWidth 64)

theorem hbmOff_eq (p : Port) (ad : PortAddr) : hbmOff p ad = if ad.idx = false then some ad.addr.toNat
    else if p.xu = 0 ∧ p.yu = 0 then some (ad.addr.toNat + p.y.toNat * 65536 + p.x.toNat) else none := by
  unfold hbmOff; cases ad.idx <;> rfl

section
variable {p : Port} {off : Option Nat} {en : V4}

theorem writeData_of_one (h : en = .one) : writeData p off en = off.map fun _ => p.staging.setWidth 64 := by
  subst h; cases off <;> rfl
theorem writeData_of_zero (h : en = .zero) : writeData p off en = none := by subst h; cases off <;> rfl
theorem writeData_of_x (h : en = .x) : writeData p off en = off.map fun _ => BitVec.allOnes 64 := by subst h; cases off <;> rfl

end

section
variable {s : State} {c : Nat} (p : Port) (ad : PortAddr) (step : Nat) (cycle : Word)

/-- The request queue has no entry for the cluster (R154). -/
def State.requestsFull (s : State) (c : Nat) : Prop := s.rowPairShare c ≤ s.rowPairUse c ∨ 2 ≤ (s.cluster c).winSide

theorem requestsFull_iff : s.requestsFull c
    ↔ (decide (s.rowPairShare c ≤ s.rowPairUse c) || decide (2 ≤ (s.cluster c).winSide)) = true := by
  simp [State.requestsFull]

theorem hbmOp_read_room (h : ¬s.requestsFull c) : hbmOp s p c 1 ad step cycle
    = { s := (s.setCluster c { s.cluster c with
            reqs := (s.cluster c).reqs ++ [(s.cluster c).request c step cycle false (hbmOff p ad) none] }).addLanding c
          { step := step + s.budgetOf c, hbm := true, data := 0, known := false, ready := (hbmOff p ad).isNone }
        f := [], sig := [] } :=
  if_neg (mt requestsFull_iff.mpr h)

theorem hbmOp_read_full (h : s.requestsFull c) : hbmOp s p c 1 ad step cycle
    = { s := s.addLanding c (.unknown (step + s.budgetOf c)), f := [portFault 0x1004 5 c step cycle 4 1], sig := [] } :=
  if_pos (requestsFull_iff.mp h)

/-- A write with its enable: operation 2 has none, operation 3 the enable of the write side. -/
theorem hbmOp_write_room {op : Nat} (hop : op = 2 ∨ op = 3) (h : ¬s.requestsFull c) (hs : (s.cluster c).staged.length < 8) :
    let data := writeData p (hbmOff p ad) (if op = 3 then p.hbmWen else .one)
    hbmOp s p c op ad step cycle
      = { s := s.setCluster c { s.cluster c with
            reqs := (s.cluster c).reqs ++ [(s.cluster c).request c step cycle true (hbmOff p ad) data]
            staged := (s.cluster c).staged ++ [.hbm cycle step] }
          f := [], sig := (s.cluster c).writeSig (hbmOff p ad) data } := by
  have hf := mt requestsFull_iff.mpr h
  rcases hop with rfl | rfl <;> exact (if_neg hf).trans (if_neg (by exact Nat.not_le.mpr hs))

/-- A write that finds the staging queue full enters neither queue. -/
theorem hbmOp_write_stagingFull {op : Nat} (hop : op = 2 ∨ op = 3) (h : ¬s.requestsFull c) (hs : 8 ≤ (s.cluster c).staged.length) :
    hbmOp s p c op ad step cycle
      = { s := s, f := [portFault 0x1004 5 c step cycle 4 0]
          sig := (s.cluster c).writeSig (hbmOff p ad) (writeData p (hbmOff p ad) (if op = 3 then p.hbmWen else .one)) } := by
  have hf := mt requestsFull_iff.mpr h
  rcases hop with rfl | rfl <;> exact (if_neg hf).trans (if_pos hs)

end

theorem exec_hbmRead (c ad) (s : State) : exec (.hbmRead c ad) s
    = portRow s c fun t p step cycle => withHeavy 4 c (hbmOp t p c 1 ad step cycle) := rfl
theorem exec_hbmWrite (c ad) (s : State) : exec (.hbmWrite c ad) s
    = portRow s c fun t p step cycle => withHeavy 4 c (hbmOp t p c 2 ad step cycle) := rfl
theorem exec_hbmWriteIfEnable (c ad) (s : State) : exec (.hbmWriteIfEnable c ad) s
    = portRow s c fun t p step cycle => withHeavy 4 c (hbmOp t p c 3 ad step cycle) := rfl

/-- A write of HBM that enters its two queues, as the state shows it. -/
def State.hbmWrote (s : State) (c step : Nat) (cycle : Word) (off : Option Nat) (data : Option Word) : State :=
  ((s.setCluster c { s.cluster c with
      reqs := (s.cluster c).reqs ++ [(s.cluster c).request c step cycle true off data]
      staged := (s.cluster c).staged ++ [.hbm cycle step] }).countHeavy (clParcel c) 4).sign c ((s.cluster c).writeSig off data)

section
variable {s : State} {c g : Nat} {r : RunGroup} (ad : PortAddr) (hc : c < 512) (hrun : s.runningAt c = some (g, r))
include hc hrun

theorem exec_hbmRead_room (h : ¬s.requestsFull c) :
    exec (.hbmRead c ad) s = .next (((s.setCluster c { s.cluster c with
      reqs := (s.cluster c).reqs ++ [(s.cluster c).request c r.step r.cycle false (hbmOff (s.cluster c).port ad) none] }).addLanding c
        { step := r.step + s.budgetOf c, hbm := true, data := 0, known := false
          ready := (hbmOff (s.cluster c).port ad).isNone }).countHeavy (clParcel c) 4) := by
  rw [exec_hbmRead]
  exact portRow_quiet hc hrun (by rw [hbmOp_read_room _ _ _ _ h]; rfl)

theorem exec_hbmRead_full (h : s.requestsFull c) :
    exec (.hbmRead c ad) s = .next (((s.addLanding c (.unknown (r.step + s.budgetOf c))).countHeavy (clParcel c) 4).raiseAll
      [portFault 0x1004 5 c r.step r.cycle 4 1]) := by
  rw [exec_hbmRead]
  exact portRow_raises hc hrun (by rw [hbmOp_read_full _ _ _ _ h]; rfl)

theorem exec_hbmWrite_room (h : ¬s.requestsFull c) (hs : (s.cluster c).staged.length < 8) :
    exec (.hbmWrite c ad) s = .next (s.hbmWrote c r.step r.cycle (hbmOff (s.cluster c).port ad)
      ((hbmOff (s.cluster c).port ad).map fun _ => (s.cluster c).port.staging.setWidth 64)) := by
  rw [exec_hbmWrite, ← writeData_of_one rfl]
  exact portRow_signed hc hrun (by rw [hbmOp_write_room _ _ _ _ (.inl rfl) h hs]; rfl)

theorem exec_hbmWrite_stagingFull (h : ¬s.requestsFull c) (hs : 8 ≤ (s.cluster c).staged.length) :
    exec (.hbmWrite c ad) s = .next (((s.countHeavy (clParcel c) 4).sign c ((s.cluster c).writeSig (hbmOff (s.cluster c).port ad)
      ((hbmOff (s.cluster c).port ad).map fun _ => (s.cluster c).port.staging.setWidth 64))).raiseAll
        [portFault 0x1004 5 c r.step r.cycle 4 0]) := by
  rw [exec_hbmWrite, ← writeData_of_one rfl]
  exact portRow_of hc hrun (by rw [hbmOp_write_stagingFull _ _ _ _ (.inl rfl) h hs]; rfl)

theorem exec_hbmWriteIfEnable_room {data : Option Word} (h : ¬s.requestsFull c) (hs : (s.cluster c).staged.length < 8)
    (hd : writeData (s.cluster c).port (hbmOff (s.cluster c).port ad) (s.cluster c).port.hbmWen = data) :
    exec (.hbmWriteIfEnable c ad) s = .next (s.hbmWrote c r.step r.cycle (hbmOff (s.cluster c).port ad) data) := by
  rw [exec_hbmWriteIfEnable, ← hd]
  exact portRow_signed hc hrun (by rw [hbmOp_write_room _ _ _ _ (.inr rfl) h hs]; rfl)

end

-- inset words

theorem portBridge_eq {c : Nat} (hc : c < 512) (s : State) (b : Nat) :
    s.portBridge c b = if 2 ≤ s.boot.pairMode ∧ 256 ≤ c then b % 4 + 4 else b := by
  have hiff : (s.paired = true ∧ clSheet c = 1) ↔ (2 ≤ s.boot.pairMode ∧ 256 ≤ c) :=
    and_congr decide_eq_true_iff (by unfold clSheet; omega)
  exact if_congr hiff rfl rfl

/-- A cluster at which a run group executes lies in it. -/
theorem rgOfCluster_of_runningAt {s : State} {c g : Nat} {r : RunGroup} (h : s.runningAt c = some (g, r)) :
    s.rgOfCluster c = some g ∧ r = s.group g ∧ (s.group g).state = .running ∧ (s.group g).step < (s.group g).n := by
  unfold State.runningAt at h
  split at h
  · cases h
  · next g' hg =>
    split_ifs at h with hs
    cases h
    exact ⟨hg, rfl, hs.1, hs.2⟩

theorem exec_insetReceive {b : Nat} (hb : b < 8) (c) (s : State) : exec (.insetReceive c b) s
    = portRow s c fun t p step cycle => insetOp t p c 1 b step cycle := if_pos hb
theorem exec_insetSend {b : Nat} (hb : b < 8) (c) (s : State) : exec (.insetSend c b) s
    = portRow s c fun t p step cycle => insetOp t p c 2 b step cycle := if_pos hb
theorem exec_insetStatus {b : Nat} (hb : b < 8) (c) (s : State) : exec (.insetStatus c b) s
    = portRow s c fun t p step cycle => insetOp t p c 3 b step cycle := if_pos hb

/-- A word within the head frame. -/
theorem insetPop_within {q : Bridge} {f : BFrame} {rest : List BFrame} (step : Nat) (cycle : Word) (hq : q.rxQ = f :: rest)
    (h0 : 0 < q.rxPos) (hlt : q.rxPos + 8 < f.bytes.length) :
    insetPop q step cycle = (insetWord f q.rxPos, { q with rxPos := q.rxPos + 8 }) := by
  unfold insetPop
  split
  · next h => exact absurd (h.symm.trans hq) (List.cons_ne_nil f rest).symm
  · next f' rest' h =>
    obtain ⟨rfl, -⟩ := List.cons.inj (hq.symm.trans h)
    dsimp only
    rw [if_neg h0.ne', if_neg (Nat.not_le.mpr hlt)]

section
variable {s : State} {c g : Nat} {r : RunGroup} {b : Nat} (hc : c < 512) (hb : b < 8) (hrun : s.runningAt c = some (g, r))
include hc hb hrun

/-- A receive of an empty queue loads zero, whose valid bit is 0, and leaves the bridge as it is. -/
theorem exec_insetReceive_empty (hq : (s.bridge (s.portBridge c b)).rxQ = []) :
    exec (.insetReceive c b) s = .next ((s.setBridge (s.portBridge c b) (s.bridge (s.portBridge c b))).addLanding c
      { step := r.step + 4, hbm := false, data := 0, known := true, ready := true }) := by
  rw [exec_insetReceive hb]
  have hpop : insetPop (s.bridge (s.portBridge c b)) r.step r.cycle = (0, s.bridge (s.portBridge c b)) := by
    rw [insetPop, hq]
  exact portRow_quiet hc hrun (by simp only [insetOp, hpop, ite_self])

theorem exec_insetReceive_within {f : BFrame} {rest : List BFrame} (hq : (s.bridge (s.portBridge c b)).rxQ = f :: rest)
    (hg : (s.bridge (s.portBridge c b)).rg = some g) (h0 : 0 < (s.bridge (s.portBridge c b)).rxPos)
    (hlt : (s.bridge (s.portBridge c b)).rxPos + 8 < f.bytes.length) :
    exec (.insetReceive c b) s = .next ((s.setBridge (s.portBridge c b)
        { s.bridge (s.portBridge c b) with rxPos := (s.bridge (s.portBridge c b)).rxPos + 8 }).addLanding c
      { step := r.step + 4, hbm := false, data := insetWord f (s.bridge (s.portBridge c b)).rxPos, known := true, ready := true }) := by
  rw [exec_insetReceive hb]
  obtain ⟨hrg, -⟩ := rgOfCluster_of_runningAt hrun
  have hbound : ((s.bridge (s.portBridge c b)).rg.isSome && decide ((s.bridge (s.portBridge c b)).rg = s.rgOfCluster c)) = true := by
    simp [hg, hrg]
  exact portRow_quiet hc hrun (by simp only [insetOp, hbound, if_true, insetPop_within _ _ hq h0 hlt])

theorem exec_insetSend_invalid (hv : (s.cluster c).port.staging.getLsbD 64 = false) : exec (.insetSend c b) s = .next s := by
  rw [exec_insetSend hb]
  exact portRow_quiet hc hrun (if_pos hv)

theorem exec_insetSend_room (hv : (s.cluster c).port.staging.getLsbD 64 = true) (hs : (s.cluster c).staged.length < 8) :
    exec (.insetSend c b) s = .next ((s.setCluster c { s.cluster c with
      staged := (s.cluster c).staged ++ [.inset (s.portBridge c b) (s.cluster c).port.staging r.cycle r.step] }).sign c
        (0xD0 :: leBytes 9 (s.cluster c).port.staging.toNat)) := by
  rw [exec_insetSend hb]
  exact portRow_signed hc hrun ((if_neg (by simp [hv])).trans (if_neg (Nat.not_le.mpr hs)))

theorem exec_insetStatus_word : exec (.insetStatus c b) s = .next (s.addLanding c
    { step := r.step + 1, hbm := false, data := BitVec.ofNat 72 (s.insetStatus (s.portBridge c b)), known := true, ready := true }) := by
  rw [exec_insetStatus hb]
  exact portRow_quiet hc hrun rfl

end

/-- Outside MIRRORED and DIFFERENTIAL pairing a bridge tells of its own link (R85). -/
theorem insetStatus_unpaired {s : State} (h : s.boot.pairMode < 2) (b : Nat) : s.insetStatus b
    = (s.bridge b).rxQ.length + (16 - (s.bridge b).txUse) * 2 ^ 8 + (if (s.bridge b).link = .up then 2 ^ 16 else 0) := by
  have hp : s.paired = false := decide_eq_false (Nat.not_le.mpr h)
  unfold State.insetStatus
  simp only [hp, Bool.false_eq_true, if_false, fieldAt, b2n, decide_eq_true_eq]
  split <;> rfl

/-- Settles O13: a request by its queues, its offset and its enable, an inset operation by the queue that it takes from or enters. -/
theorem hbmAndInsetPort : Obligations.HbmAndInsetPort := by
  unfold Obligations.HbmAndInsetPort
  refine ⟨fun s c g r ad hc hrun => ?_, fun s c g r b hc hb hrun => ?_⟩
  · intro v p hwin off req land sigOf written word
    have hoff : off = hbmOff (s.cluster c).port ad := (hbmOff_eq _ ad).symm
    have hsig : sigOf = v.writeSig off := rfl
    have hreq (wr : Bool) (data : Option Word) : req wr data = v.request c r.step r.cycle wr off data := rfl
    have hwritten : written = s.hbmWrote c r.step r.cycle off := rfl
    have hroom (h : s.rowPairUse c < s.rowPairShare c) : ¬s.requestsFull c := fun hf => by
      rcases hf with hf | hf
      · exact absurd h (Nat.not_lt.mpr hf)
      · exact absurd hwin (Nat.not_lt.mpr hf)
    rw [hsig, hreq, hwritten, hoff]
    refine ⟨fun h => exec_hbmRead_room ad hc hrun (hroom h), fun h => exec_hbmRead_full ad hc hrun (.inl h),
      fun h hs => ⟨?_, fun hen => ?_, fun hen => ?_, fun hen => ?_⟩, fun h hs => exec_hbmWrite_stagingFull ad hc hrun (hroom h) hs⟩
    · exact exec_hbmWrite_room ad hc hrun (hroom h) hs
    · exact exec_hbmWriteIfEnable_room ad hc hrun (hroom h) hs (writeData_of_one hen)
    · exact exec_hbmWriteIfEnable_room ad hc hrun (hroom h) hs (writeData_of_zero hen)
    · exact exec_hbmWriteIfEnable_room ad hc hrun (hroom h) hs (writeData_of_x hen)
  · intro v p k q load
    have hk : k = s.portBridge c b := (portBridge_eq hc s b).symm
    have hq : q = s.bridge (s.portBridge c b) := congrArg s.bridge hk
    rw [hk, hq]
    refine ⟨exec_insetReceive_empty hc hb hrun, fun f rest => exec_insetReceive_within hc hb hrun, exec_insetSend_invalid hc hb hrun,
      exec_insetSend_room hc hb hrun, fun hp => ?_⟩
    rw [exec_insetStatus_word hc hb hrun, insetStatus_unpaired hp]

end Sys2Proof.Machine
end

-- ==== Ships and arrivals: the probe, the landing of a load, one arrival, one cargo word ====
section
/-! PROOFS. A ship and a landing change their cluster (R71, R79, R259). A slot that one value reaches in an opportunity takes it with the tag of
the step (R99); a cargo word is 36 such arrivals in slots of their own (R104), after which the list of arrivals is what it was. -/
namespace Sys2Proof.Machine

-- the probe ship (R71, R259)

theorem exec_probeShip (c) (s : State) : exec (.probeShip c) s = portRow s c fun t p step cycle => ship t p c step cycle := rfl

section
variable {s : State} {c : Nat} {e : Engine}

theorem ship_unwatched (p : Port) (step : Nat) (cycle : Word) (h : s.watcher c = none) : ship s p c step cycle = { s := s, f := [], sig := [] } := by
  rw [ship, h]

theorem ship_room (p : Port) (step : Nat) (cycle : Word) (h : s.watcher c = some e) (hl : e.state = .armed ∨ e.state = .filling)
    (hroom : (s.cluster c).taps.length < 32) : ship s p c step cycle
      = { s := s.setCluster c { s.cluster c with
            compare := p.probe, taps := (s.cluster c).taps ++ [{ cycle := cycle, nth := e.cycles, probe := p.probe }] }
          f := [], sig := [] } := by
  rw [ship, h]
  exact (if_neg fun hn => hl.elim hn.1 hn.2).trans (if_pos hroom)

theorem ship_full (p : Port) (step : Nat) (cycle : Word) (h : s.watcher c = some e) (hl : e.state = .armed ∨ e.state = .filling)
    (hfull : 32 ≤ (s.cluster c).taps.length) : ship s p c step cycle
      = { s := s.setCluster c { s.cluster c with compare := p.probe }, f := [portFault 0x1004 5 c step cycle 4 3], sig := [] } := by
  rw [ship, h]
  exact (if_neg fun hn => hl.elim hn.1 hn.2).trans (if_neg (Nat.not_lt.mpr hfull))

-- the landing of a load (R79)

theorem exec_portLoadLanding (c) (s : State) : exec (.portLoadLanding c) s
    = portRow s c fun t _ step cycle => { s := landCluster t c step cycle, f := [], sig := [] } := rfl

/-- The one load on its way lands, at a cluster without HBM requests. -/
theorem landCluster_one {l : Landing} {step : Nat} (cycle : Word) (hl : (s.cluster c).landings = [l]) (hstep : l.step = step)
    (hready : l.ready = true) (hreqs : (s.cluster c).reqs = []) : landCluster s c step cycle
      = s.setCluster c { s.cluster c with
          port := { (s.cluster c).port with latch := l.data, lstate := if l.known then .known else .unknown }, landings := [] } := by
  unfold landCluster State.updCluster
  simp [hl, hstep, hready, hreqs, landAt, freeLanded]

end

-- one arrival (R99)

section
variable {s : State}

/-- The key of a receive slot in the list of an opportunity's arrivals. -/
def slotKey (c r : Nat) : Nat := c * 256 + r

/-- A value that no other meets is written with its tag, and listed. -/
theorem arrive_alone {c r : Nat} (v : V4) (tag step : Nat) (cycle : Word) (hopp : s.arrOpp = s.opp) (hr : slotKey c r ∉ s.arrSlots) :
    arrive s c r v tag step cycle
      = (State.setSlot { s with arrSlots := slotKey c r :: s.arrSlots } c r { val := v, written := true, step := tag }, []) := by
  have hcount : s.arrSlots.count (c * 256 + r) = 0 := List.count_eq_zero.mpr hr
  simp only [arrive, State.openArrivals, if_pos hopp, hcount]
  rfl

theorem openArrivals_same (h : s.arrOpp = s.opp) : s.openArrivals = s := if_pos h
theorem openArrivals_new (h : s.arrOpp ≠ s.opp) : s.openArrivals = { s with arrOpp := s.opp, arrSlots := [], arrDrops := [] } := if_neg h

theorem arrive_openArrivals (c r : Nat) (v : V4) (tag step : Nat) (cycle : Word) :
    arrive s.openArrivals c r v tag step cycle = arrive s c r v tag step cycle := by
  have h : s.openArrivals.openArrivals = s.openArrivals := by
    by_cases h : s.arrOpp = s.opp
    · simp only [openArrivals_same h]
    · rw [openArrivals_new h]; exact openArrivals_same rfl
  simp only [arrive, h]

/-- A mesh send that arrives in its owner's live parcel, which the run group holds, as the first arrival of an opportunity. -/
theorem deliver_mesh_first {g : Nat} {f : Flight} (step : Nat) (cycle : Word) (hmesh : f.mesh = true) (hnew : s.arrOpp ≠ s.opp)
    (hrg : (s.parcel (clParcel (f.at f.dist))).rg = some g) (hown : s.ownerOf (clParcel (f.at f.dist)) = some f.owner)
    (hlive : s.live (clParcel (f.at f.dist)) = true) : deliver s g step cycle f
      = (State.setSlot { s with arrOpp := s.opp, arrSlots := [slotKey (f.at f.dist) f.slot], arrDrops := [] } (f.at f.dist) f.slot
          { val := f.val, written := true, step := step }, []) := by
  have hopen := openArrivals_new hnew
  have hrg' : (s.openArrivals.parcel (clParcel (f.at f.dist))).rg = some g := by rw [hopen]; exact hrg
  have hin : ¬(s.ownerOf (clParcel (f.at f.dist)) ≠ some f.owner ∨ s.live (clParcel (f.at f.dist)) = false) := by simp [hown, hlive]
  have ha : arrive s.openArrivals (f.at f.dist) f.slot f.val step step cycle = _ :=
    arrive_alone f.val step step cycle (by rw [hopen]) (by rw [hopen]; exact List.not_mem_nil)
  simp only [deliver, if_neg hin, hmesh, if_true, hrg', Bool.not_true, Bool.false_and, Bool.false_eq_true, if_false, ha, List.nil_append]
  rw [hopen]

end

section
variable {s : State} {c g : Nat} {r : RunGroup}

theorem exec_receiveSlotArrival {k : Nat} (hc : c < 512) (hk : k < 256) (hrun : s.runningAt c = some (g, r)) :
    exec (.receiveSlotArrival c k) s = .next (s.inNextOpp g fun u =>
      let t := u.arriveGroup g r.step r.cycle fun f =>
        !r.moved && decide (f.at f.dist = c) && decide (f.slot = k) && decide (f.age + 1 = f.latency)
      t.1.raiseAll t.2) := by
  show (if c < 512 ∧ k < 256 then _ else _) = _
  rw [if_pos ⟨hc, hk⟩, hrun]

/-- The one flight of a run group, where it is due. -/
theorem arriveGroup_one {f : Flight} {due : Flight → Bool} (step : Nat) (cycle : Word) (hf : (s.group g).flights = [f]) (hdue : due f = true) :
    s.arriveGroup g step cycle due = deliver (s.setGroup g { s.group g with flights := [] }) g step cycle f := by
  simp [State.arriveGroup, hf, hdue, sortBy, insertBy, foldFaults, State.updGroup]

end

-- a cargo word (R104, R107)

/-- The receive slots after a value has been written into each slot of a list, counted from `base`. -/
def slotsWritten (c base tag : Nat) (val : Nat → V4) (l : List Nat) (m : SMap RSlot) : SMap RSlot :=
  forEach l (fun i m => mset RSlot.init (slotKey c (base + i)) { val := val i, written := true, step := tag } m) m

theorem forEach_setSlot (c base tag : Nat) (val : Nat → V4) (l : List Nat) (s : State) :
    forEach l (fun i t => t.setSlot c (base + i) { val := val i, written := true, step := tag }) s
      = { s with slots := slotsWritten c base tag val l s.slots } := by
  induction l generalizing s with
  | nil => rfl
  | cons i l ih => exact ih _

/-- Arrivals in slots that nothing else has reached are written one after the other, without a fault. -/
theorem foldFaults_arrive {c base : Nat} (val : Nat → V4) (tag : Nat) (cycle : Word) {l : List Nat} (hl : l.Nodup) {s : State}
    (hopp : s.arrOpp = s.opp) (hfree : ∀ i ∈ l, slotKey c (base + i) ∉ s.arrSlots) : ∃ listed,
      foldFaults (fun t i => arrive t c (base + i) (val i) tag tag cycle) l s
        = ({ s with arrSlots := listed, slots := slotsWritten c base tag val l s.slots }, []) := by
  induction l generalizing s with
  | nil => exact ⟨s.arrSlots, rfl⟩
  | cons i l ih =>
    obtain ⟨hi, hl⟩ := List.nodup_cons.mp hl
    have ha := arrive_alone (val i) tag tag cycle hopp (hfree i List.mem_cons_self)
    have hrest : ∀ j ∈ l, slotKey c (base + j) ∉ slotKey c (base + i) :: s.arrSlots := fun j hj hm => by
      rcases List.mem_cons.mp hm with hm | hm
      · have hji : j = i := by unfold slotKey at hm; omega
        exact hi (hji ▸ hj)
      · exact hfree j (List.mem_cons_of_mem _ hj) hm
    obtain ⟨listed, e⟩ := ih hl (s := State.setSlot { s with arrSlots := slotKey c (base + i) :: s.arrSlots } c (base + i)
      { val := val i, written := true, step := tag }) hopp hrest
    refine ⟨listed, ?_⟩
    rw [foldFaults, ha]
    dsimp only
    rw [e]
    rfl

/-- The values of a cargo word. -/
def cargoVal (w : BitVec 72) (i : Nat) : V4 := v4of (bitsOf w.toNat (2 * i) 2)

/-- A cargo word as the first arrivals of an opportunity. -/
theorem writeCargo_first {s : State} (d : CargoIn) (w : BitVec 72) (step : Nat) (cycle : Word) (hnew : s.arrOpp ≠ s.opp) : ∃ listed,
    writeCargo s d w step cycle = ({ s with
      arrOpp := s.opp, arrDrops := [], arrSlots := listed, slots := slotsWritten d.cl d.base step (cargoVal w) (List.range 36) s.slots }, []) := by
  have hopen := openArrivals_new hnew
  have hfirst : writeCargo s d w step cycle = writeCargo s.openArrivals d w step cycle := by
    rw [writeCargo, writeCargo, show List.range 36 = 0 :: (List.range 36).tail from rfl, foldFaults, foldFaults, arrive_openArrivals]
  obtain ⟨listed, e⟩ := foldFaults_arrive (c := d.cl) (base := d.base) (cargoVal w) step cycle List.nodup_range (s := s.openArrivals)
    (by rw [hopen]) (by rw [hopen]; exact fun _ _ => List.not_mem_nil)
  refine ⟨listed, hfirst.trans (e.trans ?_)⟩
  rw [hopen]

section
variable {s : State} {g q k : Nat} {d : CargoIn} {w : BitVec 72}

/-- A cargo slot delivers the word that has come, or all X before the lag, where the schedule word was fetched without error. -/
theorem deliverCargo_of_due (hbad : (s.group g).badWord 4 (q * 32768 + 8 * (s.group g).step + k) = false)
    (hdue : s.cargoDue (s.group g) q k (s.group g).step = .here d w
      ∨ s.cargoDue (s.group g) q k (s.group g).step = .early d ∧ w = BitVec.allOnes 72) :
    deliverCargo s g q k = writeCargo s d w (s.group g).step (s.group g).cycle := by
  rcases hdue with h | ⟨h, rfl⟩
  · simp only [deliverCargo, h, hbad, Bool.false_eq_true, if_false]
  · simp only [deliverCargo, h, ite_self, allX]

theorem exec_cargoDelivery (hq : q < 36) (hk : k < 8) (hg : (s.quad q).rg = some g)
    (hrun : (s.group g).state = .running ∧ (s.group g).step < (s.group g).n) :
    exec (.cargoDelivery q k) s = .next (s.inNextOpp g fun u =>
      let t := deliverCargo u g q k
      State.raiseAll { t.1 with arrOpp := s.arrOpp, arrSlots := s.arrSlots, arrDrops := s.arrDrops } t.2) := by
  show (if q < 36 ∧ k < 8 then _ else _) = _
  rw [if_pos ⟨hq, hk⟩, hg]
  exact if_pos hrun

end

/-- Settles O14: a ship by its watcher and its FIFO, the landing of one load, the arrival of one flight, the 36 arrivals of a cargo word. -/
theorem shipsAndArrivals : Obligations.ShipsAndArrivals := by
  unfold Obligations.ShipsAndArrivals
  intro s c g r hc hrun v
  obtain ⟨-, hr, hgo⟩ := rgOfCluster_of_runningAt hrun
  refine ⟨fun hw => ?_, fun e he => ⟨fun hl hroom => ?_, fun hl hfull => ?_⟩, fun l hl hstep hready hreqs => ?_,
    fun f k hk hf hat hslot hage hmoved hmesh hnew hrg hown hlive => ?_, fun q k d w hq hk hqg hbad hnew hdue _ => ?_⟩
  · rw [exec_probeShip]
    exact portRow_quiet hc hrun (ship_unwatched _ _ _ hw)
  · rw [exec_probeShip]
    exact portRow_quiet hc hrun (ship_room _ _ _ he hl hroom)
  · rw [exec_probeShip]
    exact portRow_raises hc hrun (ship_full _ _ _ he hl hfull)
  · rw [exec_portLoadLanding]
    exact portRow_quiet hc hrun (congrArg (PortOut.mk · [] []) (landCluster_one _ hl hstep hready hreqs))
  · subst hr hat hslot
    have hgroup := arriveGroup_one (s := { s with opp := s.nextOpp g }) (s.group g).step (s.group g).cycle hf
      (due := fun x => !(s.group g).moved && decide (x.at x.dist = f.at f.dist) && decide (x.slot = f.slot) && decide (x.age + 1 = x.latency))
      (by simp [hmoved, hage])
    rw [exec_receiveSlotArrival hc hk hrun, State.inNextOpp, hgroup,
      deliver_mesh_first _ _ hmesh (by exact hnew) (by exact hrg) (by exact hown) (by exact hlive)]
    dsimp only
    rw [raiseAll_nil]
    rfl
  · subst hr
    obtain ⟨listed, e⟩ := writeCargo_first (s := { s with opp := s.nextOpp g }) d w (s.group g).step (s.group g).cycle hnew
    have hdeliver : deliverCargo { s with opp := s.nextOpp g } g q k = (_, []) :=
      (deliverCargo_of_due (by exact hbad) (by exact hdue)).trans e
    rw [exec_cargoDelivery hq hk hqg hgo, State.inNextOpp, hdeliver]
    dsimp only
    rw [raiseAll_nil]
    have hslots := forEach_setSlot d.cl d.base (s.group g).step (cargoVal w) (List.range 36) s
    simp only [cargoVal] at hslots
    rw [hslots]

end Sys2Proof.Machine
end

-- ==== The HBM path: staging queue, controller, return, arrival, refresh ====
section
/-! PROOFS. Each row of the path acts on the first entry of a queue that its test finds: `updFirst` and `dropFirst` at the place where the entries
before it fail the test. The controller serves the head of its stamp order once the stack takes packets (R184, R186). -/
namespace Sys2Proof.Machine

-- the first entry that a test finds

section
variable {α : Type} {p : α → Bool} {pre post : List α} {a : α}

theorem updFirst_append_cons (f : α → α) (hpre : ∀ x ∈ pre, p x = false) (ha : p a = true) :
    updFirst p f (pre ++ a :: post) = pre ++ f a :: post := by
  induction pre with
  | nil => exact if_pos ha
  | cons x pre ih =>
    rw [List.cons_append, updFirst, hpre x List.mem_cons_self, if_neg Bool.false_ne_true, ih fun y hy => hpre y (List.mem_cons_of_mem _ hy)]
    rfl

theorem dropFirst_append_cons (hpre : ∀ x ∈ pre, p x = false) (ha : p a = true) : dropFirst p (pre ++ a :: post) = pre ++ post := by
  induction pre with
  | nil => exact if_pos ha
  | cons x pre ih =>
    rw [List.cons_append, dropFirst, hpre x List.mem_cons_self, if_neg Bool.false_ne_true, ih fun y hy => hpre y (List.mem_cons_of_mem _ hy)]
    rfl

theorem find?_append_cons (hpre : ∀ x ∈ pre, p x = false) (ha : p a = true) : (pre ++ a :: post).find? p = some a := by
  rw [List.find?_append, List.find?_eq_none.mpr fun x hx => by simp [hpre x hx], List.find?_cons_of_pos ha]
  rfl

end

-- the staging queue (R83, R342)

section
variable {s : State} {c : Nat}

theorem exec_stagingQueueDrain (hc : c < 512) : exec (.stagingQueueDrain c) s = .next (drainStaging s c) := if_pos hc

/-- A write at the head of the staging queue sends its request off. -/
theorem drainStaging_hbm {cyc : Word} {st : Nat} {rest : List Staged} {pre post : List HbmReq} {q : HbmReq}
    (hs : (s.cluster c).staged = .hbm cyc st :: rest) (hr : (s.cluster c).reqs = pre ++ q :: post) (hw : q.isWrite = true)
    (hcyc : q.cycle = cyc) (hst : q.step = st) (hpre : ∀ x ∈ pre, ¬(x.isWrite = true ∧ x.cycle = cyc ∧ x.step = st)) :
    drainStaging s c = s.setCluster c
      { s.cluster c with staged := rest, drained := true, reqs := pre ++ { q with sent := true } :: post } := by
  unfold drainStaging
  dsimp only
  rw [hs]
  dsimp only
  rw [hr, updFirst_append_cons _ (fun x hx => by simpa [and_assoc] using hpre x hx) (by simp [hw, hcyc, hst])]

/-- An inset word at its head joins the frame of the bridge that the cluster's run group holds. -/
theorem drainStaging_inset {b : Nat} {w : BitVec 72} {cyc : Word} {st : Nat} {rest : List Staged}
    (hs : (s.cluster c).staged = .inset b w cyc st :: rest) (hb : (s.bridge b).rg.isSome = true) (hrg : (s.bridge b).rg = s.rgOfCluster c)
    (hok : (assembleWord (s.bridge b) w cyc st).2 = false) : drainStaging s c
      = (s.setCluster c { s.cluster c with staged := rest, drained := true }).setBridge b (assembleWord (s.bridge b) w cyc st).1 := by
  have hbound : ((s.bridge b).rg.isSome && decide ((s.bridge b).rg = s.rgOfCluster c)) = true := by rw [hb, decide_eq_true hrg]; rfl
  unfold drainStaging
  dsimp only
  rw [hs]
  exact (if_neg (ne_false_of_eq_true hbound)).trans (if_neg (ne_true_of_eq_false hok))

end

-- the controller of a stack (R184, R186)

section
variable {s : State} {k : Nat}

/-- A domain that takes packets is called without effect. -/
theorem callDomain_ready {d : Domain} (hu : s.unready d = false) (hd : s.isDown d = false) : s.callDomain d = s := by
  simp only [State.unready, Bool.or_eq_false_iff] at hu
  obtain ⟨⟨⟨ha, hw⟩, hi⟩, -⟩ := hu
  rw [State.callDomain, if_neg (ne_true_of_eq_false hi), if_neg (ne_true_of_eq_false hd)]
  unfold State.startWake
  rw [ha]
  rfl

theorem calls_ready {d : Domain} (hu : s.unready d = false) (hd : s.isDown d = false) (f : State → State) : s.calls d f = f s := by
  simp only [State.calls, callDomain_ready hu hd, hu, Bool.false_eq_true, if_false]

/-- A sleeping stack starts to wake, and nothing acts on it yet. -/
theorem calls_asleep (ha : (s.stack k).asleep = true) (hw : .stack k ∉ s.net.waking) (hd : s.isDown (.stack k) = false)
    (hi : .stack k ∉ s.net.isolated) (f : State → State) : s.calls (.stack k) f
      = s.setNet { s.net with wakes := satAdd 32 s.net.wakes 1, waking := s.net.waking ++ [.stack k] } := by
  have hasleep : s.isAsleep (.stack k) = true := ha
  have hcall : s.callDomain (.stack k)
      = s.setNet { s.net with wakes := satAdd 32 s.net.wakes 1, waking := s.net.waking ++ [.stack k] } := by
    rw [State.callDomain, if_neg (by simpa using hi), if_neg (ne_true_of_eq_false hd)]
    unfold State.startWake
    rw [hasleep, show s.isWaking (.stack k) = false by simpa [State.isWaking] using hw]
    rfl
  have hunready (n : Net) : (s.setNet n).unready (.stack k) = true := by
    have hs : (s.setNet n).isAsleep (.stack k) = true := ha
    simp only [State.unready, hs, Bool.true_or]
  rw [State.calls, hcall]
  exact if_pos (hunready _)

/-- The controller of the one run group serves the head of its stamp order, when it has come. -/
theorem exec_hbmDesignRequest {g c : Nat} {q : HbmReq} {rest : List (Nat × HbmReq)} {req : StackRequest} (hk : req.stack < 4)
    (hg : s.runGroups = [g]) (hq : sortBy (stampRank (s.group g).n) (s.hbmQueue g req.stack) = (c, q) :: rest) (hsent : q.sent = true) :
    exec (.hbmDesignRequest req) s = .next (s.calls (.stack req.stack) fun t => applyFlit t c q req) := by
  show (if req.stack < 4 then _ else _) = _
  rw [if_pos hk]
  simp only [serveStack, hg, List.filterMap_cons, hq, hsent, if_true, List.filterMap_nil]

end

-- the request that the controller applies (R182, R184, R358)

section
variable {s : State} {c : Nat} {q : HbmReq} {pre post : List HbmReq} {w : Nat}

/-- The cluster with its request applied, and what a read found. -/
def State.setApplied (s : State) (c : Nat) (pre : List HbmReq) (q : HbmReq) (post : List HbmReq) (data : Option Word) : State :=
  s.setCluster c { s.cluster c with reqs := pre ++ { q with applied := true, rdata := data } :: post }

theorem updCluster_applied (data : Option Word) (hr : (s.cluster c).reqs = pre ++ q :: post) (hq : q ∉ pre) :
    (s.updCluster c fun v => { v with
        reqs := updFirst (fun x => decide (x = q)) (fun x => { x with applied := true, rdata := data }) v.reqs })
      = s.setApplied c pre q post data := by
  have hne : ∀ x ∈ pre, decide (x = q) = false := fun x hx => decide_eq_false fun e => hq (e ▸ hx)
  rw [State.updCluster, hr, updFirst_append_cons _ hne (decide_eq_true rfl)]
  rfl

variable (hw : q.word = some w) (hr : (s.cluster c).reqs = pre ++ q :: post) (hq : q ∉ pre)
include hw hr hq

theorem applyReq_write {d : Word} (hwr : q.isWrite = true) (hd : q.wdata = some d) :
    applyReq s c q = (s.hbmStore q.stack w d).setApplied c pre q post none := by
  unfold applyReq
  simp only [hw, hwr, hd, if_true]
  exact updCluster_applied none hr hq

theorem applyReq_nothing (hwr : q.isWrite = true) (hd : q.wdata = none) : applyReq s c q = s.setApplied c pre q post none := by
  unfold applyReq
  simp only [hw, hwr, hd, if_true]
  exact updCluster_applied none hr hq

theorem applyReq_read (hrd : q.isWrite = false) (he : s.eccAt 9 (q.stack * 2 ^ 33 + w) = 0) :
    applyReq s c q = s.setApplied c pre q post (some (s.hbmWord q.stack w)) := by
  have hread : s.hbmRead q.stack w (clParcel c) 5 (designMaster c) q.cycle = (some (s.hbmWord q.stack w), s) := if_pos he
  unfold applyReq
  simp only [hw, hrd, hread, Bool.false_eq_true, if_false]
  exact updCluster_applied _ hr hq

omit hr hq in
/-- A request whose data word has come right. -/
theorem applyFlit_clean {r : StackRequest} (hue : r.ue = false) : applyFlit s c q r = applyReq (s.countFlits r.fixed false) c q := by
  simp only [applyFlit, hue, hw, Bool.false_and, Bool.false_eq_true, if_false]

omit hr hq in
/-- A write whose data word came uncorrectable leaves its word so. -/
theorem applyFlit_ue {r : StackRequest} {d : Word} (hue : r.ue = true) (hwr : q.isWrite = true) (hd : q.wdata = some d) :
    applyFlit s c q r = { applyReq (s.countFlits r.fixed true) c q with
      ecc := mset 0 (eccKey 9 (q.stack * 2 ^ 33 + w)) 2 (applyReq (s.countFlits r.fixed true) c q).ecc } := by
  simp only [applyFlit, hue, hwr, hd, hw, Option.isSome_some, Bool.and_self, if_true]

end

-- the return of read data, and the acceptance of writes (R154, R351, R358)

section
variable {s : State} {c : Nat} {q : HbmReq} {pre post : List HbmReq}

theorem returns_eq_false_iff (x : HbmReq) : x.returns = false ↔ x.isWrite = true ∨ x.applied = false ∨ x.back = true := by
  unfold HbmReq.returns
  cases x.isWrite <;> cases x.applied <;> cases x.back <;> decide

theorem exec_hbmDesignReturn {r : StackReturn} (hc : r.cl < 512) : exec (.hbmDesignReturn r) s = .next (hbmReturn s r) := if_pos hc

variable (hr : (s.cluster c).reqs = pre ++ q :: post)
include hr

theorem hbmReturn_arrives (hq : q.returns = true) (hpre : ∀ x ∈ pre, x.returns = false) :
    hbmReturn s { cl := c, lost := false }
      = (s.setCluster c { s.cluster c with reqs := pre ++ { q with back := true } :: post }).countFlits 0 false := by
  simp only [hbmReturn, hr, find?_append_cons hpre hq, updFirst_append_cons _ hpre hq]
  rfl

theorem hbmReturn_lost (hq : q.returns = true) (hpre : ∀ x ∈ pre, x.returns = false) :
    hbmReturn s { cl := c, lost := true }
      = ((s.setCluster c { s.cluster c with reqs := pre ++ { q with back := true, rdata := none } :: post }).setNet
          { s.net with ueSide := satAdd 16 s.net.ueSide 1 }).raise
            (hbmFault 0x2004 (clParcel c) 5 (designMaster c) q.stack (q.word.getD 0) q.cycle) := by
  simp only [hbmReturn, hr, find?_append_cons hpre hq, updFirst_append_cons _ hpre hq]
  rfl

theorem exec_hbmWriteAccept (hc : c < 512) (hw : q.isWrite = true) (ha : q.applied = true)
    (hpre : ∀ x ∈ pre, x.isWrite = false ∨ x.applied = false) :
    exec (.hbmWriteAccept c) s = .next (s.setCluster c { s.cluster c with reqs := pre ++ post }) := by
  have hdrop : dropFirst (fun x => x.isWrite && x.applied) (s.cluster c).reqs = pre ++ post := by
    rw [hr]
    exact dropFirst_append_cons (fun x hx => Bool.and_eq_false_iff.mpr (hpre x hx)) (by simp [hw, ha])
  show (if c < 512 then _ else _) = _
  rw [if_pos hc, State.updCluster, hdrop]

end

-- the arrival of data, and the refresh (R79, R182, R185, R189)

/-- Data that has returned makes the landing of its read ready. -/
theorem exec_hbmDataArrival {s : State} {c : Nat} {q : HbmReq} {l : Landing} (hc : c < 512) (hr : (s.cluster c).reqs = [q])
    (hl : (s.cluster c).landings = [l]) (hrd : q.isWrite = false) (hb : q.back = true) (hh : l.hbm = true) (hn : l.ready = false)
    (hstep : l.step = q.step + s.budgetOf c) :
    exec (.hbmDataArrival c) s = .next (s.setCluster c { s.cluster c with landings := [{ l with
      ready := true, known := q.rdata.isSome, data := (q.rdata.getD 0).setWidth 72 }] }) := by
  show (if c < 512 then _ else _) = _
  rw [if_pos hc]
  simp [landData, hr, hl, hrd, hb, hh, hn, hstep, updFirst]

section
variable {s : State} {k : Nat} (hk : k < 4)
include hk

theorem exec_hbmRefresh_counts (ha : (s.stack k).asleep = false) (ht : (s.stack k).trained = true ∨ (s.stack k).s3Trained = true)
    (hlt : (s.stack k).refresh + 1 < 2 ^ 48) :
    exec (.hbmRefresh k) s = .next (s.setStack k { s.stack k with refresh := (s.stack k).refresh + 1 }) := by
  have hgo : ¬((s.stack k).asleep || !((s.stack k).trained || (s.stack k).s3Trained)) = true := by rcases ht with h | h <;> simp [ha, h]
  show (if k < 4 then _ else _) = _
  rw [if_pos hk, if_neg hgo, State.updStack, satAdd, if_pos hlt]

theorem exec_hbmRefresh_idle (h : (s.stack k).asleep = true ∨ (s.stack k).trained = false ∧ (s.stack k).s3Trained = false) :
    exec (.hbmRefresh k) s = .next s := by
  have hno : ((s.stack k).asleep || !((s.stack k).trained || (s.stack k).s3Trained)) = true := by simpa using h
  show (if k < 4 then _ else _) = _
  rw [if_pos hk, if_pos hno]

end

/-- Settles O15: each row of the path acts on the first entry that its test finds. -/
theorem hbmPath : Obligations.HbmPath := by
  unfold Obligations.HbmPath
  intro s c hc v
  refine ⟨fun cyc st rest pre post q hs hr hw hcyc hst hpre => ?_, fun b w cyc st rest hs hb hrg hok => ?_,
    fun k g pre post q rest w hk hg hq hsent hu hd hstack hword hr hnew fixed => ?_,
    fun k g q rest hk hg hq hsent ha hw hd hi => ?_, fun pre post q hr => ⟨fun hrd happ hback hpre => ⟨?_, ?_⟩, exec_hbmWriteAccept hr hc⟩,
    fun q l => exec_hbmDataArrival hc, fun k hk => ⟨exec_hbmRefresh_counts hk, exec_hbmRefresh_idle hk⟩⟩
  · rw [exec_stagingQueueDrain hc, drainStaging_hbm hs hr hw hcyc hst hpre]
  · rw [exec_stagingQueueDrain hc, drainStaging_inset hs hb hrg hok]
  · intro u req
    subst hstack
    have hexec (fixed : Nat) (ue : Bool) : exec (.hbmDesignRequest { stack := q.stack, fixed := fixed, ue := ue }) s
        = .next (applyFlit s c q { stack := q.stack, fixed := fixed, ue := ue }) := by
      rw [exec_hbmDesignRequest (by exact hk) hg hq hsent, calls_ready (by exact hu) (by exact hd)]
    refine ⟨fun d hw hwd => ⟨?_, _, hexec fixed true, ?_, ?_⟩, fun hw hwd => ?_, fun hw he => ?_⟩
    · rw [hexec fixed false, applyFlit_clean hword rfl, applyReq_write (s := s.countFlits fixed false) hword hr hnew hw hwd]
      rfl
    · rw [applyFlit_ue hword rfl hw hwd]
      exact mget_mset_same_of_ne (by decide) _
    · rw [applyFlit_ue hword rfl hw hwd, applyReq_write (s := s.countFlits fixed true) hword hr hnew hw hwd]
      rfl
    · rw [hexec fixed false, applyFlit_clean hword rfl, applyReq_nothing (s := s.countFlits fixed false) hword hr hnew hw hwd]
      rfl
    · rw [hexec fixed false, applyFlit_clean hword rfl, applyReq_read (s := s.countFlits fixed false) hword hr hnew hw he]
      rfl
  · rw [exec_hbmDesignRequest (by exact hk) hg hq hsent, calls_asleep ha hw hd hi]
  · rw [exec_hbmDesignReturn (by exact hc), hbmReturn_arrives hr (by simp [HbmReq.returns, hrd, happ, hback])
      fun x hx => (returns_eq_false_iff x).mpr (hpre x hx)]
  · rw [exec_hbmDesignReturn (by exact hc), hbmReturn_lost hr (by simp [HbmReq.returns, hrd, happ, hback])
      fun x hx => (returns_eq_false_iff x).mpr (hpre x hx)]

end Sys2Proof.Machine
end

-- ==== Table commands: a commit of the pages, and a poke into both of them ====
section
/-! PROOFS. TABLE_COMMIT and TABLE_POKE_ACTIVE (R112 to R114, R216). A commit is one of four answers, by whether its group runs, whether its
cycle is past, and whether a copy is in progress. A poke writes both pages of a table; where it comes too late for the entry of its step,
the entry as fetched is kept beside them first. -/
namespace Sys2Proof.Machine

-- TABLE_COMMIT (R112, R113)

theorem exec_tableCommit {p : Packet} {s : State}
    (h : Accepted 0x0220 p s (parCheck p [(20, 4), (28, 8)] true) (decide (par p 20 4 = 0))) :
    exec (.tableCommit p) s = .next (conclude 0x0220 p (tableCommitOwn p s)) :=
  congrArg Host.Outcome.next (command_accepted h)

section
variable {p : Packet} {s : State} {g : Nat} (hg : ownedGroup p s = .ok g)
include hg

/-- The commit of a running group whose cycle has not ended waits for its cycle, or for the earliest one. -/
theorem tableCommitOwn_waits (hrun : (s.group g).state = .running)
    (hcyc : BitVec.ofNat 64 (par p 28 8) = 0 ∨ (s.group g).earliest.toNat ≤ (BitVec.ofNat 64 (par p 28 8)).toNat) :
    tableCommitOwn p s = .park
      (.commit g (some (if BitVec.ofNat 64 (par p 28 8) = 0 then (s.group g).earliest else BitVec.ofNat 64 (par p 28 8))))
      (forEach (s.group g).parcels (fun i u => u.updParcel i fun v => { v with commitPend := true }) s) := by
  have hnot : ¬(BitVec.ofNat 64 (par p 28 8) ≠ 0 ∧ (BitVec.ofNat 64 (par p 28 8)).toNat < (s.group g).earliest.toNat) := by
    rintro ⟨hne, hlt⟩
    exact hcyc.elim hne (not_le_of_gt hlt)
  simp only [tableCommitOwn, hg, hrun, if_true, if_neg hnot]

theorem tableCommitOwn_past (hrun : (s.group g).state = .running) (hne : BitVec.ofNat 64 (par p 28 8) ≠ 0)
    (hlt : (BitVec.ofNat 64 (par p 28 8)).toNat < (s.group g).earliest.toNat) : tableCommitOwn p s = fail s errState := by
  simp only [tableCommitOwn, hg, hrun, if_true]
  rw [if_pos ⟨hne, hlt⟩]

/-- On a group that does not run, a commit for no cycle in particular swaps at once, or once the copy in progress has ended. -/
theorem tableCommitOwn_stopped (hrun : (s.group g).state ≠ .running) (h0 : BitVec.ofNat 64 (par p 28 8) = 0) :
    tableCommitOwn p s = if s.copying g = true
      then .park (.commit g none) (forEach (s.group g).parcels (fun i u => u.updParcel i fun v => { v with commitPend := true }) s)
      else done (s.swapPages g (s.group g).cycle (s.commitWaits g fun _ => true)) (s.group g).cycle.toNat := by
  simp only [tableCommitOwn, hg, h0, ne_eq, not_true_eq_false, false_and, if_false, if_neg hrun]

end

-- TABLE_POKE_ACTIVE (R114, R216)

theorem exec_tablePokeActive {p : Packet} {s : State}
    (h : Accepted 0x0221 p s (parCheck p [(20, 1), (21, 1), (22, 1), (23, 1), (24, 2), (28, 8)] (pokeOk p)) false) :
    exec (.tablePokeActive p) s = .next (conclude 0x0221 p (tablePokeOwn p s)) :=
  congrArg Host.Outcome.next (command_accepted h)

/-- The merge of new check bits touches the marks of code words only. -/
theorem eccMerge_frame (s : State) (store word : Nat) : s.eccMerge store word = { s with ecc := (s.eccMerge store word).ecc } := by
  unfold State.eccMerge; split <;> rfl

@[simp] theorem State.eccMerge_sendAct (s : State) (store word : Nat) : (s.eccMerge store word).sendAct = s.sendAct := by
  rw [eccMerge_frame]
@[simp] theorem State.eccMerge_sendShd (s : State) (store word : Nat) : (s.eccMerge store word).sendShd = s.sendShd := by
  rw [eccMerge_frame]
@[simp] theorem State.eccMerge_quadAct (s : State) (store word : Nat) : (s.eccMerge store word).quadAct = s.quadAct := by
  rw [eccMerge_frame]
@[simp] theorem State.eccMerge_quadShd (s : State) (store word : Nat) : (s.eccMerge store word).quadShd = s.quadShd := by
  rw [eccMerge_frame]

/-- What is kept as fetched makes no difference to the check bits. -/
theorem eccMerge_fetchSnd (s : State) (f : SMap (Option (BitVec 512))) (store word : Nat) :
    State.eccMerge { s with fetchSnd := f } store word = { s.eccMerge store word with fetchSnd := f } := by
  show (if s.eccAt store word = 1 then _ else _) = _
  unfold State.eccMerge
  split <;> rfl

/-- A poke into the pages of a send table, and what is kept of an entry as fetched, do not meet. -/
theorem pokePages_fetchSnd (s : State) (p : Packet) (key : Nat) (f : SMap (Option (BitVec 512))) :
    pokePages { s with fetchSnd := f } p 0 key = { pokePages s p 0 key with fetchSnd := f } := by
  simp only [pokePages, if_true, eccMerge_fetchSnd]

section
variable {s : State} {r : RunGroup} {table key e : Nat}

/-- A poke two steps ahead of its entry, or behind it, leaves nothing to keep. -/
theorem keepFetched_inTime (h : e < r.step ∨ r.step + 2 ≤ e) : keepFetched s table key e r = s := by
  refine if_pos (.inr ?_)
  rw [pokeInTime, decide_eq_true_eq]
  exact h

/-- A poke for the executing step or the next one keeps the entry as the active page held it. -/
theorem keepFetched_late (hn : e < r.n) (hle : r.step ≤ e) (hlt : e < r.step + 2) (hnone : mget none key s.fetchSnd = none) :
    keepFetched s 0 key e r = { s with fetchSnd := mset none key (some (mget 0 key s.sendAct)) s.fetchSnd } := by
  have hnot : ¬(r.n ≤ e ∨ e < r.step ∨ pokeInTime e r.step = true) := by
    rw [pokeInTime, decide_eq_true_eq]; omega
  unfold keepFetched
  rw [if_neg hnot, if_pos rfl, if_pos hnone]

end

/-- The reply of a poke: the cycle, the step it landed in, and whether it came too late for this cycle. -/
theorem poke_results (c e l : Nat) :
    c + resAt 24 l + resAt 26 (b2n (!pokeInTime e l)) = if l + 2 ≤ e then c + l * 2 ^ 64 else c + l * 2 ^ 64 + 2 ^ 80 := by
  by_cases h : l + 2 ≤ e <;> simp [pokeInTime, h, b2n, resAt]

section
variable {p : Packet} {s : State} {g : Nat} (hown : s.ownCheck (p.session / 16) [par p 20 1] = none)
  (hlock : s.parcelLocked p.session [par p 20 1] = false) (hwork : s.inWork (par p 20 1) = false) (hrun : (s.group g).state = .running)
  (hstep : (s.group g).step < (s.group g).n)
include hown hlock hwork hrun hstep

/-- A poke of a send table: the parcel says which run group it concerns. -/
theorem tablePokeOwn_send (h0 : par p 21 1 = 0) (hrg : (s.parcel (par p 20 1)).rg = some g) :
    let key := clOf (par p 20 1) (par p 22 1) * 4096 + par p 24 2
    tablePokeOwn p s = done (pokePages (keepFetched s 0 key (par p 24 2) (s.group g)) p 0 key)
      ((s.group g).cycle.toNat + resAt 24 (s.group g).step + resAt 26 (b2n (!pokeInTime (par p 24 2) (s.group g).step))) := by
  simp [tablePokeOwn, callerFn, hown, h0, hlock, hrg, hwork, hrun, hstep.ne]

/-- A poke of a quad schedule: the quad, which the caller owns, says which run group it concerns. -/
theorem tablePokeOwn_quad {h : Nat} (h1 : par p 21 1 = 1) (hrg : (s.parcel (par p 20 1)).rg = some h)
    (hq : (s.quad (par p 22 1)).rg = some g) (hfn : (s.quad (par p 22 1)).group = p.session / 16)
    (hqlock : s.quadLocked p.session (par p 22 1) = false) :
    let key := par p 22 1 * 32768 + par p 24 2
    tablePokeOwn p s = done (pokePages (keepFetched s 1 key (par p 24 2 / 8) (s.group g)) p 1 key)
      ((s.group g).cycle.toNat + resAt 24 (s.group g).step + resAt 26 (b2n (!pokeInTime (par p 24 2 / 8) (s.group g).step))) := by
  simp [tablePokeOwn, callerFn, hown, h1, hlock, hrg, hwork, hq, hfn, hqlock, hrun, hstep.ne]

end

/-- Settles O35: each commit is one of the four answers, and each poke writes both pages of its table, behind what it keeps as fetched. -/
theorem tableCommands : Obligations.TableCommands := by
  unfold Obligations.TableCommands
  intro s p
  refine ⟨fun g hacc hg => ?_, fun g hacc h0 hown hlock hrg hwork hrun hstep => ?_,
    fun g h hacc h1 hown hlock hrg hwork hq hfn hqlock hrun hstep htime => ?_⟩
  · intro r at_ first marked
    rw [exec_tableCommit hacc]
    refine ⟨fun hrun h0 => ?_, fun hrun hne hle => ?_, fun hrun hne hlt => ?_, fun hrun h0 hcopy => ?_, fun hrun h0 hcopy => ?_⟩
    · rw [tableCommitOwn_waits hg hrun (.inl h0), if_pos h0]; rfl
    · rw [tableCommitOwn_waits hg hrun (.inr hle), if_neg hne]
    · rw [tableCommitOwn_past hg hrun hne hlt]; rfl
    · rw [tableCommitOwn_stopped hg hrun h0, if_neg (by simp [hcopy])]; rfl
    · rw [tableCommitOwn_stopped hg hrun h0, if_pos hcopy]
  · intro r c e key lo w put t poked
    have hpoked : pokePages s p 0 key = poked := by
      have hne : ¬ par p 21 1 = 1 := by simp [h0]
      have hfield : pokeField p = (lo, w) := by
        simp only [pokeField, if_neg hne, lo, w]
        split <;> rfl
      simp only [pokePages, hfield, if_true, State.eccMerge_sendAct, State.eccMerge_sendShd]
      rfl
    rw [exec_tablePokeActive hacc, tablePokeOwn_send hown hlock hwork hrun hstep h0 hrg, poke_results]
    refine ⟨fun hle => ?_, fun hlt => ?_, fun late hlate he hn hnone => ?_⟩
    · rw [keepFetched_inTime (.inr hle), hpoked, if_pos hle]
    · have hnot : ¬ (r.step + 2 ≤ e) := by omega
      rw [keepFetched_inTime (.inl hlt), hpoked, if_neg hnot]
    · have hnot : ¬ (r.step + 2 ≤ e) := by omega
      rw [keepFetched_late hn (by omega) (by omega) hnone, pokePages_fetchSnd, hpoked, if_neg hnot]
  · intro r key put t
    have hpoked : pokePages s p 1 key = { t with
        quadAct := mset 0 key (put (mget 0 key s.quadAct)) s.quadAct, quadShd := mset 0 key (put (mget 0 key s.quadShd)) s.quadShd } := by
      have hfield : pokeField p = (0, 40) := if_pos h1
      simp only [pokePages, hfield, Nat.one_ne_zero, if_false, State.eccMerge_quadAct, State.eccMerge_quadShd]
      rfl
    rw [exec_tablePokeActive hacc, tablePokeOwn_quad hown hlock hwork hrun hstep h1 hrg hq hfn hqlock, poke_results,
      keepFetched_inTime (.inr htime), if_pos htime, hpoked]

end Sys2Proof.Machine
end

-- ==== Events of a run group: the end of a table copy, the mirror compare, the capture of a survey ====
section
/-! PROOFS. TABLE_COPY_DONE, MIRROR_COMPARE and SURVEY_CAPTURE (R112, R232, R236, R249). The compare passes over the West clusters in
ascending order, so that its first divergent cluster is the lowest; no table of run groups need be canonical, as the group holds parcels. -/
namespace Sys2Proof.Machine

/-- A row of a run group that holds a parcel does its work. -/
theorem groupRow_of_parcels {s : State} {g : Nat} (f : State → State) (hg : g < 32) (hp : (s.group g).parcels ≠ []) :
    groupRow g s f = .next (f s) := by
  rw [groupRow, if_pos hg, if_neg (by simpa using hp)]

-- the order of a sorted list

section
variable {α : Type} (rank : α → Nat)

theorem insertBy_perm (a : α) (l : List α) : (insertBy rank a l).Perm (a :: l) := by
  induction l with
  | nil => exact .refl _
  | cons b l ih =>
    rw [insertBy]
    split
    · exact (ih.cons b).trans (.swap a b l)
    · exact .refl _

theorem insertBy_sorted (a : α) {l : List α} (h : l.Pairwise fun x y => rank x ≤ rank y) :
    (insertBy rank a l).Pairwise fun x y => rank x ≤ rank y := by
  induction l with
  | nil => exact List.pairwise_singleton _ a
  | cons b l ih =>
    obtain ⟨hb, hl⟩ := List.pairwise_cons.mp h
    rw [insertBy]
    split
    · next hba =>
      refine List.pairwise_cons.mpr ⟨fun x hx => ?_, ih hl⟩
      rcases List.mem_cons.mp ((insertBy_perm rank a l).mem_iff.mp hx) with rfl | hx
      · exact hba
      · exact hb x hx
    · next hba =>
      have hab : rank a ≤ rank b := by omega
      refine List.pairwise_cons.mpr ⟨fun x hx => ?_, h⟩
      rcases List.mem_cons.mp hx with rfl | hx
      · exact hab
      · exact hab.trans (hb x hx)

theorem sortBy_perm (l : List α) : (sortBy rank l).Perm l := by
  have key (l acc : List α) : (l.foldl (fun acc a => insertBy rank a acc) acc).Perm (l ++ acc) := by
    induction l generalizing acc with
    | nil => exact .refl _
    | cons a l ih => exact (ih _).trans (((insertBy_perm rank a acc).append_left l).trans List.perm_middle)
  exact (key l []).trans (by rw [List.append_nil])

theorem sortBy_sorted (l : List α) : (sortBy rank l).Pairwise fun x y => rank x ≤ rank y :=
  List.foldlRecOn (motive := fun acc : List α => acc.Pairwise fun x y => rank x ≤ rank y) l _ .nil
    fun _ h a _ => insertBy_sorted rank a h

end

/-- The least number of a list that satisfies a test is the first to do so in ascending order. -/
theorem filter_sortBy_least {f : Nat → Bool} {l : List Nat} {c : Nat} (hc : c ∈ l) (hf : f c = true)
    (hleast : ∀ d ∈ l, d < c → f d = false) : ∃ rest, (sortBy id l).filter f = c :: rest := by
  have hmem (d : Nat) : d ∈ (sortBy id l).filter f ↔ d ∈ l ∧ f d = true := by
    rw [List.mem_filter, (sortBy_perm id l).mem_iff]
  have hsorted := (sortBy_sorted id l).filter f
  have hcm := (hmem c).mpr ⟨hc, hf⟩
  cases hl : (sortBy id l).filter f with
  | nil => simp [hl] at hcm
  | cons a rest =>
    rw [hl] at hmem hsorted hcm
    obtain ⟨ha, hfa⟩ := (hmem a).mp List.mem_cons_self
    have hca : c ≤ a := by
      by_contra hlt
      exact absurd (hleast a ha (by omega)) (by simp [hfa])
    have hac : a ≤ c := by
      rcases List.mem_cons.mp hcm with rfl | hm
      · exact le_rfl
      · exact (List.pairwise_cons.mp hsorted).1 c hm
    exact ⟨rest, by rw [Nat.le_antisymm hac hca]⟩

-- TABLE_COPY_DONE (R112)

theorem exec_tableCopyDone {s : State} {g : Nat} (hg : g < 32) (hp : (s.group g).parcels ≠ []) :
    exec (.tableCopyDone g) s = .next (tableCopyDone s g).settle :=
  groupRow_of_parcels (fun t => (tableCopyDone t g).settle) hg hp

theorem anyParked_of_hub {s t : State} (h : t.hub = s.hub) (f : Wait → Bool) : t.anyParked f = s.anyParked f := by
  rw [State.anyParked, State.anyParked, h]

/-- Where no wait satisfies the weaker test, none satisfies the stronger. -/
theorem anyParked_false_of_imp {s : State} {f f' : Wait → Bool} (hf : ∀ w, f' w = true → f w = true) (h : s.anyParked f = false) :
    s.anyParked f' = false := by
  rw [State.anyParked, List.any_eq_false] at h ⊢
  intro e he
  have hne := h e he
  cases hw : e.wait? with
  | none => simp
  | some w =>
    rw [hw] at hne
    exact fun hw' => hne (hf w hw')

/-- A copy that ends while no commit of the group waits: the pages are equal, and copy_busy is clear. -/
theorem tableCopyDone_idle {s : State} {g : Nat} (hcopy : s.copying g = true)
    (hidle : (s.anyParked fun w => match w with | .commit h _ => decide (h = g) | _ => false) = false) :
    tableCopyDone s g = forEach (s.group g).parcels (fun p t => t.updParcel p fun v => { v with copyBusy := false })
      (s.copyPages (s.group g).clusters (s.cargoQuads g)) := by
  unfold tableCopyDone
  extract_lets r s1 s2 due
  have hhub : s2.hub = s.hub := forEach_proj State.hub (fun p t => State.setParcel_hub t p _) _ s1
  have hwaits : s2.commitWaits g due = false := by
    rw [State.commitWaits, anyParked_of_hub hhub]
    refine anyParked_false_of_imp (fun w hw => ?_) hidle
    cases w with
    | commit h c => simp only [Bool.and_eq_true] at hw; exact hw.1
    | _ => exact hw
  rw [if_neg (by simp [hcopy]), if_neg (by simp [hwaits])]

-- MIRROR_COMPARE (R122, R249)

theorem exec_mirrorCompare {s : State} {g : Nat} (hg : g < 32) (hp : (s.group g).parcels ≠ []) :
    exec (.mirrorCompare g) s = .next (mirrorCompare s g) :=
  groupRow_of_parcels (mirrorCompare · g) hg hp

/-- The West clusters of a run group whose last signature is not that of their copy on East, in ascending order. -/
def State.divergentClusters (s : State) (g : Nat) : List Nat :=
  (sortBy id ((s.group g).clusters.filter fun c => decide (c < 256))).filter fun c =>
    decide ((s.cluster c).sigLast ≠ (s.cluster (c + 256)).sigLast)

section
variable {s : State} {g : Nat}

theorem divergentClusters_eq_nil
    (h : ∀ c ∈ (s.group g).clusters, c < 256 → (s.cluster c).sigLast = (s.cluster (c + 256)).sigLast) : s.divergentClusters g = [] := by
  refine List.filter_eq_nil_iff.mpr fun c hc => ?_
  obtain ⟨hm, hlt⟩ := List.mem_filter.mp ((sortBy_perm id _).mem_iff.mp hc)
  simpa using h c hm (by simpa using hlt)

theorem divergentClusters_eq_cons {c : Nat} (hc : c ∈ (s.group g).clusters) (hw : c < 256)
    (hne : (s.cluster c).sigLast ≠ (s.cluster (c + 256)).sigLast)
    (hleast : ∀ d ∈ (s.group g).clusters, d < c → (s.cluster d).sigLast = (s.cluster (d + 256)).sigLast) :
    ∃ rest, s.divergentClusters g = c :: rest := by
  refine filter_sortBy_least (List.mem_filter.mpr ⟨hc, by simpa using hw⟩) (by simpa using hne) fun d hd hlt => ?_
  simpa using hleast d (List.mem_filter.mp hd).1 hlt

theorem length_divergentClusters : (s.divergentClusters g).length
    = ((s.group g).clusters.filter fun d => decide (d < 256 ∧ (s.cluster d).sigLast ≠ (s.cluster (d + 256)).sigLast)).length := by
  rw [State.divergentClusters, ((sortBy_perm id _).filter _).length_eq, List.filter_filter]
  simp only [Bool.decide_and, Bool.and_comm]

theorem mirrorCompare_same (hdue : (s.group g).sigDue = true) (hbad : s.divergentClusters g = []) :
    mirrorCompare s g = s.updGroup g fun v => { v with sigDue := false } := by
  unfold mirrorCompare
  extract_lets r west bad s1
  rw [if_neg (by simp [r, hdue]), show bad = [] from hbad]

/-- The first divergence of a group is latched and counted, and begins its episode; in HOLD response it holds the group too. -/
theorem mirrorCompare_diverges (hp : (s.group g).parcels ≠ []) (hdue : (s.group g).sigDue = true)
    (hfirst : (s.group g).diverged = false) (hhold : (s.group g).response = 0) {c : Nat} {rest : List Nat}
    (hbad : s.divergentClusters g = c :: rest) (hw : c < 256) :
    mirrorCompare s g = (((s.updGroup g fun v => { v with sigDue := false }).updGroup g fun v =>
        { v with divCount := satAdd 16 (s.group g).divCount 1, divHeld := true }).updGroup g fun v =>
        { v with diverged := true, firstCl := c, divCycle := (s.group g).cycle - 1, westSig := (s.cluster c).sigLast
                 eastSig := (s.cluster (c + 256)).sigLast, divN := (s.divergentClusters g).length }).beginEpisode
      { code := 0x1010, unit := clParcel c, access := 0, master := 0, address := schedAddr c 0 0 0 0
        cycle := (s.group g).cycle - 1 } := by
  unfold mirrorCompare
  extract_lets r west bad s1 s2
  have hs1 : s1.group g = { s.group g with sigDue := false } := group_updGroup_same hp
  have hcount : s2 = s1.updGroup g fun v => { v with divCount := satAdd 16 r.divCount 1, divHeld := true } := by
    simp [s2, State.updGroup_eq, hs1, r, hhold]
  rw [if_neg (by simp [r, hdue]), show bad = s.divergentClusters g from rfl, hbad]
  dsimp only
  rw [hcount, if_neg (by simp [r, hfirst]), Nat.mod_eq_of_lt hw]
  rfl

end

-- SURVEY_CAPTURE (R232, R236)

theorem exec_surveyCapture {s : State} {g : Nat} (hg : g < 32) (hp : (s.group g).parcels ≠ []) :
    exec (.surveyCapture g) s = .next (surveyCapture s g).settle :=
  groupRow_of_parcels (fun t => (surveyCapture t g).settle) hg hp

section
variable {s : State} {g : Nat} {q : SurveyReq} {i : Image}

/-- The one survey under way of a group that has drained, which reads no stack, is written at once. -/
theorem surveyCapture_one (hq : (s.group g).surveys = [q]) (ht : q.taking = true)
    (hi : (s.group g).imageOf (q.parcels.headD 0) = some i) (hdrained : s.groupDrained g = true) (hhbm : i.hbmBytes q.flags = 0) :
    surveyCapture s g = (captureOne g s q).updGroup g fun v => { v with prev := v.prev ||| 0x40, prev2 := v.prev2 ||| 0x40 } := by
  have htaking : (s.group g).surveys.filter (·.taking) = [q] := by simp [hq, ht]
  have hcap : (s.group g).capturing = true := by simp [RunGroup.capturing, hq, ht]
  have hstacks : (s.group g).surveyStacks = [] := by
    simp only [RunGroup.surveyStacks, htaking, List.flatMap_singleton, hi, hhbm, if_true]
  simp only [surveyCapture, htaking, hcap, hstacks, hdrained]
  rfl

/-- With no code word in error, the reads of a survey leave their mark on the arbiters of the banks alone. -/
theorem surveyReads_clean (he : s.ecc = []) (hbm : Bool) (cycle : Word) :
    s.surveyReads i hbm cycle = (forEach i.ordered (fun c t => t.updCluster c fun v => { v with owner := 2 }) s, s) := by
  simp only [State.surveyReads, he, List.foldl_nil]

@[simp] theorem State.writeSurvey_groups (s view : State) (g : Nat) (i : Image) (q : SurveyReq) :
    (s.writeSurvey view g i q).groups = s.groups := by
  unfold State.writeSurvey; extract_lets; split <;> rfl

@[simp] theorem State.setSv_groups (s : State) (ps : List Nat) (v : SurveyState) : (s.setSv ps v).groups = s.groups :=
  forEach_proj State.groups (fun p t => State.setParcel_groups t p _) ps s

/-- A capture writes the survey, takes its request from the group, and answers its command with the cycle and the length. -/
theorem captureOne_clean (hq : (s.group g).surveys = [q]) (hi : (s.group g).imageOf (q.parcels.headD 0) = some i) (he : s.ecc = []) :
    captureOne g s q
      = (forEach i.parcels (fun p t => t.updParcel p fun x => { x with svLast := (s.group g).cycle.toNat % 2 ^ 48 })
          ((((forEach i.ordered (fun c t => t.updCluster c fun v => { v with owner := 2 }) s).writeSurvey s g i q).setSv i.parcels
            .idle).updGroup g fun v => { v with surveys := [] })).finishParked fun _ w => match w with
        | .survey h m => if h = g ∧ q.named m
            then some (0, 0, (s.group g).cycle.toNat + (256 + s.bodyLen g i q.flags) * 2 ^ 64) else none
        | _ => none := by
  unfold captureOne
  simp only [hi, surveyReads_clean he]
  generalize hu : (((forEach i.ordered (fun c t => t.updCluster c fun v => { v with owner := 2 }) s).writeSurvey s g i q).setSv
    i.parcels .idle) = u
  have hgroups : u.groups = s.groups := by
    rw [← hu, State.setSv_groups, State.writeSurvey_groups]
    exact forEach_proj State.groups (fun c t => State.setCluster_groups t c _) _ s
  have hsurveys : (u.group g).surveys = [q] := by rw [State.group, hgroups]; exact hq
  have hdrop : (u.updGroup g fun v => { v with surveys := v.surveys.filter fun x => decide (x.parcels ≠ q.parcels) })
      = u.updGroup g fun v => { v with surveys := [] } := by
    simp [State.updGroup_eq, hsurveys]
  rw [hdrop]
  rfl

end

/-- Settles O21: no commit waits on the copy; the lowest West cluster comes first in the compare; the one survey is written at once. -/
theorem groupEvents : Obligations.GroupEvents := by
  unfold Obligations.GroupEvents
  intro s g hg r hp
  refine ⟨fun hcopy hidle => ?_, fun hdue hsame => ?_, fun c hc hdue hfirst hw hne hleast hhold => ?_,
    fun q i hq ht hi he hdrained hhbm => ?_⟩
  · rw [exec_tableCopyDone hg hp, tableCopyDone_idle hcopy hidle]
  · rw [exec_mirrorCompare hg hp, mirrorCompare_same hdue (divergentClusters_eq_nil hsame)]
    rfl
  · obtain ⟨rest, hbad⟩ := divergentClusters_eq_cons hc hw hne hleast
    rw [exec_mirrorCompare hg hp, mirrorCompare_diverges hp hdue hfirst hhold hbad hw, length_divergentClusters]
  · intro u
    have hexec := exec_surveyCapture hg hp
    rw [surveyCapture_one hq ht hi hdrained hhbm, captureOne_clean hq hi he] at hexec
    exact hexec

end Sys2Proof.Machine
end

-- ==== Timed events: a start, a pause and its end, a timed arm, a timed survey ====
section
/-! PROOFS. TIMED_EVENT_DUE (R129 to R131, R263, R281). What is due acts on its run group; with at most one command in flight, the end of its waits
is the answer of that command or of none. No table of run groups need be canonical, as the group holds parcels. -/
namespace Sys2Proof.Machine

theorem exec_timedEventDue {s : State} {e : TimedEvent} (hg : timedGroup e < 32) (hp : (s.group (timedGroup e)).parcels ≠ []) :
    exec (.timedEventDue e) s = .next (timedDue s e).settle :=
  groupRow_of_parcels (fun t => (timedDue t e).settle) hg hp

theorem dueAt_iff {now t : Word} : dueAt now t = true ↔ 0 ≤ signed64 now t := decide_eq_true_iff

theorem dueAt_eq_false_iff {now t : Word} : dueAt now t = false ↔ signed64 now t < 0 := by
  rw [dueAt, decide_eq_false_iff_not, not_le]

-- the end of waits where at most one command is in flight

theorem finishParked_nil {s : State} (h : s.hub.entries = []) (f : Entry → Wait → Option (Nat × Nat × Nat)) :
    s.finishParked f = s.setEntries [] := by
  rw [State.finishParked, h]; rfl

theorem finishParked_one {s : State} {e : Entry} {w : Wait} {st d r : Nat} {f : Entry → Wait → Option (Nat × Nat × Nat)}
    (h : s.hub.entries = [e]) (hw : e.wait? = some w) (hf : f e w = some (st, d, r)) :
    s.finishParked f = s.setEntries [{ e with state := .done (s.mkReply e.pkt st d r) }] := by
  simp only [State.finishParked, h, List.map_cons, List.map_nil, hw, hf]

theorem anyParked_nil {s : State} (h : s.hub.entries = []) (f : Wait → Bool) : s.anyParked f = false := by
  rw [State.anyParked, h]; rfl

theorem anyParked_one {s : State} {e : Entry} {w : Wait} (h : s.hub.entries = [e]) (hw : e.wait? = some w) (f : Wait → Bool) :
    s.anyParked f = f w := by
  simp only [State.anyParked, h, List.any_cons, List.any_nil, hw, Bool.or_false]

section
variable {s : State} {g : Nat}

theorem startDue_due {t : Word} (ht : (s.group g).startTime = some t) (ha : (s.group g).state = .armed) (hd : dueAt (s.tOpen s.opp) t = true) :
    startDue s g = s.setGroup g { s.group g with state := .running, step := 0, startTime := none, lastOpp := none } := by
  simp only [startDue, ht]
  exact if_pos ⟨ha, hd⟩

theorem startDue_ahead {t : Word} (ht : (s.group g).startTime = some t) (hd : dueAt (s.tOpen s.opp) t = false) : startDue s g = s := by
  simp only [startDue, ht]
  exact if_neg fun h => by simp [hd] at h

/-- The position that a pause reports: the next cycle where the boundary is due, else the cycle and its next step (R131, R396). -/
theorem position_eq (r : RunGroup) :
    r.position = if r.step = r.n then r.cycle.toNat + 1 else r.cycle.toNat + r.step * 2 ^ 64 := rfl

variable {q : Pause}

/-- The one pause of a group that is due is raised. -/
theorem updGroup_raised (hq : (s.group g).pauses = [q]) (hd : dueAt (s.tOpen s.opp) q.pauseTime = true) :
    (s.updGroup g fun v => { v with pauses := v.pauses.map fun q => { q with raised := q.raised || dueAt (s.tOpen s.opp) q.pauseTime } })
      = s.setGroup g { s.group g with pauses := [{ q with raised := true }] } := by
  rw [State.updGroup_eq, hq, List.map_singleton, hd, Bool.or_true]

theorem pauseDue_nil (hq : (s.group g).pauses = [q]) (hd : dueAt (s.tOpen s.opp) q.pauseTime = true) (he : s.hub.entries = []) :
    pauseDue s g = (s.setGroup g { s.group g with pauses := [{ q with raised := true }] }).setEntries [] := by
  unfold pauseDue
  extract_lets r now u
  rw [show u = _ from updGroup_raised hq hd]
  exact finishParked_nil (s := s.setGroup g _) he _

theorem pauseDue_answers {e : Entry} (hq : (s.group g).pauses = [q]) (hd : dueAt (s.tOpen s.opp) q.pauseTime = true)
    (he : s.hub.entries = [e]) (hw : e.wait? = some (.pauseRaise g q.pauseTime)) :
    pauseDue s g = (s.setGroup g { s.group g with pauses := [{ q with raised := true }] }).setEntries
      [{ e with state := .done (s.mkReply e.pkt 0 0 (s.group g).position) }] := by
  unfold pauseDue
  extract_lets r now u
  rw [show u = _ from updGroup_raised hq hd]
  exact finishParked_one (s := s.setGroup g _) he hw (if_pos ⟨rfl, hd⟩)

/-- The one pause of a group that is due to end is gone, and the group is not paused any more. -/
theorem updGroup_released (hp : (s.group g).parcels ≠ []) (hq : (s.group g).pauses = [q]) (hx : q.excess (s.tOpen s.opp) = true) :
    let u := s.updGroup g fun v => { v with pauses := v.pauses.filter fun q => !q.excess (s.tOpen s.opp) }
    u = s.setGroup g { s.group g with pauses := [] } ∧ u.group g = { s.group g with pauses := [] } := by
  intro u
  have hf : ((s.group g).pauses.filter fun q => !q.excess (s.tOpen s.opp)) = [] := by simp [hq, hx]
  have hu : u = s.updGroup g fun v => { v with pauses := [] } := by simp only [u, State.updGroup_eq, hf]
  exact ⟨hu, hu ▸ group_updGroup_same hp⟩

theorem resumeDue_ends (hp : (s.group g).parcels ≠ []) (hq : (s.group g).pauses = [q]) (hx : q.excess (s.tOpen s.opp) = true)
    (hm : s.mirrorWriting g = false) :
    resumeDue s g = (s.setGroup g { s.group g with pauses := [] }).finishParked fun _ w =>
      if w = .pauseRelease g then some (0, 0, (s.group g).cycle.toNat) else none := by
  obtain ⟨hu, hug⟩ := updGroup_released hp hq hx
  unfold resumeDue
  extract_lets now u r
  have hr : r = { s.group g with pauses := [] } := hug
  rw [if_neg (by simp [hm]), if_neg (by simp [hr, RunGroup.paused]), show u = _ from hu, hr]

end

section
variable {s : State} {g : Nat}

theorem timedArm_due {t : Word} (ht : (s.group g).traceArm = some t) (hrun : (s.group g).state ≠ .running)
    (hd : dueAt (s.tOpen s.opp) t = true) : timedDue s (.traceArm g) = s.takeArm g (s.group g).cycle := by
  simp only [timedDue, ht]
  exact if_pos ⟨hrun, hd⟩

theorem busy_eq_false_iff {r : RunGroup} : r.busy = false ↔ r.state ≠ .armed ∧ r.state ≠ .running := by
  simp [RunGroup.busy]

/-- A capture of the one survey of a group takes its place. -/
theorem beginCapture_one {q : SurveyReq} (hq : (s.group g).surveys = [q]) (stamp : Word) :
    s.beginCapture g q stamp = (s.setSv ((s.group g).surveyed q) .capturing).updGroup g fun v =>
      { v with surveys := [{ q with stamp := stamp, taking := true }] } := by
  have hg : (s.setSv ((s.group g).surveyed q) .capturing).group g = s.group g := by
    rw [State.group, State.setSv_groups]; rfl
  have hf : ((s.group g).surveys.filter fun x => decide (x.parcels ≠ q.parcels)) = [] := by simp [hq]
  rw [State.beginCapture, State.updGroup_eq, State.updGroup_eq, hg, hf, List.nil_append]

theorem timedSurvey_due {q : SurveyReq} (hq : (s.group g).surveys = [q]) (ht : q.taking = false) (hb : (s.group g).busy = false)
    (hf : bitOf q.flags 1 = true) (hd : dueAt (s.tOpen s.opp) q.atTime = true) :
    timedDue s (.surveyAt g) = s.beginCapture g q (s.tOpen s.opp) := by
  simp [timedDue, hb, hq, ht, hf, hd]

end

/-- Settles O22: each event is due or ahead, and with at most one command in flight the end of its wait is that of the one command. -/
theorem timedEvents : Obligations.TimedEvents := by
  unfold Obligations.TimedEvents
  intro s g hg r now hp
  have hexec (e : TimedEvent) (he : timedGroup e = g) : exec (.timedEventDue e) s = .next (timedDue s e).settle :=
    exec_timedEventDue (he ▸ hg) (he ▸ hp)
  have hexcess {q : Pause} {at_ : Word} (hr : q.raised = true) (hends : q.ends = some at_) (hd : 0 ≤ signed64 now at_) :
      q.excess now = true := by
    rw [Pause.excess, hr, hends]; exact dueAt_iff.mpr hd
  refine ⟨fun at_ ht ha => ⟨fun hd => ?_, fun hd => ?_⟩, fun q hq _ hd he => ?_, fun q at_ hq hr hagain hd he => ?_,
    fun q e hq _ hd he hw => ?_, fun q at_ e hq hr hends hd he hw => ?_, fun e he => ⟨_, hexec e he⟩, fun at_ ht hrun hd => ?_,
    fun q hq ht harm hrun hf hd => ?_⟩
  · rw [hexec (.runStart g) rfl, timedDue, startDue_due ht ha (dueAt_iff.mpr hd)]
  · rw [hexec (.runStart g) rfl, timedDue, startDue_ahead ht (dueAt_eq_false_iff.mpr hd)]
  · rw [hexec (.pauseBegin g) rfl, timedDue, pauseDue_nil hq (dueAt_iff.mpr hd) he]
  · have hx := hexcess hr (by rw [Pause.ends, hagain]; rfl) hd
    have hm : s.mirrorWriting g = false := by rw [State.mirrorWriting, anyParked_nil he, Bool.and_false]
    rw [hexec (.pauseEnd g) rfl, timedDue, resumeDue_ends hp hq hx hm, finishParked_nil (s := s.setGroup g _) he]
  · rw [hexec (.pauseBegin g) rfl, timedDue, pauseDue_answers hq (dueAt_iff.mpr hd) he hw, position_eq]
  · have hx : q.excess now = true := by
      refine hexcess hr ?_ hd
      rcases hends with h | ⟨h, h'⟩
      · rw [Pause.ends, h]; rfl
      · rw [Pause.ends, h]; exact h'
    have hm : s.mirrorWriting g = false := by rw [State.mirrorWriting, anyParked_one he hw, Bool.and_false]
    rw [hexec (.pauseEnd g) rfl, timedDue, resumeDue_ends hp hq hx hm, finishParked_one (s := s.setGroup g _) he hw (if_pos rfl)]
    rfl
  · rw [hexec (.traceArm g) rfl, timedArm_due ht hrun (dueAt_iff.mpr hd)]
  · rw [hexec (.surveyAt g) rfl, timedSurvey_due hq ht (busy_eq_false_iff.mpr ⟨harm, hrun⟩) hf (dueAt_iff.mpr hd), beginCapture_one hq]

end Sys2Proof.Machine
end

-- ==== Run control: RUN_AT, RUN_STOP, PAUSE_AT and RESUME_AT ====
section
/-! PROOFS. RUN_AT, RUN_STOP, PAUSE_AT and RESUME_AT (R129 to R133, R135, R282). Once the mask names a group that the caller may use, the answer of
each is one of a few, by what the group is doing and by how its time or cycle compares. -/
namespace Sys2Proof.Machine

section
variable {p : Packet} {s : State}

theorem exec_runAt (h : Accepted 0x0300 p s (parCheck p [(20, 4), (28, 8)] true) (decide (par p 20 4 = 0))) :
    exec (.runAt p) s = .next (conclude 0x0300 p (runAtOwn p s)) :=
  congrArg Host.Outcome.next (command_accepted h)

theorem exec_runStop (h : Accepted 0x0301 p s (parCheck p [(20, 4), (28, 8)] true) (decide (par p 20 4 = 0))) :
    exec (.runStop p) s = .next (conclude 0x0301 p (runStopOwn p s)) :=
  congrArg Host.Outcome.next (command_accepted h)

theorem exec_pauseAt (h : Accepted 0x0302 p s (parCheck p [(20, 4), (28, 8), (36, 8)]
      (inWindow (BitVec.ofNat 64 (par p 28 8)) s.datum.now && (decide (BitVec.ofNat 64 (par p 36 8) = 0)
        || (inWindow (BitVec.ofNat 64 (par p 36 8)) s.datum.now
          && decide (0 < signed64 (BitVec.ofNat 64 (par p 36 8)) (BitVec.ofNat 64 (par p 28 8)))))))
      (decide (par p 20 4 = 0))) :
    exec (.pauseAt p) s = .next (conclude 0x0302 p (pauseAtOwn p s)) :=
  congrArg Host.Outcome.next (command_accepted h)

theorem exec_resumeAt (h : Accepted 0x0303 p s (parCheck p [(20, 4), (28, 8)] (inWindow (BitVec.ofNat 64 (par p 28 8)) s.datum.now))
      (decide (par p 20 4 = 0))) :
    exec (.resumeAt p) s = .next (conclude 0x0303 p (resumeAtOwn p s)) :=
  congrArg Host.Outcome.next (command_accepted h)

variable {g : Nat}

/-- The stop of a group that is in no joined design is due at the end of its cycle, and releases source 8; source 7 is not raised. -/
theorem stopDue_stopHolds {c : Word} (hrun : (s.group g).state = .running) (hj : (s.group g).joined = false) (hp : (s.group g).paused = false)
    (hc : (s.group g).stops.contains { cause := 2, cycle := c } = false) :
    (s.stopDue g 2 c).stopHolds g
      = (s.setGroup g { s.group g with stops := (s.group g).stops ++ [{ cause := 2, cycle := c }] }).updGroup g fun v =>
          { v with divHeld := false } := by
  have hdue : s.stopDue g 2 c = s.setGroup g { s.group g with stops := (s.group g).stops ++ [{ cause := 2, cycle := c }] } := by
    simp only [State.stopDue, hj, hc, Bool.false_eq_true, if_false, false_and]
  have hread : (s.stopDue g 2 c).group g = { s.group g with stops := (s.group g).stops ++ [{ cause := 2, cycle := c }] } := by
    rw [hdue]
    refine mget_mset_same_of_ne (fun e => ?_) s.groups
    have := congrArg RunGroup.state e
    simp [hrun, RunGroup.init] at this
  have hrel : (s.stopDue g 2 c).releasePause g = s.stopDue g 2 c := by
    rw [State.releasePause, hread]
    exact if_neg (by simpa [RunGroup.paused] using hp)
  rw [State.stopHolds, hrel, hdue]

/-- The pause that a PAUSE_AT asks for. -/
def askedPause (p : Packet) (raised : Bool) : Pause :=
  { pauseTime := BitVec.ofNat 64 (par p 28 8)
    resumeTime := if BitVec.ofNat 64 (par p 36 8) = 0 then none else some (BitVec.ofNat 64 (par p 36 8)), again := none, raised := raised }

/-- A pause that lasts until a RESUME_AT, or whose resume time is ahead, is not due to end. -/
theorem askedPause_excess {now : Word} (raised : Bool)
    (h : BitVec.ofNat 64 (par p 36 8) = 0 ∨ dueAt now (BitVec.ofNat 64 (par p 36 8)) = false) : (askedPause p raised).excess now = false := by
  by_cases h0 : BitVec.ofNat 64 (par p 36 8) = 0
  · have hends : (askedPause p raised).ends = none := (if_neg (by simp [askedPause])).trans (if_pos h0)
    rw [Pause.excess, hends]
    exact Bool.and_false _
  · have hends : (askedPause p raised).ends = some (BitVec.ofNat 64 (par p 36 8)) := (if_neg (by simp [askedPause])).trans (if_neg h0)
    rw [Pause.excess, hends, Option.map_some, Option.getD_some, h.resolve_left h0, Bool.and_false]

variable (hg : runGroupOf p s = .ok g)
include hg

/-- A check of parameters beside that of the mask fails first. -/
theorem runGroupOf_check (ok : Bool) : runGroupOf p s ok = if ok = true then .ok g else .error (errParam, 0) := by
  unfold runGroupOf at hg ⊢
  cases hm : s.groupOfMask (maskList 32 (par p 20 4)) with
  | none => simp [hm] at hg
  | some h => cases ok <;> simp_all

-- RUN_AT (R130, R282)

theorem runAtOwn_window (hw : inWindow (BitVec.ofNat 64 (par p 28 8)) s.datum.now = false) : runAtOwn p s = fail s errParam := by
  simp only [runAtOwn, runGroupOf_check hg, hw, Bool.false_eq_true, if_false]

theorem runAtOwn_window_ok (hw : inWindow (BitVec.ofNat 64 (par p 28 8)) s.datum.now = true) (hr : s.runnable g = true)
    (hj : s.cargoQuads g = [] ∨ (s.group g).joined = true) :
    runAtOwn p s = if tooSoon (BitVec.ofNat 64 (par p 28 8)) s.datum.now runLead = true then fail s errState
      else .park (.runStart g) (s.setGroup g { s.group g with
        state := .armed, prior := (s.group g).state, startTime := some (BitVec.ofNat 64 (par p 28 8)), stops := [], seenStops := [],
        faultSent := false, halting := none }) := by
  have hnot : ¬(s.cargoQuads g ≠ [] ∧ (s.group g).joined = false) := by
    rintro ⟨hc, hn⟩
    exact hj.elim hc (by simp [hn])
  simp only [runAtOwn, runGroupOf_check hg, hw, hr, if_true, Bool.true_eq_false, if_false, if_neg hnot]

-- RUN_STOP (R132, R133, R135)

theorem runStopOwn_waits {c : Word} (hrun : (s.group g).state = .running) (hj : (s.group g).joined = false)
    (hp : (s.group g).paused = false) (hstep : (s.group g).step < (s.group g).n)
    (hc : BitVec.ofNat 64 (par p 28 8) = 0 ∧ c = (s.group g).cycle
      ∨ BitVec.ofNat 64 (par p 28 8) ≠ 0 ∧ (s.group g).cycle.toNat ≤ (BitVec.ofNat 64 (par p 28 8)).toNat ∧ c = BitVec.ofNat 64 (par p 28 8))
    (hnew : (s.group g).stops.contains { cause := 2, cycle := c } = false) :
    runStopOwn p s = .park (.runStop g c)
      ((s.setGroup g { s.group g with stops := (s.group g).stops ++ [{ cause := 2, cycle := c }] }).updGroup g fun v =>
        { v with divHeld := false }) := by
  have hfirst : (s.group g).earliest = (s.group g).cycle := if_neg hstep.ne
  have hnot : ¬(BitVec.ofNat 64 (par p 28 8) ≠ 0 ∧ (BitVec.ofNat 64 (par p 28 8)).toNat < (s.group g).cycle.toNat) := by
    rintro ⟨hne, hlt⟩
    rcases hc with ⟨h0, -⟩ | ⟨-, hle, -⟩
    · exact hne h0
    · omega
  have hcyc : (if BitVec.ofNat 64 (par p 28 8) = 0 then (s.group g).cycle else BitVec.ofNat 64 (par p 28 8)) = c := by
    rcases hc with ⟨h0, rfl⟩ | ⟨hne, -, rfl⟩
    · exact if_pos h0
    · exact if_neg hne
  rw [← stopDue_stopHolds hrun hj hp hnew]
  simp only [runStopOwn, hg, hrun, hj, hfirst, add_zero, sub_zero, reduceCtorEq, if_false, Bool.false_eq_true, if_neg hnot, hcyc,
    ne_eq, not_true_eq_false]

theorem runStopOwn_already (hrun : (s.group g).state ≠ .running) (harm : (s.group g).state ≠ .armed) :
    runStopOwn p s = .reply okAlready 0 (s.group g).cycle.toNat s := by
  simp only [runStopOwn, hg, if_neg harm]
  exact if_pos hrun

-- PAUSE_AT and RESUME_AT (R131)

theorem pauseAtOwn_gates (hb : (s.group g).busy = true) (hp : (s.group g).paused = false)
    (hx : (askedPause p (dueAt (s.tOpen s.opp) (BitVec.ofNat 64 (par p 28 8)))).excess (s.tOpen s.opp) = false) :
    pauseAtOwn p s =
      let u := s.setGroup g { s.group g with
        pauses := (s.group g).pauses ++ [askedPause p (dueAt (s.tOpen s.opp) (BitVec.ofNat 64 (par p 28 8)))] }
      if dueAt (s.tOpen s.opp) (BitVec.ofNat 64 (par p 28 8)) = true then done u (s.group g).position
      else .park (.pauseRaise g (BitVec.ofNat 64 (par p 28 8))) u := by
  unfold askedPause at hx ⊢
  simp only [pauseAtOwn, hg, hb, hp, hx, Bool.true_eq_false, Bool.false_eq_true, or_self, if_false, State.updGroup_eq]

theorem resumeAtOwn_waits {q : Pause} (hq : (s.group g).pauses = [q]) (hr : q.raised = true)
    (hd : dueAt (s.tOpen s.opp) (BitVec.ofNat 64 (par p 28 8)) = false) :
    resumeAtOwn p s = .park (.pauseRelease g)
      (s.setGroup g { s.group g with pauses := [{ q with again := some (BitVec.ofNat 64 (par p 28 8)) }] }) := by
  have hpaused : (s.group g).paused = true := by simp [RunGroup.paused, hq, hr]
  have hmap : ((s.group g).pauses.map fun q => if q.raised = true then { q with again := some (BitVec.ofNat 64 (par p 28 8)) } else q)
      = [{ q with again := some (BitVec.ofNat 64 (par p 28 8)) }] := by simp [hq, hr]
  have hread : (s.setGroup g { s.group g with pauses := [{ q with again := some (BitVec.ofNat 64 (par p 28 8)) }] }).group g
      = { s.group g with pauses := [{ q with again := some (BitVec.ofNat 64 (par p 28 8)) }] } := by
    refine mget_mset_same_of_ne (fun e => ?_) s.groups
    have := congrArg RunGroup.pauses e
    simp [RunGroup.init] at this
  have hstill : (s.setGroup g { s.group g with pauses := [{ q with again := some (BitVec.ofNat 64 (par p 28 8)) }] } |>.group g).paused = true := by
    rw [hread]; simp [RunGroup.paused, hr]
  simp only [resumeAtOwn, hg, hpaused, hd, Bool.true_eq_false, Bool.false_eq_true, if_false, State.updGroup_eq, hmap, hstill, if_true]

theorem resumeAtOwn_unpaused (hp : (s.group g).paused = false) : resumeAtOwn p s = fail s errState := by
  simp only [resumeAtOwn, hg, hp, if_true]

end

/-- Settles O36: a run is armed, refused or too soon; a stop, a pause and a resume each wait or answer, by what the group is doing. -/
theorem runControl : Obligations.RunControl := by
  unfold Obligations.RunControl
  intro s p g hg r t e now
  refine ⟨fun hacc hr hj => ?_, fun hacc => ⟨fun c hrun hj hp hstep hc hnew => ?_, fun hrun harm => ?_⟩,
    fun hacc hbusy hp => ?_, fun hacc => ⟨fun q hq hr hd => ?_, fun hp => ?_⟩⟩
  · rw [exec_runAt hacc]
    refine ⟨fun hw => ?_, fun hw => ⟨fun hle => ?_, fun hlt => ?_⟩⟩
    · rw [runAtOwn_window hg hw]; rfl
    · have hsoon : tooSoon t s.datum.now runLead = false := decide_eq_false (not_lt.mpr hle)
      rw [runAtOwn_window_ok hg hw hr hj, if_neg (by simpa only [Bool.not_eq_true] using hsoon)]
    · have hsoon : tooSoon t s.datum.now runLead = true := decide_eq_true hlt
      rw [runAtOwn_window_ok hg hw hr hj, if_pos hsoon]; rfl
  · rw [exec_runStop hacc, runStopOwn_waits hg hrun hj hp hstep hc hnew]
  · rw [exec_runStop hacc, runStopOwn_already hg hrun harm]; rfl
  · have hb : r.busy = true := by
      rcases hbusy with h | h <;> simp [RunGroup.busy, h]
    intro q
    rw [exec_pauseAt hacc]
    refine ⟨fun hd => ?_, fun hd hends => ?_⟩
    · have hd' : dueAt now t = false := dueAt_eq_false_iff.mpr hd
      rw [pauseAtOwn_gates hg hb hp (by rw [hd']; rfl), hd']
      rfl
    · have hd' : dueAt now t = true := dueAt_iff.mpr hd
      rw [pauseAtOwn_gates hg hb hp (askedPause_excess _ (hends.imp_right dueAt_eq_false_iff.mpr)), hd']
      rfl
  · rw [exec_resumeAt hacc, resumeAtOwn_waits hg hq hr (dueAt_eq_false_iff.mpr hd)]
  · rw [exec_resumeAt hacc, resumeAtOwn_unpaused hg hp]; rfl

end Sys2Proof.Machine
end

-- ==== What settling leaves alone: lanes and run groups ====
section
/-! PROOFS. A fault of class 0 or 1 halts no run group (R420), so it sends no stop codeword and changes no
lane; the one fault that releasing a reply can raise, RING_CORRUPT, is of class 1. So what follows every command and event keeps the lanes,
the run groups, the quads, and every first-error record that is latched. -/
namespace Sys2Proof.Machine

/-- From `s` to `t` the lanes and the run groups are the same, and no first-error record has gone. -/
structure Calm (s t : State) : Prop where
  lanes : t.lanes = s.lanes
  groups : t.groups = s.groups
  recs : ∀ u, (s.faultRec u).isSome = true → (t.faultRec u).isSome = true

/-- A class below 2 halts no run group (R420). -/
theorem haltFor_of_lt_two {cls : Nat} (h : cls < 2) (s : State) (unit code : Nat) : s.haltFor cls unit code = s := by
  have turn (g : Nat) (t : State) (ht : t = s) : (if cls = 3 ∨ (cls = 2 ∧ (t.group g).parcels.any fun p =>
      (t.ownerOf p).isSome && decide (t.ownerOf p = t.unitOwner unit)) then t.haltBegin g code else t) = s := by
    rw [if_neg (by omega), ht]
  exact forEach_keep (P := fun t => t = s) turn rfl

namespace Calm
variable {s t u : State}

theorem refl : Calm s s := ⟨rfl, rfl, fun _ h => h⟩

theorem trans (h : Calm s t) (k : Calm t u) : Calm s u :=
  ⟨k.lanes.trans h.lanes, k.groups.trans h.groups, fun i hi => k.recs i (h.recs i hi)⟩

theorem ite {c : Prop} [Decidable c] {a b : State} (h : Calm s a) (k : Calm s b) : Calm s (if c then a else b) := by
  split <;> assumption

/-- An update of other fields. -/
theorem elsewhere (h : Calm s t) (e : (u.lanes, u.groups, u.faults.recs) = (t.lanes, t.groups, t.faults.recs) := by rfl) : Calm s u := by
  simp only [Prod.mk.injEq] at e
  obtain ⟨hl, hg, hr⟩ := e
  exact h.trans ⟨hl, hg, fun i hi => by rw [State.faultRec, hr]; exact hi⟩

theorem lane (h : Calm s t) (l : Nat) : t.lane l = s.lane l := by unfold State.lane; rw [h.lanes]

theorem group (h : Calm s t) (g : Nat) : t.group g = s.group g := by unfold State.group; rw [h.groups]

/-- A latched record stays, and another may join it. -/
theorem setFaultRec (h : Calm s t) (i : Nat) (r : FaultRec) : Calm s (t.setFaultRec i (some r)) := by
  refine h.trans ⟨rfl, rfl, fun k hk => ?_⟩
  by_cases hki : k = i
  · subst hki
    exact (congrArg Option.isSome (mget_mset_same_of_ne (d := (none : Option FaultRec)) (by simp) t.faults.recs)).trans rfl
  · exact (congrArg Option.isSome (mget_mset_other_of_ne hki fun e => by simp [State.faultRec, e] at hk)).trans hk

theorem irq (h : Calm s t) {f v : Nat} : Calm s (t.irq f v) := by
  rw [irq_frame]; exact h.elsewhere

theorem irqTo (h : Calm s t) (o : Option Nat) : Calm s (match o with | some f => if f = 0 then t else t.irq f 31 | none => t) := by
  cases o with
  | none => exact h
  | some f => exact ite h h.irq

theorem logHub (h : Calm s t) {kind flags payload : Nat} : Calm s (t.logHub kind flags payload) := by
  unfold State.logHub; rw [logRaw_frame]; exact h.elsewhere

/-- A fault of class 0 or 1 halts nothing (R420), and latches (R424). -/
theorem raise (h : Calm s t) {e : FaultEv} {extra : Option Nat} (hc : faultClass e.code e.unit < 2) :
    Calm s (t.raise e extra) ∧ ((t.raise e extra).faultRec e.unit).isSome = true := by
  unfold State.raise
  extract_lets cls new l k was s1 cnt s2 logged s4 s5 told halted
  have latched : Calm s s1 := h.setFaultRec _ _
  have hrec : (s1.faultRec e.unit).isSome = true :=
    (congrArg Option.isSome (mget_mset_same_of_ne (d := (none : Option FaultRec)) (by simp) t.faults.recs)).trans rfl
  have counted : Calm s1 s2 := elsewhere refl
  have hl : Calm s1 logged := counted.logHub
  have ht : Calm s1 told := ite (irqTo (irqTo hl.irq _) _) hl
  have hh : Calm s1 halted := by rw [show halted = told from haltFor_of_lt_two hc told _ _]; exact ht
  have all : Calm s1 (if cls = 0 then s2 else if cls = 3 then ((halted.faultClaims e.code).faultPulse).alertOut was else halted) := by
    rw [if_neg (show ¬ cls = 3 by omega)]; exact ite counted hh
  exact ⟨latched.trans all, all.recs _ hrec⟩

theorem beginEpisode (h : Calm s t) {e : FaultEv} (hc : faultClass e.code e.unit < 2) : Calm s (t.beginEpisode e) :=
  ite h (raise (elsewhere h) hc).1

theorem signal (h : Calm s t) {i : Nat} : Calm s (t.signal i) := irq h.elsewhere

theorem sessionError (h : Calm s t) {i cause : Nat} : Calm s (t.sessionError i cause) :=
  (raise h.elsewhere (show faultClass 0x5002 82 < 2 by decide)).1.signal

theorem releaseOne (h : Calm s t) {i : Nat} {r : Reply} {notify : Bool} : Calm s (t.releaseOne i r notify) :=
  ite (ite (sessionError h.elsewhere) (ite (signal h.elsewhere) h.elsewhere)) h.elsewhere

theorem applyReleased (h : Calm s t) {e : Entry} {r : Reply} : Calm s (t.applyReleased e r) := ite h.elsewhere h

theorem releaseLoop (l : List Entry) : ∀ kept blocked t, Calm s t → Calm s (releaseLoop l kept blocked t) := by
  induction l with
  | nil => exact fun _ _ _ h => h.elsewhere
  | cons e l ih =>
    intro kept blocked t h
    unfold Machine.releaseLoop
    split
    · exact ite (ih _ _ _ h.applyReleased) (ite (ih _ _ _ h.releaseOne.applyReleased) (ih _ _ _ h))
    · exact ih _ _ _ h

theorem release (h : Calm s t) : Calm s t.release := releaseLoop _ _ _ _ h

theorem finishParked (h : Calm s t) {f : Entry → Wait → Option (Nat × Nat × Nat)} : Calm s (t.finishParked f) := h.elsewhere

theorem settleSession (h : Calm s t) {i : Nat} : Calm s (t.settleSession i) := ite h.elsewhere h

theorem forEach {l : List Nat} {f : Nat → State → State} (h : Calm s t) (hf : ∀ i u, Calm s u → Calm s (f i u)) :
    Calm s (forEach l f t) := forEach_keep hf h

theorem settle (h : Calm s t) : Calm s t.settle :=
  ite h.release (release (finishParked (h.release.forEach fun _ _ k => k.settleSession)))

end Calm

theorem settle_lane (s : State) (l : Nat) : s.settle.lane l = s.lane l := Calm.refl.settle.lane l

theorem settle_group (s : State) (g : Nat) : s.settle.group g = s.group g := Calm.refl.settle.group g

theorem settle_quad (s : State) (q : Nat) : s.settle.quad q = s.quad q := by
  obtain ⟨_, _, _, _, _, _, _, _, _, _, h⟩ := settle_replying s
  rw [h]; rfl

end Sys2Proof.Machine
end

-- ==== Received codewords: headers, cargo, packets, messages ====
section
/-! PROOFS. What a lane that is UP does with a codeword (R306, R310 to R314). `Lane.heard` is what every
header brings; the row of each type is then one equation, and a CTRL codeword with one word acts as that word's message. -/
namespace Sys2Proof.Machine

-- rows of a lane, and what a received codeword's header brings

theorem laneRow_of_lt {l : Nat} (hl : l < 144) (s : State) (f : State → State) : laneRow l s f = .next (f s).settle := if_pos hl

/-- The lane once the header of a correctly decoded codeword, of any type but TRAIN, is taken (R306, R311, R314). -/
def Lane.heard (v : Lane) (c : Codeword) : Lane :=
  { v with
    uncorr64 := (false :: v.uncorr64).take 64, farSleep := false, holdIn := c.hold, symCorr := satAdd 48 v.symCorr c.corr
    cwCorr := if c.corr = 0 then v.cwCorr else satAdd 48 v.cwCorr 1
    credits := (List.range 3).map fun k => min 16 (v.credits.getD k 0 + bitsOf c.credit (2 * k) 2) }

/-- An ack that no kept packet carries releases nothing (R312). -/
theorem takeAck_of_not_mem {v : Lane} {a : Nat} (h : ∀ x ∈ v.unacked, x.1 ≠ a) : v.takeAck a = v := by
  have hnone : v.unacked.findIdx? (fun x => decide (x.1 = a)) = none :=
    List.findIdx?_eq_none_iff.mpr fun x hx => by simp [h x hx]
  unfold Lane.takeAck
  rw [hnone]

theorem header_of_no_ack {v : Lane} {c : Codeword} (h : ∀ x ∈ v.unacked, x.1 ≠ c.ack) (ht : c.type ≠ 5) : v.header c = v.heard c := by
  unfold Lane.header
  extract_lets w fix
  rw [takeAck_of_not_mem (v := fix) h]
  simp only [fix, if_neg ht]
  rfl

theorem header_train {v : Lane} {c : Codeword} (h : ∀ x ∈ v.unacked, x.1 ≠ c.ack) (ht : c.type = 5) :
    v.header c = { v.heard c with holdIn := v.holdIn } := by
  unfold Lane.header
  extract_lets w fix
  rw [takeAck_of_not_mem (v := fix) h]
  simp only [fix, if_pos ht]
  rfl

section
variable {s : State} {l : Nat} {c : Codeword} (hup : (s.lane l).state = .up) (hfec : (s.lane l).fec = 0) (hheld : s.pairHeld l = false)
include hup hfec

theorem lane_linked : (s.lane l).linked = true := by simp [Lane.linked, hup, hfec]

include hheld

/-- A codeword of a reserved type or VC, or with a nonzero zero-field, is counted and discarded (R306). -/
theorem receive_bad (h : c.zero ≠ 0 ∨ 3 ≤ c.vc ∨ 6 ≤ c.type) (k : Nat) (f : State → State) : receive s l k c f
    = s.setLane l { (s.lane l).heard c with
        holdIn := (s.lane l).holdIn, credits := (s.lane l).credits, cwBad := satAdd 48 (s.lane l).cwBad 1 } := by
  unfold receive
  simp only [hheld, Bool.false_and, Bool.false_eq_true, if_false, hfec, lane_linked hup hfec, Nat.zero_ne_one, if_pos h]
  rfl

/-- Any other codeword brings its header, and then acts (R306). -/
theorem receive_good (hz : c.zero = 0) (hvc : c.vc < 3) (ht : c.type < 6) (f : State → State) :
    receive s l c.type c f = f (s.setLane l ((s.lane l).header c)) := by
  unfold receive
  simp only [hheld, Bool.false_and, Bool.false_eq_true, if_false, hfec, lane_linked hup hfec, false_and, Nat.zero_ne_one, Bool.true_eq_false]
  rw [if_neg (by omega), if_neg (by simp)]

end

-- cargo (R126, R313)

theorem rxBuf_watchLead (v : Lane) (n d last : Nat) : (v.watchLead n d last).rxBuf = v.rxBuf := by
  unfold Lane.watchLead
  extract_lets newest hold
  split <;> rfl

/-- A four-bit number that is the one of the receiver's own cycle names that cycle. -/
theorem fullCycle_same {r : RunGroup} {c : Nat} (h : c = r.cycle.toNat % 16) : fullCycle r c = r.cycle := by
  unfold fullCycle
  rw [show (c + 16 - r.cycle.toNat % 16) % 16 = 0 by omega]
  simp

section
variable {s : State} {l : Nat} {r : RunGroup} {w : SchedCw} (hw : mwf Lane.init s.lanes = true)
include hw

theorem lane_putCargoCw_other {k : Nat} (hk : k ≠ l) : (s.putCargoCw l r w).lane k = s.lane k := by
  unfold State.putCargoCw
  rw [State.updLane_eq, State.lane_setLane _ _ _ _ hw, if_neg hk]

/-- A codeword enters the receive buffer where it has room (R126). -/
theorem rxBuf_putCargoCw : ((s.putCargoCw l r w).lane l).rxBuf = if (s.lane l).rxBuf.length < rxBufSize (classLimit (s.quad (l / 4)).cls)
    then (s.lane l).rxBuf ++ [w] else (s.lane l).rxBuf := by
  unfold State.putCargoCw
  rw [State.updLane_eq, State.lane_setLane_same _ _ _ hw]
  by_cases h : (s.lane l).rxBuf.length < rxBufSize (classLimit (s.quad (l / 4)).cls)
  · rw [if_neg (by rw [laneQuad]; omega), if_pos h, rxBuf_watchLead]
  · rw [if_pos (by rw [laneQuad]; omega), if_neg h]

theorem mwf_putCargoCw : mwf Lane.init (s.putCargoCw l r w).lanes = true := mwf_mset hw

/-- East's replica of a lane gets a copy in paired modes, and no other lane anything (R245). -/
theorem lane_putCargoBoth : (s.putCargoBoth l r w).lane l = (s.putCargoCw l r w).lane l := by
  unfold State.putCargoBoth
  extract_lets t
  split
  · rw [State.updLane_eq, State.lane_setLane _ _ _ _ (mwf_putCargoCw hw), if_neg (by omega)]
  · rfl

theorem rxBuf_putCargoBoth_replica (hp : 2 ≤ s.boot.pairMode) (hl : l < 72)
    (hroom : (s.lane (l + 72)).rxBuf.length < rxBufSize (classLimit (s.quad (l / 4)).cls)) :
    ((s.putCargoBoth l r w).lane (l + 72)).rxBuf = (s.lane (l + 72)).rxBuf ++ [w] := by
  unfold State.putCargoBoth
  extract_lets t
  have hpair : (t.paired && decide (l < 72)) = true := by simp [hl, show t.paired = true from decide_eq_true hp]
  have hlane : t.lane (l + 72) = s.lane (l + 72) := lane_putCargoCw_other hw (by omega)
  have hquad : t.quad (laneQuad l) = s.quad (l / 4) := rfl
  rw [if_pos hpair, State.updLane_eq, State.lane_setLane_same _ _ _ (mwf_putCargoCw hw), hlane, hquad, if_neg (by omega)]

theorem mwf_putCargoBoth : mwf Lane.init (s.putCargoBoth l r w).lanes = true := by
  unfold State.putCargoBoth
  extract_lets t
  split
  · exact mwf_mset (mwf_putCargoCw hw)
  · exact mwf_putCargoCw hw

end

theorem exec_idle (l : Nat) (c : Codeword) (s : State) : exec (.idle l c) s = laneRow l s fun t => receive t l 0 c fun u => u := rfl
theorem exec_sched (l : Nat) (c : Codeword) (s : State) : exec (.sched l c) s = laneRow l s fun t => receive t l 1 c fun u => takeSched u l c := rfl
theorem exec_pkt (l : Nat) (c : Codeword) (s : State) : exec (.pkt l c) s = laneRow l s fun t => receive t l 2 c fun u => takePkt u l c := rfl
theorem exec_train (l : Nat) (c : Codeword) (s : State) : exec (.train l c) s = laneRow l s fun t => receive t l 5 c fun u => takeTrain u l c := rfl
theorem exec_codewordUncorrectable (l : Nat) (s : State) :
    exec (.codewordUncorrectable l) s = laneRow l s fun t => uncorrectable t l := rfl
theorem exec_resendRetry (l : Nat) (s : State) : exec (.resendRetry l) s = laneRow l s fun t => resendRetry t l := rfl

/-- The step-frame that a SCHED codeword carries, in a cycle of its receiver (R305, R308). -/
def schedFrame (c : Codeword) (cycle : Word) : SchedCw :=
  { stepTag := c.stepTag / 4 * 4, cyc := c.cyc, cycle := cycle
    words := (List.range 8).map fun j => BitVec.ofNat 72 (bitsOf c.body.toNat (72 * j) 72) }

section
variable {s : State} {l g : Nat} {c : Codeword} (hg : (s.quad (l / 4)).rg = some g) (hc : c.cyc = (s.group g).cycle.toNat % 16)
include hg hc

theorem takeSched_eq : takeSched s l c
    = if ((s.lane l).rxBuf.any fun x => decide (x.stepTag = c.stepTag / 4 * 4) && decide (x.cycle = (s.group g).cycle)) = true
        ∨ (schedFrame c (s.group g).cycle).due (s.group g).n (classLimit (s.quad (l / 4)).cls) 3
          < (s.group g).cycle.toNat * (s.group g).n + (s.group g).step
      then s else s.putCargoBoth l (s.group g) (schedFrame c (s.group g).cycle) := by
  unfold takeSched
  rw [laneQuad, hg]
  dsimp only
  rw [fullCycle_same hc, show c.cyc % 16 = c.cyc by omega]
  simp only [Bool.or_eq_true, decide_eq_true_eq]
  rfl

/-- Another copy of a step-frame is not kept (R313). -/
theorem takeSched_known (h : ∃ x ∈ (s.lane l).rxBuf, x.stepTag = c.stepTag / 4 * 4 ∧ x.cycle = (s.group g).cycle) : takeSched s l c = s := by
  rw [takeSched_eq hg hc, if_pos]
  exact .inl (by simpa using h)

/-- The first copy of one that is due is kept (R313). -/
theorem takeSched_first (hdue : (s.group g).step ≤ c.stepTag / 4 * 4 + 7 + classLimit (s.quad (l / 4)).cls)
    (h : ∀ x ∈ (s.lane l).rxBuf, x.stepTag ≠ c.stepTag / 4 * 4 ∨ x.cycle ≠ (s.group g).cycle) :
    takeSched s l c = s.putCargoBoth l (s.group g) (schedFrame c (s.group g).cycle) := by
  rw [takeSched_eq hg hc, if_neg]
  rintro (hk | hd)
  · obtain ⟨x, hx, hk⟩ := List.any_eq_true.mp hk
    simp only [Bool.and_eq_true, decide_eq_true_eq] at hk
    exact (h x hx).elim (absurd hk.1) (absurd hk.2)
  · simp only [SchedCw.due, schedFrame] at hd
    omega

end

-- packets (R312)

section
variable {s : State} {l : Nat} {c : Codeword}

/-- The expected flit that heads a packet of several is kept for the rest (R312). -/
theorem takePkt_head (hseq : c.pseq = (s.lane l).rxSeq) (hhead : bitOf c.body.toNat 532 = true) (htail : bitOf c.body.toNat 533 = false) :
    takePkt s l c = s.setLane l { s.lane l with
      rxSeq := ((s.lane l).rxSeq + 1) % 256, gap := none, freed := (s.lane l).freed.modify c.vc (· + 1)
      rxFlits := mset [] c.vc [c.body] (s.lane l).rxFlits } := by
  unfold takePkt
  simp only [hseq, hhead, htail, ne_eq, not_true_eq_false, if_false, if_true, Bool.false_eq_true, List.nil_append]

/-- One NAK in 256 frames asks for what is missing (R312). -/
theorem askReplay_first (h : ∀ f, (s.lane l).gap = some f → f + 256 ≤ s.opp / 4) : s.askReplay l = s.updLane l fun w =>
    { w with gap := some (s.opp / 4), ctrl := w.ctrl ++ [.nak w.rxSeq], naks := satAdd 16 w.naks 1 } := by
  unfold State.askReplay
  rw [State.updLane_eq, State.updLane_eq, if_neg]
  simp only [Option.any_eq_true, decide_eq_true_eq, not_exists, not_and, Nat.not_lt]
  exact h

theorem askReplay_again (hw : mwf Lane.init s.lanes = true) {f : Nat} (hf : (s.lane l).gap = some f) (h : s.opp / 4 < f + 256) :
    (s.askReplay l).lane l = s.lane l := by
  unfold State.askReplay
  rw [State.updLane_eq, State.lane_setLane_same _ _ _ hw, if_pos (by simp [hf, h])]

end

-- uncorrectable codewords and requests (R127, R313, R320)

section
variable {s : State} {l : Nat} (hup : (s.lane l).state = .up) (hfec : (s.lane l).fec = 0) (hw : mwf Lane.init s.lanes = true)
include hup hfec

omit hup hfec in
theorem count_take_cons (l : List Bool) : ((true :: l).take 64).count true = (l.take 63).count true + 1 := by simp

theorem uncorrectable_few (h : ((s.lane l).uncorr64.take 63).count true < 31) : uncorrectable s l
    = ((s.setLane l { s.lane l with cwUncorr := satAdd 48 (s.lane l).cwUncorr 1
                                    uncorr64 := (true :: (s.lane l).uncorr64).take 64 }).askResend l).askReplay l := by
  unfold uncorrectable
  simp only [hfec, Nat.zero_ne_one, if_false, lane_linked hup hfec, Bool.true_eq_false]
  rw [if_neg (by rw [count_take_cons]; omega)]

theorem uncorrectable_many (h : ((s.lane l).uncorr64.take 63).count true = 31) : uncorrectable s l
    = (s.setLane l { s.lane l with cwUncorr := satAdd 48 (s.lane l).cwUncorr 1
                                   uncorr64 := (true :: (s.lane l).uncorr64).take 64 }).laneDown l := by
  unfold uncorrectable
  simp only [hfec, Nat.zero_ne_one, if_false, lane_linked hup hfec, Bool.true_eq_false]
  rw [if_pos (by rw [count_take_cons]; omega)]

end

theorem askResend_of_unbound {s : State} {l : Nat} (h : (s.quad (l / 4)).rg = none) : s.askResend l = s := by
  unfold State.askResend State.nextExpected
  dsimp only [laneQuad]
  rw [h]

/-- A lane that is UP goes DOWN (R320). -/
theorem laneDown_state {s : State} {l : Nat} (hw : mwf Lane.init s.lanes = true) (hup : (s.lane l).state = .up) :
    ((s.laneDown l).lane l).state = .down := by
  unfold State.laneDown
  extract_lets v t
  rw [if_neg (by simp [v, hup])]
  have hcalm : Calm t (t.beginEpisode (laneFault t 0x3002 l 0)) := Calm.refl.beginEpisode (show faultClass 0x3002 _ < 2 by simp [faultClass])
  rw [hcalm.lane, State.lane_setLane_same _ _ _ hw]

/-- On a lane of an unbound quad an uncorrectable codeword is counted, and one NAK asks for packets (R312, R320). -/
theorem lane_uncorrectable_few {s : State} {l : Nat} (hw : mwf Lane.init s.lanes = true) (hup : (s.lane l).state = .up)
    (hfec : (s.lane l).fec = 0) (hrg : (s.quad (l / 4)).rg = none) (hgap : (s.lane l).gap = none)
    (hcount : ((s.lane l).uncorr64.take 63).count true < 31) : (uncorrectable s l).lane l = { s.lane l with
      cwUncorr := satAdd 48 (s.lane l).cwUncorr 1, uncorr64 := (true :: (s.lane l).uncorr64).take 64, gap := some (s.opp / 4)
      ctrl := (s.lane l).ctrl ++ [.nak (s.lane l).rxSeq], naks := satAdd 16 (s.lane l).naks 1 } := by
  rw [uncorrectable_few hup hfec hcount]
  generalize hx : ({ s.lane l with cwUncorr := satAdd 48 (s.lane l).cwUncorr 1, uncorr64 := (true :: (s.lane l).uncorr64).take 64 } : Lane) = x
  have hback : (s.setLane l x).lane l = x := State.lane_setLane_same _ _ _ hw
  rw [askResend_of_unbound (s := s.setLane l x) hrg, askReplay_first (by rw [hback, ← hx]; simp [hgap]), State.updLane_eq,
    State.lane_setLane_same _ _ _ (mwf_mset hw), hback, ← hx]
  rfl

theorem resendRetry_again {s : State} {l g : Nat} {w : ResendReq} {rest : List ResendReq} (hwant : (s.lane l).wanted = w :: rest)
    (hg : (s.quad (l / 4)).rg = some g) (hcount : w.count < 8) : resendRetry s l = s.setLane l { s.lane l with
      wanted := rest ++ [{ w with count := w.count + 1 }], ctrl := (s.lane l).ctrl ++ [.resend w.stepTag w.cyc]
      reqOut := satAdd 16 (s.lane l).reqOut 1 } := by
  unfold resendRetry
  dsimp only [laneQuad]
  rw [hg, hwant]
  exact if_pos hcount

/-- After eight answers that fail, the step-frame is delivered as X (R127). -/
theorem resendRetry_gives_up {s : State} {l g : Nat} {w : ResendReq} {rest : List ResendReq} (hw : mwf Lane.init s.lanes = true)
    (hwant : (s.lane l).wanted = w :: rest) (hg : (s.quad (l / 4)).rg = some g) (hcount : 8 ≤ w.count)
    (hcyc : w.cyc = (s.group g).cycle.toNat % 16) (hroom : (s.lane l).rxBuf.length < rxBufSize (classLimit (s.quad (l / 4)).cls)) :
    ((resendRetry s l).lane l).wanted = rest
      ∧ { stepTag := w.stepTag, cyc := w.cyc, cycle := (s.group g).cycle, words := List.replicate 8 allX } ∈ ((resendRetry s l).lane l).rxBuf
      ∧ ((resendRetry s l).faultRec (36 + l / 4)).isSome = true := by
  unfold resendRetry
  dsimp only [laneQuad]
  rw [hg, hwant]
  dsimp only
  rw [if_neg (by omega), fullCycle_same hcyc]
  generalize hlost : List.length _ = lost
  set x : SchedCw := { stepTag := w.stepTag, cyc := w.cyc, cycle := (s.group g).cycle, words := List.replicate 8 allX } with hx
  set t := (s.putCargoBoth l (s.group g) x).updLane l fun u => { u with wanted := rest, xWords := satAdd 16 u.xWords lost } with ht
  obtain ⟨hcalm, hrec⟩ := (Calm.refl (s := t)).raise (e := laneFault t 0x3001 l (fieldAt 8 w.stepTag + fieldAt 20 w.cyc)) (extra := none)
    (show faultClass 0x3001 _ < 2 by simp [faultClass])
  rw [hcalm.lane, ht, State.updLane_eq, State.lane_setLane_same _ _ _ (mwf_putCargoBoth hw)]
  refine ⟨rfl, ?_, hrec⟩
  dsimp only
  rw [lane_putCargoBoth hw, rxBuf_putCargoCw hw, if_pos hroom]
  simp

-- CTRL codewords with one message (R310)

theorem exec_xoff (rx : LaneRx) (s : State) : exec (.xoff rx) s = ctrlRow 1 rx.lane rx.cw none s := rfl
theorem exec_xon (rx : LaneRx) (s : State) : exec (.xon rx) s = ctrlRow 2 rx.lane rx.cw none s := rfl
theorem exec_resend (l : Nat) (c : Codeword) (k : Nat) (s : State) : exec (.resend l c k) s = ctrlRow 3 l c (some k) s := rfl
theorem exec_stopCodeword (l : Nat) (c : Codeword) (k : Nat) (s : State) : exec (.stopCodeword l c k) s = ctrlRow 4 l c (some k) s := rfl
theorem exec_nak (l : Nat) (c : Codeword) (s : State) : exec (.nak l c) s = ctrlRow 5 l c none s := rfl
theorem exec_join (l : Nat) (c : Codeword) (k : Nat) (s : State) : exec (.join l c k) s = ctrlRow 6 l c (some k) s := rfl
theorem exec_sleep (rx : LaneRx) (s : State) : exec (.sleep rx) s = ctrlRow 7 rx.lane rx.cw none s := rfl

/-- A field of a field is a field of the whole. -/
theorem bitsOf_bitsOf {b i m lo n : Nat} (h : lo + n ≤ m) : bitsOf (bitsOf b i m) lo n = bitsOf b (i + lo) n := by
  unfold bitsOf
  rw [Nat.pow_add, ← Nat.div_div_eq_div_mul, show m = lo + (n + (m - (lo + n))) by omega, Nat.pow_add 2 lo, Nat.mod_mul_right_div_self,
    Nat.pow_add 2 n, Nat.mod_mul_right_mod]

theorem bitOf_eq_bitsOf (b i : Nat) : bitOf b i = decide (bitsOf b i 1 = 1) := by simp [bitOf, bitsOf]

theorem bitOf_bitsOf {b i m k : Nat} (h : k < m) : bitOf (bitsOf b i m) k = bitOf b (i + k) := by
  rw [bitOf_eq_bitsOf, bitOf_eq_bitsOf, bitsOf_bitsOf (by omega)]

theorem wordMsg_empty {w : Nat} (h : bitsOf w 0 4 = 0) : wordMsg w = some [] := by
  unfold wordMsg; simp only [h]

/-- A word of a reserved kind is discarded (R310). -/
theorem wordMsg_reserved {w : Nat} (h : 8 ≤ bitsOf w 0 4) : wordMsg w = none := by
  unfold wordMsg
  split
  case h_8 => rfl
  all_goals omega

/-- The messages of two words of a CTRL body, the first one even. -/
def ctrlPair (b k : Nat) : List (Option (List CtrlMsg)) :=
  if bitsOf (bitsOf b (144 * k) 72) 0 4 = 6 ∧ bitsOf (bitsOf b (144 * k + 72) 72) 0 4 = 6
  then [some [.join (BitVec.ofNat 72 (bitsOf b (144 * k) 72)) (BitVec.ofNat 72 (bitsOf b (144 * k + 72) 72))]]
  else [wordMsg (bitsOf b (144 * k) 72), wordMsg (bitsOf b (144 * k + 72) 72)]

theorem ctrlMsgs_eq (b : Nat) : ctrlMsgs b = ctrlPair b 0 ++ (ctrlPair b 1 ++ (ctrlPair b 2 ++ (ctrlPair b 3 ++ []))) := rfl

theorem kind_word (b i : Nat) : bitsOf (bitsOf b i 72) 0 4 = bitsOf b i 4 := by
  rw [bitsOf_bitsOf (by decide), Nat.add_zero]

theorem ctrlPair_half {b k : Nat} (h : bitsOf b (144 * k + 72) 4 = 0) : ctrlPair b k = [wordMsg (bitsOf b (144 * k) 72), some []] := by
  have hk : bitsOf (bitsOf b (144 * k + 72) 72) 0 4 = 0 := (kind_word b _).trans h
  rw [ctrlPair, if_neg (by rw [hk]; omega), wordMsg_empty hk]

theorem ctrlPair_empty {b k : Nat} (h : bitsOf b (144 * k) 4 = 0) (h' : bitsOf b (144 * k + 72) 4 = 0) : ctrlPair b k = [some [], some []] := by
  rw [ctrlPair_half h', wordMsg_empty ((kind_word b _).trans h)]

theorem ctrlPair_join {b k : Nat} (h : bitsOf b (144 * k) 4 = 6) (h' : bitsOf b (144 * k + 72) 4 = 6) : ctrlPair b k
    = [some [.join (BitVec.ofNat 72 (bitsOf b (144 * k) 72)) (BitVec.ofNat 72 (bitsOf b (144 * k + 72) 72))]] :=
  if_pos ⟨(kind_word b _).trans h, (kind_word b _).trans h'⟩

/-- The body of a CTRL codeword whose words after the first are empty. -/
theorem ctrlMsgs_first {b : Nat} (h : ∀ j, 0 < j → j < 8 → bitsOf b (72 * j) 4 = 0) :
    ctrlMsgs b = [wordMsg (bitsOf b 0 72), some [], some [], some [], some [], some [], some [], some []] := by
  rw [ctrlMsgs_eq, ctrlPair_half (k := 0) (h 1 (by omega) (by omega)), ctrlPair_empty (k := 1) (h 2 (by omega) (by omega)) (h 3 (by omega) (by omega)),
    ctrlPair_empty (k := 2) (h 4 (by omega) (by omega)) (h 5 (by omega) (by omega)),
    ctrlPair_empty (k := 3) (h 6 (by omega) (by omega)) (h 7 (by omega) (by omega))]
  rfl

/-- One that holds a JOIN and nothing else. -/
theorem ctrlMsgs_join {b : Nat} (h0 : bitsOf b 0 4 = 6) (h1 : bitsOf b 72 4 = 6) (h : ∀ j, 1 < j → j < 8 → bitsOf b (72 * j) 4 = 0) :
    ctrlMsgs b = [some [.join (BitVec.ofNat 72 (bitsOf b 0 72)) (BitVec.ofNat 72 (bitsOf b 72 72))], some [], some [], some [], some [],
      some [], some []] := by
  rw [ctrlMsgs_eq, ctrlPair_join (k := 0) h0 h1, ctrlPair_empty (k := 1) (h 2 (by omega) (by omega)) (h 3 (by omega) (by omega)),
    ctrlPair_empty (k := 2) (h 4 (by omega) (by omega)) (h 5 (by omega) (by omega)),
    ctrlPair_empty (k := 3) (h 6 (by omega) (by omega)) (h 7 (by omega) (by omega))]
  rfl

section
variable {s : State} {l : Nat} {c : Codeword} (hl : l < 144) (hup : (s.lane l).state = .up) (hfec : (s.lane l).fec = 0)
  (hheld : s.pairHeld l = false) (hz : c.zero = 0) (hvc : c.vc < 3) (ht : c.type = 4)
include hl hup hfec hheld hz hvc ht

/-- A CTRL codeword that its row names brings its header, and its messages act (R310). -/
theorem ctrlRow_named {kind : Nat} {word : Option Nat}
    (hrow : ((ctrlMsgs c.body.toNat).filterMap id).flatten = [] ∨ (((ctrlMsgs c.body.toNat).filterMap id).flatten.any fun m => decide (m.kind = kind)) = true
      ∧ (word.all fun k => decide (bitsOf c.body.toNat (72 * k) 4 = kind)) = true) :
    ctrlRow kind l c word s = .next (takeCtrl (s.setLane l ((s.lane l).header c)) l c).settle := by
  unfold ctrlRow
  rw [laneRow_of_lt hl]
  dsimp only
  rw [if_pos (by simpa only [Bool.and_eq_true] using hrow)]
  have h := receive_good hup hfec hheld hz hvc (show c.type < 6 by omega) fun u => takeCtrl u l c
  rw [ht] at h
  rw [h]

variable (hack : ∀ x ∈ (s.lane l).unacked, x.1 ≠ c.ack)
include hack

/-- One with a message in its first word only. -/
theorem ctrlRow_message (hrest : ∀ j, 0 < j → j < 8 → bitsOf c.body.toNat (72 * j) 4 = 0) {m : CtrlMsg}
    (hm : wordMsg (bitsOf c.body.toNat 0 72) = some [m]) {kind : Nat} {word : Option Nat} (hk : m.kind = kind)
    (hword : ∀ k ∈ word, bitsOf c.body.toNat (72 * k) 4 = kind) :
    ctrlRow kind l c word s = .next (takeMsg (s.setLane l ((s.lane l).heard c)) l m).settle := by
  rw [ctrlRow_named hl hup hfec hheld hz hvc ht, header_of_no_ack hack (by omega)]
  · rw [takeCtrl, ctrlMsgs_first hrest, hm]; rfl
  · right
    rw [ctrlMsgs_first hrest, hm]
    refine ⟨by simp [hk], ?_⟩
    simpa [Option.all_eq_true] using hword

/-- One whose only word is discarded is counted, whatever row it comes as. -/
theorem ctrlRow_discarded (hrest : ∀ j, 0 < j → j < 8 → bitsOf c.body.toNat (72 * j) 4 = 0) (hm : wordMsg (bitsOf c.body.toNat 0 72) = none)
    (kind : Nat) (word : Option Nat) : ctrlRow kind l c word s
      = .next ((s.setLane l ((s.lane l).heard c)).updLane l fun v => { v with cwBad := satAdd 48 v.cwBad 1 }).settle := by
  rw [ctrlRow_named hl hup hfec hheld hz hvc ht, header_of_no_ack hack (by omega)]
  · rw [takeCtrl, ctrlMsgs_first hrest, hm]; rfl
  · left
    rw [ctrlMsgs_first hrest, hm]; rfl

end

-- the messages

section
variable {s : State} {l g : Nat}

/-- The one kept codeword that a RESEND may name is sent again (R127, R313). -/
theorem takeResend_one {frame : Nat} {c : SchedCw} {tag cyc : Nat} (hkept : (s.lane l).retained = [(frame, c)]) (hre : (s.lane l).relink = false) :
    (c.stepTag = tag → c.cyc = cyc → s.opp / 4 ≤ frame + s.keepFrames l → takeResend s l tag cyc = s.setLane l { s.lane l with
        reqIn := satAdd 16 (s.lane l).reqIn 1, reTx := (s.lane l).reTx ++ [c] })
      ∧ (c.stepTag ≠ tag ∨ c.cyc ≠ cyc → takeResend s l tag cyc = s.setLane l { s.lane l with reqIn := satAdd 16 (s.lane l).reqIn 1 }) := by
  have same : { s.lane l with relink := false } = s.lane l := by rw [← hre]
  have body : takeResend s l tag cyc = s.setLane l { s.lane l with
      reqIn := satAdd 16 (s.lane l).reqIn 1, relink := false
      reTx := (s.lane l).reTx ++ ((((s.lane l).retained.filter fun x => decide (s.opp / 4 ≤ x.1 + s.keepFrames l)).map (·.2)).find?
        fun w => decide (w.stepTag = tag) && decide (w.cyc = cyc)).toList } := by
    unfold takeResend
    simp only [hre, Bool.false_eq_true, if_false]
  constructor
  · rintro rfl rfl hf
    rw [body, hkept]
    simp only [List.filter_cons, hf, decide_true, if_true, List.filter_nil, List.map_cons, List.map_nil, List.find?_cons, Bool.and_self,
      Option.toList_some]
    rw [← hre]
  · intro hne
    have hnone : (((s.lane l).retained.filter fun x => decide (s.opp / 4 ≤ x.1 + s.keepFrames l)).map (·.2)).find?
        (fun w => decide (w.stepTag = tag) && decide (w.cyc = cyc)) = none := by
      rw [List.find?_eq_none, hkept]
      intro w hw
      obtain ⟨x, hx, rfl⟩ := List.mem_map.mp hw
      obtain rfl := List.mem_singleton.mp (List.mem_filter.mp hx).1
      simp only [Bool.and_eq_true, decide_eq_true_eq]
      exact fun h => hne.elim (absurd h.1) (absurd h.2)
    rw [body, hnone, Option.toList_none, List.append_nil, ← hre]

/-- A NAK that acknowledges nothing starts a replay (R312). -/
theorem takeMsg_nak {p : Nat} (hw : mwf Lane.init s.lanes = true) (hlink : (s.lane l).linked = true) (hne : (s.lane l).unacked ≠ [])
    (hack : ∀ x ∈ (s.lane l).unacked, x.1 ≠ (p + 255) % 256) (hn : (s.lane l).replayN < 16) :
    (takeMsg s l (.nak p)).lane l
      = { s.lane l with replayAt := some 0, replayN := (s.lane l).replayN + 1, replays := satAdd 32 (s.lane l).replays 1 } := by
  unfold takeMsg State.startReplay
  dsimp only
  rw [State.updLane_eq, takeAck_of_not_mem hack, State.lane_setLane_same _ _ _ hw, if_neg (by simp [hne, hlink]), if_neg (by omega),
    State.lane_setLane_same _ _ _ (mwf_mset hw)]

variable (hg : (s.quad (l / 4)).rg = some g)
include hg

/-- A stop or fault stop that was seen already does nothing more (R133, R134). -/
theorem takeStop_seen {fault : Bool} {c : Word} (h : if fault then (s.group g).faultSent = true else c ∈ (s.group g).seenStops) :
    takeStop s l fault c = s := by
  unfold takeStop
  dsimp only [laneQuad]
  rw [hg]
  cases fault <;> exact if_pos (by simpa using h)

/-- The first stop for a cycle is recorded and sent on, and a group that runs takes it (R133). -/
theorem takeStop_running {c : Word} (h : c ∉ (s.group g).seenStops) (hrun : (s.group g).state = .running) : takeStop s l false c
    = (s.setGroup g { s.group g with seenStops := (s.group g).seenStops ++ [c], stops := (s.group g).stops ++ [{ cause := 4, cycle := c }] }).sendStop
        g false c (some (l / 4)) := by
  unfold takeStop
  dsimp only [laneQuad]
  rw [hg]
  dsimp only
  rw [if_neg (by simpa using h), show (s.group g).busy = true by simp [RunGroup.busy, hrun]]
  rfl

theorem takeStop_idle {c : Word} (h : c ∉ (s.group g).seenStops) (hrun : (s.group g).state ≠ .running) (harm : (s.group g).state ≠ .armed) :
    takeStop s l false c = (s.setGroup g { s.group g with seenStops := (s.group g).seenStops ++ [c] }).sendStop g false c (some (l / 4)) := by
  unfold takeStop
  dsimp only [laneQuad]
  rw [hg]
  dsimp only
  rw [if_neg (by simpa using h), show (s.group g).busy = false by simp [RunGroup.busy, hrun, harm]]
  rfl

/-- The first fault stop halts a group that runs, and releases it from source 7 (R131, R134). -/
theorem takeStop_fault_running {c : Word} (h : (s.group g).faultSent = false) (hrun : (s.group g).state = .running) : takeStop s l true c
    = ((s.setGroup g { s.group g with
        faultSent := true, halting := if (s.group g).halting = none then some 0 else (s.group g).halting }).releasePause g).sendStop g true c
          (some (l / 4)) := by
  unfold takeStop
  dsimp only [laneQuad]
  rw [hg]
  dsimp only
  rw [if_neg (by simp [h]), if_pos rfl, if_pos hrun]
  simp only [RunGroup.busy, hrun, decide_true, Bool.or_true, true_and]

/-- DESIGN CHOICE 100: it halts one that is about to run as well. -/
theorem takeStop_fault_armed {c : Word} (h : (s.group g).faultSent = false) (harm : (s.group g).state = .armed) : takeStop s l true c
    = (s.setGroup g { s.group g with
        faultSent := true, halting := if (s.group g).halting = none then some 0 else (s.group g).halting }).sendStop g true c (some (l / 4)) := by
  unfold takeStop
  dsimp only [laneQuad]
  rw [hg]
  dsimp only
  rw [if_neg (by simp [h]), if_pos rfl, if_neg (by simp [harm])]
  simp only [RunGroup.busy, harm, decide_true, Bool.true_or, true_and]

end

-- the first word of a CTRL codeword

section
variable {b : Nat}

theorem bitsOf_word {lo n : Nat} (h : lo + n ≤ 72) : bitsOf (bitsOf b 0 72) lo n = bitsOf b lo n := by
  rw [bitsOf_bitsOf h, Nat.zero_add]

theorem wordMsg_xoff (h : bitsOf b 0 4 = 1) : wordMsg (bitsOf b 0 72) = some [.xoff] := by
  unfold wordMsg; simp only [kind_word, h]

theorem wordMsg_xon (h : bitsOf b 0 4 = 2) : wordMsg (bitsOf b 0 72) = some [.xon] := by
  unfold wordMsg; simp only [kind_word, h]

theorem wordMsg_resend (h : bitsOf b 0 4 = 3) : wordMsg (bitsOf b 0 72) = some [.resend (bitsOf b 4 12) (bitsOf b 16 4)] := by
  rw [← bitsOf_word (show 4 + 12 ≤ 72 by decide), ← bitsOf_word (show 16 + 4 ≤ 72 by decide)]
  unfold wordMsg; simp only [kind_word, h]

theorem wordMsg_stop (h : bitsOf b 0 4 = 4) : wordMsg (bitsOf b 0 72) = some [.stop (bitOf b 4) (BitVec.ofNat 64 (bitsOf b 8 64))] := by
  rw [← bitsOf_word (show 8 + 64 ≤ 72 by decide), ← Nat.zero_add 4, ← bitOf_bitsOf (show 4 < 72 by decide)]
  unfold wordMsg; simp only [kind_word, h]

theorem wordMsg_nak (h : bitsOf b 0 4 = 5) : wordMsg (bitsOf b 0 72) = some [.nak (bitsOf b 4 8)] := by
  rw [← bitsOf_word (show 4 + 8 ≤ 72 by decide)]
  unfold wordMsg; simp only [kind_word, h]

theorem wordMsg_sleep (h : bitsOf b 0 4 = 7) : wordMsg (bitsOf b 0 72) = some [.sleep] := by
  unfold wordMsg; simp only [kind_word, h]

end

-- what the first word of a CTRL codeword does to the state that its header left

section
variable {s : State} {l : Nat} {c : Codeword} (hl : l < 144) (hup : (s.lane l).state = .up) (hfec : (s.lane l).fec = 0)
  (hw : mwf Lane.init s.lanes = true) (hheld : s.pairHeld l = false) (hz : c.zero = 0) (hvc : c.vc < 3) (ht : c.type = 4)
  (hack : ∀ x ∈ (s.lane l).unacked, x.1 ≠ c.ack) (hrest : ∀ j, 0 < j → j < 8 → bitsOf c.body.toNat (72 * j) 4 = 0)

/-- The state that the header of a CTRL codeword leaves. -/
def State.heard (s : State) (l : Nat) (c : Codeword) : State := s.setLane l ((s.lane l).heard c)

include hw in
theorem lane_heard : (s.heard l c).lane l = (s.lane l).heard c := State.lane_setLane_same _ _ _ hw

include hl hup hfec hheld hz hvc ht hack hrest

/-- A row whose message stands in the first word of its codeword. -/
theorem exec_message {i : Instr} {m : CtrlMsg} {kind : Nat} {word : Option Nat} (hi : exec i s = ctrlRow kind l c word s)
    (hm : wordMsg (bitsOf c.body.toNat 0 72) = some [m]) (hk : m.kind = kind)
    (hword : word = none ∨ word = some 0 ∧ bitsOf c.body.toNat 0 4 = kind) :
    exec i s = .next (takeMsg (s.heard l c) l m).settle := by
  refine hi.trans (ctrlRow_message hl hup hfec hheld hz hvc ht hack hrest hm hk fun k hk => ?_)
  rcases hword with rfl | ⟨rfl, h⟩
  · simp at hk
  · obtain rfl : 0 = k := by simpa using hk
    exact h

include hw

theorem exec_xoff_heard (hk : bitsOf c.body.toNat 0 4 = 1) :
    exec (.xoff ⟨l, c⟩) s = .next ((s.heard l c).setLane l { (s.lane l).heard c with holdIn := true }).settle := by
  rw [exec_message hl hup hfec hheld hz hvc ht hack hrest (exec_xoff ⟨l, c⟩ s) (wordMsg_xoff hk) rfl (.inl rfl), takeMsg, State.updLane_eq,
    lane_heard hw]

theorem exec_xon_heard (hk : bitsOf c.body.toNat 0 4 = 2) :
    exec (.xon ⟨l, c⟩) s = .next ((s.heard l c).setLane l { (s.lane l).heard c with holdIn := false }).settle := by
  rw [exec_message hl hup hfec hheld hz hvc ht hack hrest (exec_xon ⟨l, c⟩ s) (wordMsg_xon hk) rfl (.inl rfl), takeMsg, State.updLane_eq,
    lane_heard hw]

theorem exec_sleep_heard (hk : bitsOf c.body.toNat 0 4 = 7) :
    exec (.sleep ⟨l, c⟩) s = .next ((s.heard l c).setLane l { (s.lane l).heard c with farSleep := true }).settle := by
  rw [exec_message hl hup hfec hheld hz hvc ht hack hrest (exec_sleep ⟨l, c⟩ s) (wordMsg_sleep hk) rfl (.inl rfl), takeMsg, State.updLane_eq,
    lane_heard hw]

theorem exec_reserved_heard (hk : 8 ≤ bitsOf c.body.toNat 0 4) : exec (.xoff ⟨l, c⟩) s
    = .next ((s.heard l c).setLane l { (s.lane l).heard c with cwBad := satAdd 48 (s.lane l).cwBad 1 }).settle := by
  rw [exec_xoff, ctrlRow_discarded hl hup hfec hheld hz hvc ht hack hrest (wordMsg_reserved (by rw [kind_word]; exact hk)), State.updLane_eq,
    ← State.heard, lane_heard hw]
  rfl

theorem exec_resend_heard (hk : bitsOf c.body.toNat 0 4 = 3) {frame : Nat} {w : SchedCw} (hkept : (s.lane l).retained = [(frame, w)])
    (hre : (s.lane l).relink = false) :
    (w.stepTag = bitsOf c.body.toNat 4 12 → w.cyc = bitsOf c.body.toNat 16 4 → s.opp / 4 ≤ frame + s.keepFrames l →
      exec (.resend l c 0) s = .next ((s.heard l c).setLane l { (s.lane l).heard c with
        reqIn := satAdd 16 (s.lane l).reqIn 1, reTx := (s.lane l).reTx ++ [w] }).settle)
    ∧ (w.stepTag ≠ bitsOf c.body.toNat 4 12 ∨ w.cyc ≠ bitsOf c.body.toNat 16 4 → exec (.resend l c 0) s
      = .next ((s.heard l c).setLane l { (s.lane l).heard c with reqIn := satAdd 16 (s.lane l).reqIn 1 }).settle) := by
  obtain ⟨hnamed, hother⟩ := takeResend_one (s := s.heard l c) (l := l) (tag := bitsOf c.body.toNat 4 12) (cyc := bitsOf c.body.toNat 16 4)
    (by rw [lane_heard hw]; exact hkept) (by rw [lane_heard hw]; exact hre)
  rw [lane_heard hw] at hnamed hother
  rw [exec_message hl hup hfec hheld hz hvc ht hack hrest (exec_resend l c 0 s) (wordMsg_resend hk) rfl (.inr ⟨rfl, hk⟩), takeMsg]
  exact ⟨fun htag hcyc hf => by rw [hnamed htag hcyc hf]; rfl, fun hne => by rw [hother hne]; rfl⟩

theorem exec_nak_heard (hk : bitsOf c.body.toNat 0 4 = 5) (hne : (s.lane l).unacked ≠ [])
    (hnak : ∀ x ∈ (s.lane l).unacked, x.1 ≠ (bitsOf c.body.toNat 4 8 + 255) % 256) (hn : (s.lane l).replayN < 16) :
    ∃ t, exec (.nak l c) s = .next t ∧ t.lane l = { (s.lane l).heard c with
      replayAt := some 0, replayN := (s.lane l).replayN + 1, replays := satAdd 32 (s.lane l).replays 1 } := by
  have hlane := lane_heard (l := l) (c := c) hw
  have hlink : ((s.heard l c).lane l).linked = true := by rw [hlane]; exact lane_linked hup hfec
  refine ⟨_, exec_message hl hup hfec hheld hz hvc ht hack hrest (exec_nak l c s) (wordMsg_nak hk) rfl (.inl rfl), ?_⟩
  rw [settle_lane, takeMsg_nak (mwf_mset hw) hlink (by rw [hlane]; exact hne) (by rw [hlane]; exact hnak) (by rw [hlane]; exact hn), hlane]
  rfl

omit hw in
theorem exec_stop_heard (hk : bitsOf c.body.toNat 0 4 = 4) : exec (.stopCodeword l c 0) s
    = .next (takeStop (s.heard l c) l (bitOf c.body.toNat 4) (BitVec.ofNat 64 (bitsOf c.body.toNat 8 64))).settle :=
  exec_message hl hup hfec hheld hz hvc ht hack hrest (exec_stopCodeword l c 0 s) (wordMsg_stop hk) rfl (.inr ⟨rfl, hk⟩)

end

theorem settled_congr {t u : State} (h : t = u) : (.next t.settle : Host.Outcome State Fault Refusal) = .next u.settle := by rw [h]

/-- Settles O46: the header is taken once for all types, and each type and message has a lemma of its own. Settling, and a fault of
class 1, leave the lanes and the run groups as they are. -/
theorem receivedCodewords : Obligations.ReceivedCodewords := by
  unfold Obligations.ReceivedCodewords
  intro s l hl hup hfec hw hheld v d h
  have good (cw : Codeword) (hz : cw.zero = 0) (hvc : cw.vc < 3) (ht : cw.type < 5) (hack : ∀ x ∈ v.unacked, x.1 ≠ cw.ack)
      (f : State → State) : receive s l cw.type cw f = f (s.setLane l (h cw)) :=
    (receive_good hup hfec hheld hz hvc (by omega) f).trans (by rw [header_of_no_ack hack (by omega)]; rfl)
  have back (cw : Codeword) : (s.setLane l (h cw)).lane l = h cw := State.lane_setLane_same _ _ _ hw
  refine ⟨fun cw => ⟨fun hbad => ?_, fun hz hvc hun => ?_⟩, fun hgap hrg hcount => ?_, fun hcount => ?_,
    fun cw hz hvc ht hack hrest => ?_, fun w rest g hwant hg => ⟨fun hcount => ?_, fun hcount hcyc hroom => ?_⟩⟩
  · intro bad
    have row (k : Nat) (f : State → State) : laneRow l s (fun t => receive t l k cw f) = .next bad := by
      rw [laneRow_of_lt hl, receive_bad hup hfec hheld hbad]; rfl
    exact ⟨row 0 _, row 1 _, row 2 _⟩
  · have hack : ∀ x ∈ v.unacked, x.1 ≠ cw.ack := by simp [hun]
    have row (ht : cw.type < 5) (f : State → State) :
        laneRow l s (fun t => receive t l cw.type cw f) = .next (f (s.setLane l (h cw))).settle := by
      rw [laneRow_of_lt hl, good cw hz hvc ht hack]
    refine ⟨fun ht => ?_, fun g ht hg => ?_, fun g ht hg hcyc hknown => ?_, fun ht hseq hhead htail => ?_,
      fun ht hseq => ⟨fun hgap => ?_, fun f hgap hf => ?_⟩, fun ht htrain => ?_⟩
    · rw [exec_idle, ← ht, row (by omega)]
    · intro r w hcyc hdue hfirst
      have kept : takeSched (s.setLane l (h cw)) l cw = (s.setLane l (h cw)).putCargoBoth l r w :=
        takeSched_first (s := s.setLane l (h cw)) hg hcyc hdue (by rw [back]; exact hfirst)
      refine ⟨_, by rw [exec_sched, ← ht, row (by omega)], ?_, fun hp hl72 hroom => ?_⟩
      · rw [settle_lane, kept, lane_putCargoBoth (mwf_mset hw),
          rxBuf_putCargoCw (mwf_mset hw), back]
        rfl
      · have other : (s.setLane l (h cw)).lane (l + 72) = s.lane (l + 72) := by rw [State.lane_setLane _ _ _ _ hw, if_neg (by omega)]
        rw [settle_lane, kept,
          rxBuf_putCargoBoth_replica (s := s.setLane l (h cw)) (mwf_mset hw) hp hl72 (by rw [other]; exact hroom), other]
    · rw [exec_sched, ← ht, row (by omega), takeSched_known (s := s.setLane l (h cw)) hg hcyc (by rw [back]; exact hknown)]
    · rw [exec_pkt, ← ht, row (by omega), takePkt_head (by rw [back]; exact hseq) hhead htail, back]
    · have first : ∀ f, ((s.setLane l (h cw)).lane l).gap = some f → f + 256 ≤ s.opp / 4 := by
        rw [back]
        rintro f (hf : v.gap = some f)
        rcases hgap with e | ⟨k, e, hk⟩
        · simp [e] at hf
        · rw [e] at hf; cases hf; exact hk
      rw [exec_pkt, ← ht, row (by omega), takePkt, if_pos (by rw [back]; exact hseq), askReplay_first first]
      rfl
    · refine ⟨_, by rw [exec_pkt, ← ht, row (by omega)], ?_⟩
      rw [settle_lane, takePkt, if_pos (by rw [back]; exact hseq),
        askReplay_again (s := s.setLane l (h cw)) (mwf_mset hw) (by rw [back]; exact hgap) hf, back]
    · intro w k
      have hk : (s.setLane l k).lane l = k := State.lane_setLane_same _ _ _ hw
      have hrow : receive s l 5 cw (fun u => takeTrain u l cw) = takeTrain (s.setLane l k) l cw := by
        rw [← ht, receive_good hup hfec hheld hz hvc (by omega), header_train hack ht]; rfl
      rw [exec_train, laneRow_of_lt hl, hrow, takeTrain, hk]
      dsimp only
      rw [if_pos (.inl htrain)]
  · exact ⟨_, by rw [exec_codewordUncorrectable, laneRow_of_lt hl], by rw [settle_lane, lane_uncorrectable_few hw hup hfec hrg hgap hcount]⟩
  · refine ⟨_, by rw [exec_codewordUncorrectable, laneRow_of_lt hl, uncorrectable_many hup hfec hcount], ?_⟩
    rw [settle_lane, laneDown_state (mwf_mset hw) (by rw [State.lane_setLane_same _ _ _ hw]; exact hup)]
  · intro b u rx
    refine ⟨exec_xoff_heard hl hup hfec hw hheld hz hvc ht hack hrest, exec_xon_heard hl hup hfec hw hheld hz hvc ht hack hrest,
      exec_sleep_heard hl hup hfec hw hheld hz hvc ht hack hrest, exec_reserved_heard hl hup hfec hw hheld hz hvc ht hack hrest,
      fun frame c hk => exec_resend_heard hl hup hfec hw hheld hz hvc ht hack hrest hk,
      exec_nak_heard hl hup hfec hw hheld hz hvc ht hack hrest, fun g hk hg => ?_⟩
    intro r c
    have row := exec_stop_heard hl hup hfec hheld hz hvc ht hack hrest hk
    refine ⟨fun hkind => ⟨fun hnew hrun => ?_, fun hnew hrun harm => ?_, fun hseen => ?_⟩,
      fun hkind => ⟨fun hnew hrun => ?_, fun hnew harm => ?_, fun hseen => ?_⟩⟩
    all_goals rw [row, show bitOf cw.body.toNat 4 = _ from hkind]
    · exact settled_congr (takeStop_running (s := u) hg hnew hrun)
    · exact settled_congr (takeStop_idle (s := u) hg hnew hrun harm)
    · exact settled_congr (takeStop_seen (s := u) (fault := false) hg hseen)
    · exact settled_congr (takeStop_fault_running (s := u) hg hnew hrun)
    · exact settled_congr (takeStop_fault_armed (s := u) hg hnew harm)
    · exact settled_congr (takeStop_seen (s := u) (fault := true) hg hseen)
  · rw [exec_resendRetry, laneRow_of_lt hl, resendRetry_again hwant hg hcount]
  · obtain ⟨hrest, hmem, hrec⟩ := resendRetry_gives_up hw hwant hg hcount hcyc hroom
    refine ⟨_, by rw [exec_resendRetry, laneRow_of_lt hl], ?_, ?_, fun _ => Calm.refl.settle.recs _ hrec⟩
    · rw [settle_lane, hrest]
    · rw [settle_lane]; exact hmem

end Sys2Proof.Machine
end

-- ==== What settling does to the ready lists, and the reply that it releases ====
section
/-! PROOFS. Entries that wait stay on the ready lists, and the reply of one that has ended is recorded and, where
the session's ring takes it, written to its entry (R376, R377, R380). -/
namespace Sys2Proof.Machine

-- entries that stay, and entries that end

section
variable {s : State}

/-- The pass of the release keeps a list of waiting entries as it is. -/
theorem releaseLoop_waiting {l : List Entry} (h : ∀ e ∈ l, ∀ r, e.state ≠ .done r) :
    ∀ kept blocked t, releaseLoop l kept blocked t = t.setEntries (kept ++ l) := by
  induction l with
  | nil => intro kept blocked t; rw [releaseLoop, List.append_nil]
  | cons e l ih =>
    intro kept blocked t
    unfold releaseLoop
    split
    · next r hr => exact absurd hr (h e List.mem_cons_self r)
    · rw [ih (fun x hx => h x (List.mem_cons_of_mem _ hx)), List.append_assoc, List.singleton_append]

/-- What the pass of the release leaves is what it kept, or stood in the list. -/
theorem mem_releaseLoop {l : List Entry} {x : Entry} : ∀ kept blocked t, x ∈ (releaseLoop l kept blocked t).hub.entries → x ∈ kept ++ l := by
  induction l with
  | nil => intro kept blocked t h; rw [List.append_nil]; exact h
  | cons e l ih =>
    intro kept blocked t h
    have skip {kept' : List Entry} (hx : x ∈ kept' ++ l) (hk : ∀ y ∈ kept', y ∈ kept ∨ y = e) : x ∈ kept ++ e :: l := by
      rcases List.mem_append.mp hx with hx | hx
      · rcases hk x hx with hx | rfl <;> simp [*]
      · simp [hx]
    have moved : ∀ y ∈ kept ++ [e], y ∈ kept ∨ y = e := by simp
    unfold releaseLoop at h
    split at h
    · split_ifs at h
      · exact skip (ih _ _ _ h) fun y hy => .inl hy
      · exact skip (ih _ _ _ h) fun y hy => .inl hy
      · exact skip (ih _ _ _ h) moved
    · exact skip (ih _ _ _ h) moved

theorem mem_release {x : Entry} (h : x ∈ s.release.hub.entries) : x ∈ s.hub.entries := mem_releaseLoop _ _ _ h

theorem settleSession_hub (s : State) (i : Nat) : (s.settleSession i).hub = s.hub ∧ (s.settleSession i).sent = s.sent
    ∧ (s.settleSession i).hostMem = s.hostMem := by
  unfold State.settleSession
  split <;> exact ⟨rfl, rfl, rfl⟩

/-- The second half of the settling: the sessions in RESETTING that have stopped, and the commands that wait for them (R392). -/
theorem settle_cases (s : State) : s.settle = s.release ∨ ∃ u f, u.hub = s.release.hub ∧ u.sent = s.release.sent ∧ u.hostMem = s.release.hostMem
    ∧ (∀ e w x, f e w = some x → ∃ i, w = .sessReset i) ∧ s.settle = (State.finishParked u f).release := by
  unfold State.settle
  extract_lets t waiting u
  split
  · exact .inl rfl
  · obtain ⟨hhub, hsent, hmem⟩ : u.hub = t.hub ∧ u.sent = t.sent ∧ u.hostMem = t.hostMem :=
      forEach_keep (P := fun v : State => v.hub = t.hub ∧ v.sent = t.sent ∧ v.hostMem = t.hostMem) (fun i v ⟨h1, h2, h3⟩ => by
        obtain ⟨k1, k2, k3⟩ := settleSession_hub v i
        exact ⟨k1.trans h1, k2.trans h2, k3.trans h3⟩) ⟨rfl, rfl, rfl⟩
    refine .inr ⟨u, _, hhub, hsent, hmem, ?_, rfl⟩
    intro e w x hx
    split at hx
    · exact ⟨_, rfl⟩
    · cases hx

/-- Settling takes up no wait: where no entry is parked, none is afterwards. -/
theorem settle_unparked (h : ∀ x ∈ s.hub.entries, x.wait? = none) : ∀ x ∈ s.settle.hub.entries, x.wait? = none := by
  rcases settle_cases s with e | ⟨u, f, hhub, -, -, -, e⟩ <;> rw [e]
  · exact fun x hx => h x (mem_release hx)
  · intro x hx
    obtain ⟨y, hy, rfl⟩ := List.mem_map.mp (mem_release hx)
    have hn : y.wait? = none := h y (mem_release (by rw [← hhub]; exact hy))
    simp only [hn]

/-- A parked command that waits for no session reset stays as it is. -/
theorem settle_parked {e : Entry} {w : Wait} (h : s.hub.entries = [e]) (hw : e.wait? = some w) (hs : ∀ i, w ≠ .sessReset i) :
    s.settle.hub.entries = [e] := by
  have waits : ∀ x ∈ [e], ∀ r, x.state ≠ .done r := by
    simp only [List.mem_singleton, forall_eq]
    intro r hr
    simp [Entry.wait?, hr] at hw
  have kept {t : State} (ht : t.hub.entries = [e]) : t.release.hub.entries = [e] := by
    rw [State.release, ht, releaseLoop_waiting waits]; rfl
  rcases settle_cases s with he | ⟨u, f, hhub, -, -, hf, he⟩ <;> rw [he]
  · exact kept h
  · refine kept ?_
    have hu : u.hub.entries = [e] := by rw [hhub]; exact kept h
    have hnone : f e w = none := by
      by_contra hne
      obtain ⟨x, hx⟩ := Option.ne_none_iff_exists'.mp hne
      obtain ⟨i, rfl⟩ := hf e w x hx
      exact hs i rfl
    show u.hub.entries.map _ = [e]
    simp only [hu, List.map_cons, List.map_nil, hw, hnone]

-- a reply that is released (R376, R377, R380)

theorem irq_replies (s : State) (f v : Nat) : (s.irq f v).sent.replies = s.sent.replies := by
  unfold State.irq
  split <;> rfl

theorem irqTo_replies (s : State) (o : Option Nat) :
    (match o with | some f => if f = 0 then s else s.irq f 31 | none => s).sent.replies = s.sent.replies := by
  cases o with
  | none => rfl
  | some f => dsimp only; split <;> simp [irq_replies]

/-- A fault of class 0 or 1 sends no reply. -/
theorem raise_replies {e : FaultEv} (hc : faultClass e.code e.unit < 2) (s : State) (extra : Option Nat) :
    (s.raise e extra).sent.replies = s.sent.replies := by
  unfold State.raise
  extract_lets cls new l k was s1 cnt s2 logged s4 s5 told halted
  have hl : logged.sent = s.sent := by
    show (State.logHub s2 _ _ _).sent = _
    unfold State.logHub; rw [logRaw_frame]; rfl
  have ht : told.sent.replies = s.sent.replies := by
    show (if _ then _ else _ : State).sent.replies = _
    split
    · exact ((irqTo_replies _ _).trans (irqTo_replies _ _)).trans ((irq_replies _ _ _).trans (congrArg Sent.replies hl))
    · rw [hl]
  have hh : halted.sent.replies = s.sent.replies := by rw [show halted = told from haltFor_of_lt_two hc told _ _, ht]
  rw [if_neg (show ¬ cls = 3 by omega)]
  split
  · rfl
  · exact hh

theorem sessionError_replies (s : State) (i cause : Nat) : (s.sessionError i cause).sent.replies = s.sent.replies := by
  rw [State.sessionError, State.signal, irq_replies]
  exact (raise_replies (show faultClass 0x5002 82 < 2 by decide) _ _)

theorem releaseOne_replies (s : State) (i : Nat) (r : Reply) (notify : Bool) :
    (s.releaseOne i r notify).sent.replies = s.sent.replies ++ [(i, r)] := by
  unfold State.releaseOne
  extract_lets _ t v tail m m2 u
  split
  · split
    · exact sessionError_replies _ _ _
    · split
      · exact irq_replies _ _ _
      · rfl
  · rfl

theorem replyBytes_length (r : Reply) : (replyBytes r).length = 32 := by
  have len (n v : Nat) : (leBytes n v).length = n := by
    induction n generalizing v with
    | zero => rfl
    | succ n ih => simp [leBytes, ih]
  simp [replyBytes, len]

/-- The ring entry of a reply whose write succeeds, where there is no head write-back. -/
theorem releaseOne_ring {s : State} {i : Nat} (r : Reply) (notify : Bool) (hr : (s.sess i).ringed = true) (hwb : (s.sess i).wbEn = false)
    (hm : memWf s.hostMem = true) (hok : s.hostFails ((s.sess i).cqBase.toNat + 32 * (s.sess i).cqTail) = false) :
    memBytes (s.releaseOne i r notify).hostMem ((s.sess i).cqBase.toNat + 32 * (s.sess i).cqTail) 32 = replyBytes r := by
  have hmem : (s.releaseOne i r notify).hostMem = memSetBytes ((s.sess i).cqBase.toNat + 32 * (s.sess i).cqTail) (replyBytes r) s.hostMem := by
    unfold State.releaseOne
    extract_lets _ t v tail m m2 u
    rw [if_pos (show v.ringed = true from hr), if_neg (show ¬ t.hostFails (v.cqBase.toNat + 32 * v.cqTail) = true from ne_true_of_eq_false hok)]
    have hm2 : m2 = m := if_neg (ne_true_of_eq_false hwb)
    have hu : u.hostMem = m := hm2
    split
    · rw [State.signal, irq_frame]; exact hu
    · exact hu
  rw [hmem, ← replyBytes_length r]
  exact memBytes_memSetBytes hm

/-- The answer of the one command on the ready lists, where it fails: its reply leaves with the settling. -/
theorem settle_answered {e : Entry} {r : Reply} (h : s.hub.entries = [e]) (hd : e.state = .done r) (hst : 0x8000 ≤ r.status) :
    s.Answered s.settle e.pkt.session r.status r.detail := by
  intro hreset hroom
  have hrel : s.release = (s.releaseOne e.pkt.session r (isNotify e.pkt)).setEntries [] := by
    have hmay : s.mayRelease [] e = true := by
      have : ((s.sess e.pkt.session).ringed && (s.sess e.pkt.session).cqFull) = false := by
        cases hr : (s.sess e.pkt.session).ringed with
        | false => rfl
        | true => exact hroom hr
      simp [State.mayRelease, this]
    have happ (t : State) : t.applyReleased e r = t := if_neg (by omega)
    rw [State.release, h, releaseLoop, hd]
    dsimp only
    rw [if_neg hreset, if_pos hmay, happ, releaseLoop]
  have hset : s.settle.sent = s.release.sent ∧ s.settle.hostMem = s.release.hostMem := by
    rcases settle_cases s with he | ⟨u, f, hhub, hsent, hmem, -, he⟩ <;> rw [he]
    · exact ⟨rfl, rfl⟩
    · have hnil : u.hub.entries = [] := by rw [hhub, hrel]; rfl
      rw [finishParked_nil hnil]
      exact ⟨hsent, hmem⟩
  refine ⟨r, ?_, rfl, rfl, fun hen hwb hwf hok => ?_⟩
  · rw [hset.1, hrel]
    exact releaseOne_replies s _ r _
  · rw [hset.2, hrel]
    simp only [State.memoriesWf, Bool.and_eq_true] at hwf
    exact releaseOne_ring r _ (by simp [Session.ringed, hen]) hwb hwf.2 hok

end

end Sys2Proof.Machine
end

-- ==== Joining: FJ_JOIN, the far JOIN, JOIN_TIMEOUT ====
section
/-! PROOFS. FJ_JOIN computes the bitmaps of the design's quads and sends JOIN (R321); a far JOIN is judged
in the state that holds it. Its loops over quads and lanes read what no turn of theirs changes, so each is one update of every quad named. -/
namespace Sys2Proof.Machine

-- loops over quads

/-- Two loops agree where their turns agree on the states that are met. -/
theorem forEach_congr {σ : Type} {P : σ → Prop} {f f' : Nat → σ → σ} (h : ∀ i s, P s → f i s = f' i s ∧ P (f' i s)) (l : List Nat) {s : σ}
    (hs : P s) : forEach l f s = forEach l f' s := by
  induction l generalizing s with
  | nil => rfl
  | cons i l ih =>
    obtain ⟨he, hp⟩ := h i s hs
    rw [forEach_cons, forEach_cons, he, ih hp]

theorem forEach_updQuad (l : List Nat) (f : Nat → Quad → Quad) (s : State) :
    ∃ quads, forEach l (fun q t => t.updQuad q (f q)) s = { s with quads := quads } :=
  forEach_keep (P := fun t => ∃ quads, t = { s with quads := quads }) (by rintro q t ⟨m, rfl⟩; exact ⟨_, rfl⟩) ⟨_, rfl⟩

theorem quad_forEach_updQuad {l : List Nat} (hl : l.Nodup) (f : Nat → Quad → Quad) {s : State} (hw : mwf Quad.init s.quads = true) (k : Nat) :
    (forEach l (fun q t => t.updQuad q (f q)) s).quad k = if k ∈ l then f k (s.quad k) else s.quad k := by
  induction l generalizing s with
  | nil => rfl
  | cons q l ih =>
    obtain ⟨hq, hl⟩ := List.nodup_cons.mp hl
    rw [forEach_cons, ih hl (mwf_mset hw), State.updQuad_eq, State.quad_setQuad _ _ _ _ hw]
    by_cases hk : k = q
    · subst hk; simp [hq]
    · simp [hk]

theorem forEach_updLane (l : List Nat) (i : Nat → Nat) (f : Nat → Lane → Lane) (s : State) :
    ∃ lanes, forEach l (fun q t => t.updLane (i q) (f q)) s = { s with lanes := lanes } :=
  forEach_keep (P := fun t => ∃ lanes, t = { s with lanes := lanes }) (by rintro q t ⟨m, rfl⟩; exact ⟨_, rfl⟩) ⟨_, rfl⟩

theorem lane_forEach_updLane {l : List Nat} (hl : l.Nodup) {i : Nat → Nat} (hi : i.Injective) (f : Nat → Lane → Lane) {s : State}
    (hw : mwf Lane.init s.lanes = true) (k : Nat) :
    (forEach l (fun q t => t.updLane (i q) (f q)) s).lane (i k) = if k ∈ l then f k (s.lane (i k)) else s.lane (i k) := by
  induction l generalizing s with
  | nil => rfl
  | cons q l ih =>
    obtain ⟨hq, hl⟩ := List.nodup_cons.mp hl
    rw [forEach_cons, ih hl (mwf_mset hw), State.updLane_eq, State.lane_setLane _ _ _ _ hw]
    by_cases hk : k = q
    · subst hk; simp [hq]
    · simp [hk, hi.eq_iff]

theorem linkQuads_nodup (s : State) (g : Nat) : (s.linkQuads g).Nodup := (List.nodup_range.filter _).filter _

theorem cargoQuads_nodup (s : State) (g : Nat) : (s.cargoQuads g).Nodup := List.nodup_range.filter _

theorem mem_cargoQuads_of_linkQuads {s : State} {g q : Nat} (h : q ∈ s.linkQuads g) : q ∈ s.cargoQuads g := (List.mem_filter.mp h).1

theorem linkQuads_congr {s t : State} (hq : ∀ q, (t.quad q).rg = (s.quad q).rg) (hb : t.boot = s.boot) (g : Nat) :
    t.linkQuads g = s.linkQuads g := by
  simp only [State.linkQuads, State.cargoQuads, State.paired, hq, hb]

theorem joinCrcs_congr {s t : State} {q : Nat} (ha : t.quadAct = s.quadAct) (hq : (t.quad q).cls = (s.quad q).cls) (n : Nat) :
    t.joinCrcs n q = s.joinCrcs n q := by
  simp only [State.joinCrcs, ha, hq]

-- FJ_JOIN (R321)

/-- The state that a join which may start leaves: the bitmaps of each quad, and a JOIN on lane 0 of each. -/
def State.joinSent (s : State) (g k : Nat) : State :=
  let t := forEach (s.cargoQuads g) (fun q t => t.updQuad q fun v =>
    { v with outCrc := (s.joinCrcs (s.group g).n q).1, inCrc := (s.joinCrcs (s.group g).n q).2 }) s
  forEach (s.linkQuads g) (fun q u => u.updLane (4 * q) fun v =>
    { v with ctrl := v.ctrl ++ [.join (t.joinWords (s.group g).n q k).1 (t.joinWords (s.group g).n q k).2] }) t

section
variable {s : State} {g : Nat} (hq : mwf Quad.init s.quads = true) (k : Nat)

theorem joinSent_frame : ∃ quads lanes, s.joinSent g k = { s with quads := quads, lanes := lanes } := by
  unfold State.joinSent
  obtain ⟨quads, h⟩ := forEach_updQuad (s.cargoQuads g) (fun q v =>
    { v with outCrc := (s.joinCrcs (s.group g).n q).1, inCrc := (s.joinCrcs (s.group g).n q).2 }) s
  rw [h]
  obtain ⟨lanes, h'⟩ := forEach_updLane (s.linkQuads g) (4 * ·) (fun q v => { v with ctrl := v.ctrl ++ [.join
    (State.joinWords { s with quads := quads } (s.group g).n q k).1 (State.joinWords { s with quads := quads } (s.group g).n q k).2] })
    { s with quads := quads }
  exact ⟨quads, lanes, h'⟩

include hq

theorem joinSent_quad (q : Nat) : (s.joinSent g k).quad q = if q ∈ s.cargoQuads g then { s.quad q with
    outCrc := (s.joinCrcs (s.group g).n q).1, inCrc := (s.joinCrcs (s.group g).n q).2 } else s.quad q := by
  unfold State.joinSent
  extract_lets t
  obtain ⟨lanes, h⟩ := forEach_updLane (s.linkQuads g) (4 * ·) (fun q v => { v with ctrl := v.ctrl ++ [.join
    (t.joinWords (s.group g).n q k).1 (t.joinWords (s.group g).n q k).2] }) t
  rw [h]
  exact quad_forEach_updQuad (cargoQuads_nodup s g) _ hq q

/-- The two words of the JOIN on a quad: their kind, the stop lead and the grandmaster. -/
theorem joinSent_ctrl (hl : mwf Lane.init s.lanes = true) {q : Nat} (hmem : q ∈ s.linkQuads g) (hcls : (s.quad q).cls < 4) (hk : k < 256) :
    ∃ a b : BitVec 72, ((s.joinSent g k).lane (4 * q)).ctrl = (s.lane (4 * q)).ctrl ++ [.join a b] ∧ bitsOf a.toNat 0 4 = 6
      ∧ bitsOf b.toNat 0 4 = 6 ∧ bitsOf b.toNat 9 8 = k ∧ bitsOf b.toNat 17 10 = s.datum.gmPart % 1024 := by
  unfold State.joinSent
  extract_lets t
  have hts : ∃ quads, t = { s with quads := quads } := forEach_updQuad _ _ s
  have htl : t.lanes = s.lanes := by obtain ⟨quads, h⟩ := hts; rw [h]
  have htd : t.datum = s.datum := by obtain ⟨quads, h⟩ := hts; rw [h]
  have htc : (t.quad q).cls < 4 := by
    rw [quad_forEach_updQuad (cargoQuads_nodup s g) _ hq q]
    split <;> exact hcls
  refine ⟨(t.joinWords (s.group g).n q k).1, (t.joinWords (s.group g).n q k).2, ?_, ?_, ?_⟩
  · rw [lane_forEach_updLane (linkQuads_nodup s g) (fun a b h => by simpa using h) _ (by rw [htl]; exact hl), if_pos hmem, State.lane, htl]
    rfl
  · simp only [State.joinWords, bitsOf, BitVec.toNat_ofNat, fieldAt]
    omega
  · have hs : stepsCode (s.group g).n ≤ 4 := by unfold stepsCode; split_ifs <;> omega
    simp only [State.joinWords, bitsOf, BitVec.toNat_ofNat, fieldAt, htd]
    generalize stepsCode (s.group g).n = c at hs
    generalize (t.quad q).cls = d at htc
    generalize t.boot.part.getD 0 = m
    refine ⟨?_, ?_, ?_⟩ <;> omega

/-- The loops of the command, whose turns read the state they have reached, leave that state. -/
theorem joinSent_eq : (let t := forEach (s.cargoQuads g) (fun q t =>
      let c := t.joinCrcs (s.group g).n q
      t.updQuad q fun v => { v with outCrc := c.1, inCrc := c.2 }) s
    forEach (s.linkQuads g) (fun q t => let w := t.joinWords (s.group g).n q k; t.queueCtrl (4 * q) (.join w.1 w.2)) t) = s.joinSent g k := by
  have crcs : forEach (s.cargoQuads g) (fun q t =>
      let c := t.joinCrcs (s.group g).n q
      t.updQuad q fun v => { v with outCrc := c.1, inCrc := c.2 }) s
    = forEach (s.cargoQuads g) (fun q t => t.updQuad q fun v =>
        { v with outCrc := (s.joinCrcs (s.group g).n q).1, inCrc := (s.joinCrcs (s.group g).n q).2 }) s := by
    refine forEach_congr (P := fun t : State => t.quadAct = s.quadAct ∧ mwf Quad.init t.quads = true ∧ ∀ q, (t.quad q).cls = (s.quad q).cls)
      (fun q t ht => ?_) _ ⟨rfl, hq, fun _ => rfl⟩
    obtain ⟨ha, hw, hc⟩ := ht
    dsimp only
    rw [joinCrcs_congr ha (hc q)]
    refine ⟨rfl, ha, mwf_mset hw, fun i => ?_⟩
    rw [State.updQuad_eq, State.quad_setQuad _ _ _ _ hw]
    split
    · next e => subst e; exact hc i
    · exact hc i
  rw [crcs]
  unfold State.joinSent
  refine forEach_congr (P := fun u : State => ∃ lanes, u = { forEach (s.cargoQuads g) (fun q t => t.updQuad q fun v =>
        { v with outCrc := (s.joinCrcs (s.group g).n q).1, inCrc := (s.joinCrcs (s.group g).n q).2 }) s with lanes := lanes })
      (fun q u ⟨lanes, hu⟩ => ?_) _ ⟨_, rfl⟩
  subst hu
  exact ⟨rfl, _, rfl⟩

end

/-- A join whose far JOIN is still to come goes on waiting (R321). -/
theorem judgeJoin_waits {s : State} {g h : Nat} {e : Entry} (he : s.hub.entries = [e]) (hw : e.wait? = some (.join g)) (hne : s.linkQuads g ≠ [])
    (hm : ∀ q ∈ s.linkQuads g, (s.quad q).joinMsg = none) : s.judgeJoin h = s := by
  unfold State.judgeJoin
  rw [he]
  by_cases hg : g = h
  · subst hg
    have hfind : [e].find? (fun e => decide (e.wait? = some (.join g))) = some e := by simp [hw]
    have hnone : (s.linkQuads g).findSome? (fun q => (s.quad q).joinMsg.bind (s.joinFault (s.group g).n q (par e.pkt 24 1))) = none := by
      rw [List.findSome?_eq_none_iff]
      intro q hq
      rw [hm q hq]; rfl
    have hany : ((s.linkQuads g).any fun q => (s.quad q).joinMsg.isNone) = true := by
      obtain ⟨q, hq⟩ := List.exists_mem_of_ne_nil _ hne
      exact List.any_eq_true.mpr ⟨q, hq, by rw [hm q hq]; rfl⟩
    rw [hfind]
    dsimp only
    rw [hnone, hany]
    rfl
  · have hfind : [e].find? (fun e => decide (e.wait? = some (.join h))) = none := by simp [hw, hg]
    rw [hfind]

-- the far JOIN that decides (R321)

theorem dropJoins_quad {s : State} {g : Nat} (hq : mwf Quad.init s.quads = true) (k : Nat) :
    (s.dropJoins g).quad k = if k ∈ s.linkQuads g then { s.quad k with joinMsg := none } else s.quad k :=
  quad_forEach_updQuad (linkQuads_nodup s g) _ hq k

theorem dropJoins_frame (s : State) (g : Nat) : ∃ quads, s.dropJoins g = { s with quads := quads } := forEach_updQuad _ _ s

/-- The state after a design has joined: the run group with its K and hops, and its quads. -/
def State.withJoined (s : State) (g k hops : Nat) : State :=
  forEach (s.cargoQuads g) (fun q t => t.updQuad q fun v => { v with joined := true, joinMsg := none })
    (s.setGroup g { s.group g with joined := true, stopLead := k, hops := hops })

theorem withJoined_group {s : State} (hg : mwf RunGroup.init s.groups = true) (g k hops : Nat) :
    (s.withJoined g k hops).group g = { s.group g with joined := true, stopLead := k, hops := hops } := by
  obtain ⟨quads, h⟩ := forEach_updQuad (s.cargoQuads g) (fun _ v => { v with joined := true, joinMsg := none })
    (s.setGroup g { s.group g with joined := true, stopLead := k, hops := hops })
  rw [State.withJoined, h]
  exact State.group_setGroup_same s g _ hg

theorem withJoined_quad {s : State} (hq : mwf Quad.init s.quads = true) (g k hops : Nat) {q : Nat} (h : q ∈ s.cargoQuads g) :
    ((s.withJoined g k hops).quad q).joined = true := by
  have h' := quad_forEach_updQuad (cargoQuads_nodup s g) (fun _ v => { v with joined := true, joinMsg := none })
    (s := s.setGroup g { s.group g with joined := true, stopLead := k, hops := hops }) hq q
  rw [if_pos h] at h'
  exact congrArg Quad.joined h'

section
variable {s : State} {g q : Nat} {e : Entry} {m : BitVec 72 × BitVec 72}

/-- What one far JOIN is found to be (R321): it names another grandmaster, differs elsewhere, or agrees. -/
theorem joinFault_cases (s : State) (n q k : Nat) (m : BitVec 72 × BitVec 72) :
    let agrees := bitsOf m.2.toNat 17 10 = s.datum.gmPart ∧ bitsOf m.1.toNat 4 32 = (s.quad q).inCrc ∧ bitsOf m.1.toNat 36 32 = (s.quad q).outCrc
      ∧ bitsOf m.2.toNat 4 3 = stepsCode n ∧ bitsOf m.2.toNat 7 2 = (s.quad q).cls ∧ bitsOf m.2.toNat 9 8 = k
    (agrees → s.joinFault n q k m = none)
      ∧ (¬ agrees → s.joinFault n q k m = some (if bitsOf m.2.toNat 17 10 = s.datum.gmPart then (0x8009, 0x0801) else (0x8008, 0x0803))) := by
  intro agrees
  unfold State.joinFault
  dsimp only
  by_cases hgm : bitsOf m.2.toNat 17 10 = s.datum.gmPart
  · rw [if_neg (by simpa using hgm), if_pos hgm]
    refine ⟨fun ⟨_, h1, h2, h3, h4, h5⟩ => if_neg (by simp [h1, h2, h3, h4, h5]), fun hn => if_pos ?_⟩
    by_contra hc
    simp only [not_or, ne_eq, not_not] at hc
    exact hn ⟨hgm, hc⟩
  · rw [if_pos hgm, if_neg hgm]
    exact ⟨fun h => absurd h.1 hgm, fun _ => rfl⟩

variable (he : s.hub.entries = [e]) (hw : e.wait? = some (.join g)) (hl : s.linkQuads g = [q]) (hm : (s.quad q).joinMsg = some m)
include he hw hl hm

theorem judgeJoin_agrees (hf : s.joinFault (s.group g).n q (par e.pkt 24 1) m = none) : s.judgeJoin g
    = State.setEntries (s.withJoined g (par e.pkt 24 1) (par e.pkt 25 1))
      [{ e with state := .done ((s.withJoined g (par e.pkt 24 1) (par e.pkt 25 1)).mkReply e.pkt 0 0 1) }] := by
  have hentries : (s.withJoined g (par e.pkt 24 1) (par e.pkt 25 1)).hub.entries = [e] := by
    obtain ⟨quads, h⟩ := forEach_updQuad (s.cargoQuads g) (fun _ v => { v with joined := true, joinMsg := none })
      (s.setGroup g { s.group g with joined := true, stopLead := par e.pkt 24 1, hops := par e.pkt 25 1 })
    rw [State.withJoined, h]; exact he
  have hfind : [e].find? (fun e => decide (e.wait? = some (.join g))) = some e := by simp [hw]
  unfold State.judgeJoin
  rw [he, hfind]
  dsimp only
  rw [hl]
  simp only [List.findSome?_cons, List.findSome?_nil, hm, Option.bind_some, hf, List.any_cons, List.any_nil, Option.isNone_some, Bool.or_self,
    Bool.false_eq_true, if_false, List.length_singleton]
  exact finishParked_one hentries hw (by simp)

theorem judgeJoin_differs {st d : Nat} (hf : s.joinFault (s.group g).n q (par e.pkt 24 1) m = some (st, d)) : s.judgeJoin g
    = (s.dropJoins g).setEntries [{ e with state := .done ((s.dropJoins g).mkReply e.pkt st d 0) }] := by
  have hentries : (s.dropJoins g).hub.entries = [e] := by
    obtain ⟨quads, h⟩ := dropJoins_frame s g
    rw [h]; exact he
  have hfind : [e].find? (fun e => decide (e.wait? = some (.join g))) = some e := by simp [hw]
  unfold State.judgeJoin
  rw [he, hfind]
  dsimp only
  rw [hl]
  simp only [List.findSome?_cons, hm, Option.bind_some, hf]
  exact finishParked_one hentries hw (by simp)

end

theorem okStatus_error (s : State) {st : Nat} (h : 0x8000 ≤ st) : s.okStatus st = st := if_neg (by omega)

/-- Where the one command has ended, none waits. -/
theorem settle_finished (s : State) (e : Entry) (r : Reply) :
    ∀ x ∈ (s.setEntries [{ e with state := .done r }]).settle.hub.entries, x.wait? = none :=
  settle_unparked fun x hx => by rw [List.mem_singleton.mp hx]; rfl

/-- A failed join answers, whatever of quads and lanes has changed by then. -/
theorem answered_of_frame {s u : State} {e : Entry} {st d : Nat} (hst : 0x8000 ≤ st) {lanes : SMap Lane} {quads : SMap Quad}
    (hu : u = { s with lanes := lanes, quads := quads }) :
    s.Answered (u.setEntries [{ e with state := .done (u.mkReply e.pkt st d 0) }]).settle e.pkt.session st d := by
  have h := settle_answered (s := u.setEntries [{ e with state := .done (u.mkReply e.pkt st d 0) }]) rfl rfl
    (by rw [State.mkReply, okStatus_error u hst]; exact hst)
  rw [State.mkReply, okStatus_error u hst] at h ⊢
  subst hu
  exact h

/-- A JOIN that a lane of a bound quad receives is noted, and judged (R321). -/
theorem takeJoin_bound {s : State} {l g : Nat} {a b : BitVec 72} (hq : mwf Quad.init s.quads = true) (hg : (s.quad (l / 4)).rg = some g) :
    takeJoin s l a b = (s.setQuad (l / 4) { s.quad (l / 4) with joinMsg := some (a, b) }).judgeJoin g := by
  have h : ((s.updQuad (l / 4) fun v => { v with joinMsg := some (a, b) }).quad (l / 4)).rg = some g := by
    rw [State.updQuad_eq, State.quad_setQuad_same _ _ _ hq]; exact hg
  unfold takeJoin
  dsimp only [laneQuad]
  rw [h]
  rfl

theorem checks_pass {s : State} {l : List (Bool × Nat × Nat)} {ok : Ans} (h : ∀ x ∈ l, x.1 = false) : checks s l ok = ok := by
  unfold checks
  rw [List.find?_eq_none.mpr fun x hx => by simp [h x hx]]

section
variable {p : Packet} {s : State} {g : Nat}

theorem exec_fjJoin (h : Accepted 0x0810 p s (parCheck p [(20, 4), (24, 1), (25, 1)]
      (decide (0 < par p 24 1) && decide (0 < par p 25 1))) (decide (par p 20 4 = 0))) :
    exec (.fjJoin p) s
      = .next (let t := conclude 0x0810 p (fjJoinOwn p s); forEach t.runGroups (fun g u => u.judgeJoin g) t).settle := by
  rw [← command_accepted (own := fjJoinOwn p s) h]; rfl

/-- A join that may start waits, its bitmaps computed and its JOINs sent (R321). -/
theorem fjJoinOwn_starts (hq : mwf Quad.init s.quads = true) (hg : ownedGroup p s = .ok g) (hqs : s.linkQuads g ≠ [])
    (hk : ceilDiv (par p 25 1 * (2 * (s.linkQuads g).foldl (fun a q => max a (classLimit (s.quad q).cls)) 0 + 40)) (s.group g).n + 1 ≤ par p 24 1)
    (hph : s.phase = 2) (hj : (s.group g).joined = false) (hpart : s.boot.part.isSome = true)
    (hst : (s.group g).state = .loaded ∨ (s.group g).state = .stopped) (hlock : s.datum.lock = 2)
    (hlocks : ∀ q ∈ s.linkQuads g, s.quadLocked p.session q = false)
    (hready : ∀ q ∈ s.linkQuads g, ∀ i < 4, (s.lane (4 * q + i)).state = .up ∧ (s.lane (4 * q + i)).fec = 0 ∧ (s.lane (4 * q + i)).rate = 0
      ∧ (s.lane (4 * q + i)).crossed = false) :
    fjJoinOwn p s = .park (.join g) (s.joinSent g (par p 24 1)) := by
  unfold fjJoinOwn
  rw [hg]
  dsimp only
  rw [checks_pass]
  · exact congrArg (Ans.park (.join g)) (joinSent_eq hq (par p 24 1))
  · have hlanes : ((s.linkQuads g).any fun q => (quadLanes q).any fun l =>
        !((s.lane l).linked && decide ((s.lane l).rate = 0) && !(s.lane l).crossed)) = false := by
      simp only [List.any_eq_false, quadLanes]
      rintro q hmem h
      obtain ⟨l, hl, hn⟩ := List.any_eq_true.mp h
      obtain ⟨i, hi, rfl⟩ := List.mem_map.mp hl
      obtain ⟨h1, h2, h3, h4⟩ := hready q hmem i (List.mem_range.mp hi)
      simp [Lane.linked, h1, h2, h3, h4] at hn
    have hany : ((s.linkQuads g).any fun q => s.quadLocked p.session q) = false := by
      simpa only [List.any_eq_false, Bool.not_eq_true] using hlocks
    have hstate : (decide ((s.group g).state ≠ .loaded) && decide ((s.group g).state ≠ .stopped)) = false := by
      rcases hst with h | h <;> simp [h]
    simp only [List.forall_mem_cons, List.isEmpty_eq_false_iff, hlanes, hany, hstate, hj, hph, hlock, leastLead, hpart]
    simp [hqs, hpart, Nat.lt_of_succ_le hk]

end

/-- A whole FJ_JOIN that waits: the far JOINs are still to come, so the judging that follows it finds nothing. -/
theorem exec_fjJoin_waits {p : Packet} {s u : State} {g : Nat} (h : Accepted 0x0810 p s (parCheck p [(20, 4), (24, 1), (25, 1)]
      (decide (0 < par p 24 1) && decide (0 < par p 25 1))) (decide (par p 20 4 = 0)))
    (hown : fjJoinOwn p s = .park (.join g) u) (he : u.hub.entries = []) (hne : u.linkQuads g ≠ [])
    (hm : ∀ q ∈ u.linkQuads g, (u.quad q).joinMsg = none) :
    ∃ t, exec (.fjJoin p) s = .next t ∧ t.hub.entries = [{ opcode := 0x0810, pkt := p, state := .parked (.join g) }]
      ∧ (∀ h, t.group h = u.group h) ∧ (∀ q, t.quad q = u.quad q) ∧ ∀ l, t.lane l = u.lane l := by
  set e : Entry := { opcode := 0x0810, pkt := p, state := .parked (.join g) } with hedef
  have hw : e.wait? = some (.join g) := rfl
  set v := u.setEntries [e] with hv
  have hcon : conclude 0x0810 p (fjJoinOwn p s) = v.settle := by rw [hown, conclude, he]; rfl
  have hve : v.settle.hub.entries = [e] := settle_parked rfl hw (by simp)
  have hquads : ∀ q, v.settle.quad q = u.quad q := fun q => settle_quad v q
  have hboot : v.settle.boot = u.boot := by
    obtain ⟨_, _, _, _, _, _, _, _, _, _, h⟩ := settle_replying v
    rw [h]; rfl
  have hlq : v.settle.linkQuads g = u.linkQuads g := linkQuads_congr (fun q => by rw [hquads]) hboot g
  have judged : forEach v.settle.runGroups (fun g w => w.judgeJoin g) v.settle = v.settle :=
    forEach_keep (P := fun w => w = v.settle)
      (by
        rintro i w rfl
        exact judgeJoin_waits hve hw (by rw [hlq]; exact hne) fun q hq => by rw [hquads]; exact hm q (hlq ▸ hq)) rfl
  refine ⟨v.settle.settle, ?_, settle_parked hve hw (by simp), fun h => ?_, fun q => ?_, fun l => ?_⟩
  · rw [exec_fjJoin h, hcon]
    dsimp only
    rw [judged]
  · rw [settle_group, settle_group]; rfl
  · rw [settle_quad, settle_quad]; rfl
  · rw [settle_lane, settle_lane]; rfl

-- the row of a JOIN

/-- The state in which a received JOIN is judged. -/
def State.joinHeard (s : State) (l : Nat) (c : Codeword) : State :=
  (s.setLane l ((s.lane l).header c)).setQuad (l / 4) { s.quad (l / 4) with
    joinMsg := some (BitVec.ofNat 72 (bitsOf c.body.toNat 0 72), BitVec.ofNat 72 (bitsOf c.body.toNat 72 72)) }

section
variable {s : State} {l g : Nat} {c : Codeword} {e : Entry} (hq : mwf Quad.init s.quads = true) (hl : l < 144)
  (hup : (s.lane l).state = .up) (hfec : (s.lane l).fec = 0) (hg : (s.quad (l / 4)).rg = some g)
  (hheld : s.pairHeld l = false) (hz : c.zero = 0) (hvc : c.vc < 3) (ht : c.type = 4) (h0 : bitsOf c.body.toNat 0 4 = 6)
  (h1 : bitsOf c.body.toNat 72 4 = 6) (hrest : ∀ j, 1 < j → j < 8 → bitsOf c.body.toNat (72 * j) 4 = 0)
include hq hl hup hfec hg hheld hz hvc ht h0 h1 hrest

theorem exec_join_heard : exec (.join l c 0) s = .next ((s.joinHeard l c).judgeJoin g).settle := by
  have hmsgs := ctrlMsgs_join h0 h1 hrest
  rw [exec_join, ctrlRow_named hl hup hfec hheld hz hvc ht]
  · rw [takeCtrl, hmsgs]
    exact congrArg (fun t => (.next t.settle : Host.Outcome State Fault Refusal)) (takeJoin_bound (s := s.setLane l _) hq hg)
  · right
    rw [hmsgs]
    exact ⟨rfl, by simpa using h0⟩

end

section
variable {s : State} {l g : Nat} {c : Codeword} (hq : mwf Quad.init s.quads = true)
include hq

theorem joinHeard_quad (k : Nat) : (s.joinHeard l c).quad k = if k = l / 4 then { s.quad (l / 4) with
    joinMsg := some (BitVec.ofNat 72 (bitsOf c.body.toNat 0 72), BitVec.ofNat 72 (bitsOf c.body.toNat 72 72)) } else s.quad k :=
  State.quad_setQuad _ _ _ _ hq

omit hq in
theorem joinHeard_dropJoins_frame : ∃ lanes quads, (s.joinHeard l c).dropJoins g = { s with lanes := lanes, quads := quads } := by
  obtain ⟨quads, h⟩ := dropJoins_frame (s.joinHeard l c) g
  exact ⟨_, quads, h⟩

theorem joinHeard_linkQuads : (s.joinHeard l c).linkQuads g = s.linkQuads g := by
  refine linkQuads_congr (s := s) (t := s.joinHeard l c) (fun k => ?_) rfl g
  rw [joinHeard_quad hq]
  split
  · next h => rw [h]
  · rfl

end

/-- A far JOIN that differs ends the wait with its failure (R321). -/
theorem judged_differs {s : State} {l g : Nat} {c : Codeword} {e : Entry} {m : BitVec 72 × BitVec 72} {st d : Nat}
    (hq : mwf Quad.init s.quads = true) (he : s.hub.entries = [e]) (hw : e.wait? = some (.join g))
    (hl : (s.joinHeard l c).linkQuads g = [l / 4]) (hm : ((s.joinHeard l c).quad (l / 4)).joinMsg = some m)
    (hf : (s.joinHeard l c).joinFault ((s.joinHeard l c).group g).n (l / 4) (par e.pkt 24 1) m = some (st, d)) (hst : 0x8000 ≤ st) :
    ∃ t, (.next ((s.joinHeard l c).judgeJoin g).settle : Host.Outcome State Fault Refusal) = .next t ∧ t.group g = s.group g
      ∧ (t.quad (l / 4)).joinMsg = none ∧ (∀ x ∈ t.hub.entries, x.wait? = none) ∧ s.Answered t e.pkt.session st d := by
  obtain ⟨lanes, quads, hdrop⟩ := joinHeard_dropJoins_frame (s := s) (l := l) (g := g) (c := c)
  refine ⟨_, rfl, ?_⟩
  rw [judgeJoin_differs (s := s.joinHeard l c) he hw hl hm hf, settle_group, settle_quad]
  refine ⟨?_, ?_, settle_finished _ e _, answered_of_frame hst hdrop⟩
  · rw [hdrop]; rfl
  · refine (congrArg Quad.joinMsg (dropJoins_quad (s := s.joinHeard l c) (mwf_mset hq) (l / 4))).trans ?_
    rw [if_pos (by simp [hl])]

/-- Settles O47: FJ_JOIN leaves `joinSent` and waits; a received JOIN is judged in the state that holds it; JOIN_TIMEOUT ends the wait. -/
theorem joining : Obligations.Joining := by
  unfold Obligations.Joining
  intro s hgroups hquads hlanes
  refine ⟨fun p g hacc hown => ?_, fun l g cw e hl hup hfec hg hheld hz hvc ht h0 h1 hrest => ?_, fun g hg hp hparked => ?_⟩
  · intro r qs d hqs hk hph hj hpart hst hlock hent hquad
    obtain ⟨quads, lanes, hframe⟩ := joinSent_frame (s := s) (g := g) (par p 24 1)
    have hq' (q : Nat) := joinSent_quad (s := s) (g := g) hquads (par p 24 1) q
    have hlq : (s.joinSent g (par p 24 1)).linkQuads g = qs := by
      refine linkQuads_congr (fun q => ?_) (by rw [hframe]) g
      rw [hq']; split <;> rfl
    have hstart := fjJoinOwn_starts hquads hown hqs hk hph hj hpart hst hlock (fun q h => (hquad q h).1) fun q h => (hquad q h).2.2.2
    obtain ⟨t, hexec, hte, htg, htq, htl⟩ := exec_fjJoin_waits hacc hstart (by rw [hframe]; exact hent) (by rw [hlq]; exact hqs) fun q h => by
      rw [hq']; split <;> exact (hquad q (hlq ▸ h)).2.1
    refine ⟨t, hexec, ?_, ⟨_, by rw [hte]; exact List.mem_singleton_self _, rfl, rfl⟩, fun q h => ?_⟩
    · rw [htg, hframe]; exact hj
    · obtain ⟨-, -, hcls, -⟩ := hquad q h
      rw [htq, htl, hq', if_pos (mem_cargoQuads_of_linkQuads h)]
      exact ⟨rfl, rfl, joinSent_ctrl hquads (par p 24 1) hlanes h hcls (Nat.mod_lt _ (by decide))⟩
  · intro a b hlink hent hwait q agrees
    set u := s.joinHeard l cw with hu
    have hrow := exec_join_heard (g := g) hquads hl hup hfec hg hheld hz hvc ht h0 h1 hrest
    have hquad (k : Nat) := joinHeard_quad (l := l) (c := cw) hquads k
    have hself := hquad (l / 4)
    rw [if_pos rfl] at hself
    have hlq : u.linkQuads g = [l / 4] := (joinHeard_linkQuads hquads).trans hlink
    have hmsg : (u.quad (l / 4)).joinMsg = some (a, b) := by rw [hself]
    obtain ⟨hagree, hdiffer⟩ := joinFault_cases u (u.group g).n (l / 4) (par e.pkt 24 1) (a, b)
    rw [hself] at hagree hdiffer
    refine ⟨fun h => ⟨_, hrow, ?_⟩, fun h => ?_⟩
    · rw [judgeJoin_agrees (s := u) hent hwait hlq hmsg (hagree h)]
      simp only [settle_group, settle_quad]
      have hgroup := withJoined_group (s := u) hgroups g (par e.pkt 24 1) (par e.pkt 25 1)
      refine ⟨?_, ?_, ?_, withJoined_quad (mwf_mset hquads) g _ _ (mem_cargoQuads_of_linkQuads (by simp [hlq])), ?_⟩
      · exact congrArg RunGroup.joined hgroup
      · exact congrArg RunGroup.stopLead hgroup
      · exact congrArg RunGroup.hops hgroup
      · exact settle_finished _ e _
    · have hfault := hdiffer h
      rw [hrow]
      by_cases hgm : bitsOf b.toNat 17 10 = s.datum.gmPart
      · simp only [if_pos hgm]
        exact judged_differs hquads hent hwait hlq hmsg (hfault.trans (congrArg some (if_pos hgm))) (by decide)
      · simp only [if_neg hgm]
        exact judged_differs hquads hent hwait hlq hmsg (hfault.trans (congrArg some (if_neg hgm))) (by decide)
  · have hrow := groupRow_of_parcels (fun t => ((if t.anyParked fun w => decide (w = .join g) then t.dropJoins g else t).finishParked fun _ w =>
      if w = .join g then some (errTimeout, 0, 0) else none).settle) hg hp
    refine (show exec (.joinTimeout g) s = groupRow g s _ from rfl).trans (hrow.trans ?_)
    rw [if_pos hparked, State.endWaits]
    simp only [decide_eq_true_eq]
    rfl

end Sys2Proof.Machine
end

-- ==== A step: the faults raised, and how often each is counted ====
section
/-! PROOFS. A raised fault adds one to the count of its code, up to the bound of the counter. `Counted l s t`: from `s` to `t` the
faults of the codes `l` have been counted. -/
namespace Sys2Proof.Machine

/-- The count of a code after one more fault (R419). -/
def bump (m : SMap Nat) (code : Nat) : SMap Nat := mset 0 (faultCodes.idxOf code) (satAdd 48 (mget 0 (faultCodes.idxOf code) m) 1) m

/-- From `s` to `t` faults of the codes `l` are counted, and no others. -/
def Counted (l : List Nat) (s t : State) : Prop := t.faults.cnt = l.foldl bump s.faults.cnt

namespace Counted
variable {s t u : State} {l k : List Nat}

theorem trans (h : Counted l s t) (h' : Counted k t u) : Counted (l ++ k) s u := by
  unfold Counted at *
  rw [List.foldl_append, ← h, h']

/-- An update of other fields. -/
theorem elsewhere (h : Counted l s t) (e : u.faults.cnt = t.faults.cnt := by rfl) : Counted l s u := Eq.trans e h

theorem ite {c : Prop} [Decidable c] {a b : State} (h : Counted l s a) (k : Counted l s b) : Counted l s (if c then a else b) := by
  split <;> assumption

theorem irq (h : Counted l s t) {f v : Nat} : Counted l s (t.irq f v) := by
  rw [irq_frame]; exact h.elsewhere

theorem irqTo (h : Counted l s t) (o : Option Nat) :
    Counted l s (match o with | some f => if f = 0 then t else t.irq f 31 | none => t) := by
  cases o with
  | none => exact h
  | some f => exact ite h h.irq

theorem logHub (h : Counted l s t) {kind flags payload : Nat} : Counted l s (t.logHub kind flags payload) := by
  unfold State.logHub; rw [logRaw_frame]; exact h.elsewhere

theorem haltFor (h : Counted l s t) {cls unit code : Nat} : Counted l s (t.haltFor cls unit code) := by
  obtain ⟨_, _, _, e⟩ := haltFor_frame t cls unit code
  rw [e]; exact h.elsewhere

end Counted

/-- Raising a fault counts it once (R419). -/
theorem raise_counted (s : State) (e : FaultEv) (extra : Option Nat) : Counted [e.code] s (s.raise e extra) := by
  unfold State.raise
  extract_lets cls new l k was s1 cnt s2 logged s4 s5 told halted
  have counted : Counted [e.code] s s2 := rfl
  have hl : Counted [e.code] s logged := counted.logHub
  have ht : Counted [e.code] s told := .ite (.irqTo (.irqTo hl.irq _) _) hl
  have hh : Counted [e.code] s halted := ht.haltFor
  exact .ite counted (.ite (.ite hh.elsewhere hh.elsewhere) hh)

/-- The faults of one step in the order in which they are raised (R424). -/
def raiseOrder (evs : List FaultEv) : List FaultEv := faultCodes.flatMap fun c => evs.filter fun e => decide (e.code = c)

theorem raiseAll_counted (s : State) (evs : List FaultEv) : Counted ((raiseOrder evs).map (·.code)) s (s.raiseAll evs) := by
  have key (l : List FaultEv) : ∀ s : State, Counted (l.map (·.code)) s (l.foldl (fun t e => t.raise e) s) := by
    induction l with
    | nil => exact fun _ => rfl
    | cons e l ih => exact fun s => (raise_counted s e none).trans (ih _)
  exact key _ s

theorem mem_raiseOrder {evs : List FaultEv} {code : Nat} (hc : code ∈ faultCodes) :
    code ∈ (raiseOrder evs).map (·.code) ↔ ∃ e ∈ evs, e.code = code := by
  simp only [raiseOrder, List.mem_map, List.mem_flatMap, List.mem_filter, decide_eq_true_eq]
  constructor
  · rintro ⟨e, ⟨_, _, he, _⟩, h⟩; exact ⟨e, he, h⟩
  · rintro ⟨e, he, h⟩; exact ⟨e, ⟨code, hc, he, h⟩, h⟩

theorem mwf_bump {m : SMap Nat} (h : mwf 0 m = true) (code : Nat) : mwf 0 (bump m code) = true := mwf_mset h

theorem mget_bump {m : SMap Nat} (h : mwf 0 m = true) (code k : Nat) :
    mget 0 k (bump m code) = if k = faultCodes.idxOf code then satAdd 48 (mget 0 k m) 1 else mget 0 k m := by
  rw [bump, mget_mset h]
  split
  · next e => rw [e]
  · rfl

/-- A count below its bound does not fall. -/
theorem le_mget_bumps {k : Nat} : ∀ (l : List Nat) {m : SMap Nat}, mwf 0 m = true → mget 0 k m < 2 ^ 48 →
    mget 0 k m ≤ mget 0 k (l.foldl bump m)
  | [], _, _, _ => le_rfl
  | c :: l, m, hm, hb => by
    have one : mget 0 k m ≤ mget 0 k (bump m c) ∧ mget 0 k (bump m c) < 2 ^ 48 := by
      rw [mget_bump hm]; unfold satAdd
      split_ifs <;> omega
    exact one.1.trans (le_mget_bumps l (mwf_bump hm c) one.2)

theorem mget_bumps_of_notMem {code : Nat} (hc : code ∈ faultCodes) : ∀ (l : List Nat) {m : SMap Nat}, mwf 0 m = true → code ∉ l →
    mget 0 (faultCodes.idxOf code) (l.foldl bump m) = mget 0 (faultCodes.idxOf code) m
  | [], _, _, _ => rfl
  | c :: l, m, hm, hl => by
    rw [List.mem_cons, not_or] at hl
    rw [List.foldl_cons, mget_bumps_of_notMem hc l (mwf_bump hm c) hl.2, mget_bump hm, if_neg]
    intro e
    exact hl.1 ((List.idxOf_inj hc).mp e)

theorem lt_mget_bumps_of_mem {code : Nat} : ∀ (l : List Nat) {m : SMap Nat}, mwf 0 m = true →
    mget 0 (faultCodes.idxOf code) m + 1 < 2 ^ 48 → code ∈ l →
    mget 0 (faultCodes.idxOf code) m < mget 0 (faultCodes.idxOf code) (l.foldl bump m)
  | c :: l, m, hm, hb, hl => by
    have hv := mget_bump hm c (faultCodes.idxOf code)
    rw [satAdd, if_pos hb] at hv
    rcases List.mem_cons.mp hl with rfl | hl
    · rw [if_pos rfl] at hv
      exact lt_of_lt_of_le (by omega) (le_mget_bumps l (mwf_bump hm code) (by omega))
    · split at hv
      · exact lt_of_lt_of_le (by omega) (le_mget_bumps l (mwf_bump hm c) (by omega))
      · rw [← hv] at hb ⊢
        exact lt_mget_bumps_of_mem l (mwf_bump hm c) hb hl

/-- A count below its bound rises exactly where a fault of its code is counted. -/
theorem Counted.rises_iff {l : List Nat} {s t : State} (h : Counted l s t) (hm : mwf 0 s.faults.cnt = true) {code : Nat}
    (hb : s.faultCount code + 1 < 2 ^ 48) (hc : code ∈ faultCodes) : s.faultCount code < t.faultCount code ↔ code ∈ l := by
  unfold State.faultCount at *
  rw [h]
  constructor
  · intro hlt
    by_contra hl
    rw [mget_bumps_of_notMem hc l hm hl] at hlt
    exact lt_irrefl _ hlt
  · exact lt_mget_bumps_of_mem l hm hb

end Sys2Proof.Machine
end

-- ==== A step: what time passes over on the way to it ====
section
/-! PROOFS. A run group's opportunity may lie past a FRAME edge (R276): up to it no field moves that a step works on.
A gated opportunity then moves nothing of the design (R118, R124). -/
namespace Sys2Proof.Machine

-- what time passes over

/-- The fields that a step works on, with the part's opportunity. -/
def State.fabric (s : State) := (s.opp, s.arrOpp, s.values, s.cur, s.stg, s.pend, s.result, s.slots, s.bank, s.hbm, s.clusters, s.istore, s.ptable,
  s.ecc, s.parcels, s.quads)

/-- The parcels of a run group, where it stands, and what is on its way in it. -/
def RunGroup.course (r : RunGroup) := (r.parcels, r.state, r.step, r.cycle, r.n, r.moved, r.flights, r.fetchBad)

/-- From `s` to `t` the fabric, the parcels of every run group and the course of `g` are the same, and the faults raised are of the code
`code`. -/
structure Waits (g code : Nat) (s t : State) : Prop where
  fabric : t.fabric = s.fabric
  told : ∃ n, Counted (List.replicate n code) s t
  course : (s.group g).parcels ≠ [] → (t.group g).course = (s.group g).course
  groups : mwf RunGroup.init s.groups = true → mwf RunGroup.init t.groups = true ∧ ∀ h, (t.group h).parcels = (s.group h).parcels

namespace Waits
variable {g code : Nat} {s t u : State}

theorem refl : Waits g code s s := ⟨rfl, ⟨0, rfl⟩, fun _ => rfl, fun h => ⟨h, fun _ => rfl⟩⟩

theorem parcels (h : Waits g code s t) (hp : (s.group g).parcels ≠ []) : (t.group g).parcels = (s.group g).parcels :=
  congrArg (·.1) (h.course hp)

theorem trans (h : Waits g code s t) (k : Waits g code t u) : Waits g code s u where
  fabric := k.fabric.trans h.fabric
  told := by
    obtain ⟨n, hn⟩ := h.told
    obtain ⟨m, hm⟩ := k.told
    exact ⟨n + m, by rw [List.replicate_add]; exact hn.trans hm⟩
  course hp := (k.course (h.parcels hp ▸ hp)).trans (h.course hp)
  groups hw :=
    have ⟨ht, hp⟩ := h.groups hw
    have ⟨hu, hq⟩ := k.groups ht
    ⟨hu, fun i => (hq i).trans (hp i)⟩

theorem ite {c : Prop} [Decidable c] {a b : State} (h : Waits g code s a) (k : Waits g code s b) : Waits g code s (if c then a else b) := by
  split <;> assumption

theorem forEach {l : List Nat} {f : Nat → State → State} (h : Waits g code s t) (hf : ∀ i u, Waits g code s u → Waits g code s (f i u)) :
    Waits g code s (forEach l f t) := forEach_keep hf h

theorem foldl {α : Type} {l : List α} {f : State → α → State} (h : Waits g code s t) (hf : ∀ u a, Waits g code s u → Waits g code s (f u a)) :
    Waits g code s (l.foldl f t) := List.foldlRecOn l f h fun u hu a _ => hf u a hu

/-- An update of other fields. -/
theorem elsewhere (h : Waits g code s t) (e : (u.fabric, u.faults.cnt, u.groups) = (t.fabric, t.faults.cnt, t.groups) := by rfl) :
    Waits g code s u := by
  simp only [Prod.mk.injEq] at e
  obtain ⟨hf, hc, hg⟩ := e
  have hgroup (i : Nat) : u.group i = t.group i := by unfold State.group; rw [hg]
  exact h.trans ⟨hf, ⟨0, hc⟩, fun _ => by rw [hgroup], fun hw => ⟨hg ▸ hw, fun i => by rw [hgroup]⟩⟩

theorem setGroup (h : Waits g code s t) {i : Nat} {r : RunGroup} (hr : r.course = (t.group i).course) : Waits g code s (t.setGroup i r) := by
  refine h.trans ⟨rfl, ⟨0, rfl⟩, fun hp => ?_, fun hw => ⟨mwf_mset hw, fun j => ?_⟩⟩
  · exact mget_mset_reads (f := RunGroup.course) hr fun e => hp (congrArg (·.1) e)
  · show (mget RunGroup.init j (mset RunGroup.init i r t.groups)).parcels = _
    rw [mget_mset hw]
    split
    · next e => rw [e]; exact congrArg (·.1) hr
    · rfl

theorem updGroup (h : Waits g code s t) {i : Nat} {f : RunGroup → RunGroup} (hf : ∀ r, (f r).course = r.course := by exact fun _ => rfl) :
    Waits g code s (t.updGroup i f) := h.setGroup (hf _)

theorem logHub (h : Waits g code s t) {kind flags payload : Nat} : Waits g code s (t.logHub kind flags payload) := by
  unfold State.logHub; rw [logRaw_frame]; exact h.elsewhere

/-- A fault of class 0 or 1 halts no run group (R420). -/
theorem raise (h : Waits g code s t) {e : FaultEv} {extra : Option Nat} (hc : faultClass e.code e.unit < 2) (he : e.code = code) :
    Waits g code s (t.raise e extra) := by
  have hg : (t.raise e extra).groups = t.groups := (Calm.refl.raise hc).1.groups
  have hgroup (i : Nat) : (t.raise e extra).group i = t.group i := by unfold State.group; rw [hg]
  have hf : (t.raise e extra).fabric = t.fabric := by
    obtain ⟨_, _, _, _, _, _, _, e⟩ := raise_faulting t e extra
    rw [e]; rfl
  exact h.trans ⟨hf, ⟨1, he ▸ raise_counted t e extra⟩, fun _ => by rw [hgroup], fun hw => ⟨hg ▸ hw, fun i => by rw [hgroup]⟩⟩

-- time (R276, R281, R284, R300)

theorem setEntries (h : Waits g code s t) {l : List Entry} : Waits g code s (t.setEntries l) := h.elsewhere

theorem finishParked (h : Waits g code s t) {f : Entry → Wait → Option (Nat × Nat × Nat)} : Waits g code s (t.finishParked f) := h.setEntries

theorem setDatum (h : Waits g code s t) {d : Datum} : Waits g code s (t.setDatum d) := h.elsewhere

theorem setTrigOut (h : Waits g code s t) {k : Nat} {v : TrigPin} : Waits g code s (t.setTrigOut k v) := h.elsewhere

theorem shiftTimes (h : Waits g code s t) {d : Word} : Waits g code s (t.shiftTimes d) := by
  unfold State.shiftTimes
  extract_lets pin pause moved pins
  have k : Waits g code s moved := h.forEach fun _ _ k => k.updGroup
  have l : Waits g code s pins := k.forEach fun _ _ k => ite k k.setTrigOut
  exact l.setEntries

theorem datumStepped (h : Waits g 0x4002 s t) {off : Int} {first : Bool} : Waits g 0x4002 s (t.datumStepped off first) := by
  unfold State.datumStepped
  extract_lets size d v
  have k : Waits g 0x4002 s v := ite h h.setDatum
  have shifted : Waits g 0x4002 s (v.shiftTimes size) := k.shiftTimes
  exact ite (logHub shifted.setDatum) (ite (raise k.logHub (by decide : faultClass 0x4002 80 < 2) rfl) k)

theorem moveOpp {o : Nat} (ho : s.opp ≤ o) : Waits g code { s with opp := o } (s.moveOpp o) := by
  unfold State.moveOpp
  split
  · next h =>
    obtain rfl := le_antisymm h ho
    exact refl
  · exact refl.forEach fun _ _ k => k.updGroup

/-- A FRAME edge (R276): the part enters the first opportunity of the next frame. -/
theorem datumEdge (s : State) : Waits g 0x4002 { s with opp := (s.opp / 4 + 1) * 4 } (datumEdge s) := by
  unfold Machine.datumEdge
  extract_lets d a v du entered thermal framed stepped
  have k : Waits g 0x4002 { s with opp := (s.opp / 4 + 1) * 4 } entered := moveOpp (by omega)
  have l : Waits g 0x4002 { s with opp := (s.opp / 4 + 1) * 4 } framed := k.elsewhere
  have m : Waits g 0x4002 { s with opp := (s.opp / 4 + 1) * 4 } stepped := l.foldl fun _ _ k => k.datumStepped
  exact ite m.finishParked m

end Waits

namespace Waits
variable {g code : Nat} {s t u : State}

theorem opp (h : Waits g code s t) : t.opp = s.opp := congrArg (·.1) h.fabric

/-- The part enters an opportunity. -/
theorem setOpp (h : Waits g code s t) (o : Nat) : Waits g code { s with opp := o } { t with opp := o } :=
  ⟨congrArg (fun f => (o, f.2)) h.fabric, h.told, h.course, h.groups⟩

end Waits

theorem nextOpp_cases (s : State) (g : Nat) : s.nextOpp g = s.opp ∨ s.nextOpp g = s.opp + 1 := by
  unfold State.nextOpp; split
  · exact .inr rfl
  · exact .inl rfl

/-- The part stands in the opportunity of the run group's next step, and has noted that the group uses it. -/
def State.readied (s : State) (g : Nat) : State :=
  ((if s.opp / 4 < s.nextOpp g / 4 then datumEdge s else s).moveOpp (s.nextOpp g)).updGroup g fun v =>
    { v with lastOpp := some (s.nextOpp g), ranLast := !s.gatedNext g }

theorem readied_waits (s : State) (g : Nat) : Waits g 0x4002 { s with opp := s.nextOpp g } (s.readied g) := by
  refine Waits.updGroup ?_
  have hcases := nextOpp_cases s g
  split
  · next h =>
    have ho : s.nextOpp g = (s.opp / 4 + 1) * 4 := by omega
    have k : Waits g 0x4002 _ (datumEdge s) := Waits.datumEdge s
    rw [← ho] at k
    exact (k.setOpp (s.nextOpp g)).trans (Waits.moveOpp (le_of_eq k.opp))
  · exact Waits.moveOpp (by omega)

/-- What a gated opportunity counts (R124). -/
def State.holdsCounted (s : State) (g : Nat) (v : RunGroup) : RunGroup :=
  let vec := (s.arrivalLate g + s.heldVec g / 8 * 8) ||| (if levelGates (s.readied g).thermal.applied (s.nextOpp g) then 16 else 0)
  { v with holdCnt := countHolds (if v.capturing then vec ||| 64 else vec) v.holdCnt }

/-- A running group whose boundary is not due uses one opportunity (R118): it is gated, or the next step executes. -/
theorem stepExecute_running {s : State} {g : Nat} (hrun : (s.group g).state = .running) (hstep : (s.group g).step < (s.group g).n)
    (hheld : s.boot.sheetsHeld = false) (hhalt : (s.group g).halting = none) :
    stepExecute s g = if s.gatedNext g then (s.readied g).updGroup g (s.holdsCounted g) else runStep (s.readied g) g (s.nextOpp g) := by
  have hb : boundary s g = s := by
    unfold boundary
    exact if_pos (.inr (.inl (by omega)))
  unfold stepExecute
  rw [hb]
  dsimp only
  rw [if_neg (by simp [hrun, hheld])]
  split
  · rw [if_neg (by simp [hhalt])]; rfl
  · rfl

theorem exec_stepExecute {g : Nat} (hg : g < 32) {s : State} (hp : (s.group g).parcels ≠ []) :
    exec (.stepExecute g) s = .next (stepExecute s g).settle := by
  show groupRow g s (fun t => (stepExecute t g).settle) = _
  rw [groupRow, if_pos hg, if_neg (by simpa using hp)]

theorem settle_fabric (s : State) : s.settle.fabric = s.fabric := by
  obtain ⟨_, _, _, _, _, _, _, _, _, _, e⟩ := settle_replying s
  rw [e]; rfl


/-- A gated opportunity moves nothing of the design. -/
theorem stepExecute_gated {s : State} {g : Nat} (hrun : (s.group g).state = .running) (hstep : (s.group g).step < (s.group g).n)
    (hheld : s.boot.sheetsHeld = false) (hhalt : (s.group g).halting = none) (hp : (s.group g).parcels ≠ []) (hgated : s.gatedNext g = true) :
    (stepExecute s g).settle.fabric = State.fabric { s with opp := s.nextOpp g }
      ∧ ((stepExecute s g).settle.group g).course = (s.group g).course := by
  rw [settle_fabric, settle_group, stepExecute_running hrun hstep hheld hhalt, if_pos hgated]
  have h : Waits g 0x4002 { s with opp := s.nextOpp g } ((s.readied g).updGroup g (s.holdsCounted g)) := (readied_waits s g).updGroup
  exact ⟨h.fabric, h.course hp⟩

end Sys2Proof.Machine
end

-- ==== A step: what leaves the opportunity, the run groups and the fault counts alone ====
section
/-! PROOFS. Most updates of a step keep `State.clock`. Faults, stops and the boundaries of other run groups do not, but a run
group that runs stands where it was (`Stands`). -/
namespace Sys2Proof.Machine

-- what keeps the opportunity, the run groups and the counts of faults

/-- The opportunity of the part, its run groups, and the counts of faults. -/
def State.clock (s : State) : Nat × SMap RunGroup × SMap Nat := (s.opp, s.groups, s.faults.cnt)

@[simp] theorem clock_ite {c : Prop} [Decidable c] (a b : State) : (if c then a else b).clock = if c then a.clock else b.clock :=
  apply_ite _ _ _ _

@[simp] theorem forEach_clock {l : List Nat} {f : Nat → State → State} (h : ∀ i s, (f i s).clock = s.clock) (s : State) :
    (forEach l f s).clock = s.clock :=
  forEach_keep (P := fun t => t.clock = s.clock) (fun i t k => (h i t).trans k) rfl

@[simp] theorem foldl_clock {α : Type} {l : List α} {f : State → α → State} (h : ∀ s a, (f s a).clock = s.clock) (s : State) :
    (l.foldl f s).clock = s.clock := foldl_proj State.clock h l s
@[simp] theorem foldl_fst_clock {α β : Type} {l : List α} {f : State × β → α → State × β} (h : ∀ a x, (f a x).1.clock = a.1.clock)
    (a : State × β) : (l.foldl f a).1.clock = a.1.clock := foldl_proj (fun a : State × β => a.1.clock) h l a
@[simp] theorem foldl_snd_clock {α β : Type} {l : List α} {f : β × State → α → β × State} (h : ∀ a x, (f a x).2.clock = a.2.clock)
    (a : β × State) : (l.foldl f a).2.clock = a.2.clock := foldl_proj (fun a : β × State => a.2.clock) h l a
@[simp] theorem foldFaults_clock {α : Type} {f : State → α → State × List FaultEv} {l : List α} (h : ∀ s a, (f s a).1.clock = s.clock)
    (s : State) : (foldFaults f l s).1.clock = s.clock := by
  induction l generalizing s with
  | nil => rfl
  | cons a l ih => exact (ih _).trans (h s a)

section
variable (s : State)

-- `(rfl)`, not `rfl`: simp is to use these as equations also below the binders of a loop

@[simp] theorem State.setCluster_clock (c v) : (s.setCluster c v).clock = s.clock := (rfl)
@[simp] theorem State.updCluster_clock (c f) : (s.updCluster c f).clock = s.clock := (rfl)
@[simp] theorem State.setParcel_clock (p v) : (s.setParcel p v).clock = s.clock := (rfl)
@[simp] theorem State.updParcel_clock (p f) : (s.updParcel p f).clock = s.clock := (rfl)
@[simp] theorem State.updQuad_clock (q f) : (s.updQuad q f).clock = s.clock := (rfl)
@[simp] theorem State.updLane_clock (l f) : (s.updLane l f).clock = s.clock := (rfl)
@[simp] theorem State.setBridge_clock (b v) : (s.setBridge b v).clock = s.clock := (rfl)
@[simp] theorem State.updBridge_clock (b f) : (s.updBridge b f).clock = s.clock := (rfl)
@[simp] theorem State.setEngine_clock (e v) : (s.setEngine e v).clock = s.clock := (rfl)
@[simp] theorem State.updEngine_clock (e f) : (s.updEngine e f).clock = s.clock := (rfl)
@[simp] theorem State.setTrigOut_clock (k v) : (s.setTrigOut k v).clock = s.clock := (rfl)
@[simp] theorem State.setSent_clock (v) : (s.setSent v).clock = s.clock := (rfl)
@[simp] theorem State.setNet_clock (n) : (s.setNet n).clock = s.clock := (rfl)
@[simp] theorem State.setKey_clock (k v) : (s.setKey k v).clock = s.clock := (rfl)
@[simp] theorem State.setLockUnit_clock (u v) : (s.setLockUnit u v).clock = s.clock := (rfl)
@[simp] theorem State.setEntries_clock (l) : (s.setEntries l).clock = s.clock := (rfl)
@[simp] theorem State.finishParked_clock (f) : (s.finishParked f).clock = s.clock := (rfl)
@[simp] theorem State.endWaits_clock (st d f) : (s.endWaits st d f).clock = s.clock := (rfl)
@[simp] theorem State.clearRec_clock (u) : (s.clearRec u).clock = s.clock := (rfl)
@[simp] theorem State.eccClean_clock (st w) : (s.eccClean st w).clock = s.clock := (rfl)
@[simp] theorem State.setValue_clock (bp e v) : (s.setValue bp e v).clock = s.clock := (rfl)
@[simp] theorem State.setCur_clock (bp j v) : (s.setCur bp j v).clock = s.clock := (rfl)
@[simp] theorem State.setStaged_clock (bp j v) : (s.setStaged bp j v).clock = s.clock := (rfl)
@[simp] theorem State.setResult_clock (bp v) : (s.setResult bp v).clock = s.clock := (rfl)
@[simp] theorem State.setSlot_clock (c r v) : (s.setSlot c r v).clock = s.clock := (rfl)
@[simp] theorem State.clearSchedules_clock (qs) : (s.clearSchedules qs).clock = s.clock := (rfl)
@[simp] theorem State.clearClusters_clock (cs) : (s.clearClusters cs).clock = s.clock := (rfl)
@[simp] theorem State.queueCtrl_clock (l m) : (s.queueCtrl l m).clock = s.clock := (rfl)
@[simp] theorem State.sendStop_clock (g fault c except) : (s.sendStop g fault c except).clock = s.clock := by simp [State.sendStop]
@[simp] theorem State.sign_clock (c bytes) : (s.sign c bytes).clock = s.clock := by simp [State.sign]
@[simp] theorem State.endEpisode_clock (u code) : (s.endEpisode u code).clock = s.clock := by unfold State.endEpisode; split <;> rfl
@[simp] theorem State.countHeavy_clock (p w) : (s.countHeavy p w).clock = s.clock := by simp [State.countHeavy]
@[simp] theorem State.countConflict_clock (p m) : (s.countConflict p m).clock = s.clock := by unfold State.countConflict; split <;> rfl

-- unloading and surrender (R214, R222)

@[simp] theorem State.startWake_clock (d packet) : (s.startWake d packet).clock = s.clock := by
  unfold State.startWake; dsimp only; (repeat' split) <;> rfl
@[simp] theorem State.leaveDown_clock (d) : (s.leaveDown d).clock = s.clock := (rfl)
@[simp] theorem State.tellPower_clock (d sleeps completed) : (s.tellPower d sleeps completed).clock = s.clock := by
  unfold State.tellPower; dsimp only; simp
@[simp] theorem State.cancelDown_clock (d) : (s.cancelDown d).clock = s.clock := by simp [State.cancelDown]
@[simp] theorem State.callDomain_clock (d packet) : (s.callDomain d packet).clock = s.clock := by simp [State.callDomain]
@[simp] theorem State.zeroUnits_clock (k base units) : (s.zeroUnits k base units).clock = s.clock := by
  unfold State.zeroUnits
  split
  · rfl
  · exact State.callDomain_clock s (.stack k) true
@[simp] theorem State.relink_clock (b) : (s.relink b).clock = s.clock := by unfold State.relink; dsimp only; (repeat' split) <;> simp
@[simp] theorem State.overEnd_clock (b tx) : (s.overEnd b tx).clock = s.clock := by simp [State.overEnd]
@[simp] theorem State.freeQuad_clock (q) : (s.freeQuad q).clock = s.clock := by simp [State.freeQuad]
@[simp] theorem State.emptyBridge_clock (b) : (s.emptyBridge b).clock = s.clock := by simp [State.emptyBridge]
@[simp] theorem State.freeBridge_clock (b) : (s.freeBridge b).clock = s.clock := by simp [State.freeBridge]
@[simp] theorem State.freeEngine_clock (e) : (s.freeEngine e).clock = s.clock := by simp [State.freeEngine]
@[simp] theorem State.freeImage_clock (i) : (s.freeImage i).clock = s.clock := by
  unfold State.freeImage
  extract_lets s1 quads s2
  have h1 : s1.clock = s.clock := forEach_clock (fun k t => by split <;> simp) s
  simp [s2, h1]
@[simp] theorem State.setPin_clock (k new) : (s.setPin k new).clock = s.clock := by simp [State.setPin]
@[simp] theorem State.lowerPins_clock (ps) : (s.lowerPins ps).clock = s.clock := by simp [State.lowerPins]
@[simp] theorem State.zeroBanks_clock (cs) : (s.zeroBanks cs).clock = s.clock := by simp [State.zeroBanks]
@[simp] theorem State.bumpUnits_clock (us orphan) : (s.bumpUnits us orphan).clock = s.clock := by simp [State.bumpUnits]
@[simp] theorem State.freeLocks_clock (orphan f) : (s.freeLocks orphan f).clock = s.clock := by
  unfold State.freeLocks; dsimp only; rw [foldl_clock (by simp)]; rfl
@[simp] theorem State.dropKeys_clock (fn) : (s.dropKeys fn).clock = s.clock := by
  unfold State.dropKeys
  extract_lets slots t
  have h : t.clock = s.clock := by simp [t]
  exact h
@[simp] theorem State.endSurrender_clock (fn) : (s.endSurrender fn).clock = s.clock := by simp [State.endSurrender]
@[simp] theorem State.setSv_clock (ps v) : (s.setSv ps v).clock = s.clock := by simp [State.setSv]

-- the commit, and the trace engines (R43, R264)

@[simp] theorem eccWrite_clock (st bp e step cycle) : (eccWrite s st bp e step cycle).1.clock = s.clock := by
  have each (k : Nat) (t : State) : (if st = 1 then t.setValue bp k .x else if st = 2 then t.setCur bp k .x
      else { t with stg := mset .x (bp * 1024 + k) .x t.stg }).clock = t.clock := by split_ifs <;> rfl
  unfold eccWrite
  dsimp only
  generalize bp * (if st = 1 then 512 else 128) + e / 8 = w
  by_cases h0 : s.eccAt st w = 0
  · rw [if_pos h0]
  · by_cases h1 : s.eccAt st w = 1
    · rw [if_neg h0, if_pos h1]; rfl
    · rw [if_neg h0, if_neg h1]; exact forEach_clock each _
@[simp] theorem commitEntry_clock (step cycle a key) : (commitEntry step cycle a key).1.clock = a.1.clock := by
  unfold commitEntry; dsimp only; simp
@[simp] theorem State.commitState_clock (g step cycle) : (s.commitState g step cycle).1.clock = s.clock := by
  unfold State.commitState; dsimp only
  rw [forEach_clock (by simp)]
  exact foldl_fst_clock (fun a x => commitEntry_clock step cycle a x) (s, [])
@[simp] theorem State.dropTaps_clock (ei e) : (s.dropTaps ei e).clock = s.clock := by simp [State.dropTaps]
@[simp] theorem State.closeEngine_clock (ei cycle stamp v partner) : (s.closeEngine ei cycle stamp v partner).clock = s.clock := by
  unfold State.closeEngine; dsimp only; split <;> simp
@[simp] theorem State.endTraceCycle_clock (g cycle) : (s.endTraceCycle g cycle).clock = s.clock := by
  unfold State.endTraceCycle; dsimp only; simp
@[simp] theorem State.armGroup_clock (g p) : (s.armGroup g p).clock = s.clock := by simp [State.armGroup]
@[simp] theorem State.retagEdges_clock (g cycle) : (s.retagEdges g cycle).clock = s.clock := by simp [State.retagEdges]

-- the port (R75 to R87)

@[simp] theorem State.bankStore_clock (c w d) : (s.bankStore c w d).clock = s.clock := by unfold State.bankStore; dsimp only; split <;> rfl
@[simp] theorem State.addLanding_clock (c l) : (s.addLanding c l).clock = s.clock := (rfl)
@[simp] theorem bankCheck_clock (c cycle k) : (bankCheck c cycle s k).1.clock = s.clock := by
  unfold bankCheck; dsimp only; split <;> simp
@[simp] theorem checkBanks_clock (c cycle) : (checkBanks s c cycle).1.clock = s.clock := by
  unfold checkBanks; dsimp only; split
  · rfl
  · exact (foldl_fst_clock (fun a k => by simp) _).trans rfl
@[simp] theorem State.abandonAtomic_clock (c slot w) : (s.abandonAtomic c slot w).clock = s.clock := by
  unfold State.abandonAtomic; split
  · split <;> simp
  · rfl
@[simp] theorem landCluster_clock (c step cycle) : (landCluster s c step cycle).clock = s.clock := (rfl)
theorem bankSlotRead_clock (c slot a f n) : (bankSlotRead s c slot a f n).s.clock = s.clock := by
  unfold bankSlotRead; dsimp only; split <;> simp
theorem bankSlotWrite_clock (c slot a e d) : (bankSlotWrite s c slot a e d).s.clock = s.clock := by
  unfold bankSlotWrite; dsimp only; split <;> simp
@[simp] theorem bankSlot_clock (p c slot op ad f n) : (bankSlot s p c slot op ad f n).s.clock = s.clock := by
  unfold bankSlot; split <;> simp [bankSlotRead_clock, bankSlotWrite_clock]
@[simp] theorem hbmOp_clock (p c op ad n y) : (hbmOp s p c op ad n y).s.clock = s.clock := by
  unfold hbmOp; dsimp only; split_ifs <;> rfl
@[simp] theorem insetOp_clock (p c op b n y) : (insetOp s p c op b n y).s.clock = s.clock := by
  unfold insetOp; dsimp only; (repeat' split) <;> rfl
@[simp] theorem ship_clock (p c n y) : (ship s p c n y).s.clock = s.clock := by
  unfold ship; dsimp only; (repeat' split) <;> rfl
@[simp] theorem PortOut.andThen_clock (o : PortOut) {f : State → PortOut} (h : ∀ t, (f t).s.clock = t.clock) :
    (o.andThen f).s.clock = o.s.clock := h o.s
@[simp] theorem portStep_clock (p c n y w) : (portStep s p c n y w).s.clock = s.clock := by
  unfold portStep; dsimp only; split_ifs <;> simp

-- wiring (R88 to R111)

@[simp] theorem State.fencePass_clock (f u d leg) : (s.fencePass f u d leg).2.clock = s.clock := by
  unfold State.fencePass; dsimp only; (repeat' split) <;> rfl
@[simp] theorem State.moveFlight_clock (clash f) : (s.moveFlight clash f).2.clock = s.clock := by
  exact foldl_snd_clock (fun a x => by simp) (f, s)
@[simp] theorem State.moveFlights_clock (clash l) : (s.moveFlights clash l).2.clock = s.clock := by
  induction l generalizing s with
  | nil => rfl
  | cons f l ih => exact (ih _).trans (moveFlight_clock s clash f)
@[simp] theorem State.openArrivals_clock : s.openArrivals.clock = s.clock := by unfold State.openArrivals; split <;> rfl
@[simp] theorem arrive_clock (c r v tag step cycle) : (arrive s c r v tag step cycle).1.clock = s.clock := State.openArrivals_clock s
@[simp] theorem deliver_clock (g step cycle f) : (deliver s g step cycle f).1.clock = s.clock := by
  unfold deliver; dsimp only; split
  · rfl
  · rw [arrive_clock]
    split
    · exact State.openArrivals_clock s
    · exact State.openArrivals_clock s
@[simp] theorem writeCargo_clock (d w step cycle) : (writeCargo s d w step cycle).1.clock = s.clock :=
  foldFaults_clock (fun t _ => arrive_clock t ..) s
@[simp] theorem deliverCargo_clock (g q k) : (deliverCargo s g q k).1.clock = s.clock := by
  unfold deliverCargo; dsimp only; split <;> simp
@[simp] theorem State.retireCargo_clock (g) : (s.retireCargo g).clock = s.clock := by simp [State.retireCargo]
@[simp] theorem shipCargo_clock (g q k step) : (shipCargo s g q k step).clock = s.clock := by
  unfold shipCargo; dsimp only; split
  · rfl
  · split <;> simp
@[simp] theorem closeFrame_clock (g step) : (closeFrame s g step).clock = s.clock := by simp [closeFrame]
@[simp] theorem State.closeWindow_clock (g p step) : (s.closeWindow g p step).1.clock = s.clock := (rfl)
@[simp] theorem State.syncArb_clock (c o) : (s.syncArb c o).clock = s.clock := by simp [State.syncArb]
@[simp] theorem State.arbitrateStep_clock (c) : (s.arbitrateStep c).clock = s.clock := by simp [State.arbitrateStep]
end

theorem opp_of_clock {s t : State} (h : t.clock = s.clock) : t.opp = s.opp := congrArg (·.1) h
theorem groups_of_clock {s t : State} (h : t.clock = s.clock) : t.groups = s.groups := congrArg (·.2.1) h
theorem group_of_clock {s t : State} (h : t.clock = s.clock) (g : Nat) : t.group g = s.group g := by
  rw [State.group, State.group, groups_of_clock h]

/-- The parcels of a run group, and where it stands in its run. -/
def RunGroup.post (r : RunGroup) : List Nat × RunState × Nat × Word := (r.parcels, r.state, r.step, r.cycle)

theorem post_haltMark (code : Nat) (r : RunGroup) : (haltMark code r).post = r.post := by
  unfold haltMark; split <;> rfl

/-- The part is in opportunity `o`, and run group `g`, which holds parcels and runs, stands at `c`. -/
structure Stands (g o : Nat) (c : List Nat × RunState × Nat × Word) (t : State) : Prop where
  opp : t.opp = o
  post : (t.group g).post = c
  holds : c.1 ≠ []
  runs : c.2.1 = .running

namespace Stands
variable {g o : Nat} {c : List Nat × RunState × Nat × Word} {s t : State}

theorem parcels_ne (h : Stands g o c t) : (t.group g).parcels ≠ [] := by
  rw [show (t.group g).parcels = c.1 from congrArg (·.1) h.post]; exact h.holds

theorem running (h : Stands g o c t) : (t.group g).state = .running := (congrArg (·.2.1) h.post).trans h.runs

theorem ite {p : Prop} [Decidable p] {a b : State} (h : Stands g o c a) (k : Stands g o c b) : Stands g o c (if p then a else b) := by
  split <;> assumption

theorem forEach {l : List Nat} {f : Nat → State → State} (h : Stands g o c t) (hf : ∀ i u, Stands g o c u → Stands g o c (f i u)) :
    Stands g o c (forEach l f t) := forEach_keep hf h

theorem foldl {α : Type} {l : List α} {f : State → α → State} (h : Stands g o c t) (hf : ∀ u a, Stands g o c u → Stands g o c (f u a)) :
    Stands g o c (l.foldl f t) := List.foldlRecOn l f h fun u hu a _ => hf u a hu

theorem foldFaults {α : Type} {f : State → α → State × List FaultEv} {l : List α} (h : Stands g o c t)
    (hf : ∀ u a, Stands g o c u → Stands g o c (f u a).1) : Stands g o c (foldFaults f l t).1 := by
  induction l generalizing t with
  | nil => exact h
  | cons a l ih => exact ih (hf t a h)

/-- An update of other fields. -/
theorem elsewhere (h : Stands g o c t) (e : s.clock = t.clock := by rfl) : Stands g o c s :=
  ⟨(opp_of_clock e).trans h.opp, by rw [group_of_clock e]; exact h.post, h.holds, h.runs⟩

theorem setGroup (h : Stands g o c t) {i : Nat} {r : RunGroup} (hr : i = g → r.post = c) : Stands g o c (t.setGroup i r) := by
  refine ⟨h.opp, ?_, h.holds, h.runs⟩
  show (mget RunGroup.init g (mset RunGroup.init i r t.groups)).post = c
  by_cases hi : i = g
  · subst hi
    rw [mget_mset_same_of_ne fun e => h.holds (by rw [← hr rfl, e]; rfl)]
    exact hr rfl
  · rw [mget_mset_other_of_ne (Ne.symm hi) fun e => h.parcels_ne (by unfold State.group; rw [e]; rfl)]
    exact h.post

theorem updGroup (h : Stands g o c t) {i : Nat} {f : RunGroup → RunGroup} (hf : ∀ r, (f r).post = r.post := by exact fun _ => rfl) :
    Stands g o c (t.updGroup i f) := h.setGroup fun e => by rw [hf, e]; exact h.post

/-- Another run group may change as it likes. -/
theorem updOther (h : Stands g o c t) {i : Nat} {f : RunGroup → RunGroup} (hi : i ≠ g) : Stands g o c (t.updGroup i f) :=
  h.setGroup fun e => absurd e hi

-- raising faults, and replies (R376, R377, R388, R420 to R427)

theorem sendStop (h : Stands g o c t) {i : Nat} {fault : Bool} {n : Word} {except : Option Nat} :
    Stands g o c (t.sendStop i fault n except) := h.elsewhere (by simp)

theorem finishParked (h : Stands g o c t) {f : Entry → Wait → Option (Nat × Nat × Nat)} : Stands g o c (t.finishParked f) := h.elsewhere

theorem releasePause (h : Stands g o c t) {i : Nat} : Stands g o c (t.releasePause i) := ite (finishParked (updGroup h)) h

theorem sendFaultStop (h : Stands g o c t) {i : Nat} : Stands g o c (t.sendFaultStop i) := ite (sendStop (updGroup h)) h

theorem haltBegin (h : Stands g o c t) {i code : Nat} : Stands g o c (t.haltBegin i code) :=
  have k := h.updGroup (i := i) (post_haltMark code)
  ite k.releasePause.sendFaultStop k

theorem irq (h : Stands g o c t) {f v : Nat} : Stands g o c (t.irq f v) := by
  rw [irq_frame]; exact h.elsewhere

theorem irqTo (h : Stands g o c t) (f : Option Nat) :
    Stands g o c (match f with | some f => if f = 0 then t else t.irq f 31 | none => t) := by
  cases f with
  | none => exact h
  | some f => exact ite h h.irq

theorem logHub (h : Stands g o c t) {kind flags payload : Nat} : Stands g o c (t.logHub kind flags payload) := by
  unfold State.logHub; rw [logRaw_frame]; exact h.elsewhere

theorem raise (h : Stands g o c t) {e : FaultEv} {extra : Option Nat} : Stands g o c (t.raise e extra) := by
  obtain ⟨hopp, hpost, hholds, hruns⟩ := h
  unfold State.raise
  extract_lets cls new l k was s1 cnt s2 logged s4 s5 told halted
  have counted : Stands g o c s2 := ⟨hopp, hpost, hholds, hruns⟩
  have hl : Stands g o c logged := counted.logHub
  have ht : Stands g o c told := ite (irqTo (irqTo hl.irq _) _) hl
  have hh : Stands g o c halted := ht.forEach fun _ _ k => ite k.haltBegin k
  have hpulse : Stands g o c (halted.faultClaims e.code).faultPulse := hh.elsewhere
  exact ite counted (ite (ite hpulse hpulse.elsewhere) hh)

theorem raiseAll (h : Stands g o c t) {l : List FaultEv} : Stands g o c (t.raiseAll l) := h.foldl fun _ _ k => k.raise

theorem settle (h : Stands g o c t) : Stands g o c t.settle :=
  ⟨(congrArg (·.1) (settle_fabric t)).trans h.opp, by rw [settle_group]; exact h.post, h.holds, h.runs⟩

-- the boundary of another run group (R28)

theorem closeSigs (h : Stands g o c t) {i : Nat} : Stands g o c (t.closeSigs i) :=
  ite h (updGroup (h.forEach fun _ _ k => k.elsewhere))

theorem fetchStores (h : Stands g o c t) {i p : Nat} {cycle : Word} {sel : Nat → Bool} : Stands g o c (t.fetchStores i p cycle sel).1 := by
  unfold State.fetchStores
  extract_lets hits bad keep v
  have k : Stands g o c v := updGroup h
  exact k.elsewhere

theorem swapPages (h : Stands g o c t) {i : Nat} {n : Word} {left : Bool} : Stands g o c (t.swapPages i n left) :=
  forEach (raiseAll (fetchStores h.elsewhere)) fun _ _ k => k.elsewhere

theorem commitDue (h : Stands g o c t) {i : Nat} {n : Word} {due : Option Word → Bool} : Stands g o c (t.commitDue i n due) :=
  h.swapPages.finishParked

theorem boundaryCommits (h : Stands g o c t) {i : Nat} {n : Word} : Stands g o c (t.boundaryCommits i n) := ite h h.commitDue

theorem stopDue (h : Stands g o c t) {i cause : Nat} {n : Word} : Stands g o c (t.stopDue i cause n) := by
  unfold State.stopDue
  extract_lets r m req v
  have k : Stands g o c v := setGroup h fun e => by subst e; exact h.post
  exact ite h (ite (sendStop (updGroup k)) k)

theorem latchDiv (h : Stands g o c t) {i : Nat} {cycle : Word} : Stands g o c (t.latchDiv i cycle).1 := by
  unfold State.latchDiv
  dsimp only
  split
  · exact h
  · split_ifs
    · exact h
    · exact h.setGroup fun e => e ▸ h.post
    · exact h.setGroup fun e => e ▸ h.post

theorem closeTrace (h : Stands g o c t) {i : Nat} {cycle stamp : Word} : Stands g o c (t.closeTrace i cycle stamp).1 :=
  foldl h.latchDiv fun _ _ k => k.elsewhere (by simp)

theorem takeArm (h : Stands g o c t) {i : Nat} {first : Word} : Stands g o c (t.takeArm i first) := by
  unfold State.takeArm
  split
  · exact h
  · exact (updGroup (h.elsewhere (State.armGroup_clock ..))).finishParked

theorem boundaryTrace (h : Stands g o c t) {i : Nat} {n : Word} : Stands g o c (t.boundaryTrace i n) := by
  have arms (v : State) (k : Stands g o c v) (waits : Bool) (timed : Option Word) : Stands g o c
      (if waits then v.updGroup i fun r => { r with armWaits := false }
        else match timed with
        | some at_ => if dueAt (v.tOpen (v.nextOpp i)) at_ then v.takeArm i (n + 1) else v
        | none => v.takeArm i (n + 1)) := by
    refine ite k.updGroup ?_
    split
    · exact ite k.takeArm k
    · exact k.takeArm
  have closed : Stands g o c (((t.closeTrace i n (t.group i).stamp).1.endTraceCycle i n).updGroup i fun v => { v with sigHold := false }) :=
    updGroup ((h.closeTrace (i := i)).elsewhere (State.endTraceCycle_clock ..))
  have c3 := ite (p := (t.closeTrace i n (t.group i).stamp).2.1 = true) (closed.stopDue (i := i) (cause := 3) (n := n)) closed
  have c1 := ite (p := (t.closeTrace i n (t.group i).stamp).2.2.1 = true) (c3.stopDue (i := i) (cause := 1) (n := n)) c3
  exact arms _ (ite c1.updGroup c1) _ _

theorem unloadImage (h : Stands g o c t) {i : Nat} (hi : i ≠ g) {image : Image} : Stands g o c (t.unloadImage i image) := by
  unfold State.unloadImage
  extract_lets s1 s2 s3 r left
  have h1 : s1.clock = t.clock := by simp [s1]
  have h2 : s2.clock = s1.clock := by simp [s2]
  have h3 : s3.clock = s2.clock := by simp [s3]
  exact (h.elsewhere (h3.trans (h2.trans h1))).setGroup fun e => absurd e hi

theorem endRun (h : Stands g o c t) {i : Nat} (hi : i ≠ g) {n : Word} : Stands g o c (t.endRun i n) := by
  unfold State.endRun
  extract_lets s1 s2 owners
  have k : Stands g o c s2 := finishParked (updOther h hi)
  have unloaded : Stands g o c (s2.unloadGroup i) := k.foldl fun _ _ k => k.unloadImage hi
  exact ite (unloaded.forEach fun _ _ k => k.elsewhere (by simp)) k

theorem haltGroup (h : Stands g o c t) {i code : Nat} (hi : i ≠ g) {n : Word} : Stands g o c (t.haltGroup i code n) := by
  unfold State.haltGroup
  extract_lets s1 s2
  have k : Stands g o c s2 := updOther (h.elsewhere (by simp [s1])) hi
  exact (k.elsewhere (State.freeLocks_clock ..)).endRun hi

theorem boundaryStop (h : Stands g o c t) {i : Nat} (hi : i ≠ g) {n : Word} : Stands g o c (t.boundaryStop i n) := by
  unfold State.boundaryStop
  dsimp only
  split
  · exact h.haltGroup hi
  · refine ite ((h.updOther hi).endRun hi) ?_
    split
    · exact h
    · exact (h.updOther hi).endRun hi

theorem boundarySurvey (h : Stands g o c t) {i : Nat} {n : Word} : Stands g o c (t.boundarySurvey i n) :=
  h.foldl fun _ _ k => updGroup (k.elsewhere (State.setSv_clock ..))

theorem mem_runGroups (h : Stands g o c t) : g ∈ t.runGroups := by
  have hm : (g, t.group g) ∈ t.groups := mem_of_mget_ne fun e => h.parcels_ne (by unfold State.group; rw [e]; rfl)
  exact List.mem_map.mpr ⟨_, List.mem_filter.mpr ⟨hm, by simp [h.parcels_ne]⟩, rfl⟩

/-- A thermal trip waits while a run group runs (R423). -/
theorem tripHold (h : Stands g o c t) : Stands g o c t.tripHold := by
  unfold State.tripHold
  rw [if_neg]
  · exact h
  · rw [List.any_eq_true.mpr ⟨g, h.mem_runGroups, by simp [h.running]⟩]
    simp

theorem boundary (h : Stands g o c t) {i : Nat} (hi : i ≠ g) : Stands g o c (boundary t i) := by
  unfold Machine.boundary
  extract_lets r n committed closed swapped traced next
  have k0 : Stands g o c committed.1 := h.elsewhere (State.commitState_clock ..)
  have k1 : Stands g o c closed := k0.closeSigs.raiseAll
  have k2 : Stands g o c swapped := k1.boundaryCommits.settle
  have k3 : Stands g o c traced := k2.boundaryTrace.settle
  have k4 : Stands g o c next := k3.updOther hi
  exact ite h ((k4.boundaryStop hi).settle.boundarySurvey.tripHold)

end Stands

end Sys2Proof.Machine
end

-- ==== A step: its parts, and the opportunity that it uses ====
section
/-! PROOFS. `runStep` and `bpApply` cut into parts with names; the group then stands at the next step of its cycle (R28). -/
namespace Sys2Proof.Machine

-- the parts of an executed step

/-- Step 0 of a cycle opens it, and boundaries that a drop of this step falls behind come first (R28, R486). -/
def State.stepOpened (s : State) (g o : Nat) : State :=
  let s := if (s.group g).step = 0 then s.openCycle g o else s
  forEach (s.boundariesFirst (g :: s.joiners g)) (fun h t => boundary t h) s

/-- The flights move, with those of the groups that join (R93, R486). -/
def State.stepMoved (s : State) (g : Nat) : State × List FaultEv :=
  let hs := s.joiners g
  let m := s.moveAll (if (s.group g).moved then hs else g :: hs)
  (forEach (g :: hs) (fun h t => t.updGroup h fun v => { v with moved := decide (h ≠ g) }) m.1, m.2)

/-- The slots of the quads that carry a run group's cargo. -/
def State.cargoSlots (s : State) (g : Nat) : List (Nat × Nat) := (s.cargoQuads g).flatMap fun q => (List.range 8).map fun k => (q, k)

/-- The state that the instructions of a step read: loads, drops and cargo have come. -/
def State.stepRead (s : State) (g : Nat) : State × List FaultEv :=
  let r := s.group g
  let m := s.stepMoved g
  let k := foldFaults (fun t c => checkBanks t c r.cycle) r.clusters m.1
  let t := forEach r.clusters (fun c t => landCluster t c r.step r.cycle) k.1
  let a := t.arriveAll (s.joiners g ++ [g])
  let d := foldFaults (fun t x => deliverCargo t g x.1 x.2) (s.cargoSlots g) a.1
  (d.1, m.2 ++ k.2 ++ a.2 ++ d.2)

/-- The port of one cluster works on the write side of `pre`. -/
def portTurn (pre : State) (p : Nat) (n : Word) (acc : State × List FaultEv × List (Nat × List Byte)) (c : Nat) :
    State × List FaultEv × List (Nat × List Byte) :=
  let w := portStep acc.1 (pre.cluster c).port c p n (mget 0 (c * 4096 + p) acc.1.ptable)
  (w.s, acc.2.1 ++ w.f, acc.2.2 ++ [(c, w.sig)])

def stepPorts (pre : State) (cs : List Nat) (p : Nat) (n : Word) : State × List FaultEv × List (Nat × List Byte) :=
  cs.foldl (portTurn pre p n) (pre, [], [])

/-- What the step has yielded is sent, and signed (R97, R102, R248). -/
def stepSends (pre : State) (g : Nat) (cs qs : List Nat) (p : Nat) (n : Word) (sigs : List (Nat × List Byte)) (s : State) : State :=
  let s := forEach cs (shipSends g p) s
  let s := qs.foldl (fun t q => (List.range 8).foldl (fun u k => shipCargo u g q k p) t) s
  let s := sigs.foldl (fun t w => t.sign w.1 w.2) s
  let s := if s.boot.pairMode = 2 then cs.foldl (fun t c => t.sign c (latchSig (clusterOuts pre g c p n).1)) s else s
  closeFrame s g p

/-- The windows of the heavy units that end with the step (R143, R145). -/
def stepWindows (g p : Nat) (ps : List Nat) (s : State) : State × List FaultEv :=
  if p % 64 = 63 then foldFaults (fun t q => t.closeWindow g q p) ps s else (s, [])

/-- After its faults the step is done with: the group stands at the next one. -/
def stepPassed (g : Nat) (cs qs : List Nat) (p : Nat) (s : State) : State :=
  let s := if p % 2 = 0 then cs.foldl (fun t c =>
      if (t.cluster c).drained then t.updCluster c fun v => { v with drained := false } else t) s else s
  let s := s.retireCargo g
  let s := { s with fetchQd := mdrop (fun k => qs.contains (k / 32768) && decide (k % 32768 / 8 = p)) s.fetchQd }
  s.updGroup g fun v => { v with step := p + 1 }

/-- What follows the faults of the step: the step index, the fetch, the arbiters (R37, R174). -/
def stepNext (g : Nat) (cs qs : List Nat) (p N : Nat) (n : Word) (s : State) : State :=
  cs.foldl State.arbitrateStep ((stepPassed g cs qs p s).fetchNext g (if p + 1 = N then 0 else p + 1) n)

/-- The work of a step, from the state in which its boundaries have passed. -/
def stepBody (s : State) (g : Nat) : State :=
  let r := s.group g
  let d := s.stepRead g
  let ports := stepPorts d.1 r.clusters r.step r.cycle
  let b := foldFaults (runCluster d.1 g r.step r.cycle) r.clusters ports.1
  let w := stepWindows g r.step r.parcels (stepSends d.1 g r.clusters (s.cargoQuads g) r.step r.cycle ports.2.2 b.1)
  stepNext g r.clusters (s.cargoQuads g) r.step r.n r.cycle (w.1.raiseAll (d.2 ++ ports.2.1 ++ b.2 ++ w.2))

theorem runStep_eq (s : State) (g o : Nat) : runStep s g o = stepBody (s.stepOpened g o) g := by
  unfold runStep
  extract_lets s₁ s₂ r p n cs qs slots hs m₀ m k s₃ a d pre ports b s₄ s₅ s₆ s₇ s₈ w s₉ s₁₀ s₁₁ s₁₂ s₁₃
  have e2 : s₂ = s.stepOpened g o := rfl
  have hm : m = s₂.stepMoved g := rfl
  have hd : (pre, m.2 ++ k.2 ++ a.2 ++ d.2) = s₂.stepRead g := rfl
  have hp : ports = stepPorts pre cs p n := rfl
  have h8 : s₈ = stepSends pre g cs qs p n ports.2.2 b.1 := by
    clear_value b ports pre qs cs p n
    rfl
  have hw : w = stepWindows g p r.parcels s₈ := rfl
  have last : cs.foldl State.arbitrateStep (s₁₃.fetchNext g (if p + 1 = r.n then 0 else p + 1) n) = stepNext g cs qs p r.n n s₉ := rfl
  have hb : b = foldFaults (runCluster pre g p n) cs ports.1 := rfl
  have h9 : s₉ = w.1.raiseAll (m.2 ++ k.2 ++ a.2 ++ d.2 ++ ports.2.1 ++ b.2 ++ w.2) := rfl
  rw [last, h9, ← e2, stepBody, ← hd]
  dsimp only
  rw [hw, h8, hb, hp]

-- one instruction, write by write (R37)

section
variable (g bp step : Nat) (cycle : Word) (o : BpOut)

/-- What the reads of an instruction have met, and a reserved encoding. -/
def applyReads (s : State) : State × List FaultEv :=
  let r := readFaults s bp step cycle o.reads
  (r.1, r.2 ++ (match o.illegal with | some acc => [bpFault 0x1007 acc bp step cycle 0] | none => []))

def applyCur (q : State × List FaultEv) : State × List FaultEv :=
  match o.cur with
  | some (j, v) => ((eccWrite q.1 2 bp j step cycle).1.setCur bp j v, q.2 ++ (eccWrite q.1 2 bp j step cycle).2)
  | none => q

def applyStage (q : State × List FaultEv) : State × List FaultEv :=
  match o.stage with
  | some (j, v) => ((eccWrite q.1 8 bp j step cycle).1.setStaged bp j v, q.2 ++ (eccWrite q.1 8 bp j step cycle).2)
  | none => q

def applyResult (q : State × List FaultEv) : State × List FaultEv :=
  match o.result with
  | some v => (((eccWrite q.1 1 bp step step cycle).1.setValue bp step v).setResult bp v, q.2 ++ (eccWrite q.1 1 bp step step cycle).2)
  | none => (q.1.setResult bp .x, q.2)

/-- The port's write side and the probe register. -/
def applyPort (s : State) : State :=
  let s := match o.port with
    | some (pair, pos, v) => s.updCluster (bpCluster bp) fun k => { k with port := portWrite k.port pair pos v }
    | none => s
  match o.tap with
  | some (pos, v) => s.updCluster (bpCluster bp) fun k => { k with port := { k.port with probe := mset .x pos v k.port.probe } }
  | none => s

def applyEvent (q : State × List FaultEv) : State × List FaultEv :=
  match o.event with
  | some (id, x) => ((postEvent q.1 bp step cycle id x).1, q.2 ++ (postEvent q.1 bp step cycle id x).2)
  | none => q

/-- A stop, and the heavy unit. -/
def applyStop (s : State) : State :=
  let s := if o.stop then s.stopDue g 1 cycle else s
  if o.heavy then s.countHeavy (bpParcel bp) 1 else s

/-- The stores that an instruction writes, and the faults that it raises but for its event. -/
def applyStores (s : State) : State × List FaultEv :=
  applyResult bp step cycle o (applyStage bp step cycle o (applyCur bp step cycle o (applyReads bp step cycle o s)))

theorem bpApply_eq (s : State) : bpApply s g bp step cycle o
    = let q := applyEvent bp step cycle o (applyPort bp o (applyStores bp step cycle o s).1, (applyStores bp step cycle o s).2)
      (applyStop g bp cycle o q.1, q.2) := by
  unfold bpApply applyStores applyReads applyCur applyStage applyResult applyPort applyEvent applyStop
  obtain ⟨result, cur, stage, port, tap, event, stop, illegal, heavy, reads⟩ := o
  cases result <;> cases cur <;> cases stage <;> cases event <;> rfl

end

/-- What the write of a word in error does to it: nothing where it is clean (R52, R53). -/
theorem eccWrite_keep {P : State → Prop} {bp : Nat}
    (hecc : ∀ t st w, P t → P (t.eccClean st w))
    (hvalue : ∀ t e v, P t → P (t.setValue bp e v))
    (hcur : ∀ t j v, P t → P (t.setCur bp j v))
    (hstg : ∀ t j v, P t → P { t with stg := mset .x (bp * 1024 + j) v t.stg }) {s : State} (hs : P s) (store e step : Nat) (cycle : Word) :
    P (eccWrite s store bp e step cycle).1 := by
  unfold eccWrite
  dsimp only
  generalize bp * (if store = 1 then 512 else 128) + e / 8 = w
  by_cases h0 : s.eccAt store w = 0
  · rw [if_pos h0]; exact hs
  · by_cases h1 : s.eccAt store w = 1
    · rw [if_neg h0, if_pos h1]; exact hecc _ _ _ hs
    · rw [if_neg h0, if_neg h1]
      refine forEach_keep (fun k u hu => ?_) (hecc _ _ _ hs)
      split_ifs
      · exact hvalue _ _ _ hu
      · exact hcur _ _ _ hu
      · exact hstg _ _ _ hu

/-- What every single write of an instruction keeps, the instruction keeps. -/
theorem bpApply_keep {P : State → Prop} {g bp step : Nat} {cycle : Word} {o : BpOut}
    (hecc : ∀ t st w, P t → P (t.eccClean st w))
    (hvalue : ∀ t e v, P t → P (t.setValue bp e v))
    (hcur : ∀ t j v, P t → P (t.setCur bp j v))
    (hstg : ∀ t j v, P t → P { t with stg := mset .x (bp * 1024 + j) v t.stg })
    (hpend : ∀ t j, P t → P { t with pend := mset false (bp * 1024 + j) true t.pend })
    (hresult : ∀ t v, P t → P (t.setResult bp v))
    (hcluster : ∀ t v, P t → P (t.setCluster (bpCluster bp) v))
    (hstop : ∀ t, P t → P (t.stopDue g 1 cycle))
    (hheavy : ∀ t, P t → P (t.countHeavy (bpParcel bp) 1)) {s : State} (hs : P s) : P (bpApply s g bp step cycle o).1 := by
  have reads (l : List ReadEv) : ∀ t, P t → P (readFaults t bp step cycle l).1 := by
    induction l with
    | nil => exact fun _ h => h
    | cons e l ih =>
      intro t h
      cases e with
      | stale r => exact ih t h
      | ce st e => exact ih _ (hecc _ _ _ h)
      | ue st e => exact ih t h
  have write (store e : Nat) (t : State) (h : P t) : P (eccWrite t store bp e step cycle).1 := eccWrite_keep hecc hvalue hcur hstg h _ _ _ _
  have cur (q : State × List FaultEv) (h : P q.1) : P (applyCur bp step cycle o q).1 := by
    unfold applyCur
    split
    · exact hcur _ _ _ (write _ _ _ h)
    · exact h
  have stage (q : State × List FaultEv) (h : P q.1) : P (applyStage bp step cycle o q).1 := by
    unfold applyStage
    split
    · exact hpend _ _ (hstg _ _ _ (write _ _ _ h))
    · exact h
  have result (q : State × List FaultEv) (h : P q.1) : P (applyResult bp step cycle o q).1 := by
    unfold applyResult
    split
    · exact hresult _ _ (hvalue _ _ _ (write _ _ _ h))
    · exact hresult _ _ h
  have port (t : State) (h : P t) : P (applyPort bp o t) := by
    unfold applyPort
    split <;> split
    · exact hcluster _ _ (hcluster _ _ h)
    · exact hcluster _ _ h
    · exact hcluster _ _ h
    · exact h
  have event (q : State × List FaultEv) (h : P q.1) : P (applyEvent bp step cycle o q).1 := by
    unfold applyEvent postEvent
    split
    · dsimp only
      split <;> exact hcluster _ _ h
    · exact h
  have stop (t : State) (h : P t) : P (applyStop g bp cycle o t) := by
    unfold applyStop
    split_ifs
    · exact hheavy _ (hstop _ h)
    · exact hstop _ h
    · exact hheavy _ h
    · exact h
  rw [bpApply_eq]
  exact stop _ (event _ (port _ (result _ (stage _ (cur _ (reads _ _ hs))))))

/-- What the turn of every unit of the list keeps, all keep. -/
theorem forEach_keep_of_mem {σ : Type} {P : σ → Prop} : ∀ {l : List Nat} {f : Nat → σ → σ}, (∀ i ∈ l, ∀ s, P s → P (f i s)) → ∀ {s : σ}, P s →
    P (forEach l f s)
  | [], _, _, _, hs => hs
  | i :: _, _, h, _, hs => forEach_keep_of_mem (fun j hj => h j (List.mem_cons_of_mem _ hj)) (h i List.mem_cons_self _ hs)

/-- A boundary comes first where a flight of one of the run groups falls into another. -/
theorem mem_boundariesFirst {s : State} {gs : List Nat} {h : Nat} (hm : h ∈ s.boundariesFirst gs) :
    h ∉ gs ∧ ∃ g ∈ gs, ∃ f ∈ (s.group g).flights, (s.parcel (clParcel (f.at f.dist))).rg = some h := by
  unfold State.boundariesFirst at hm
  rw [List.mem_eraseDups, List.mem_flatMap] at hm
  obtain ⟨g, hg, hm⟩ := hm
  obtain ⟨f, hf, hh⟩ := List.mem_filterMap.mp hm
  split at hh
  · next hrg =>
    split at hh
    · next hc =>
      obtain rfl := Option.some.inj hh
      simp only [Bool.and_eq_true, Bool.not_eq_true', List.contains_eq_mem, decide_eq_false_iff_not] at hc
      exact ⟨hc.1.1, g, hg, f, (List.mem_filter.mp hf).1, hrg⟩
    · exact absurd hh (by simp)
  · exact absurd hh (by simp)

/-- The BPs of a cluster, in ascending order, write what they yield. -/
theorem runCluster_eq (pre : State) (g step : Nat) (cycle : Word) (s : State) (c : Nat) :
    runCluster pre g step cycle s c
      = ((foldFaults (fun t x => bpApply t g x.1 step cycle x.2) (clusterOuts pre g c step cycle).1 s).1,
        (clusterOuts pre g c step cycle).2 ++ (foldFaults (fun t x => bpApply t g x.1 step cycle x.2) (clusterOuts pre g c step cycle).1 s).2) := by
  unfold runCluster
  generalize clusterOuts pre g c step cycle = o
  rfl

namespace Stands
variable {g o : Nat} {c : List Nat × RunState × Nat × Word} {s t : State}

theorem openCycle (h : Stands g o c t) {i n : Nat} : Stands g o c (t.openCycle i n) := by
  unfold State.openCycle
  extract_lets r stamp s1 s2
  have k1 : Stands g o c s1 := elsewhere (setGroup h fun e => by subst e; exact h.post) (State.retagEdges_clock ..)
  have k2 : Stands g o c s2 := ite (k1.forEach fun _ _ k => k.elsewhere (State.setPin_clock ..)) k1
  exact k2.finishParked

theorem stepOpened (h : Stands g o c t) {n : Nat} : Stands g o c (t.stepOpened g n) :=
  have k : Stands g o c (if (t.group g).step = 0 then t.openCycle g n else t) := ite h.openCycle h
  forEach_keep_of_mem (fun _ hi _ k => k.boundary fun e => (mem_boundariesFirst hi).1 (e ▸ List.mem_cons_self)) k

theorem moveAll (h : Stands g o c t) {gs : List Nat} : Stands g o c (t.moveAll gs).1 := by
  unfold State.moveAll
  dsimp only
  split
  · exact h
  · refine foldl (h.forEach fun _ _ k => k.updGroup) fun u x k => updGroup (k.elsewhere (State.moveFlights_clock ..))

theorem stepMoved (h : Stands g o c t) : Stands g o c (t.stepMoved g).1 := h.moveAll.forEach fun _ _ k => k.updGroup

theorem arriveAll (h : Stands g o c t) {gs : List Nat} : Stands g o c (t.arriveAll gs).1 := by
  unfold State.arriveAll
  extract_lets due now v
  have k : Stands g o c v := h.forEach fun _ _ k => ite k k.updGroup
  exact k.foldFaults fun _ _ k => k.elsewhere (deliver_clock ..)

theorem stepRead (h : Stands g o c t) : Stands g o c (t.stepRead g).1 := by
  unfold State.stepRead
  extract_lets r m k v a d
  have h1 : Stands g o c k.1 := h.stepMoved.foldFaults fun _ _ k => k.elsewhere (checkBanks_clock ..)
  have h2 : Stands g o c v := h1.forEach fun _ _ k => k.elsewhere (landCluster_clock ..)
  exact h2.arriveAll.foldFaults fun _ _ k => k.elsewhere (deliverCargo_clock ..)

theorem bpApply (h : Stands g o c t) {i bp step : Nat} {cycle : Word} {out : BpOut} : Stands g o c (bpApply t i bp step cycle out).1 :=
  bpApply_keep (fun _ _ _ k => k.elsewhere) (fun _ _ _ k => k.elsewhere) (fun _ _ _ k => k.elsewhere) (fun _ _ _ k => k.elsewhere)
    (fun _ _ k => k.elsewhere) (fun _ _ k => k.elsewhere) (fun _ _ k => k.elsewhere) (fun _ k => k.stopDue)
    (fun _ k => k.elsewhere (State.countHeavy_clock ..)) h

theorem runCluster (h : Stands g o c t) {pre : State} {i step : Nat} {cycle : Word} {k : Nat} :
    Stands g o c (runCluster pre i step cycle t k).1 := by
  rw [runCluster_eq]
  generalize clusterOuts pre i k step cycle = out
  exact foldFaults (f := fun u x => Machine.bpApply u i x.1 step cycle x.2) (l := out.1) h fun _ _ k => k.bpApply

theorem shipSends (h : Stands g o c t) {i step k : Nat} : Stands g o c (shipSends i step k t) := by
  unfold Machine.shipSends
  extract_lets r fs s1 val fl
  have k1 : Stands g o c s1 := h.elsewhere
  exact ite k1 (elsewhere (updGroup k1) (State.sign_clock ..))

end Stands

theorem stepPorts_clock (pre : State) (cs : List Nat) (p : Nat) (n : Word) : (stepPorts pre cs p n).1.clock = pre.clock :=
  foldl_fst_clock (fun a _ => portStep_clock a.1 ..) (pre, [], [])

theorem stepWindows_clock (g p : Nat) (ps : List Nat) (s : State) : (stepWindows g p ps s).1.clock = s.clock := by
  unfold stepWindows
  split
  · exact foldFaults_clock (fun t q => State.closeWindow_clock t g q p) s
  · rfl

namespace Stands
variable {g o : Nat} {c : List Nat × RunState × Nat × Word} {s t : State}

theorem stepSends (h : Stands g o c t) {pre : State} {i : Nat} {cs qs : List Nat} {p : Nat} {n : Word} {sigs : List (Nat × List Byte)} :
    Stands g o c (stepSends pre i cs qs p n sigs t) := by
  unfold Machine.stepSends
  extract_lets s1 s2 s3 s4
  have h1 : Stands g o c s1 := h.forEach fun _ _ k => k.shipSends
  have e2 : s2.clock = s1.clock := foldl_clock (fun u q => foldl_clock (fun v k => shipCargo_clock v ..) u) s1
  have e3 : s3.clock = s2.clock := by simp [s3]
  have e4 : s4.clock = s3.clock := by simp [s4]
  exact (((h1.elsewhere e2).elsewhere e3).elsewhere e4).elsewhere (closeFrame_clock ..)

/-- After the faults of the step its group stands at the next step. -/
theorem stepPassed (h : Stands g o c t) {cs qs : List Nat} {p : Nat} : Stands g o (c.1, c.2.1, p + 1, c.2.2.2) (stepPassed g cs qs p t) := by
  unfold Machine.stepPassed
  extract_lets s1 s2 s3
  have e1 : s1.clock = t.clock := by simp [s1]
  have h2 : Stands g o c s2 := (h.elsewhere e1).elsewhere (State.retireCargo_clock ..)
  have h3 : Stands g o c s3 := h2.elsewhere
  refine ⟨h3.opp, ?_, h3.holds, h3.runs⟩
  rw [group_updGroup_same h3.parcels_ne, ← h3.post]
  rfl

theorem stepNext (h : Stands g o c t) {cs qs : List Nat} {p N : Nat} {n : Word} :
    Stands g o (c.1, c.2.1, p + 1, c.2.2.2) (stepNext g cs qs p N n t) :=
  foldl h.stepPassed.fetchStores.raiseAll fun _ _ k => k.elsewhere (State.arbitrateStep_clock ..)

theorem stepBody (h : Stands g o c t) : Stands g o (c.1, c.2.1, c.2.2.1 + 1, c.2.2.2) (stepBody t g) := by
  unfold Machine.stepBody
  extract_lets r d ports b w
  have hd : Stands g o c d.1 := h.stepRead
  have hports : Stands g o c ports.1 := hd.elsewhere (stepPorts_clock ..)
  have hb : Stands g o c b.1 := hports.foldFaults fun _ _ k => k.runCluster
  have hw : Stands g o c w.1 := hb.stepSends.elsewhere (stepWindows_clock ..)
  have hstep : r.step = c.2.2.1 := congrArg (·.2.2.1) h.post
  rw [← hstep]
  exact hw.raiseAll.stepNext

/-- A step that executes (R28): the group stands at the next step of the same cycle. -/
theorem runStep (h : Stands g o c t) {n : Nat} : Stands g o (c.1, c.2.1, c.2.2.1 + 1, c.2.2.2) (runStep t g n) := by
  rw [runStep_eq]
  exact h.stepOpened.stepBody

end Stands

/-- The part stands in the opportunity of the group's next step, and the group where it was. -/
theorem readied_stands {s : State} {g : Nat} (hp : (s.group g).parcels ≠ []) (hrun : (s.group g).state = .running) :
    Stands g (s.nextOpp g) (s.group g).post (s.readied g) := by
  have h := readied_waits s g
  have hc := h.course hp
  simp only [RunGroup.course, Prod.mk.injEq] at hc
  obtain ⟨hps, hst, hstep, hcycle, -⟩ := hc
  exact ⟨h.opp, by simp only [RunGroup.post, hps, hst, hstep, hcycle]; rfl, hp, hrun⟩

/-- The first statement of O16: one opportunity of a running group. -/
theorem stepExecute_opportunity {s : State} {g : Nat} (hg : g < 32) (hp : (s.group g).parcels ≠ []) (hrun : (s.group g).state = .running)
    (hstep : (s.group g).step < (s.group g).n) (hheld : s.boot.sheetsHeld = false) (hhalt : (s.group g).halting = none) :
    ∃ t, exec (.stepExecute g) s = .next t ∧ t.opp = s.nextOpp g ∧ (t.group g).cycle = (s.group g).cycle
      ∧ (s.gatedNext g = false → (t.group g).step = (s.group g).step + 1)
      ∧ (s.gatedNext g = true → (t.group g).step = (s.group g).step ∧ t.values = s.values ∧ t.cur = s.cur ∧ t.stg = s.stg ∧ t.pend = s.pend
          ∧ t.result = s.result ∧ t.slots = s.slots ∧ t.bank = s.bank ∧ t.hbm = s.hbm ∧ t.clusters = s.clusters
          ∧ (t.group g).flights = (s.group g).flights) := by
  refine ⟨_, exec_stepExecute hg hp, ?_⟩
  cases hgated : s.gatedNext g with
  | true =>
    obtain ⟨hf, hc⟩ := stepExecute_gated hrun hstep hheld hhalt hp hgated
    simp only [State.fabric, RunGroup.course, Prod.mk.injEq] at hf hc
    obtain ⟨hopp, -, hvalues, hcur, hstg, hpend, hresult, hslots, hbank, hhbm, hclusters, -⟩ := hf
    obtain ⟨-, -, hs, hcycle, -, -, hflights, -⟩ := hc
    exact ⟨hopp, hcycle, fun h => absurd h (by simp), fun _ => ⟨hs, hvalues, hcur, hstg, hpend, hresult, hslots, hbank, hhbm, hclusters, hflights⟩⟩
  | false =>
    rw [stepExecute_running hrun hstep hheld hhalt, hgated, if_neg (by simp)]
    have h := (readied_stands hp hrun).runStep (n := s.nextOpp g) |>.settle
    have hpost := h.post
    simp only [RunGroup.post, Prod.mk.injEq] at hpost
    obtain ⟨-, -, hs, hcycle⟩ := hpost
    exact ⟨h.opp, hcycle, fun _ => hs, fun h => absurd h (by simp)⟩

end Sys2Proof.Machine
end

-- ==== A step: which fault counts rise, and the state that its instructions read ====
section
/-! PROOFS. The faults of a step are those of its work and those of the fetch of the step after; where nothing flies, lands or waits,
the instructions read the state as it is (R37). -/
namespace Sys2Proof.Machine

-- the faults of a step, and how often each is counted

theorem cnt_of_clock {s t : State} (h : t.clock = s.clock) : t.faults.cnt = s.faults.cnt := congrArg (·.2.2) h

theorem foldFaults_keep {α : Type} {P : State → Prop} {f : State → α → State × List FaultEv} {l : List α}
    (h : ∀ s a, P s → P (f s a).1) {s : State} (hs : P s) : P (foldFaults f l s).1 := by
  induction l generalizing s with
  | nil => exact hs
  | cons a l ih => exact ih (h s a hs)

section
variable (s : State)

theorem moveAll_cnt (gs : List Nat) : (s.moveAll gs).1.faults.cnt = s.faults.cnt := by
  unfold State.moveAll
  dsimp only
  split
  · rfl
  · refine List.foldlRecOn (motive := fun t : State => t.faults.cnt = s.faults.cnt) _ _ ?_ fun t h x _ => ?_
    · refine forEach_keep (P := fun t : State => t.faults.cnt = s.faults.cnt) (fun i u h => ?_) rfl
      exact h
    · exact (cnt_of_clock (State.moveFlights_clock t _ x.2)).trans h

theorem stepMoved_cnt (g : Nat) : (s.stepMoved g).1.faults.cnt = s.faults.cnt := by
  refine forEach_keep (P := fun t : State => t.faults.cnt = s.faults.cnt) (fun i u h => ?_) (moveAll_cnt s _)
  exact h

theorem arriveAll_cnt (gs : List Nat) : (s.arriveAll gs).1.faults.cnt = s.faults.cnt := by
  unfold State.arriveAll
  extract_lets due now t
  have h : t.faults.cnt = s.faults.cnt := by
    refine forEach_keep (P := fun t : State => t.faults.cnt = s.faults.cnt) (fun i u h => ?_) rfl
    split <;> exact h
  exact (cnt_of_clock (foldFaults_clock (fun u x => deliver_clock u ..) t)).trans h

theorem stepRead_cnt (g : Nat) : (s.stepRead g).1.faults.cnt = s.faults.cnt := by
  unfold State.stepRead
  extract_lets r m k t a d
  have hk : k.1.faults.cnt = m.1.faults.cnt := cnt_of_clock (foldFaults_clock (fun u c => checkBanks_clock u ..) m.1)
  have ht : t.faults.cnt = k.1.faults.cnt := cnt_of_clock (forEach_clock (fun c u => landCluster_clock u ..) k.1)
  have ha : a.1.faults.cnt = t.faults.cnt := arriveAll_cnt t _
  have hd : d.1.faults.cnt = a.1.faults.cnt := cnt_of_clock (foldFaults_clock (fun u x => deliverCargo_clock u ..) a.1)
  exact hd.trans (ha.trans (ht.trans (hk.trans (stepMoved_cnt s g))))

theorem stopDue_cnt (g cause : Nat) (n : Word) : (s.stopDue g cause n).faults.cnt = s.faults.cnt := by
  unfold State.stopDue
  extract_lets r c req t
  have ht : t.faults.cnt = s.faults.cnt := rfl
  split
  · rfl
  · split
    · exact (cnt_of_clock (State.sendStop_clock ..)).trans ht
    · exact ht

theorem bpApply_cnt (g bp step : Nat) (cycle : Word) (o : BpOut) : (bpApply s g bp step cycle o).1.faults.cnt = s.faults.cnt :=
  bpApply_keep (P := fun t : State => t.faults.cnt = s.faults.cnt) (fun _ _ _ h => h) (fun _ _ _ h => h) (fun _ _ _ h => h) (fun _ _ _ h => h)
    (fun _ _ h => h) (fun _ _ h => h) (fun _ _ h => h) (fun t h => (stopDue_cnt t g 1 cycle).trans h)
    (fun t h => (cnt_of_clock (State.countHeavy_clock t (bpParcel bp) 1)).trans h) rfl

theorem runCluster_cnt (pre : State) (g step : Nat) (cycle : Word) (c : Nat) :
    (runCluster pre g step cycle s c).1.faults.cnt = s.faults.cnt := by
  rw [runCluster_eq]
  generalize clusterOuts pre g c step cycle = out
  exact foldFaults_keep (P := fun t : State => t.faults.cnt = s.faults.cnt) (f := fun u x => bpApply u g x.1 step cycle x.2) (l := out.1)
    (fun t x h => (bpApply_cnt t g x.1 step cycle x.2).trans h) rfl

theorem shipSends_cnt (g step c : Nat) : (shipSends g step c s).faults.cnt = s.faults.cnt := by
  unfold shipSends
  dsimp only
  split
  · rfl
  · exact (cnt_of_clock (State.sign_clock ..)).trans rfl

theorem stepSends_cnt (pre : State) (g : Nat) (cs qs : List Nat) (p : Nat) (n : Word) (sigs : List (Nat × List Byte)) :
    (stepSends pre g cs qs p n sigs s).faults.cnt = s.faults.cnt := by
  unfold stepSends
  extract_lets s1 s2 s3 s4
  have h1 : s1.faults.cnt = s.faults.cnt :=
    forEach_keep (P := fun t : State => t.faults.cnt = s.faults.cnt) (fun c t h => (shipSends_cnt t g p c).trans h) rfl
  have e2 : s2.clock = s1.clock := foldl_clock (fun u q => foldl_clock (fun v k => shipCargo_clock v ..) u) s1
  have e3 : s3.clock = s2.clock := by simp [s3]
  have e4 : s4.clock = s3.clock := by simp [s4]
  exact (cnt_of_clock ((closeFrame_clock ..).trans (e4.trans (e3.trans e2)))).trans h1

theorem stepPassed_cnt (g : Nat) (cs qs : List Nat) (p : Nat) : (stepPassed g cs qs p s).faults.cnt = s.faults.cnt := by
  unfold stepPassed
  extract_lets s1 s2 s3
  have e1 : s1.clock = s.clock := by simp [s1]
  have e2 : s2.clock = s.clock := (State.retireCargo_clock s1 g).trans e1
  have h2 : s2.faults.cnt = s.faults.cnt := cnt_of_clock e2
  exact h2

/-- The faults of the fetch of a step (R51 to R53, R74, R98). -/
def State.fetchEvents (s : State) (g p : Nat) (cycle : Word) : List FaultEv :=
  let t := s.fetchStores g p cycle fun st => [0, 3, 4].contains st
  t.2 ++ t.1.istore.filterMap (t.1.fetchIllegal g p cycle)

theorem fetchNext_counted (g p : Nat) (cycle : Word) :
    Counted ((raiseOrder (s.fetchEvents g p cycle)).map (·.code)) s (s.fetchNext g p cycle) := by
  have h := raiseAll_counted (s.fetchStores g p cycle fun st => [0, 3, 4].contains st).1 (s.fetchEvents g p cycle)
  exact h
end

/-- The state in which the instructions of a step have written. -/
def State.stepWrote (s : State) (g : Nat) : State × List FaultEv :=
  let r := s.group g
  let d := s.stepRead g
  let ports := stepPorts d.1 r.clusters r.step r.cycle
  let b := foldFaults (runCluster d.1 g r.step r.cycle) r.clusters ports.1
  (b.1, d.2 ++ ports.2.1 ++ b.2)

/-- The state in which the windows of a step have ended, with its faults. -/
def State.stepDone (s : State) (g : Nat) : State × List FaultEv :=
  let r := s.group g
  let d := s.stepRead g
  let ports := stepPorts d.1 r.clusters r.step r.cycle
  let b := s.stepWrote g
  let w := stepWindows g r.step r.parcels (stepSends d.1 g r.clusters (s.cargoQuads g) r.step r.cycle ports.2.2 b.1)
  (w.1, b.2 ++ w.2)

/-- The state before the fetch of the step after. -/
def State.stepOver (s : State) (g : Nat) : State :=
  stepPassed g (s.group g).clusters (s.cargoQuads g) (s.group g).step ((s.stepDone g).1.raiseAll (s.stepDone g).2)

/-- The step after, from 0 after the last. -/
def RunGroup.nextStep (r : RunGroup) : Nat := if r.step + 1 = r.n then 0 else r.step + 1

theorem stepBody_eq (s : State) (g : Nat) :
    stepBody s g = (s.group g).clusters.foldl State.arbitrateStep ((s.stepOver g).fetchNext g (s.group g).nextStep (s.group g).cycle) := rfl

theorem stepWrote_cnt (s : State) (g : Nat) : (s.stepWrote g).1.faults.cnt = s.faults.cnt := by
  unfold State.stepWrote
  extract_lets r d ports b
  have hp : ports.1.faults.cnt = d.1.faults.cnt := cnt_of_clock (stepPorts_clock ..)
  have hb : b.1.faults.cnt = ports.1.faults.cnt := foldFaults_keep (P := fun t : State => t.faults.cnt = ports.1.faults.cnt)
    (fun t c h => (runCluster_cnt t d.1 g r.step r.cycle c).trans h) rfl
  exact hb.trans (hp.trans (stepRead_cnt s g))

theorem stepDone_cnt (s : State) (g : Nat) : (s.stepDone g).1.faults.cnt = s.faults.cnt := by
  unfold State.stepDone
  extract_lets r d ports b w
  have hw : w.1.faults.cnt = b.1.faults.cnt := (cnt_of_clock (stepWindows_clock ..)).trans (stepSends_cnt b.1 _ _ _ _ _ _ _)
  exact hw.trans (stepWrote_cnt s g)

/-- A step counts the faults of its work, then those of the fetch of the step after. -/
theorem stepBody_counted (s : State) (g : Nat) :
    Counted ((raiseOrder (s.stepDone g).2).map (·.code)
      ++ (raiseOrder ((s.stepOver g).fetchEvents g (s.group g).nextStep (s.group g).cycle)).map (·.code)) s (stepBody s g) := by
  have done : Counted ((raiseOrder (s.stepDone g).2).map (·.code)) s ((s.stepDone g).1.raiseAll (s.stepDone g).2) := by
    have h := raiseAll_counted (s.stepDone g).1 (s.stepDone g).2
    unfold Counted at h ⊢
    rw [h, stepDone_cnt s g]
  have passed : Counted ((raiseOrder (s.stepDone g).2).map (·.code)) s (s.stepOver g) := done.elsewhere (stepPassed_cnt ..)
  rw [stepBody_eq]
  exact (passed.trans (fetchNext_counted ..)).elsewhere (cnt_of_clock (foldl_clock (fun t c => State.arbitrateStep_clock t c) _))

/-- From `s` to `t` no fault but RING_CORRUPT is counted. -/
def Rings (s t : State) : Prop := ∃ n, Counted (List.replicate n 0x5002) s t

namespace Rings
variable {s t u : State}

theorem refl : Rings s s := ⟨0, rfl⟩

theorem trans (h : Rings s t) (k : Rings t u) : Rings s u := by
  obtain ⟨n, hn⟩ := h
  obtain ⟨m, hm⟩ := k
  exact ⟨n + m, by rw [List.replicate_add]; exact hn.trans hm⟩

theorem ite {c : Prop} [Decidable c] {a b : State} (h : Rings s a) (k : Rings s b) : Rings s (if c then a else b) := by
  split <;> assumption

/-- An update of other fields. -/
theorem elsewhere (h : Rings s t) (e : u.faults.cnt = t.faults.cnt := by rfl) : Rings s u := h.trans ⟨0, e⟩

theorem signal (h : Rings s t) {i : Nat} : Rings s (t.signal i) := by
  unfold State.signal; rw [irq_frame]; exact h.elsewhere

theorem sessionError (h : Rings s t) {i cause : Nat} : Rings s (t.sessionError i cause) :=
  let e : FaultEv := { code := 0x5002, unit := 82, access := 0, master := sessionMaster i, address := i + fieldAt 10 cause, cycle := 0 }
  have k : Rings s (t.updSess i fun v => { v with state := .error, errCause := cause }) := h.elsewhere
  signal (k.trans ⟨1, raise_counted _ e _⟩)

theorem releaseOne (h : Rings s t) {i : Nat} {r : Reply} {notify : Bool} : Rings s (t.releaseOne i r notify) :=
  ite (ite (sessionError h.elsewhere) (ite (signal h.elsewhere) h.elsewhere)) h.elsewhere

theorem applyReleased (h : Rings s t) {e : Entry} {r : Reply} : Rings s (t.applyReleased e r) := ite h.elsewhere h

theorem releaseLoop (l : List Entry) : ∀ kept blocked t, Rings s t → Rings s (releaseLoop l kept blocked t) := by
  induction l with
  | nil => exact fun _ _ _ h => h.elsewhere
  | cons e l ih =>
    intro kept blocked t h
    unfold Machine.releaseLoop
    split
    · exact ite (ih _ _ _ h.applyReleased) (ite (ih _ _ _ h.releaseOne.applyReleased) (ih _ _ _ h))
    · exact ih _ _ _ h

theorem release (h : Rings s t) : Rings s t.release := releaseLoop _ _ _ _ h

theorem finishParked (h : Rings s t) {f : Entry → Wait → Option (Nat × Nat × Nat)} : Rings s (t.finishParked f) := h.elsewhere

theorem settle (h : Rings s t) : Rings s t.settle :=
  ite h.release (release (finishParked (forEach_keep (P := Rings s) (fun _ _ k => ite k.elsewhere k) h.release)))

end Rings

-- a step that nothing but flights is on its way to

theorem mem_runGroups_parcels {s : State} (hw : mwf RunGroup.init s.groups = true) {h : Nat} (hm : h ∈ s.runGroups) :
    (s.group h).parcels ≠ [] := by
  obtain ⟨⟨k, r⟩, he, rfl⟩ := List.mem_map.mp hm
  obtain ⟨hin, hp⟩ := List.mem_filter.mp he
  have hr : s.group k = r := (mget_eq_of_mem hw hin).1
  simpa [hr] using hp

theorem runGroups_of_parcels {s : State} {h : Nat} (hp : (s.group h).parcels ≠ []) : h ∈ s.runGroups := by
  have hm : (h, s.group h) ∈ s.groups := mem_of_mget_ne fun e => hp (by unfold State.group; rw [e]; rfl)
  exact List.mem_map.mpr ⟨_, List.mem_filter.mpr ⟨hm, by simp [hp]⟩, rfl⟩

/-- A run group that is the only one is joined by none. -/
theorem joiners_alone {s : State} {g : Nat} (h : ∀ i ∈ s.runGroups, i = g) : s.joiners g = [] := by
  unfold State.joiners
  dsimp only
  have none : (s.runGroups.filter fun h => decide (h ≠ g) && !(s.group h).moved && decide ((s.group h).state = .running)
      && decide ((s.group h).step < (s.group h).n) && decide ((s.group h).flights ≠ []) && decide (s.nextOpp h = s.opp) && !s.gatedNext h)
      = [] := by
    rw [List.filter_eq_nil_iff]
    intro i hi
    simp [h i hi]
  rw [none]
  simp

/-- Flights into the parcels of their own run group meet no boundary of another. -/
theorem boundariesFirst_alone {s : State} {g : Nat} (hd : ∀ f ∈ (s.group g).flights, (s.parcel (clParcel (f.at f.dist))).rg = some g) :
    s.boundariesFirst [g] = [] := by
  rw [List.eq_nil_iff_forall_not_mem]
  intro h hm
  obtain ⟨hn, i, hi, f, hf, hrg⟩ := mem_boundariesFirst hm
  obtain rfl := List.mem_singleton.mp hi
  rw [hd f hf] at hrg
  exact hn (by rw [Option.some.inj hrg]; exact List.mem_singleton_self h)

namespace Waits
variable {g code : Nat} {s t : State}

theorem setPin (h : Waits g code s t) {k : Nat} {v : TrigPin} : Waits g code s (t.setPin k v) := by
  unfold State.setPin
  extract_lets old was now u
  have ku : Waits g code s u := h.setTrigOut
  exact ite ku ku.elsewhere

theorem openCycle (h : Waits g code s t) {o : Nat} : Waits g code s (t.openCycle g o) := by
  unfold State.openCycle
  extract_lets r stamp s1 s2
  have k0 : Waits g code s (t.setGroup g { r with stamp := stamp, pulseDue := false }) := h.setGroup rfl
  have k1 : Waits g code s s1 := k0.forEach fun _ _ k => ite k.elsewhere k
  have k2 : Waits g code s s2 := ite (k1.forEach fun _ _ k => k.setPin) k1
  exact k2.finishParked

/-- No other run group comes up. -/
theorem alone (h : Waits g code s t) (hw : mwf RunGroup.init s.groups = true) (hg : s.runGroups = [g]) : ∀ i ∈ t.runGroups, i = g := by
  intro i hi
  obtain ⟨ht, hp⟩ := h.groups hw
  have := runGroups_of_parcels (hp i ▸ mem_runGroups_parcels ht hi)
  simpa [hg] using this

end Waits

/-- The state from which the next step of a run group executes, where its opportunity is not gated. -/
def State.atStep (s : State) (g : Nat) : State := (s.readied g).stepOpened g (s.nextOpp g)

theorem rg_of_fabric {s t : State} (h : t.fabric = s.fabric) (p : Nat) : t.parcel p = s.parcel p := by
  unfold State.parcel
  rw [show t.parcels = s.parcels by simp only [State.fabric, Prod.mk.injEq] at h; exact h.2.2.2.2.2.2.2.2.2.2.2.2.2.2.1]

/-- Up to its next step, time passes over a run group that is the only one. -/
theorem atStep_waits {s : State} {g : Nat} (hw : mwf RunGroup.init s.groups = true) (hg : s.runGroups = [g]) (hp : (s.group g).parcels ≠ [])
    (hd : ∀ f ∈ (s.group g).flights, (s.parcel (clParcel (f.at f.dist))).rg = some g) :
    Waits g 0x4002 { s with opp := s.nextOpp g } (s.atStep g) := by
  have k : Waits g 0x4002 { s with opp := s.nextOpp g } (if ((s.readied g).group g).step = 0 then (s.readied g).openCycle g (s.nextOpp g)
      else s.readied g) := .ite (readied_waits s g).openCycle (readied_waits s g)
  unfold State.atStep State.stepOpened
  dsimp only
  rw [joiners_alone (k.alone hw hg), boundariesFirst_alone]
  · exact k
  · intro f hf
    have hc := k.course hp
    simp only [RunGroup.course, Prod.mk.injEq] at hc
    obtain ⟨-, -, -, -, -, -, hflights, -⟩ := hc
    rw [hflights] at hf
    rw [rg_of_fabric k.fabric]
    exact hd f hf

-- the step of a run group that is the only one

/-- What holds of a quiet run group, by name. -/
structure QuietGroup (s : State) (g : Nat) : Prop where
  lt : g < 32
  alone : s.runGroups = [g]
  nonempty : (s.group g).parcels ≠ []
  running : (s.group g).state = .running
  inCycle : (s.group g).step < (s.group g).n
  short : (s.group g).n ≤ 4096
  unhalted : (s.group g).halting = none
  good : (s.group g).fetchBad = []
  unmoved : (s.group g).moved = false
  unheld : s.boot.sheetsHeld = false
  ungated : s.gatedNext g = false
  noCargo : s.cargoQuads g = []
  bankWf : memWf s.bank = true
  curWf : mwf V4.x s.cur = true
  stgWf : mwf V4.x s.stg = true
  pendWf : mwf false s.pend = true
  clustersWf : mwf Cluster.init s.clusters = true
  groupsWf : mwf RunGroup.init s.groups = true
  countsWf : mwf 0 s.faults.cnt = true
  valuesWf : mwf V4.x s.values = true
  resultWf : mwf V4.x s.result = true
  parcels : ∀ p ∈ (s.group g).parcels, p < 32 ∧ (s.parcel p).rg = some g ∧ (s.parcel p).load = .loaded
  clusters : ∀ c ∈ (s.group g).clusters, (s.cluster c).landings = [] ∧ (s.cluster c).checks = []
  room : ∀ code : Nat, s.faultCount code + 1 < 2 ^ 48

section
variable {s : State} {g : Nat}

theorem State.Quiet.parts (hq : s.Quiet g) : QuietGroup s g := by
  obtain ⟨hg, halone, hp, -, hrun, hstep, hn, hhalt, hbad, hmoved, hheld, hgated, hquads, ⟨hmem, htab, -⟩, hvalues, hresult, hparcels, hclusters,
    hroom⟩ := hq
  simp only [State.memoriesWf, Bool.and_eq_true, and_assoc] at hmem
  simp only [State.tablesWf, Bool.and_eq_true, and_assoc] at htab
  obtain ⟨hbank, -⟩ := hmem
  obtain ⟨hcur, hstg, hpend, hcl, hgroups, -, -, -, -, -, -, -, -, -, hcnt, -⟩ := htab
  exact ⟨hg, halone, hp, hrun, hstep, hn, hhalt, hbad, hmoved, hheld, hgated, hquads, hbank, hcur, hstg, hpend, hcl, hgroups, hcnt, hvalues, hresult,
    hparcels, hclusters, hroom⟩

theorem State.Quiet.waits (hq : s.Quiet g) (hd : ∀ f ∈ (s.group g).flights, clParcel (f.at f.dist) ∈ (s.group g).parcels) :
    Waits g 0x4002 { s with opp := s.nextOpp g } (s.atStep g) ∧ (s.atStep g).joiners g = [] := by
  have h := atStep_waits hq.parts.groupsWf hq.parts.alone hq.parts.nonempty fun f hf => (hq.parts.parcels _ (hd f hf)).2.1
  exact ⟨h, joiners_alone (h.alone hq.parts.groupsWf hq.parts.alone)⟩

theorem State.Quiet.exec_eq (hq : s.Quiet g) : exec (.stepExecute g) s = .next (stepBody (s.atStep g) g).settle := by
  have h := hq.parts
  rw [exec_stepExecute h.lt h.nonempty, stepExecute_running h.running h.inCycle h.unheld h.unhalted, h.ungated, if_neg (by simp), runStep_eq]
  rfl

/-- Which counts of faults rise in a step: those of its own faults, and of the fetch of the step after. -/
theorem State.Quiet.rises_iff (hq : s.Quiet g) (hd : ∀ f ∈ (s.group g).flights, clParcel (f.at f.dist) ∈ (s.group g).parcels) {code : Nat}
    (hc : code ∈ faultCodes) (hedge : code ≠ 0x4002) (hring : code ≠ 0x5002) :
    s.faultCount code < ((stepBody (s.atStep g) g).settle).faultCount code ↔ (∃ e ∈ ((s.atStep g).stepDone g).2, e.code = code)
      ∨ ∃ e ∈ ((s.atStep g).stepOver g).fetchEvents g ((s.atStep g).group g).nextStep ((s.atStep g).group g).cycle, e.code = code := by
  obtain ⟨n, hn⟩ := (hq.waits hd).1.told
  obtain ⟨m, hm⟩ := (Rings.refl (s := stepBody (s.atStep g) g)).settle
  have all := (hn.trans (stepBody_counted (s.atStep g) g)).trans hm
  have key := Counted.rises_iff (s := s) all hq.parts.countsWf (hq.parts.room code) hc
  rw [key]
  simp only [List.mem_append, List.mem_replicate, hedge, hring, and_false, false_or, or_false]
  rw [mem_raiseOrder hc, mem_raiseOrder hc]

end

-- what the instructions of a step read (R37)

theorem landCluster_none {s : State} {c : Nat} (h : (s.cluster c).landings = []) (p : Nat) (n : Word) :
    landCluster s c p n = s.setCluster c (s.cluster c) := by
  unfold landCluster State.updCluster
  simp only [h, if_true]

/-- A landing that none of the clusters waits for changes no cluster. -/
theorem landClusters_none {s : State} {cs : List Nat} (hw : mwf Cluster.init s.clusters = true) (hl : ∀ c ∈ cs, (s.cluster c).landings = [])
    (p : Nat) (n : Word) :
    ∃ clusters, forEach cs (fun c t => landCluster t c p n) s = { s with clusters := clusters } ∧ ∀ c, mget Cluster.init c clusters = s.cluster c := by
  have h : ∃ clusters, forEach cs (fun c t => landCluster t c p n) s = { s with clusters := clusters } ∧ mwf Cluster.init clusters = true
      ∧ ∀ c, mget Cluster.init c clusters = s.cluster c := by
    refine forEach_keep_of_mem (P := fun t => ∃ clusters, t = { s with clusters := clusters } ∧ mwf Cluster.init clusters = true
      ∧ ∀ c, mget Cluster.init c clusters = s.cluster c) ?_ ⟨_, rfl, hw, fun _ => rfl⟩
    rintro c hc t ⟨m, rfl, hm, hr⟩
    refine ⟨mset Cluster.init c (s.cluster c) m, ?_, mwf_mset hm, fun d => ?_⟩
    · have hv : State.cluster { s with clusters := m } c = s.cluster c := hr c
      rw [landCluster_none (by rw [hv]; exact hl c hc), hv]
      rfl
    · rw [mget_mset hm]
      split
      · next e => rw [e]
      · exact hr d
  obtain ⟨m, e, -, hr⟩ := h
  exact ⟨m, e, hr⟩

theorem checkBanks_none {cs : List Nat} {s : State} (h : ∀ c ∈ cs, (s.cluster c).checks = []) (n : Word) :
    foldFaults (fun t c => checkBanks t c n) cs s = (s, []) := by
  induction cs with
  | nil => rfl
  | cons c cs ih =>
    have hc : checkBanks s c n = (s, []) := by
      unfold checkBanks
      rw [if_pos (h c List.mem_cons_self)]
    rw [foldFaults, hc, ih fun d hd => h d (List.mem_cons_of_mem _ hd)]
    rfl

theorem arriveAll_none {s : State} {g : Nat} (hf : (s.group g).flights = []) : s.arriveAll [g] = (s, []) := by
  unfold State.arriveAll
  simp [hf, sortBy, foldFaults]

/-- Where nothing flies, lands or waits, the instructions read the state as it is. -/
theorem stepRead_still {s : State} {g : Nat} (hp : (s.group g).parcels ≠ []) (hj : s.joiners g = []) (hf : (s.group g).flights = [])
    (hm : (s.group g).moved = false) (hq : s.cargoQuads g = []) (hw : mwf Cluster.init s.clusters = true)
    (hc : ∀ c ∈ (s.group g).clusters, (s.cluster c).landings = [] ∧ (s.cluster c).checks = []) :
    ∃ groups clusters, s.stepRead g = ({ s with groups := groups, clusters := clusters }, [])
      ∧ (mget RunGroup.init g groups).course = (s.group g).course ∧ ∀ c, mget Cluster.init c clusters = s.cluster c := by
  have moved : s.stepMoved g = (s.updGroup g fun v => { v with moved := false }, []) := by
    unfold State.stepMoved
    simp [hj, hm, State.moveAll, hf]
  have hg : (s.updGroup g fun v => { v with moved := false }).group g = { s.group g with moved := false } :=
    group_updGroup_same (by exact hp)
  have hcourse : ({ s.group g with moved := false } : RunGroup).course = (s.group g).course := by
    simp only [RunGroup.course, hm]
  generalize hu : (s.updGroup g fun v => { v with moved := false }) = u at moved hg
  have hucl (c : Nat) : u.cluster c = s.cluster c := by rw [← hu]; rfl
  obtain ⟨m, e, hr⟩ := landClusters_none (s := u) (cs := (s.group g).clusters) (by rw [← hu]; exact hw)
    (fun c h => (hucl c).symm ▸ (hc c h).1) (s.group g).step (s.group g).cycle
  refine ⟨u.groups, m, ?_, ?_, fun c => (hr c).trans (hucl c)⟩
  · have arrived : State.arriveAll { u with clusters := m } [g] = ({ u with clusters := m }, []) :=
      arriveAll_none (by rw [show State.group { u with clusters := m } g = u.group g from rfl, hg]; exact hf)
    unfold State.stepRead
    rw [moved, hj]
    dsimp only
    rw [checkBanks_none (fun c h => (hucl c).symm ▸ (hc c h).2)]
    dsimp only
    rw [e, State.cargoSlots, hq, List.nil_append, arrived, ← hu]
    rfl
  · rw [show mget RunGroup.init g u.groups = u.group g from rfl, hg, hcourse]

end Sys2Proof.Machine
end

-- ==== A step: what one instruction writes and reads ====
section
/-! PROOFS. The stores of one BP before and after an instruction (R37, R43), and what its operands can meet (R52, R53, R100). -/
namespace Sys2Proof.Machine

-- the stores of one BP

/-- The stores that instructions write: values, results, the two copies of the state entries, the pending flags. -/
def State.bpStores (s : State) : SMap V4 × SMap V4 × SMap V4 × SMap V4 × SMap Bool := (s.values, s.result, s.cur, s.stg, s.pend)

def State.bpWf (s : State) : Prop :=
  mwf V4.x s.values = true ∧ mwf V4.x s.result = true ∧ mwf V4.x s.cur = true ∧ mwf V4.x s.stg = true ∧ mwf false s.pend = true

/-- What the stores hold of one BP. -/
structure BpView where
  value  : Nat → V4
  result : V4
  cur    : Nat → V4
  stg    : Nat → V4
  pend   : Nat → Bool

def State.bpView (s : State) (bp : Nat) : BpView where
  value e := mget .x (bp * 4096 + e % 4096) s.values
  result := mget .x bp s.result
  cur j := mget .x (bp * 1024 + j % 1024) s.cur
  stg j := mget .x (bp * 1024 + j % 1024) s.stg
  pend j := mget false (bp * 1024 + j % 1024) s.pend

theorem bpView_of_stores {s t : State} (h : t.bpStores = s.bpStores) (bp : Nat) : t.bpView bp = s.bpView bp := by
  simp only [State.bpStores, Prod.mk.injEq] at h
  obtain ⟨hv, hr, hc, hs, hp⟩ := h
  simp only [State.bpView, hv, hr, hc, hs, hp]

theorem bpWf_of_stores {s t : State} (h : t.bpStores = s.bpStores) (hw : s.bpWf) : t.bpWf := by
  simp only [State.bpStores, Prod.mk.injEq] at h
  obtain ⟨hv, hr, hc, hs, hp⟩ := h
  rwa [State.bpWf, hv, hr, hc, hs, hp]

-- what an instruction leaves of it

/-- The state entries that an instruction writes exist. -/
def BpOut.Within (o : BpOut) : Prop := (∀ j v, o.cur = some (j, v) → j < 1024) ∧ ∀ j v, o.stage = some (j, v) → j < 1024

def BpOut.curOver (o : BpOut) (v : BpView) : BpView :=
  match o.cur with
  | some (j, new) => { v with cur := fun k => if k % 1024 = j then new else v.cur k }
  | none => v

def BpOut.stageOver (o : BpOut) (v : BpView) : BpView :=
  match o.stage with
  | some (j, new) => { v with stg := fun k => if k % 1024 = j then new else v.stg k, pend := fun k => if k % 1024 = j then true else v.pend k }
  | none => v

def BpOut.resultOver (o : BpOut) (step : Nat) (v : BpView) : BpView :=
  match o.result with
  | some new => { v with value := fun e => if e % 4096 = step then new else v.value e, result := new }
  | none => { v with result := .x }

/-- What an instruction leaves in the stores of its BP. -/
def BpOut.writes (o : BpOut) (step : Nat) (v : BpView) : BpView := o.resultOver step (o.stageOver (o.curOver v))

theorem BpOut.writes_writes (o : BpOut) (step : Nat) (v : BpView) : o.writes step (o.writes step v) = o.writes step v := by
  obtain ⟨result, cur, stage, port, tap, event, stop, illegal, heavy, reads⟩ := o
  unfold BpOut.writes BpOut.resultOver BpOut.stageOver BpOut.curOver
  cases result <;> cases cur <;> cases stage <;> simp <;> grind

-- each single write

section
variable {s : State} (hw : s.bpWf) {bp : Nat}
include hw

theorem bpWf_setValue (e : Nat) (v : V4) : (s.setValue bp e v).bpWf :=
  have ⟨hv, hr, hc, hs, hp⟩ := hw
  ⟨mwf_mset hv, hr, hc, hs, hp⟩
theorem bpWf_setResult (v : V4) : (s.setResult bp v).bpWf :=
  have ⟨hv, hr, hc, hs, hp⟩ := hw
  ⟨hv, mwf_mset hr, hc, hs, hp⟩
theorem bpWf_setCur (j : Nat) (v : V4) : (s.setCur bp j v).bpWf :=
  have ⟨hv, hr, hc, hs, hp⟩ := hw
  ⟨hv, hr, mwf_mset hc, hs, hp⟩
theorem bpWf_setStaged (j : Nat) (v : V4) : (s.setStaged bp j v).bpWf :=
  have ⟨hv, hr, hc, hs, hp⟩ := hw
  ⟨hv, hr, hc, mwf_mset hs, mwf_mset hp⟩

end

theorem entry_eq_iff {per i k bp e : Nat} (he : e < per) : i * per + k % per = bp * per + e ↔ i = bp ∧ k % per = e := by
  have hk : k % per < per := Nat.mod_lt _ (by omega)
  constructor
  · intro h
    have hdiv : i = bp := by
      have := congrArg (· / per) h
      simpa [Nat.mul_comm _ per, Nat.mul_add_div (show 0 < per by omega), Nat.div_eq_of_lt hk, Nat.div_eq_of_lt he] using this
    subst hdiv
    exact ⟨rfl, by omega⟩
  · rintro ⟨rfl, rfl⟩; rfl

/-- An entry of a store that holds `per` entries of each BP, after a write to one of them. -/
theorem mget_mset_entry {α : Type} [DecidableEq α] {d : α} {m : SMap α} (hm : mwf d m = true) {per bp e : Nat} (he : e < per) (v : α)
    (i k : Nat) : mget d (i * per + k % per) (mset d (bp * per + e) v m)
      = if i = bp then (if k % per = e then v else mget d (i * per + k % per) m) else mget d (i * per + k % per) m := by
  rw [mget_mset hm, if_congr (entry_eq_iff he) rfl rfl, ite_and]

section
variable {s : State} (hw : s.bpWf) {bp : Nat}
include hw

theorem bpView_setValue {e : Nat} (he : e < 4096) (v : V4) (i : Nat) : (s.setValue bp e v).bpView i
    = if i = bp then { s.bpView i with value := fun k => if k % 4096 = e then v else (s.bpView i).value k } else s.bpView i := by
  have key := mget_mset_entry hw.1 (bp := bp) he v i
  unfold State.bpView State.setValue
  split
  · next h => simp only [key, if_pos h]
  · next h => simp only [key, if_neg h]

theorem bpView_setResult (v : V4) (i : Nat) : (s.setResult bp v).bpView i
    = if i = bp then { s.bpView i with result := v } else s.bpView i := by
  obtain ⟨-, hr, -⟩ := hw
  unfold State.bpView State.setResult
  split
  · next h => simp only [mget_mset hr, if_pos h]
  · next h => simp only [mget_mset hr, if_neg h]

theorem bpView_setCur {j : Nat} (hj : j < 1024) (v : V4) (i : Nat) : (s.setCur bp j v).bpView i
    = if i = bp then { s.bpView i with cur := fun k => if k % 1024 = j then v else (s.bpView i).cur k } else s.bpView i := by
  obtain ⟨-, -, hc, -⟩ := hw
  have key := mget_mset_entry hc (bp := bp) hj v i
  unfold State.bpView State.setCur
  split
  · next h => simp only [key, if_pos h]
  · next h => simp only [key, if_neg h]

theorem bpView_setStaged {j : Nat} (hj : j < 1024) (v : V4) (i : Nat) : (s.setStaged bp j v).bpView i
    = if i = bp then { s.bpView i with stg := fun k => if k % 1024 = j then v else (s.bpView i).stg k
                                       pend := fun k => if k % 1024 = j then true else (s.bpView i).pend k }
      else s.bpView i := by
  obtain ⟨-, -, -, hs, hp⟩ := hw
  have keyS := mget_mset_entry hs (bp := bp) hj v i
  have keyP := mget_mset_entry hp (bp := bp) hj true i
  unfold State.bpView State.setStaged
  split
  · next h => simp only [keyS, keyP, if_pos h]
  · next h => simp only [keyS, keyP, if_neg h]

end

-- an instruction with no code word in error

section
variable {s : State} (he : s.ecc = [])
include he

theorem eccAt_of_nil (st w : Nat) : s.eccAt st w = 0 := by unfold State.eccAt; rw [he]; rfl

theorem eccClean_of_nil (st w : Nat) : s.eccClean st w = s := by
  have h : mset 0 (eccKey st w) 0 s.ecc = s.ecc := by rw [he]; rfl
  unfold State.eccClean; rw [h]

theorem eccWrite_of_nil (st bp e step : Nat) (cycle : Word) : eccWrite s st bp e step cycle = (s, []) := eccWrite_clean (eccAt_of_nil he _ _)

theorem readFaults_of_nil (bp step : Nat) (cycle : Word) (l : List ReadEv) : (readFaults s bp step cycle l).1 = s := by
  induction l with
  | nil => rfl
  | cons e l ih =>
    cases e with
    | stale r => exact ih
    | ce st e => unfold readFaults; dsimp only; rw [eccClean_of_nil he]; exact ih
    | ue st e => exact ih
end

theorem applyPort_stores (bp : Nat) (o : BpOut) (s : State) : (applyPort bp o s).bpStores = s.bpStores := by
  unfold applyPort; split <;> split <;> rfl

theorem applyEvent_stores (bp step : Nat) (cycle : Word) (o : BpOut) (q : State × List FaultEv) :
    (applyEvent bp step cycle o q).1.bpStores = q.1.bpStores := by
  unfold applyEvent postEvent
  split
  · dsimp only; split <;> rfl
  · rfl

/-- A stop touches its run group, and the messages of lanes (R133). -/
theorem stopDue_frame (s : State) (g cause : Nat) (n : Word) : ∃ groups lanes, s.stopDue g cause n = { s with groups := groups, lanes := lanes } := by
  have send (t : State) (c : Word) : ∃ lanes, t.sendStop g false c = { t with lanes := lanes } := by
    refine forEach_keep (P := fun u : State => ∃ lanes, u = { t with lanes := lanes }) ?_ ⟨_, rfl⟩
    rintro l u ⟨m, rfl⟩
    exact ⟨_, rfl⟩
  unfold State.stopDue
  extract_lets r c req t
  split
  · exact ⟨_, _, rfl⟩
  · split
    · obtain ⟨lanes, e⟩ := send (t.updGroup g fun v => { v with seenStops := v.seenStops ++ [c] }) c
      exact ⟨_, lanes, e⟩
    · exact ⟨_, _, rfl⟩

theorem stopDue_stores (s : State) (g cause : Nat) (n : Word) : (s.stopDue g cause n).bpStores = s.bpStores := by
  obtain ⟨_, _, e⟩ := stopDue_frame s g cause n
  rw [e]; rfl

theorem applyStop_stores (g bp : Nat) (cycle : Word) (o : BpOut) (s : State) : (applyStop g bp cycle o s).bpStores = s.bpStores := by
  have heavy (t : State) : (t.countHeavy (bpParcel bp) 1).bpStores = t.bpStores := rfl
  unfold applyStop
  split_ifs
  · exact (heavy _).trans (stopDue_stores s g 1 cycle)
  · exact stopDue_stores s g 1 cycle
  · exact heavy s
  · rfl

theorem bpApply_stores (s : State) (g bp step : Nat) (cycle : Word) (o : BpOut) :
    (bpApply s g bp step cycle o).1.bpStores = (applyStores bp step cycle o s).1.bpStores := by
  rw [bpApply_eq]
  exact (applyStop_stores ..).trans ((applyEvent_stores ..).trans (applyPort_stores ..))

section
variable {s : State} (he : s.ecc = []) (hw : s.bpWf) {bp step : Nat} {cycle : Word} {o : BpOut} (ho : o.Within) (hstep : step < 4096)
include he hw ho hstep

/-- What an instruction leaves in the stores of its own BP, and that it leaves those of another alone. -/
theorem applyStores_view : (applyStores bp step cycle o s).1.ecc = [] ∧ (applyStores bp step cycle o s).1.bpWf
    ∧ ∀ i, (applyStores bp step cycle o s).1.bpView i = if i = bp then o.writes step (s.bpView i) else s.bpView i := by
  have reads : (applyReads bp step cycle o s).1 = s := readFaults_of_nil he bp step cycle o.reads
  have cur (q : State × List FaultEv) (hq : q.1.ecc = []) (hqw : q.1.bpWf) : (applyCur bp step cycle o q).1.ecc = []
      ∧ (applyCur bp step cycle o q).1.bpWf
      ∧ ∀ i, (applyCur bp step cycle o q).1.bpView i = if i = bp then o.curOver (q.1.bpView i) else q.1.bpView i := by
    unfold applyCur BpOut.curOver
    cases h : o.cur with
    | some x =>
      obtain ⟨j, v⟩ := x
      dsimp only
      rw [eccWrite_of_nil hq]
      refine ⟨hq, bpWf_setCur hqw j v, fun i => ?_⟩
      exact bpView_setCur hqw (ho.1 j v h) v i
    | none => exact ⟨hq, hqw, fun i => by simp⟩
  have stage (q : State × List FaultEv) (hq : q.1.ecc = []) (hqw : q.1.bpWf) : (applyStage bp step cycle o q).1.ecc = []
      ∧ (applyStage bp step cycle o q).1.bpWf
      ∧ ∀ i, (applyStage bp step cycle o q).1.bpView i = if i = bp then o.stageOver (q.1.bpView i) else q.1.bpView i := by
    unfold applyStage BpOut.stageOver
    cases h : o.stage with
    | some x =>
      obtain ⟨j, v⟩ := x
      dsimp only
      rw [eccWrite_of_nil hq]
      refine ⟨hq, bpWf_setStaged hqw j v, fun i => ?_⟩
      exact bpView_setStaged hqw (ho.2 j v h) v i
    | none => exact ⟨hq, hqw, fun i => by simp⟩
  have result (q : State × List FaultEv) (hq : q.1.ecc = []) (hqw : q.1.bpWf) : (applyResult bp step cycle o q).1.ecc = []
      ∧ (applyResult bp step cycle o q).1.bpWf
      ∧ ∀ i, (applyResult bp step cycle o q).1.bpView i = if i = bp then o.resultOver step (q.1.bpView i) else q.1.bpView i := by
    unfold applyResult BpOut.resultOver
    cases o.result with
    | some v =>
      dsimp only
      rw [eccWrite_of_nil hq]
      refine ⟨hq, bpWf_setResult (bpWf_setValue hqw step v) v, fun i => ?_⟩
      rw [bpView_setResult (bpWf_setValue hqw step v), bpView_setValue hqw hstep]
      split <;> rfl
    | none => exact ⟨hq, bpWf_setResult hqw .x, fun i => bpView_setResult hqw .x i⟩
  obtain ⟨e1, w1, v1⟩ := cur (applyReads bp step cycle o s) (by rw [reads]; exact he) (by rw [reads]; exact hw)
  obtain ⟨e2, w2, v2⟩ := stage _ e1 w1
  obtain ⟨e3, w3, v3⟩ := result _ e2 w2
  refine ⟨e3, w3, fun i => ?_⟩
  rw [applyStores, v3, v2, v1, reads]
  split <;> rfl

theorem bpApply_view (g : Nat) : (bpApply s g bp step cycle o).1.bpWf
    ∧ ∀ i, (bpApply s g bp step cycle o).1.bpView i = if i = bp then o.writes step (s.bpView i) else s.bpView i := by
  have e := bpApply_stores s g bp step cycle o
  obtain ⟨-, hwf, hv⟩ := applyStores_view he hw ho hstep (cycle := cycle)
  exact ⟨bpWf_of_stores e hwf, fun i => (bpView_of_stores e i).trans (hv i)⟩

end

theorem bpApply_ecc {s : State} (he : s.ecc = []) (g bp step : Nat) (cycle : Word) (o : BpOut) : (bpApply s g bp step cycle o).1.ecc = [] := by
  refine bpApply_keep (P := fun t : State => t.ecc = []) (fun t st w h => by rw [eccClean_of_nil h]; exact h) (fun _ _ _ h => h) (fun _ _ _ h => h)
    (fun _ _ _ h => h) (fun _ _ h => h) (fun _ _ h => h) (fun _ _ h => h) (fun t h => ?_) (fun _ h => h) he
  obtain ⟨_, _, e⟩ := stopDue_frame t g 1 cycle
  rw [e]; exact h

-- what an instruction yields

theorem stateTarget_lt (d : BitVec 13) : (stateTarget d).getD 0 < 1024 := by
  unfold stateTarget
  split
  · next j h =>
    unfold selOf at h
    dsimp only at h
    split_ifs at h
    cases h
    exact Nat.mod_lt _ (by decide)
  · decide

/-- An instruction writes state entries that exist. -/
theorem bpEval_within (s : State) (bp step : Nat) (cycle : Word) (exact_ : Bool) (i : InsWord) :
    (bpEval s bp step cycle exact_ i).Within := by
  have none {o : BpOut} (hc : o.cur = none) (hs : o.stage = none) : o.Within := by
    unfold BpOut.Within; rw [hc, hs]; simp
  unfold bpEval
  split
  · exact none rfl rfl
  · dsimp only
    split
    case h_8 =>
      refine ⟨fun j v h => ?_, fun j v h => absurd h (by simp [BpOut.plain])⟩
      simp only [Option.map_eq_some_iff, Prod.mk.injEq] at h
      obtain ⟨_, _, hj, _⟩ := h
      exact hj ▸ stateTarget_lt i.d
    case h_9 =>
      refine ⟨fun j v h => absurd h (by simp [BpOut.plain]), fun j v h => ?_⟩
      simp only [Option.map_eq_some_iff, Prod.mk.injEq] at h
      obtain ⟨_, _, hj, _⟩ := h
      exact hj ▸ stateTarget_lt i.d
    all_goals exact none rfl rfl

/-- A state operand of a latch is named by a state selector. -/
theorem selOf_target {i : InsWord} (h : i.illegal = none) (hop : i.op = 7 ∨ i.op = 8) : ∃ j, selOf i.d = .state j ∧ (stateTarget i.d).getD 0 = j := by
  have ht : stateTarget i.d ≠ none := by
    intro e
    have : i.illegal ≠ none := by
      unfold InsWord.illegal
      split_ifs <;> simp_all
    exact this h
  unfold stateTarget at ht ⊢
  split at ht
  · next j hj => exact ⟨j, hj, rfl⟩
  · exact absurd rfl ht

/-- What an operand that is read has met, the instruction has met; a state entry that pends is not read itself by FFNEXT. -/
theorem mem_reads_of_operand {s : State} {bp step : Nat} {cycle : Word} {exact_ : Bool} {i : InsWord} (h : i.illegal = none)
    {w : BitVec 13} (hw : w ∈ i.reads) (hp : ∀ j, selOf w = .state j → s.pendAt bp j = false) {e : ReadEv} (he : e ∈ (s.operand bp cycle w).2) :
    e ∈ (bpEval s bp step cycle exact_ i).reads := by
  unfold bpEval
  rw [h]
  dsimp only
  unfold InsWord.reads at hw
  split
  case h_9 hop =>
    obtain ⟨j, hj, hd⟩ := selOf_target h (.inr hop)
    rw [hop] at hw
    have hpd : w = i.d → s.pendAt bp j = false := fun e => hp j (e ▸ hj)
    dsimp only [BpOut.plain]
    rw [hd]
    by_cases h0 : i.tt.getLsbD 0 = true
    · rw [if_pos h0] at hw
      simp only [List.mem_cons, List.not_mem_nil, or_false] at hw
      rcases hw with rfl | rfl | rfl
      · simp [he]
      · simp [he, h0]
      · simp [he, hpd rfl]
    · rw [if_neg h0] at hw
      simp only [List.mem_cons, List.not_mem_nil, or_false] at hw
      rcases hw with rfl | rfl
      · simp [he]
      · simp [he, hpd rfl]
  all_goals grind [BpOut.plain]

/-- What an instruction has met, an operand that it reads has met, or its held value, or a staged copy. -/
theorem operand_of_mem_reads {s : State} {bp step : Nat} {cycle : Word} {exact_ : Bool} {i : InsWord} {e : ReadEv}
    (he : e ∈ (bpEval s bp step cycle exact_ i).reads) : i.illegal = none
      ∧ ((∃ w ∈ i.reads, e ∈ (s.operand bp cycle w).2) ∨ e ∈ eccEv (s.eccAt 1 (bp * 512 + step / 8)) 1 step
        ∨ ∃ j, e ∈ eccEv (s.eccAt 8 (bp * 128 + j / 8)) 8 j) := by
  unfold bpEval at he
  split at he
  · exact absurd he (by simp [BpOut.bad, BpOut.plain])
  · next h =>
    refine ⟨h, ?_⟩
    dsimp only at he
    unfold InsWord.reads
    split at he
    case h_9 hop =>
      rw [hop]
      simp only [BpOut.plain, List.mem_append] at he
      rcases he with (he | he) | he
      · refine .inl ⟨i.a, ?_, he⟩
        split_ifs <;> simp
      · split at he
        · next h0 => exact .inl ⟨i.b, by simp [h0], he⟩
        · exact absurd he (by simp)
      · split at he
        · exact .inr (.inr ⟨_, he⟩)
        · refine .inl ⟨i.d, ?_, he⟩
          split_ifs <;> simp
    all_goals grind [BpOut.plain, BpOut.bad]

/-- A read of a code word in error is of a word that is marked so. -/
theorem eccEv_mem {state st e st' e' : Nat} : (ReadEv.ce st e ∈ eccEv state st' e' → state = 1 ∧ st = st' ∧ e = e')
    ∧ (∀ r, ReadEv.stale r ∉ eccEv state st' e') := by
  unfold eccEv
  split_ifs <;> simp_all

end Sys2Proof.Machine
end

-- ==== A step: its ports ====
section
/-! PROOFS. What a port word can change (R75 to R87): the queues and the bank of its own cluster; it works on the write side as the step before
left it (R77), and raises MEM_COLLIDE where its slots meet (R82). -/
namespace Sys2Proof.Machine

-- the port of a cluster in a step: what a property is to keep through (R75 to R87)

section
variable {P : State → Prop} {s : State} {c : Nat}

/-- What a change of a cluster keeps, a request for HBM keeps. -/
theorem hbmOp_keep (hcluster : ∀ t v, P t → P (t.setCluster c v)) (hs : P s) (p : Port) (op : Nat) (ad : PortAddr) (n : Nat) (y : Word) :
    P (hbmOp s p c op ad n y).s := by
  unfold hbmOp
  extract_lets v off land full req u l en w sig
  split
  · exact hs
  · split
    · split
      · exact hcluster _ _ hs
      · exact hcluster _ _ (hcluster _ _ hs)
    · split
      · exact hs
      · split
        · exact hs
        · exact hcluster _ _ hs

theorem insetOp_keep (hcluster : ∀ t v, P t → P (t.setCluster c v)) (hbridge : ∀ t b v, P t → P (State.setBridge t b v)) (hs : P s) (p : Port)
    (op b n : Nat) (y : Word) : P (insetOp s p c op b n y).s := by
  unfold insetOp
  dsimp only
  split
  · exact hcluster _ _ (hbridge _ _ _ hs)
  · split_ifs
    · exact hs
    · exact hs
    · exact hcluster _ _ hs
  · exact hcluster _ _ hs
  · exact hs

theorem ship_keep (hcluster : ∀ t v, P t → P (t.setCluster c v)) (hs : P s) (p : Port) (n : Nat) (y : Word) : P (ship s p c n y).s := by
  unfold ship
  dsimp only
  split
  · exact hs
  · split_ifs <;> exact hcluster _ _ hs

/-- What a slot of the port can do to a state. -/
structure KeptByPort (P : State → Prop) (c : Nat) : Prop where
  cluster : ∀ t v, P t → P (t.setCluster c v)
  bridge : ∀ t b v, P t → P (State.setBridge t b v)
  clean : ∀ t st w, 5 ≤ st → P t → P (t.eccClean st w)
  bank : ∀ t w d, w < 65536 → P t → P { t with bank := memSetWord (bankAddr c w) d t.bank }
  conf : ∀ t m, P t → P { t with confOpp := m }
  parcel : ∀ t p f, (∀ v, (f v).load = v.load) → P t → P (State.updParcel t p f)

theorem slotAddr_lt {p : Port} {slot : Slot} {ad : PortAddr} {w : Nat} (h : slotAddr p slot ad = some w) : w < 65536 := by
  rw [slotAddr_eq] at h
  split at h
  · exact absurd h (by simp)
  · obtain rfl := Option.some.inj h
    exact Nat.mod_lt _ (by decide)

theorem bankStore_keep (hP : KeptByPort P c) (hs : P s) {w : Nat} (hw : w < 65536) (d : Word) : P (s.bankStore c w d) := by
  unfold State.bankStore
  dsimp only
  split
  · exact hP.cluster _ _ (hP.clean _ _ _ (by decide) (hP.bank _ _ _ hw hs))
  · exact hP.clean _ _ _ (by decide) (hP.bank _ _ _ hw hs)

theorem bankSlot_keep (hP : KeptByPort P c) (hs : P s) (p : Port) (slot : Slot) (op : Nat) (ad : PortAddr) (f : Bool) (n : Nat) :
    P (bankSlot s p c slot op ad f n).s := by
  have read (a : Option Nat) : P (bankSlotRead s c slot a f n).s := by
    unfold bankSlotRead
    dsimp only
    split
    · exact hP.cluster _ _ hs
    · dsimp only
      split
      · exact hP.cluster _ _ hs
      · exact hP.cluster _ _ (hP.cluster _ _ hs)
  have abandon (t : State) (w : Nat) (ht : P t) : P (t.abandonAtomic c slot w) := by
    unfold State.abandonAtomic
    split
    · split
      · unfold State.countConflict
        split
        · exact hP.cluster _ _ ht
        · exact hP.parcel _ _ _ (fun _ => rfl) (hP.conf _ _ (hP.cluster _ _ ht))
      · exact ht
    · exact ht
  have write (en : V4) (d : Word) : P (bankSlotWrite s c slot (slotAddr p slot ad) en d).s := by
    unfold bankSlotWrite
    dsimp only
    split
    · next w v ha hv => exact abandon _ w (bankStore_keep hP hs (slotAddr_lt ha) v)
    · exact hs
  unfold bankSlot
  split
  · exact read _
  · exact write _ _
  · exact write _ _
  · exact hs

theorem countHeavy_keep (hP : KeptByPort P c) (hs : P s) (p w : Nat) : P (s.countHeavy p w) := by
  unfold State.countHeavy
  split
  · exact hs
  · exact hP.parcel _ _ _ (fun _ => rfl) hs

/-- The five actions of a port word, after the check of the word itself. -/
def portRun (ce : PortOut) (p : Port) (c step : Nat) (cycle : Word) (i : PortIns) : PortOut :=
  let col := collides p i.aop i.bop i.a i.b
  ((((ce.andThen fun t => bankSlot t p c .a i.aop i.a (col && decide (i.aop = 1)) step).andThen
    fun t => bankSlot t p c .b i.bop i.b (col && decide (i.bop = 1)) step).andThen
    fun t => hbmOp t p c i.hop i.h step cycle).andThen
    fun t => insetOp t p c i.iop i.br step cycle).andThen
    fun t => if i.ship then ship t p c step cycle else { s := t, f := [], sig := [] }

theorem portRun_keep (hP : KeptByPort P c) {ce : PortOut} (hs : P ce.s) (p : Port) (n : Nat) (y : Word) (i : PortIns) :
    P (portRun ce p c n y i).s := by
  have shipped (t : State) (h : P t) : P (if i.ship then ship t p c n y else { s := t, f := [], sig := [] }).s := by
    split
    · exact ship_keep hP.cluster h p n y
    · exact h
  exact shipped _ (insetOp_keep hP.cluster hP.bridge (hbmOp_keep hP.cluster (bankSlot_keep hP (bankSlot_keep hP hs ..) ..) ..) ..)

/-- What the check of a port word finds (R51, R86). -/
def portFetch (c step : Nat) (cycle : Word) : FaultEv × FaultEv :=
  let fe (code : Nat) : FaultEv :=
    { code := code, unit := clParcel c, access := 4, master := designMaster c, address := storeAddr 5 c 0 step, cycle := cycle }
  (fe 0x2001, fe 0x2002)

/-- The state and the faults with which the actions of a port word begin. -/
def portChecked (s : State) (c step : Nat) (cycle : Word) : PortOut :=
  if s.eccAt 5 (c * 4096 + step) = 1 then
    { s := s.eccClean 5 (c * 4096 + step), f := [(portFetch c step cycle).1], sig := [] }
  else { s := s, f := [], sig := [] }

theorem portStep_eq (s : State) (p : Port) (c step : Nat) (cycle : Word) (w : BitVec 72) : portStep s p c step cycle w
    = if s.eccAt 5 (c * 4096 + step) = 2 then { s := s, f := [(portFetch c step cycle).2], sig := [] }
      else if (portInsOf w).bad then { s := s, f := [portFault 0x1007 4 c step cycle 0 0], sig := [] }
      else
        let o := portRun (portChecked s c step cycle) p c step cycle (portInsOf w)
        { o with
          s := o.s.countHeavy (clParcel c) (portInsOf w).heavy
          f := (if collides p (portInsOf w).aop (portInsOf w).bop (portInsOf w).a (portInsOf w).b then
              [portFault 0x1006 5 c step cycle 3 ((slotAddr p .a (portInsOf w).a).getD 0)] else []) ++ o.f } := rfl

theorem portStep_keep (hP : KeptByPort P c) (hs : P s) (p : Port) (n : Nat) (y : Word) (w : BitVec 72) : P (portStep s p c n y w).s := by
  have checked : P (portChecked s c n y).s := by
    unfold portChecked
    split
    · exact hP.clean _ _ _ (by decide) hs
    · exact hs
  rw [portStep_eq]
  split
  · exact hs
  · split
    · exact hs
    · exact countHeavy_keep hP (portRun_keep hP checked p n y (portInsOf w)) _ _
end

-- what the ports of a step raise, and what they leave

theorem bankSlot_faults (s : State) (p : Port) (c : Nat) (slot : Slot) (op : Nat) (ad : PortAddr) (f : Bool) (n : Nat) :
    (bankSlot s p c slot op ad f n).f = [] := by
  have read (a : Option Nat) : (bankSlotRead s c slot a f n).f = [] := by unfold bankSlotRead; dsimp only; split <;> rfl
  have write (a : Option Nat) (en : V4) (d : Word) : (bankSlotWrite s c slot a en d).f = [] := by
    unfold bankSlotWrite; dsimp only; split <;> rfl
  unfold bankSlot
  split
  · exact read _
  · exact write _ _ _
  · exact write _ _ _
  · rfl

theorem hbmOp_codes (s : State) (p : Port) (c op : Nat) (ad : PortAddr) (n : Nat) (y : Word) :
    ∀ e ∈ (hbmOp s p c op ad n y).f, e.code = 0x1004 := by
  unfold hbmOp
  extract_lets v off land full req u l en w sig
  split
  · simp
  · split
    · split <;> simp [portFault]
    · split
      · simp [portFault]
      · split <;> simp [portFault]

theorem insetOp_codes (s : State) (p : Port) (c op b n : Nat) (y : Word) : ∀ e ∈ (insetOp s p c op b n y).f, e.code = 0x1004 := by
  unfold insetOp
  dsimp only
  split
  · simp
  · split_ifs <;> simp [portFault]
  · simp
  · simp

theorem ship_codes (s : State) (p : Port) (c n : Nat) (y : Word) : ∀ e ∈ (ship s p c n y).f, e.code = 0x1004 := by
  unfold ship
  dsimp only
  split
  · simp
  · split_ifs <;> simp [portFault]

/-- The actions of a port word overflow queues, and raise nothing else (R83). -/
theorem portRun_codes (ce : PortOut) (p : Port) (c n : Nat) (y : Word) (i : PortIns) :
    ∀ e ∈ (portRun ce p c n y i).f, e ∈ ce.f ∨ e.code = 0x1004 := by
  intro e he
  unfold portRun PortOut.andThen at he
  dsimp only at he
  rw [bankSlot_faults, bankSlot_faults, List.append_nil, List.append_nil] at he
  simp only [List.mem_append] at he
  rcases he with ((he | he) | he) | he
  · exact .inl he
  · exact .inr (hbmOp_codes _ _ _ _ _ _ _ e he)
  · exact .inr (insetOp_codes _ _ _ _ _ _ _ e he)
  · split at he
    · exact .inr (ship_codes _ _ _ _ _ e he)
    · exact absurd he (by simp)

/-- Both slots meet on one word, which one of them writes and the other reads (R82). -/
theorem collides_iff (p : Port) (aop bop : Nat) (a b : PortAddr) : collides p aop bop a b = true
    ↔ ∃ w : Nat, slotAddr p .a a = some w ∧ slotAddr p .b b = some w ∧ (aop = 1 ∧ 2 ≤ bop ∨ 2 ≤ aop ∧ bop = 1) := by
  unfold collides
  simp only [Bool.and_eq_true, Bool.or_eq_true, decide_eq_true_eq, Option.isSome_iff_exists]
  constructor
  · rintro ⟨⟨⟨w, hw⟩, he⟩, ho⟩
    exact ⟨w, hw, he ▸ hw, ho⟩
  · rintro ⟨w, ha, hb, ho⟩
    exact ⟨⟨⟨w, ha⟩, ha.trans hb.symm⟩, ho⟩

/-- The faults of a port whose word is clean. -/
theorem portStep_codes {s : State} {c n : Nat} (he : s.eccAt 5 (c * 4096 + n) = 0) (p : Port) (y : Word) (w : BitVec 72) :
    (∀ e ∈ (portStep s p c n y w).f, e.code = 0x1004 ∨ e.code = 0x1007
        ∨ e.code = 0x1006 ∧ (portInsOf w).bad = false ∧ collides p (portInsOf w).aop (portInsOf w).bop (portInsOf w).a (portInsOf w).b = true)
      ∧ ((portInsOf w).bad = false → collides p (portInsOf w).aop (portInsOf w).bop (portInsOf w).a (portInsOf w).b = true →
        ∃ e ∈ (portStep s p c n y w).f, e.code = 0x1006) := by
  have hce : portChecked s c n y = { s := s, f := [], sig := [] } := by
    unfold portChecked; rw [if_neg (by rw [he]; decide)]
  rw [portStep_eq, if_neg (by rw [he]; decide), hce]
  cases hbad : (portInsOf w).bad with
  | true => simp [portFault]
  | false =>
    simp only [Bool.false_eq_true, if_false]
    cases hcol : collides p (portInsOf w).aop (portInsOf w).bop (portInsOf w).a (portInsOf w).b with
    | true =>
      refine ⟨fun e hm => ?_, fun _ _ => ⟨_, List.mem_append_left _ (List.mem_singleton_self _), rfl⟩⟩
      rcases List.mem_append.mp hm with hm | hm
      · simp only [if_true, List.mem_singleton] at hm
        rw [hm]; simp [portFault]
      · rcases portRun_codes _ _ _ _ _ _ e hm with h | h
        · exact absurd h (by simp)
        · exact .inl h
    | false =>
      refine ⟨fun e hm => ?_, fun _ h => absurd h (by simp)⟩
      rcases List.mem_append.mp hm with hm | hm
      · exact absurd hm (by simp)
      · rcases portRun_codes _ _ _ _ _ _ e hm with h | h
        · exact absurd h (by simp)
        · exact .inl h

/-- No code word of a store from 5 on is marked. -/
def LowMarks (E : SMap Nat) : Prop := ∀ st w, 5 ≤ st → mset 0 (eccKey st w) 0 E = E

theorem lowMarks_nil : LowMarks [] := fun _ _ _ => rfl

theorem lowMarks_single {store w m : Nat} (hs : store ≤ 4) (hw : w < 2 ^ 44) : LowMarks [(eccKey store w, m)] := by
  intro st v hst
  have h : eccKey store w < eccKey st v := by unfold eccKey; omega
  simp [mset, h.ne]

theorem live_updParcel {t : State} {i : Nat} {f : Parcel → Parcel} (hf : ∀ v, (f v).load = v.load) {p : Nat} (hp : t.live p = true) :
    (t.updParcel i f).live p = true := by
  have hl : (t.parcel p).load = .loaded := of_decide_eq_true hp
  have := mget_mset_reads (f := Parcel.load) (d := Parcel.init) (k := p) (hf (t.parcel i)) (by
    rw [show mget Parcel.init p t.parcels = t.parcel p from rfl, hl]; decide)
  exact decide_eq_true (this.trans hl)

/-- From `s` to `t` the stores that instructions write, the check marks and the port tables are the same, and LOADED parcels stay LOADED. -/
structure Aside (s t : State) : Prop where
  stores : t.bpStores = s.bpStores
  ecc : t.ecc = s.ecc
  ptable : t.ptable = s.ptable
  live : ∀ p, s.live p = true → t.live p = true

theorem Aside.refl (s : State) : Aside s s := ⟨rfl, rfl, rfl, fun _ h => h⟩

theorem Aside.trans {s t u : State} (h : Aside s t) (k : Aside t u) : Aside s u :=
  ⟨k.stores.trans h.stores, k.ecc.trans h.ecc, k.ptable.trans h.ptable, fun p hp => k.live p (h.live p hp)⟩

theorem keptByPort_aside {s : State} (hE : LowMarks s.ecc) (c : Nat) : KeptByPort (Aside s) c where
  cluster _ _ h := ⟨h.stores, h.ecc, h.ptable, h.live⟩
  bridge _ _ _ h := ⟨h.stores, h.ecc, h.ptable, h.live⟩
  clean t st w hst h := ⟨h.stores, (show mset 0 (eccKey st w) 0 t.ecc = s.ecc by rw [h.ecc]; exact hE st w hst), h.ptable, h.live⟩
  bank _ _ _ _ h := ⟨h.stores, h.ecc, h.ptable, h.live⟩
  conf _ _ h := ⟨h.stores, h.ecc, h.ptable, h.live⟩
  parcel _ _ _ hf h := ⟨h.stores, h.ecc, h.ptable, fun p hp => live_updParcel hf (h.live p hp)⟩

/-- A port writes to the bank of its own cluster. -/
theorem keptByPort_bankWord (s : State) {c d w : Nat} (hd : d ≠ c) (hw : w < 65536) :
    KeptByPort (fun t => memWf t.bank = true ∧ t.bankWord d w = s.bankWord d w) c where
  cluster _ _ h := h
  bridge _ _ _ h := h
  clean _ _ _ _ h := h
  conf _ _ h := h
  parcel _ _ _ _ h := h
  bank _ _ x hv h := ⟨memWf_memSetWord h.1, (memWord_memSetWord_apart h.1 x (bankAddr_apart hv hw (.inl hd))).trans h.2⟩

theorem keptByPort_memWf (c : Nat) : KeptByPort (fun t => memWf t.bank = true) c where
  cluster _ _ h := h
  bridge _ _ _ h := h
  clean _ _ _ _ h := h
  conf _ _ h := h
  parcel _ _ _ _ h := h
  bank _ _ _ _ h := memWf_memSetWord h

theorem abandonAtomic_bank (s : State) (c : Nat) (slot : Slot) (w : Nat) : (s.abandonAtomic c slot w).bank = s.bank := by
  unfold State.abandonAtomic
  split
  · split
    · unfold State.countConflict; split <;> rfl
    · rfl
  · rfl

theorem countHeavy_bank (s : State) (p w : Nat) : (s.countHeavy p w).bank = s.bank := by
  unfold State.countHeavy; split <;> rfl

theorem bankSlot_write_bank (s : State) {p : Port} {c w : Nat} {slot : Slot} {ad : PortAddr} (h : slotAddr p slot ad = some w) (f : Bool) (n : Nat) :
    (bankSlot s p c slot 2 ad f n).s.bank = memSetWord (bankAddr c w) (p.staging.setWidth 64) s.bank := by
  unfold bankSlot bankSlotWrite
  simp only [h, enabledData]
  rw [abandonAtomic_bank, bankStore_bank]

/-- Slot A alone writes the staging word at its fixed address (R76, R78). -/
theorem portStep_writes {s : State} (hm : memWf s.bank = true) {c n : Nat} (he : s.eccAt 5 (c * 4096 + n) = 0) (p : Port) (y : Word) {w : BitVec 72}
    (hbad : (portInsOf w).bad = false) (ha : (portInsOf w).aop = 2) (hb : (portInsOf w).bop = 0) (hi : (portInsOf w).a.idx = false) :
    (portStep s p c n y w).s.bankWord c (portInsOf w).a.addr.toNat = p.staging.setWidth 64 := by
  have hce : portChecked s c n y = { s := s, f := [], sig := [] } := by
    unfold portChecked; rw [if_neg (by rw [he]; decide)]
  have haddr : slotAddr p .a (portInsOf w).a = some (portInsOf w).a.addr.toNat := slotAddr_known (.inl ⟨hi, rfl⟩)
  generalize hB : memSetWord (bankAddr c (portInsOf w).a.addr.toNat) (p.staging.setWidth 64) s.bank = B
  have run : (portRun { s := s, f := [], sig := [] } p c n y (portInsOf w)).s.bank = B := by
    have slotB (t : State) (f : Bool) : bankSlot t p c .b (portInsOf w).bop (portInsOf w).b f n = { s := t, f := [], sig := [] } := by
      rw [hb]; rfl
    have written : (bankSlot s p c .a (portInsOf w).aop (portInsOf w).a
        (collides p (portInsOf w).aop (portInsOf w).bop (portInsOf w).a (portInsOf w).b && decide ((portInsOf w).aop = 1)) n).s.bank = B := by
      rw [← hB, ha]; exact bankSlot_write_bank s haddr _ n
    have shipped (t : State) (h : t.bank = B) : (if (portInsOf w).ship then ship t p c n y else { s := t, f := [], sig := [] }).s.bank = B := by
      split
      · exact ship_keep (P := fun t => t.bank = B) (fun _ _ h => h) h p n y
      · exact h
    unfold portRun PortOut.andThen
    dsimp only
    rw [slotB]
    exact shipped _ (insetOp_keep (P := fun t => t.bank = B) (fun _ _ h => h) (fun _ _ _ h => h)
      (hbmOp_keep (P := fun t => t.bank = B) (fun _ _ h => h) written ..) ..)
  rw [portStep_eq, if_neg (by rw [he]; decide), hbad, if_neg (by simp), hce, State.bankWord]
  dsimp only
  rw [countHeavy_bank, run, ← hB, memWord_memSetWord hm]

/-- The port word of a cluster at a step. -/
def State.portWord (s : State) (p c : Nat) : PortIns := portInsOf (mget 0 (c * 4096 + p) s.ptable)

/-- The port of a cluster executes a word whose slots meet on one bank word (R82). -/
def State.portMeets (s : State) (p c : Nat) : Prop :=
  (s.portWord p c).bad = false
    ∧ collides (s.cluster c).port (s.portWord p c).aop (s.portWord p c).bop (s.portWord p c).a (s.portWord p c).b = true

section
variable {pre : State} {p : Nat} {n : Word}

theorem portTurns_aside (hE : LowMarks pre.ecc) : ∀ (cs : List Nat) {acc : State × List FaultEv × List (Nat × List Byte)}, Aside pre acc.1 →
    Aside pre (cs.foldl (portTurn pre p n) acc).1
  | [], _, h => h
  | c :: cs, _, h => portTurns_aside hE cs (portStep_keep (keptByPort_aside hE c) h ..)

theorem portTurns_codes (he : pre.ecc = []) : ∀ (cs : List Nat) {acc : State × List FaultEv × List (Nat × List Byte)}, Aside pre acc.1 →
    (∀ e ∈ (cs.foldl (portTurn pre p n) acc).2.1, e ∈ acc.2.1 ∨ e.code = 0x1004 ∨ e.code = 0x1007
        ∨ e.code = 0x1006 ∧ ∃ c ∈ cs, pre.portMeets p c)
      ∧ (∀ e ∈ acc.2.1, e ∈ (cs.foldl (portTurn pre p n) acc).2.1)
      ∧ ((∃ c ∈ cs, pre.portMeets p c) → ∃ e ∈ (cs.foldl (portTurn pre p n) acc).2.1, e.code = 0x1006)
  | [], _, _ => ⟨fun _ h => .inl h, fun _ h => h, fun ⟨_, h, _⟩ => absurd h List.not_mem_nil⟩
  | c :: cs, acc, h => by
    have hE : LowMarks pre.ecc := he ▸ lowMarks_nil
    have h' : Aside pre (portTurn pre p n acc c).1 := portStep_keep (keptByPort_aside hE c) h ..
    obtain ⟨only, kept, meets⟩ := portTurns_codes he cs h'
    have hclean : acc.1.eccAt 5 (c * 4096 + p) = 0 := eccAt_of_nil (h.ecc.trans he) _ _
    obtain ⟨mine, found⟩ := portStep_codes hclean (pre.cluster c).port n (mget 0 (c * 4096 + p) acc.1.ptable)
    rw [h.ptable] at mine found
    have hf : (portTurn pre p n acc c).2.1 = acc.2.1 ++ (portStep acc.1 (pre.cluster c).port c p n (mget 0 (c * 4096 + p) pre.ptable)).f := by
      rw [← h.ptable]; rfl
    refine ⟨fun e hm => ?_, fun e hm => kept e (hf ▸ List.mem_append_left _ hm), ?_⟩
    · rcases only e hm with hm | hm | hm | ⟨hm, d, hd, hmeet⟩
      · rw [hf] at hm
        rcases List.mem_append.mp hm with hm | hm
        · exact .inl hm
        · rcases mine e hm with hc | hc | ⟨hc, hmeet⟩
          · exact .inr (.inl hc)
          · exact .inr (.inr (.inl hc))
          · exact .inr (.inr (.inr ⟨hc, c, List.mem_cons_self, hmeet⟩))
      · exact .inr (.inl hm)
      · exact .inr (.inr (.inl hm))
      · exact .inr (.inr (.inr ⟨hm, d, List.mem_cons_of_mem _ hd, hmeet⟩))
    · rintro ⟨d, hd, hmeet⟩
      rcases List.mem_cons.mp hd with rfl | hd
      · obtain ⟨e, hm, hc⟩ := found hmeet.1 hmeet.2
        exact ⟨e, kept e (hf ▸ List.mem_append_right _ hm), hc⟩
      · exact meets ⟨d, hd, hmeet⟩

/-- A cluster whose port word writes its staging word by slot A alone, at a fixed address. -/
structure WritesA (i : PortIns) : Prop where
  good : i.bad = false
  aop : i.aop = 2
  bop : i.bop = 0
  fixed : i.a.idx = false

theorem portTurn_writes (he : pre.ecc = []) {acc : State × List FaultEv × List (Nat × List Byte)} (h : Aside pre acc.1)
    (hm : memWf acc.1.bank = true) {c : Nat} (hw : WritesA (pre.portWord p c)) :
    (portTurn pre p n acc c).1.bankWord c (pre.portWord p c).a.addr.toNat = (pre.cluster c).port.staging.setWidth 64 := by
  obtain ⟨hbad, ha, hb, hi⟩ := hw
  unfold State.portWord at hbad ha hb hi ⊢
  have hturn : (portTurn pre p n acc c).1 = (portStep acc.1 (pre.cluster c).port c p n (mget 0 (c * 4096 + p) pre.ptable)).s := by
    rw [← h.ptable]; rfl
  rw [hturn]
  exact portStep_writes hm (eccAt_of_nil (h.ecc.trans he) _ _) _ n hbad ha hb hi

theorem portTurn_bankWord {acc : State × List FaultEv × List (Nat × List Byte)} (hm : memWf acc.1.bank = true) {c d w : Nat} (hd : c ≠ d)
    (hw : w < 65536) : (portTurn pre p n acc d).1.bankWord c w = acc.1.bankWord c w :=
  (portStep_keep (keptByPort_bankWord acc.1 hd hw) ⟨hm, rfl⟩ (pre.cluster d).port p n (mget 0 (d * 4096 + p) acc.1.ptable)).2

/-- A slot A write of the step stands in the bank when all ports have worked. -/
theorem portTurns_writes (he : pre.ecc = []) {c : Nat} (hw : WritesA (pre.portWord p c)) (cs : List Nat) :
    ∀ {acc : State × List FaultEv × List (Nat × List Byte)}, Aside pre acc.1 → memWf acc.1.bank = true →
      (acc.1.bankWord c (pre.portWord p c).a.addr.toNat = (pre.cluster c).port.staging.setWidth 64 ∨ c ∈ cs) →
      (cs.foldl (portTurn pre p n) acc).1.bankWord c (pre.portWord p c).a.addr.toNat = (pre.cluster c).port.staging.setWidth 64 := by
  induction cs with
  | nil => exact fun _ _ h => h.resolve_right List.not_mem_nil
  | cons d cs ih =>
    intro acc h hm hor
    have hE : LowMarks pre.ecc := he ▸ lowMarks_nil
    have h' : Aside pre (portTurn pre p n acc d).1 := portStep_keep (keptByPort_aside hE d) h ..
    have hm' : memWf (portTurn pre p n acc d).1.bank = true := portStep_keep (keptByPort_memWf d) hm ..
    refine ih h' hm' ?_
    by_cases hd : c = d
    · subst hd
      exact .inl (portTurn_writes he h hm hw)
    · have hlt : (pre.portWord p c).a.addr.toNat < 65536 := (pre.portWord p c).a.addr.isLt
      rw [portTurn_bankWord hm hd hlt]
      exact hor.imp_right fun hc => (List.mem_cons.mp hc).resolve_left hd

end

theorem stepPorts_aside {pre : State} (hE : LowMarks pre.ecc) (cs : List Nat) (p : Nat) (n : Word) : Aside pre (stepPorts pre cs p n).1 :=
  portTurns_aside hE cs (Aside.refl pre)

end Sys2Proof.Machine
end

-- ==== A step: all its instructions, and what follows them ====
section
/-! PROOFS. Who has the evaluator (R47, R48); the BPs write one after the other, each what it yields from the state before; what follows leaves
their stores alone. -/
namespace Sys2Proof.Machine

-- what instructions read of a state

/-- Instructions read the same in both states. -/
structure SameReads (s t : State) : Prop where
  stores : t.bpStores = s.bpStores
  slots : t.slots = s.slots
  ecc : t.ecc = s.ecc
  istore : t.istore = s.istore
  ptable : t.ptable = s.ptable
  parcels : t.parcels = s.parcels
  cluster : ∀ c, t.cluster c = s.cluster c

namespace SameReads
variable {s t u : State} (h : SameReads s t)
include h

theorem trans (k : SameReads t u) : SameReads s u :=
  ⟨k.stores.trans h.stores, k.slots.trans h.slots, k.ecc.trans h.ecc, k.istore.trans h.istore, k.ptable.trans h.ptable,
    k.parcels.trans h.parcels, fun c => (k.cluster c).trans (h.cluster c)⟩

theorem parcel (p : Nat) : t.parcel p = s.parcel p := by unfold State.parcel; rw [h.parcels]
theorem live (p : Nat) : t.live p = s.live p := by unfold State.live; rw [h.parcel]
theorem eccAt (st w : Nat) : t.eccAt st w = s.eccAt st w := by unfold State.eccAt; rw [h.ecc]
theorem valueAt (bp e : Nat) : t.valueAt bp e = s.valueAt bp e := by
  have := congrArg (·.1) h.stores
  unfold State.valueAt; rw [h.live, show t.values = s.values from this]
theorem resultAt (bp : Nat) : t.resultAt bp = s.resultAt bp := by
  have := congrArg (·.2.1) h.stores
  unfold State.resultAt; rw [h.live, show t.result = s.result from this]
theorem curAt (bp j : Nat) : t.curAt bp j = s.curAt bp j := by
  have := congrArg (·.2.2.1) h.stores
  unfold State.curAt; rw [h.live, show t.cur = s.cur from this]
theorem stgAt (bp j : Nat) : t.stgAt bp j = s.stgAt bp j := by
  have := congrArg (·.2.2.2.1) h.stores
  unfold State.stgAt; rw [h.live, show t.stg = s.stg from this]
theorem pendAt (bp j : Nat) : t.pendAt bp j = s.pendAt bp j := by
  have := congrArg (·.2.2.2.2) h.stores
  unfold State.pendAt; rw [show t.pend = s.pend from this]
theorem slotAt (c r : Nat) : t.slotAt c r = s.slotAt c r := by unfold State.slotAt; rw [h.live, h.slots]

theorem operand (bp : Nat) (n : Word) (w : BitVec 13) : t.operand bp n w = s.operand bp n w := by
  unfold State.operand
  split <;> simp only [h.eccAt, h.valueAt, h.curAt, h.resultAt, h.slotAt, h.cluster]

theorem bpEval (bp p : Nat) (n : Word) (ex : Bool) (i : InsWord) : bpEval t bp p n ex i = bpEval s bp p n ex i := by
  unfold Machine.bpEval
  simp only [h.operand, h.eccAt, h.valueAt, h.pendAt, h.stgAt, h.cluster]

end SameReads

-- the instructions of a step, and who has the evaluator (R47, R48)

/-- The instruction of a BP at a step. -/
def State.stepIns (s : State) (p bp : Nat) : InsWord := insOf (mget 0 (bp * 4096 + p) s.istore)

/-- A BP whose instruction issues to the evaluator of its group of four after that of a lower one (R48). -/
def State.loses (s : State) (p bp : Nat) : Bool :=
  (s.stepIns p bp).exactIssue && (List.range bp).any fun b => decide (b / 4 = bp / 4) && (s.stepIns p b).exactIssue

theorem loses_iff (s : State) (p bp : Nat) : s.loses p bp = true
    ↔ (s.stepIns p bp).exactIssue = true ∧ ∃ b < bp, b / 4 = bp / 4 ∧ (s.stepIns p b).exactIssue = true := by
  unfold State.loses
  simp

/-- The evaluator is not asked for by the instructions that do not issue to it. -/
theorem bpEval_exact_of_not_issue {i : InsWord} (h : i.exactIssue = false) (s : State) (bp p : Nat) (n : Word) (ex ex' : Bool) :
    bpEval s bp p n ex i = bpEval s bp p n ex' i := by
  unfold bpEval
  split
  · rfl
  · next hi =>
    have hop : i.op ≠ 1 ∧ i.op ≠ 6 := by
      unfold InsWord.exactIssue at h
      simpa [hi] using h
    dsimp only
    split
    case h_2 e => exact absurd e hop.1
    case h_7 e => exact absurd e hop.2
    all_goals rfl

section
variable (ins : Nat → Option InsWord)

/-- The BP issues to its evaluator. -/
def issuesTo (b : Nat) : Bool := match ins b with | some i => i.exactIssue | none => false

theorem evaluators_eq (grp : Nat) : evaluators ins grp = [4 * grp, 4 * grp + 1, 4 * grp + 2, 4 * grp + 3].filter (issuesTo ins) := rfl

/-- The lowest of those that issue has the evaluator. -/
theorem evaluators_head (b : Nat) :
    (evaluators ins (b / 4)).head? = some b ↔ issuesTo ins b = true ∧ ∀ a < b, a / 4 = b / 4 → issuesTo ins a = false := by
  rw [evaluators_eq, List.head?_filter]
  generalize issuesTo ins = q
  constructor
  · intro h
    have hq : q b = true := List.find?_some h
    refine ⟨hq, fun a ha hg => ?_⟩
    have hm := List.mem_of_find?_eq_some h
    simp only [List.mem_cons, List.not_mem_nil, or_false] at hm
    have ha' : a = 4 * (b / 4) ∨ a = 4 * (b / 4) + 1 ∨ a = 4 * (b / 4) + 2 := by omega
    by_contra hne
    have hqa : q a = true := by simpa using hne
    simp only [List.find?_cons] at h
    generalize 4 * (b / 4) = k at *
    rcases ha' with rfl | rfl | rfl
    · rw [hqa] at h; simp at h; omega
    · rw [hqa] at h; split at h <;> simp at h <;> omega
    · rw [hqa] at h; split at h
      · simp at h; omega
      · split at h <;> simp at h <;> omega
  · rintro ⟨hq, hlow⟩
    have hb : b = 4 * (b / 4) ∨ b = 4 * (b / 4) + 1 ∨ b = 4 * (b / 4) + 2 ∨ b = 4 * (b / 4) + 3 := by omega
    have low (a : Nat) (h : a < b) (hg : a / 4 = b / 4) := hlow a h hg
    generalize hk : b / 4 = k at *
    rcases hb with rfl | rfl | rfl | rfl
    · simp [hq]
    · simp [hq, low (4 * k) (by omega) (by omega)]
    · simp [hq, low (4 * k) (by omega) (by omega), low (4 * k + 1) (by omega) (by omega)]
    · simp [hq, low (4 * k) (by omega) (by omega), low (4 * k + 1) (by omega) (by omega), low (4 * k + 2) (by omega) (by omega)]

/-- Two of a group of four that issue clash. -/
theorem evaluators_clash (grp : Nat) :
    2 ≤ (evaluators ins grp).length ↔ ∃ a b, a < b ∧ a / 4 = grp ∧ b / 4 = grp ∧ issuesTo ins a = true ∧ issuesTo ins b = true := by
  rw [evaluators_eq]
  generalize issuesTo ins = q
  constructor
  · intro h
    have hs : ([4 * grp, 4 * grp + 1, 4 * grp + 2, 4 * grp + 3].filter q).Pairwise (· < ·) :=
      List.Pairwise.sublist List.filter_sublist (by simp)
    have hm : ∀ x ∈ [4 * grp, 4 * grp + 1, 4 * grp + 2, 4 * grp + 3].filter q, x / 4 = grp ∧ q x = true := by
      intro x hx
      obtain ⟨hin, hq⟩ := List.mem_filter.mp hx
      simp only [List.mem_cons, List.not_mem_nil, or_false] at hin
      exact ⟨by omega, hq⟩
    generalize [4 * grp, 4 * grp + 1, 4 * grp + 2, 4 * grp + 3].filter q = l at *
    match l, h with
    | a :: b :: l, _ =>
      obtain ⟨ga, qa⟩ := hm a (by simp)
      obtain ⟨gb, qb⟩ := hm b (by simp)
      exact ⟨a, b, (List.pairwise_cons.mp hs).1 b (by simp), ga, gb, qa, qb⟩
  · rintro ⟨a, b, hab, ha, hb, qa, qb⟩
    have mem (x : Nat) (hx : x / 4 = grp) (hq : q x = true) : x ∈ [4 * grp, 4 * grp + 1, 4 * grp + 2, 4 * grp + 3].filter q := by
      refine List.mem_filter.mpr ⟨?_, hq⟩
      simp only [List.mem_cons, List.not_mem_nil, or_false]
      omega
    have ma := mem a ha qa
    have mb := mem b hb qb
    generalize [4 * grp, 4 * grp + 1, 4 * grp + 2, 4 * grp + 3].filter q = l at *
    match l, ma, mb with
    | [x], ma, mb => rw [List.mem_singleton.mp ma, List.mem_singleton.mp mb] at hab; omega
    | _ :: _ :: _, _, _ => simp

end

/-- What a BP yields in a step (R37, R48, R74). -/
def State.stepOut (s : State) (p : Nat) (n : Word) (bp : Nat) : BpOut :=
  (bpEval s bp p n (!s.loses p bp) (s.stepIns p bp)).fetched

section
variable {pre : State} {g c p : Nat} {n : Word} (hb : (pre.group g).fetchBad = [])
include hb

theorem insAt_good (bp : Nat) : pre.insAt g bp p = some (pre.stepIns p bp) := by
  unfold State.insAt RunGroup.badWord
  rw [hb]
  rfl

theorem clusterOuts_outs : (clusterOuts pre g c p n).1 = (List.range 64).map fun b => (c * 64 + b, pre.stepOut p n (c * 64 + b)) := by
  unfold clusterOuts
  simp only [insAt_good hb]
  refine List.map_congr_left fun b hb64 => ?_
  have hb64 : b < 64 := List.mem_range.mp hb64
  unfold State.stepOut
  congr 2
  cases hi : (pre.stepIns p (c * 64 + b)).exactIssue with
  | false => exact bpEval_exact_of_not_issue hi ..
  | true =>
    congr 1
    rw [Bool.eq_iff_iff, decide_eq_true_eq, evaluators_head, Bool.not_eq_true', ← Bool.not_eq_true, loses_iff]
    unfold issuesTo
    simp only [hi, true_and]
    constructor
    · rintro h ⟨a, ha, hg, hia⟩
      have hlow := h (a - c * 64) (by omega) (by omega)
      rw [show c * 64 + (a - c * 64) = a by omega, hia] at hlow
      exact absurd hlow (by simp)
    · intro h a ha hg
      by_contra hne
      exact h ⟨c * 64 + a, by omega, by omega, by simpa using hne⟩

/-- The clashes of a cluster raise XEVAL_CLASH, and nothing else (R48). -/
theorem clusterOuts_codes : (∀ e ∈ (clusterOuts pre g c p n).2, e.code = 0x1001)
    ∧ ((∃ e, e ∈ (clusterOuts pre g c p n).2) ↔ ∃ a b, a < b ∧ a / 4 = b / 4 ∧ bpCluster a = c
        ∧ (pre.stepIns p a).exactIssue = true ∧ (pre.stepIns p b).exactIssue = true) := by
  unfold clusterOuts
  simp only [insAt_good hb]
  constructor
  · intro e he
    obtain ⟨grp, -, hg⟩ := List.mem_filterMap.mp he
    split at hg
    · exact (Option.some.inj hg) ▸ rfl
    · exact absurd hg (by simp)
  · constructor
    · rintro ⟨e, he⟩
      obtain ⟨grp, hgrp, hg⟩ := List.mem_filterMap.mp he
      have hgrp : grp < 16 := List.mem_range.mp hgrp
      have two : 2 ≤ (evaluators (fun b => some (pre.stepIns p (c * 64 + b))) grp).length := by
        split at hg
        · next h => rw [h]; simp
        · exact absurd hg (by simp)
      obtain ⟨a, b, hab, ha, hb, qa, qb⟩ := (evaluators_clash _ _).mp two
      exact ⟨c * 64 + a, c * 64 + b, by omega, by omega, by unfold bpCluster; omega, qa, qb⟩
    · rintro ⟨a, b, hab, hg, hc, qa, qb⟩
      unfold bpCluster at hc
      have two := (evaluators_clash (fun b => some (pre.stepIns p (c * 64 + b))) (a % 64 / 4)).mpr
        ⟨a % 64, b % 64, by omega, rfl, by omega,
          (congrArg (fun k => (pre.stepIns p k).exactIssue) (show c * 64 + a % 64 = a by omega)).trans qa,
          (congrArg (fun k => (pre.stepIns p k).exactIssue) (show c * 64 + b % 64 = b by omega)).trans qb⟩
      match hl : evaluators (fun b => some (pre.stepIns p (c * 64 + b))) (a % 64 / 4), two with
      | _ :: loser :: _, _ => exact ⟨_, List.mem_filterMap.mpr ⟨a % 64 / 4, List.mem_range.mpr (by omega), by rw [hl]⟩⟩

end

-- all instructions of a step

theorem foldFaults_append {α : Type} (f : State → α → State × List FaultEv) (l k : List α) (s : State) :
    foldFaults f (l ++ k) s = ((foldFaults f k (foldFaults f l s).1).1, (foldFaults f l s).2 ++ (foldFaults f k (foldFaults f l s).1).2) := by
  induction l generalizing s with
  | nil => rfl
  | cons a l ih =>
    simp only [List.cons_append, foldFaults, ih, List.append_assoc]

theorem foldFaults_map {α β : Type} (f : State → β → State × List FaultEv) (h : α → β) (l : List α) (s : State) :
    foldFaults f (l.map h) s = foldFaults (fun t a => f t (h a)) l s := by
  induction l generalizing s with
  | nil => rfl
  | cons a l ih => simp only [List.map_cons, foldFaults, ih]

/-- The BPs of the clusters of a step, in the order in which they write. -/
def clusterBps (c : Nat) : List Nat := (List.range 64).map fun b => c * 64 + b

def stepBps (cs : List Nat) : List Nat := cs.flatMap clusterBps

theorem mem_stepBps {cs : List Nat} {bp : Nat} : bp ∈ stepBps cs ↔ bpCluster bp ∈ cs := by
  unfold stepBps clusterBps bpCluster
  simp only [List.mem_flatMap, List.mem_map, List.mem_range]
  constructor
  · rintro ⟨c, hc, b, hb, rfl⟩
    rwa [show (c * 64 + b) / 64 = c by omega]
  · exact fun h => ⟨bp / 64, h, bp % 64, by omega, by omega⟩

/-- The BPs of a step write what they yield. -/
def bpWrites (pre : State) (g p : Nat) (n : Word) (s : State) (bp : Nat) : State × List FaultEv := bpApply s g bp p n (pre.stepOut p n bp)

/-- The clusters of a step execute: their BPs write in order, and those that clash raise it. -/
theorem runClusters_eq {pre : State} {g p : Nat} {n : Word} (hb : (pre.group g).fetchBad = []) (cs : List Nat) (s : State) :
    (foldFaults (runCluster pre g p n) cs s).1 = (foldFaults (bpWrites pre g p n) (stepBps cs) s).1
      ∧ ∀ e, e ∈ (foldFaults (runCluster pre g p n) cs s).2
        ↔ (∃ c ∈ cs, e ∈ (clusterOuts pre g c p n).2) ∨ e ∈ (foldFaults (bpWrites pre g p n) (stepBps cs) s).2 := by
  induction cs generalizing s with
  | nil => exact ⟨rfl, fun e => by simp [stepBps, foldFaults]⟩
  | cons c cs ih =>
    have hc : foldFaults (fun t x => bpApply t g x.1 p n x.2) (clusterOuts pre g c p n).1 s
        = foldFaults (bpWrites pre g p n) (clusterBps c) s := by
      rw [clusterOuts_outs hb, clusterBps, foldFaults_map, foldFaults_map]; rfl
    rw [stepBps, List.flatMap_cons, ← stepBps, foldFaults_append, foldFaults, runCluster_eq, hc]
    obtain ⟨hs, he⟩ := ih (foldFaults (bpWrites pre g p n) (clusterBps c) s).1
    refine ⟨hs, fun e => ?_⟩
    simp only [List.mem_append, he, List.exists_mem_cons_iff]
    exact or_or_or_comm

-- what they leave in the stores

theorem BpOut.fetched_writes (o : BpOut) (p : Nat) (v : BpView) : o.fetched.writes p v = o.writes p v := by
  unfold BpOut.fetched; split <;> rfl
theorem BpOut.fetched_reads (o : BpOut) : o.fetched.reads = o.reads := by unfold BpOut.fetched; split <;> rfl
theorem BpOut.fetched_result (o : BpOut) : o.fetched.result = o.result := by unfold BpOut.fetched; split <;> rfl
theorem BpOut.Within.fetched {o : BpOut} (h : o.Within) : o.fetched.Within := by unfold BpOut.fetched; split <;> exact h

theorem stepOut_within (s : State) (p : Nat) (n : Word) (bp : Nat) : (s.stepOut p n bp).Within := (bpEval_within ..).fetched

theorem bpWrites_views {pre : State} {g p : Nat} {n : Word} (hp : p < 4096) (l : List Nat) {s : State} (he : s.ecc = []) (hw : s.bpWf) :
    (foldFaults (bpWrites pre g p n) l s).1.ecc = []
      ∧ ∀ i, (foldFaults (bpWrites pre g p n) l s).1.bpView i
        = if i ∈ l then (pre.stepOut p n i).writes p (s.bpView i) else s.bpView i := by
  induction l generalizing s with
  | nil => exact ⟨he, fun i => by simp [foldFaults]⟩
  | cons bp l ih =>
    obtain ⟨hw', hv⟩ := bpApply_view he hw (stepOut_within pre p n bp) hp (bp := bp) (cycle := n) g
    obtain ⟨he', hviews⟩ := ih (s := (bpWrites pre g p n s bp).1) (bpApply_ecc he ..) hw'
    refine ⟨he', fun i => ?_⟩
    rw [foldFaults]
    dsimp only
    rw [hviews i, show (bpWrites pre g p n s bp).1.bpView i = _ from hv i]
    by_cases hi : i = bp
    · subst hi
      rw [if_pos rfl, if_pos List.mem_cons_self]
      split
      · exact BpOut.writes_writes ..
      · rfl
    · rw [if_neg hi]
      simp [hi]

theorem countHeavy_live {s : State} {q : Nat} (h : s.live q = true) (i w : Nat) : (s.countHeavy i w).live q = true := by
  unfold State.countHeavy
  split
  · exact h
  · exact live_updParcel (f := fun v => { v with heavy := v.heavy + w }) (fun _ => rfl) h

theorem bpWrites_bank (pre : State) (g p : Nat) (n : Word) (l : List Nat) (s : State) :
    (foldFaults (bpWrites pre g p n) l s).1.bank = s.bank ∧ ∀ q, s.live q = true → (foldFaults (bpWrites pre g p n) l s).1.live q = true := by
  refine foldFaults_keep (P := fun t => t.bank = s.bank ∧ ∀ q, s.live q = true → t.live q = true) (fun t bp h => ?_) ⟨rfl, fun _ h => h⟩
  refine bpApply_keep (P := fun t => t.bank = s.bank ∧ ∀ q, s.live q = true → t.live q = true) (fun _ _ _ h => h) (fun _ _ _ h => h)
    (fun _ _ _ h => h) (fun _ _ _ h => h) (fun _ _ h => h) (fun _ _ h => h) (fun _ _ h => h) (fun t h => ?_) (fun t h => ?_) h
  · obtain ⟨_, _, e⟩ := stopDue_frame t g 1 n
    rw [e]; exact h
  · exact ⟨(countHeavy_bank ..).trans h.1, fun q hq => countHeavy_live (h.2 q hq) ..⟩

-- what they raise

/-- The fault that a read raises (R52, R53, R100). -/
def ReadEv.code : ReadEv → Nat
  | .stale _ => 0x1003
  | .ce _ _ => 0x2001
  | .ue _ _ => 0x2002

theorem readFaults_codes (s : State) (bp p : Nat) (n : Word) (l : List ReadEv) :
    (readFaults s bp p n l).2.map (·.code) = l.map ReadEv.code := by
  induction l generalizing s with
  | nil => rfl
  | cons e l ih => cases e <;> exact congrArg (_ :: ·) (ih _)

theorem applyReads_sub {bp p : Nat} {n : Word} {o : BpOut} {s : State} {e : FaultEv} (h : e ∈ (readFaults s bp p n o.reads).2) (g : Nat) :
    e ∈ (bpApply s g bp p n o).2 := by
  have cur (q : State × List FaultEv) (h : e ∈ q.2) : e ∈ (applyCur bp p n o q).2 := by
    unfold applyCur; split
    · exact List.mem_append_left _ h
    · exact h
  have stage (q : State × List FaultEv) (h : e ∈ q.2) : e ∈ (applyStage bp p n o q).2 := by
    unfold applyStage; split
    · exact List.mem_append_left _ h
    · exact h
  have result (q : State × List FaultEv) (h : e ∈ q.2) : e ∈ (applyResult bp p n o q).2 := by
    unfold applyResult; split
    · exact List.mem_append_left _ h
    · exact h
  have event (q : State × List FaultEv) (h : e ∈ q.2) : e ∈ (applyEvent bp p n o q).2 := by
    unfold applyEvent; split
    · exact List.mem_append_left _ h
    · exact h
  rw [bpApply_eq]
  exact event _ (result _ (stage _ (cur _ (List.mem_append_left _ h))))

/-- Every read that an instruction has met is raised. -/
theorem bpApply_raises_reads (s : State) (g bp p : Nat) (n : Word) {o : BpOut} {r : ReadEv} (h : r ∈ o.reads) :
    ∃ e ∈ (bpApply s g bp p n o).2, e.code = r.code := by
  have hm : r.code ∈ (readFaults s bp p n o.reads).2.map (·.code) := readFaults_codes .. ▸ List.mem_map_of_mem h
  obtain ⟨e, he, hc⟩ := List.mem_map.mp hm
  exact ⟨e, applyReads_sub he g, hc⟩

/-- Beyond its reads an instruction whose words are clean raises a reserved encoding and an event that is lost, and nothing else. -/
theorem bpApply_codes {s : State} (hs : s.ecc = []) (g bp p : Nat) (n : Word) (o : BpOut) :
    ∀ e ∈ (bpApply s g bp p n o).2, e.code ∈ o.reads.map ReadEv.code ∨ e.code = 0x1007 ∨ e.code = 0x1004 := by
  have reads : ∀ e ∈ (applyReads bp p n o s).2, e.code ∈ o.reads.map ReadEv.code ∨ e.code = 0x1007 := by
    intro e he
    rcases List.mem_append.mp he with he | he
    · exact .inl (readFaults_codes s bp p n o.reads ▸ List.mem_map_of_mem he)
    · split at he
      · exact .inr (by rw [List.mem_singleton.mp he]; rfl)
      · exact absurd he (by simp)
  have reads_ecc : (applyReads bp p n o s).1.ecc = [] := by
    unfold applyReads; rw [readFaults_of_nil hs]; exact hs
  have cur (q : State × List FaultEv) (hq : q.1.ecc = []) : (applyCur bp p n o q).2 = q.2 ∧ (applyCur bp p n o q).1.ecc = [] := by
    unfold applyCur
    split
    · rw [eccWrite_of_nil hq]; exact ⟨List.append_nil _, hq⟩
    · exact ⟨rfl, hq⟩
  have stage (q : State × List FaultEv) (hq : q.1.ecc = []) : (applyStage bp p n o q).2 = q.2 ∧ (applyStage bp p n o q).1.ecc = [] := by
    unfold applyStage
    split
    · rw [eccWrite_of_nil hq]; exact ⟨List.append_nil _, hq⟩
    · exact ⟨rfl, hq⟩
  have result (q : State × List FaultEv) (hq : q.1.ecc = []) : (applyResult bp p n o q).2 = q.2 := by
    unfold applyResult
    split
    · rw [eccWrite_of_nil hq]; exact List.append_nil _
    · rfl
  have event (q : State × List FaultEv) : ∀ e ∈ (applyEvent bp p n o q).2, e ∈ q.2 ∨ e.code = 0x1004 := by
    intro e he
    unfold applyEvent at he
    split at he
    · rcases List.mem_append.mp he with he | he
      · exact .inl he
      · unfold postEvent at he
        dsimp only at he
        split at he
        · exact absurd he (by simp)
        · exact .inr (by rw [List.mem_singleton.mp he]; rfl)
    · exact .inl he
  intro e he
  rw [bpApply_eq] at he
  rcases event _ e he with he | he
  · obtain ⟨c1, e1⟩ := cur (applyReads bp p n o s) reads_ecc
    obtain ⟨c2, e2⟩ := stage _ e1
    have c3 := result _ e2
    have hm : e ∈ (applyReads bp p n o s).2 := by
      rw [← c1, ← c2, ← c3]; exact he
    exact (reads e hm).imp_right .inl
  · exact .inr (.inr he)

section
variable {pre : State} {g p : Nat} {n : Word}

theorem bpWrites_codes (l : List Nat) {s : State} (hs : s.ecc = []) :
    ∀ e ∈ (foldFaults (bpWrites pre g p n) l s).2, (∃ bp ∈ l, e.code ∈ (pre.stepOut p n bp).reads.map ReadEv.code)
      ∨ e.code = 0x1007 ∨ e.code = 0x1004 := by
  induction l generalizing s with
  | nil => exact fun _ h => absurd h (by simp [foldFaults])
  | cons bp l ih =>
    intro e he
    rcases List.mem_append.mp he with he | he
    · exact (bpApply_codes hs g bp p n _ e he).imp_left fun h => ⟨bp, List.mem_cons_self, h⟩
    · exact (ih (bpApply_ecc hs ..) e he).imp_left fun ⟨b, hb, h⟩ => ⟨b, List.mem_cons_of_mem _ hb, h⟩

theorem bpWrites_raises_reads {l : List Nat} (s : State) {bp : Nat} (hb : bp ∈ l) {r : ReadEv} (hr : r ∈ (pre.stepOut p n bp).reads) :
    ∃ e ∈ (foldFaults (bpWrites pre g p n) l s).2, e.code = r.code := by
  induction l generalizing s with
  | nil => exact absurd hb List.not_mem_nil
  | cons b l ih =>
    rcases List.mem_cons.mp hb with rfl | hb
    · obtain ⟨e, he, hc⟩ := bpApply_raises_reads s g bp p n hr
      exact ⟨e, List.mem_append_left _ he, hc⟩
    · obtain ⟨e, he, hc⟩ := ih (bpWrites pre g p n s b).1 hb
      exact ⟨e, List.mem_append_right _ he, hc⟩

end

-- what follows the writes of a step leaves the stores and the banks alone

/-- The stores that instructions write, the banks and the check marks, with the parcels. -/
def State.yields (s : State) := (s.bpStores, s.bank, s.ecc, s.parcels)

/-- From `s` to `t` the stores that instructions write, the banks and the check marks are the same, and LOADED parcels stay LOADED. -/
structure Kept (s t : State) : Prop where
  stores : t.bpStores = s.bpStores
  bank : t.bank = s.bank
  ecc : t.ecc = s.ecc
  live : ∀ p, s.live p = true → t.live p = true

theorem raise_fabric (t : State) (e : FaultEv) (extra : Option Nat) : (t.raise e extra).fabric = t.fabric := by
  obtain ⟨_, _, _, _, _, _, _, e⟩ := raise_faulting t e extra
  rw [e]; rfl

theorem yields_of_fabric {s t : State} (h : t.fabric = s.fabric) : t.yields = s.yields := by
  simp only [State.fabric, Prod.mk.injEq] at h
  obtain ⟨-, -, hvalues, hcur, hstg, hpend, hresult, -, hbank, -, -, -, -, hecc, hparcels, -⟩ := h
  simp only [State.yields, State.bpStores, hvalues, hcur, hstg, hpend, hresult, hbank, hecc, hparcels]

namespace Kept
variable {s t u : State}

theorem refl : Kept s s := ⟨rfl, rfl, rfl, fun _ h => h⟩

theorem trans (h : Kept s t) (k : Kept t u) : Kept s u :=
  ⟨k.stores.trans h.stores, k.bank.trans h.bank, k.ecc.trans h.ecc, fun p hp => k.live p (h.live p hp)⟩

theorem ite {c : Prop} [Decidable c] {a b : State} (h : Kept s a) (k : Kept s b) : Kept s (if c then a else b) := by
  split <;> assumption

theorem forEach {l : List Nat} {f : Nat → State → State} (h : Kept s t) (hf : ∀ i u, Kept s u → Kept s (f i u)) : Kept s (forEach l f t) :=
  forEach_keep hf h

theorem foldl {α : Type} {l : List α} {f : State → α → State} (h : Kept s t) (hf : ∀ u a, Kept s u → Kept s (f u a)) :
    Kept s (l.foldl f t) := List.foldlRecOn l f h fun u hu a _ => hf u a hu

/-- An update of other fields. -/
theorem elsewhere (h : Kept s t) (e : u.yields = t.yields := by rfl) : Kept s u := by
  simp only [State.yields, Prod.mk.injEq] at e
  obtain ⟨hs, hb, he, hp⟩ := e
  refine h.trans ⟨hs, hb, he, fun p h => ?_⟩
  unfold State.live State.parcel at h ⊢
  rw [hp]; exact h

theorem updParcel (h : Kept s t) {i : Nat} {f : Parcel → Parcel} (hf : ∀ v, (f v).load = v.load) : Kept s (t.updParcel i f) :=
  h.trans ⟨rfl, rfl, rfl, fun _ hp => live_updParcel hf hp⟩

theorem raiseAll (h : Kept s t) {l : List FaultEv} : Kept s (t.raiseAll l) :=
  h.foldl fun _ _ k => k.elsewhere (yields_of_fabric (raise_fabric ..))

theorem settle (h : Kept s t) : Kept s t.settle := h.elsewhere (yields_of_fabric (settle_fabric t))

theorem sign (h : Kept s t) {c : Nat} {bytes : List Byte} : Kept s (t.sign c bytes) := ite h.elsewhere h

-- sends and windows (R97, R102, R143)

theorem shipSends (h : Kept s t) {g p c : Nat} : Kept s (shipSends g p c t) := by
  unfold Machine.shipSends
  dsimp only
  split
  · exact h.elsewhere
  · exact sign h.elsewhere

theorem shipCargo (h : Kept s t) {g q k p : Nat} : Kept s (shipCargo t g q k p) := by
  unfold Machine.shipCargo
  dsimp only
  split
  · exact h
  · exact ite h (sign h.elsewhere)

theorem closeFrame (h : Kept s t) {g p : Nat} : Kept s (closeFrame t g p) := ite h (h.forEach fun _ _ k => k.elsewhere)

theorem stepSends (h : Kept s t) {pre : State} {g : Nat} {cs qs : List Nat} {p : Nat} {n : Word} {sigs : List (Nat × List Byte)} :
    Kept s (stepSends pre g cs qs p n sigs t) := by
  unfold Machine.stepSends
  extract_lets s1 s2 s3 s4
  have h1 : Kept s s1 := h.forEach fun _ _ k => k.shipSends
  have h2 : Kept s s2 := h1.foldl fun _ _ k => k.foldl fun _ _ k => k.shipCargo
  have h3 : Kept s s3 := h2.foldl fun _ _ k => k.sign
  have h4 : Kept s s4 := ite (h3.foldl fun _ _ k => k.sign) h3
  exact h4.closeFrame

theorem closeWindow (h : Kept s t) {g q p : Nat} : Kept s (t.closeWindow g q p).1 := h.updParcel (i := q) (f := fun v =>
    let excess := decide (heavyLimit ((((t.group g).imageOf q).map (·.cls)).getD 4) < v.heavy)
    { v with heavy := 0, peak := max v.peak v.heavy, excess := if excess then satAdd 16 v.excess 1 else v.excess
             msWindow := max v.msWindow v.heavy }) fun _ => rfl

theorem stepWindows (h : Kept s t) {g p : Nat} {ps : List Nat} : Kept s (stepWindows g p ps t).1 := by
  unfold Machine.stepWindows
  split
  · exact foldFaults_keep (P := Kept s) (fun u q k => k.closeWindow) h
  · exact h

-- the end of the step (R37, R174)

theorem retireCargo (h : Kept s t) {g : Nat} : Kept s (t.retireCargo g) := h.forEach fun _ _ k => k.elsewhere

theorem stepPassed (h : Kept s t) {g : Nat} {cs qs : List Nat} {p : Nat} : Kept s (stepPassed g cs qs p t) := by
  unfold Machine.stepPassed
  extract_lets s1 s2 s3
  have h1 : Kept s s1 := ite (h.foldl fun _ _ k => ite k.elsewhere k) h
  have h2 : Kept s s2 := h1.retireCargo
  exact h2.elsewhere

theorem countConflict (h : Kept s t) {p m : Nat} : Kept s (t.countConflict p m) := by
  unfold State.countConflict
  split
  · exact h
  · exact updParcel h.elsewhere fun _ => rfl

theorem syncArb (h : Kept s t) {c o : Nat} : Kept s (t.syncArb c o) := by
  unfold State.syncArb
  extract_lets v lines fa fb held a b s1 s2
  have h1 : Kept s s1 := h.elsewhere
  have h2 : Kept s s2 := ite (h1.foldl fun _ _ k => ite k.countConflict k) h1
  exact ite h (ite h2.countConflict h2)

theorem arbitrateStep (h : Kept s t) {c : Nat} : Kept s (t.arbitrateStep c) := ite h.syncArb h

end Kept

/-- The fetch of a step changes check marks, and nothing else of it. -/
theorem fetchNext_kept (s : State) (g p : Nat) (n : Word) : ∃ E, Kept { s with ecc := E } (s.fetchNext g p n) := by
  unfold State.fetchNext State.fetchStores
  extract_lets hits bad keep t u
  exact ⟨u.1.ecc, Kept.raiseAll (s := { s with ecc := u.1.ecc }) (t := u.1) ⟨rfl, rfl, rfl, fun _ h => h⟩⟩

section
variable (s : State) (g : Nat)

theorem stepOver_kept : Kept (s.stepWrote g).1 (s.stepOver g) := by
  unfold State.stepOver State.stepDone
  exact Kept.refl.stepSends.stepWindows.raiseAll.stepPassed

/-- When the instructions of a step have written, the step leaves what they wrote alone. -/
theorem stepBody_kept : (stepBody s g).settle.bpStores = (s.stepWrote g).1.bpStores ∧ (stepBody s g).settle.bank = (s.stepWrote g).1.bank
    ∧ ∀ p, (s.stepWrote g).1.live p = true → (stepBody s g).settle.live p = true := by
  rw [stepBody_eq]
  obtain ⟨E, h⟩ := fetchNext_kept (s.stepOver g) g (s.group g).nextStep (s.group g).cycle
  obtain ⟨hs, hb, -, hl⟩ := stepOver_kept s g
  have k : Kept { (s.stepWrote g).1 with ecc := E } { s.stepOver g with ecc := E } := ⟨hs, hb, rfl, hl⟩
  obtain ⟨hs, hb, -, hl⟩ := ((k.trans h).foldl (l := (s.group g).clusters) fun _ _ k => k.arbitrateStep).settle
  exact ⟨hs, hb, hl⟩

/-- The windows of the heavy units raise POWER_BUDGET, and nothing else (R145). -/
theorem stepWindows_codes (p : Nat) (ps : List Nat) : ∀ e ∈ (stepWindows g p ps s).2, e.code = 0x1005 := by
  have all (t : State) : ∀ e ∈ (foldFaults (fun t q => t.closeWindow g q p) ps t).2, e.code = 0x1005 := by
    induction ps generalizing t with
    | nil => exact fun _ h => absurd h (by simp [foldFaults])
    | cons q ps ih =>
      intro e he
      rcases List.mem_append.mp he with he | he
      · unfold State.closeWindow at he
        dsimp only at he
        split at he
        · rw [List.mem_singleton.mp he]
        · exact absurd he (by simp)
      · exact ih _ e he
  unfold stepWindows
  split
  · exact all s
  · exact fun _ h => absurd h (by simp)

end

end Sys2Proof.Machine
end

-- ==== A step with no word in error and no flight ====
section
/-! PROOFS. The state and the fault counts after it. -/
namespace Sys2Proof.Machine

theorem SameReads.stepIns {s t : State} (h : SameReads s t) (p bp : Nat) : t.stepIns p bp = s.stepIns p bp := by
  unfold State.stepIns; rw [h.istore]

theorem SameReads.stepOut {s t : State} (h : SameReads s t) (p : Nat) (n : Word) (bp : Nat) : t.stepOut p n bp = s.stepOut p n bp := by
  unfold State.stepOut State.loses
  simp only [h.stepIns, h.bpEval]

theorem SameReads.portWord {s t : State} (h : SameReads s t) (p c : Nat) : t.portWord p c = s.portWord p c := by
  unfold State.portWord; rw [h.ptable]

theorem SameReads.portMeets {s t : State} (h : SameReads s t) (p c : Nat) : t.portMeets p c ↔ s.portMeets p c := by
  unfold State.portMeets; rw [h.portWord, h.cluster]

theorem SameReads.bpWf {s t : State} (h : SameReads s t) (hw : s.bpWf) : t.bpWf := bpWf_of_stores h.stores hw

theorem sameReads_of_fabric {s t : State} (h : t.fabric = s.fabric) : SameReads s t := by
  simp only [State.fabric, Prod.mk.injEq] at h
  obtain ⟨-, -, hvalues, hcur, hstg, hpend, hresult, hslots, -, -, hclusters, histore, hptable, hecc, hparcels, -⟩ := h
  refine ⟨?_, hslots, hecc, histore, hptable, hparcels, fun c => ?_⟩
  · simp only [State.bpStores, hvalues, hcur, hstg, hpend, hresult]
  · unfold State.cluster; rw [hclusters]

theorem sameReads_of_clusters {s : State} {groups : SMap RunGroup} {clusters : SMap Cluster} (h : ∀ c, mget Cluster.init c clusters = s.cluster c) :
    SameReads s { s with groups := groups, clusters := clusters } := ⟨rfl, rfl, rfl, rfl, rfl, rfl, h⟩

theorem State.cargoQuads_of_quads {s t : State} (h : t.quads = s.quads) (g : Nat) : t.cargoQuads g = s.cargoQuads g := by
  unfold State.cargoQuads State.quad; rw [h]

-- the step of a run group in which nothing flies

/-- The state that instructions read, where nothing flies, lands or waits. -/
structure AtRest (s : State) (g : Nat) (pre : State) : Prop where
  read : (s.atStep g).stepRead g = (pre, [])
  same : SameReads s pre
  bank : pre.bank = s.bank
  good : (pre.group g).fetchBad = []
  course : ((s.atStep g).group g).course = (s.group g).course

section
variable {s : State} {g : Nat}

theorem State.Quiet.bpWf (hq : s.Quiet g) : s.bpWf :=
  ⟨hq.parts.valuesWf, hq.parts.resultWf, hq.parts.curWf, hq.parts.stgWf, hq.parts.pendWf⟩

/-- The group stands at its step when it executes. -/
theorem State.Quiet.course (hq : s.Quiet g) (hd : ∀ f ∈ (s.group g).flights, clParcel (f.at f.dist) ∈ (s.group g).parcels) :
    ((s.atStep g).group g).course = (s.group g).course := (hq.waits hd).1.course hq.parts.nonempty

theorem State.Quiet.atRest (hq : s.Quiet g) (hf : (s.group g).flights = []) : ∃ pre, AtRest s g pre := by
  have hd : ∀ f ∈ (s.group g).flights, clParcel (f.at f.dist) ∈ (s.group g).parcels := by simp [hf]
  obtain ⟨hwait, hj⟩ := hq.waits hd
  have hcourse := hq.course hd
  have hparts := hq.parts
  have hfab : (s.atStep g).fabric = State.fabric { s with opp := s.nextOpp g } := hwait.fabric
  have hopp : SameReads s { s with opp := s.nextOpp g } := ⟨rfl, rfl, rfl, rfl, rfl, rfl, fun _ => rfl⟩
  have hsame : SameReads s (s.atStep g) := hopp.trans (sameReads_of_fabric hfab)
  have hc := hcourse
  simp only [RunGroup.course, Prod.mk.injEq] at hc
  obtain ⟨hps, -, -, -, -, hmv, hfl, hfb⟩ := hc
  have hcs : ((s.atStep g).group g).clusters = (s.group g).clusters := congrArg clustersOf hps
  simp only [State.fabric, Prod.mk.injEq] at hfab
  obtain ⟨-, -, -, -, -, -, -, -, hbank, -, hcl, -, -, -, -, hqs⟩ := hfab
  have hnone : (s.atStep g).cargoQuads g = [] := (State.cargoQuads_of_quads hqs g).trans hparts.noCargo
  obtain ⟨groups, clusters, hread, hgc, hcr⟩ := stepRead_still (s := s.atStep g) (g := g) (by rw [hps]; exact hparts.nonempty) hj (hfl.trans hf) (hmv.trans hparts.unmoved) hnone
    (by rw [hcl]; exact hparts.clustersWf) fun c h => by rw [hsame.cluster]; exact hparts.clusters c (hcs ▸ h)
  refine ⟨_, hread, hsame.trans (sameReads_of_clusters hcr), hbank, ?_, hcourse⟩
  have hg := hgc.trans hcourse
  simp only [RunGroup.course, Prod.mk.injEq] at hg
  obtain ⟨-, -, -, -, -, -, -, hb⟩ := hg
  exact hb.trans hparts.good

end

section
variable {s : State} {g : Nat} {pre : State} (h : AtRest s g pre)
include h

theorem AtRest.stepWrote : (s.atStep g).stepWrote g
    = ((foldFaults (runCluster pre g (s.group g).step (s.group g).cycle) (s.group g).clusters
        (stepPorts pre (s.group g).clusters (s.group g).step (s.group g).cycle).1).1,
      (stepPorts pre (s.group g).clusters (s.group g).step (s.group g).cycle).2.1
        ++ (foldFaults (runCluster pre g (s.group g).step (s.group g).cycle) (s.group g).clusters
          (stepPorts pre (s.group g).clusters (s.group g).step (s.group g).cycle).1).2) := by
  have hc := h.course
  simp only [RunGroup.course, Prod.mk.injEq] at hc
  obtain ⟨hps, -, hstep, hcycle, -⟩ := hc
  have hcs : ((s.atStep g).group g).clusters = (s.group g).clusters := congrArg clustersOf hps
  unfold State.stepWrote
  rw [h.read]
  dsimp only
  rw [hstep, hcycle, hcs]
  rfl

/-- When the instructions of the step have written. -/
theorem AtRest.wrote_eq : ((s.atStep g).stepWrote g).1 = (foldFaults (bpWrites pre g (s.group g).step (s.group g).cycle) (stepBps (s.group g).clusters)
        (stepPorts pre (s.group g).clusters (s.group g).step (s.group g).cycle).1).1 := by
  rw [h.stepWrote]
  exact (runClusters_eq h.good _ _).1

/-- The faults of the step: of its ports, of clashes, of instructions, and of its windows. -/
theorem AtRest.faults_iff (code : Nat) (hw : code ≠ 0x1005) : (∃ e ∈ ((s.atStep g).stepDone g).2, e.code = code)
    ↔ (∃ e ∈ (stepPorts pre (s.group g).clusters (s.group g).step (s.group g).cycle).2.1, e.code = code)
      ∨ (∃ c ∈ (s.group g).clusters, ∃ e ∈ (clusterOuts pre g c (s.group g).step (s.group g).cycle).2, e.code = code)
      ∨ ∃ e ∈ (foldFaults (bpWrites pre g (s.group g).step (s.group g).cycle) (stepBps (s.group g).clusters)
          (stepPorts pre (s.group g).clusters (s.group g).step (s.group g).cycle).1).2, e.code = code := by
  have done : ∃ l, ((s.atStep g).stepDone g).2 = ((s.atStep g).stepWrote g).2 ++ l ∧ ∀ e ∈ l, e.code = 0x1005 :=
    ⟨_, rfl, fun e he => stepWindows_codes _ _ _ _ e he⟩
  obtain ⟨l, hl, hc⟩ := done
  have hb := (runClusters_eq (p := (s.group g).step) (n := (s.group g).cycle) h.good (s.group g).clusters
    (stepPorts pre (s.group g).clusters (s.group g).step (s.group g).cycle).1).2
  rw [hl, h.stepWrote]
  simp only [List.mem_append, hb]
  constructor
  · rintro ⟨e, ((he | ⟨c, hcm, he⟩ | he) | he), hcode⟩
    · exact .inl ⟨e, he, hcode⟩
    · exact .inr (.inl ⟨c, hcm, e, he, hcode⟩)
    · exact .inr (.inr ⟨e, he, hcode⟩)
    · exact absurd (hcode.symm.trans (hc e he)) hw
  · rintro (⟨e, he, hcode⟩ | ⟨c, hcm, e, he, hcode⟩ | ⟨e, he, hcode⟩)
    · exact ⟨e, .inl (.inl he), hcode⟩
    · exact ⟨e, .inl (.inr (.inl ⟨c, hcm, he⟩)), hcode⟩
    · exact ⟨e, .inl (.inr (.inr he)), hcode⟩

end

-- reading the stores of one BP

section
variable {s : State} {bp : Nat} (hl : s.live (bpParcel bp) = true)
include hl

theorem valueAt_eq_view {e : Nat} (he : e < 4096) : s.valueAt bp e = (s.bpView bp).value e := by
  unfold State.valueAt State.bpView
  dsimp only
  rw [if_pos hl, Nat.mod_eq_of_lt he]
theorem resultAt_eq_view : s.resultAt bp = (s.bpView bp).result := by
  unfold State.resultAt State.bpView
  rw [if_pos hl]
theorem curAt_eq_view {j : Nat} (hj : j < 1024) : s.curAt bp j = (s.bpView bp).cur j := by
  unfold State.curAt State.bpView
  dsimp only
  rw [if_pos hl, Nat.mod_eq_of_lt hj]
theorem stgAt_eq_view {j : Nat} (hj : j < 1024) : s.stgAt bp j = (s.bpView bp).stg j := by
  unfold State.stgAt State.bpView
  dsimp only
  rw [if_pos hl, Nat.mod_eq_of_lt hj]
omit hl in
theorem pendAt_eq_view {j : Nat} (hj : j < 1024) : s.pendAt bp j = (s.bpView bp).pend j := by
  unfold State.pendAt State.bpView
  dsimp only
  rw [Nat.mod_eq_of_lt hj]

end

theorem BpOut.writes_value_other (o : BpOut) (v : BpView) {p e : Nat} (he : e < 4096) (h : e ≠ p) : (o.writes p v).value e = v.value e := by
  have cur : (o.curOver v).value = v.value := by unfold BpOut.curOver; split <;> rfl
  have stage (v : BpView) : (o.stageOver v).value = v.value := by unfold BpOut.stageOver; split <;> rfl
  have result (v : BpView) : (o.resultOver p v).value e = v.value e := by
    unfold BpOut.resultOver
    split
    · exact if_neg (by rwa [Nat.mod_eq_of_lt he])
    · rfl
  exact (result _).trans (congrFun ((stage _).trans cur) e)

theorem BpOut.writes_result {o : BpOut} {v : V4} (h : o.result = some v) (w : BpView) {p : Nat} (hp : p < 4096) :
    (o.writes p w).value p = v ∧ (o.writes p w).result = v := by
  unfold BpOut.writes BpOut.resultOver
  rw [h]
  exact ⟨if_pos (Nat.mod_eq_of_lt hp), rfl⟩

-- which clusters are of a parcel

theorem clParcel_clOf {p k : Nat} (hp : p < 32) (hk : k < 16) : clParcel (clOf p k) = p ∧ clOf p k < 512 := by
  have sheet {s r c : Nat} (hr : r < 16) (hc : c < 16) : clSheet (clAt s r c) = s := by unfold clSheet clAt; omega
  have row {s r c : Nat} (hr : r < 16) (hc : c < 16) : clRow (clAt s r c) = r := by unfold clRow clAt; omega
  have col {s r c : Nat} (hc : c < 16) : clCol (clAt s r c) = c := by unfold clCol clAt; omega
  have hr : 4 * (p % 16 / 4) + k / 4 < 16 := by omega
  have hc : 4 * (p % 4) + k % 4 < 16 := by omega
  constructor
  · unfold clParcel clOf
    rw [sheet hr hc, row hr hc, col hc]
    omega
  · unfold clOf clAt
    omega

theorem parcel_of_mem_clusters {ps : List Nat} (hps : ∀ p ∈ ps, p < 32) {c : Nat} (h : c ∈ clustersOf ps) : clParcel c ∈ ps ∧ c < 512 := by
  unfold clustersOf at h
  rw [List.mem_flatten] at h
  obtain ⟨l, hl, hc⟩ := h
  rw [List.mem_map] at hl
  obtain ⟨p, hp, rfl⟩ := hl
  unfold parcelClusters at hc
  rw [List.mem_map] at hc
  obtain ⟨k, hk, rfl⟩ := hc
  obtain ⟨hpar, hlt⟩ := clParcel_clOf (hps p hp) (List.mem_range.mp hk)
  exact ⟨by rw [hpar]; exact hp, hlt⟩

-- what a step with no word in error writes

section
variable {s : State} {g : Nat}

/-- A BP of the run group is of a LOADED parcel of it. -/
theorem State.Quiet.holds (hq : s.Quiet g) {bp : Nat} (h : bpCluster bp ∈ (s.group g).clusters) :
    bp < 32768 ∧ s.live (bpParcel bp) = true ∧ s.runningAt (bpCluster bp) = some (g, s.group g) := by
  obtain ⟨hm, hlt⟩ := parcel_of_mem_clusters (fun p hp => (hq.parts.parcels p hp).1) h
  obtain ⟨-, hrg, hload⟩ := hq.parts.parcels _ hm
  refine ⟨by unfold bpCluster at hlt; omega, decide_eq_true hload, ?_⟩
  unfold State.runningAt State.rgOfCluster
  rw [hrg]
  exact if_pos ⟨hq.parts.running, hq.parts.inCycle⟩

variable {pre : State}

theorem AtRest.stores (h : AtRest s g pre) (he : s.ecc = []) (hw : s.bpWf) (hp : (s.group g).step < 4096) :
    ((s.atStep g).stepWrote g).1.ecc = [] ∧ ∀ i, ((s.atStep g).stepWrote g).1.bpView i
      = if bpCluster i ∈ (s.group g).clusters then (s.stepOut (s.group g).step (s.group g).cycle i).writes (s.group g).step (s.bpView i)
        else s.bpView i := by
  have hecc : pre.ecc = [] := h.same.ecc.trans he
  have ports : Aside pre (stepPorts pre (s.group g).clusters (s.group g).step (s.group g).cycle).1 := stepPorts_aside (by rw [hecc]; exact lowMarks_nil) ..
  rw [h.wrote_eq]
  obtain ⟨hE, hV⟩ := bpWrites_views (pre := pre) (g := g) (n := (s.group g).cycle) hp (stepBps (s.group g).clusters) (ports.ecc.trans hecc)
    (bpWf_of_stores ports.stores (h.same.bpWf hw))
  refine ⟨hE, fun i => ?_⟩
  rw [hV i, h.same.stepOut, bpView_of_stores ports.stores, bpView_of_stores h.same.stores, if_congr mem_stepBps rfl rfl]

/-- What stands in the stores and in the bank after the step. -/
theorem AtRest.after (h : AtRest s g pre) (he : s.ecc = []) (hw : s.bpWf) (hp : (s.group g).step < 4096) :
    (∀ i, ((stepBody (s.atStep g) g).settle).bpView i
      = if bpCluster i ∈ (s.group g).clusters then (s.stepOut (s.group g).step (s.group g).cycle i).writes (s.group g).step (s.bpView i)
        else s.bpView i)
    ∧ ((stepBody (s.atStep g) g).settle).bank = (stepPorts pre (s.group g).clusters (s.group g).step (s.group g).cycle).1.bank
    ∧ ∀ q, s.live q = true → ((stepBody (s.atStep g) g).settle).live q = true := by
  obtain ⟨hs, hb, hl⟩ := stepBody_kept (s.atStep g) g
  have hecc : pre.ecc = [] := h.same.ecc.trans he
  have ports : Aside pre (stepPorts pre (s.group g).clusters (s.group g).step (s.group g).cycle).1 := stepPorts_aside (by rw [hecc]; exact lowMarks_nil) ..
  obtain ⟨hbank, hlive⟩ := bpWrites_bank pre g (s.group g).step (s.group g).cycle (stepBps (s.group g).clusters)
    (stepPorts pre (s.group g).clusters (s.group g).step (s.group g).cycle).1
  rw [← h.wrote_eq] at hbank hlive
  refine ⟨fun i => ?_, hb.trans hbank, fun q hq => hl q (hlive q (ports.live q (by rw [h.same.live]; exact hq)))⟩
  rw [bpView_of_stores hs i]
  exact (h.stores he hw hp).2 i

/-- The word of one BP alone. -/
theorem oneIns_view {bp : Nat} (hrun : s.runningAt (bpCluster bp) = some (g, s.group g)) (he : s.ecc = []) (hw : s.bpWf)
    (hp : (s.group g).step < 4096) (i : InsWord) :
    (oneIns s bp i).bpView bp = (bpEval s bp (s.group g).step (s.group g).cycle true i).writes (s.group g).step (s.bpView bp)
      ∧ ∀ q, s.live q = true → (oneIns s bp i).live q = true := by
  unfold oneIns
  rw [hrun]
  dsimp only
  obtain ⟨-, hv⟩ := bpApply_view he hw (bpEval_within s bp (s.group g).step (s.group g).cycle true i) hp (bp := bp) (cycle := (s.group g).cycle) g
  have k : Kept (bpApply s g bp (s.group g).step (s.group g).cycle (bpEval s bp (s.group g).step (s.group g).cycle true i)).1 _ :=
    Kept.refl.raiseAll (l := (bpApply s g bp (s.group g).step (s.group g).cycle (bpEval s bp (s.group g).step (s.group g).cycle true i)).2)
  refine ⟨?_, fun q hq => k.live q ?_⟩
  · rw [bpView_of_stores k.stores, hv, if_pos rfl]
  · refine bpApply_keep (P := fun t => t.live q = true) (fun _ _ _ h => h) (fun _ _ _ h => h)
      (fun _ _ _ h => h) (fun _ _ _ h => h) (fun _ _ h => h) (fun _ _ h => h) (fun _ _ h => h) (fun t h => ?_) (fun t h => countHeavy_live h ..) hq
    obtain ⟨_, _, e⟩ := stopDue_frame t g 1 (s.group g).cycle
    rw [e]; exact h

/-- A BP that does not lose a clash yields what its word alone yields. -/
theorem stepOut_writes_of_not_loses {p bp : Nat} (h : ¬s.loses p bp = true) (n : Word) (v : BpView) :
    (s.stepOut p n bp).writes p v = (bpEval s bp p n true (s.stepIns p bp)).writes p v := by
  unfold State.stepOut
  rw [BpOut.fetched_writes, Bool.not_eq_true _ |>.mp h]
  rfl

/-- One that loses yields the LUT4P of its operands, or the pessimistic MUX2X (R48). -/
theorem stepOut_result_of_loses {p bp : Nat} (h : s.loses p bp = true) (n : Word) :
    (s.stepOut p n bp).result = some (if (s.stepIns p bp).op = 1
      then lut4p (s.stepIns p bp).tt (s.val bp n (s.stepIns p bp).a) (s.val bp n (s.stepIns p bp).b) (s.val bp n (s.stepIns p bp).c)
        (s.val bp n (s.stepIns p bp).d)
      else mux2x false (s.val bp n (s.stepIns p bp).a) (s.val bp n (s.stepIns p bp).b) (s.val bp n (s.stepIns p bp).c)) := by
  unfold State.stepOut
  rw [BpOut.fetched_result, h]
  obtain ⟨hi, -⟩ := (loses_iff ..).mp h
  unfold InsWord.exactIssue at hi
  simp only [Bool.and_eq_true, Bool.or_eq_true, decide_eq_true_eq, Option.isNone_iff_eq_none] at hi
  obtain ⟨hop, hill⟩ := hi
  unfold bpEval State.val
  rw [hill]
  rcases hop with hop | hop
  · rw [hop]; rfl
  · rw [hop]; rfl

end

section
variable {s : State} {g : Nat}

theorem State.Quiet.step_lt (hq : s.Quiet g) : (s.group g).step < 4096 := hq.parts.inCycle.trans_le hq.parts.short

-- the faults of a step with no word in error

theorem eccEv_clean (st e : Nat) : eccEv 0 st e = [] := rfl

/-- What an operand meets where no word is in error: a slot that the cycle has not written (R100). -/
theorem operand_stale_iff (he : s.ecc = []) (bp : Nat) (n : Word) (w : BitVec 13) (r : ReadEv) : r ∈ (s.operand bp n w).2
    ↔ ∃ k, selOf w = .slot k false ∧ (s.slotAt (bpCluster bp) k).written = false ∧ r = .stale k := by
  unfold State.operand
  split
  case h_4 k prior h =>
    rw [h]
    unfold slotRead
    cases hw : (s.slotAt (bpCluster bp) k).written <;> cases prior <;> simp [hw]
  case h_1 h => rw [h, eccAt_of_nil he, eccEv_clean]; simp
  case h_2 h => rw [h, eccAt_of_nil he, eccEv_clean]; simp
  all_goals next h => rw [h]; simp

/-- What a BP meets in its reads where no word is in error (R100). -/
theorem stepOut_reads_iff (he : s.ecc = []) (p : Nat) (n : Word) (bp : Nat) (r : ReadEv) : r ∈ (s.stepOut p n bp).reads
    ↔ (s.stepIns p bp).illegal = none ∧ ∃ w ∈ (s.stepIns p bp).reads, ∃ k, selOf w = .slot k false
      ∧ (s.slotAt (bpCluster bp) k).written = false ∧ r = .stale k := by
  unfold State.stepOut
  rw [BpOut.fetched_reads]
  constructor
  · intro h
    obtain ⟨hi, ⟨w, hw, hr⟩ | hr | ⟨j, hr⟩⟩ := operand_of_mem_reads h
    · exact ⟨hi, w, hw, (operand_stale_iff he bp n w r).mp hr⟩
    · rw [eccAt_of_nil he, eccEv_clean] at hr
      exact absurd hr (by simp)
    · rw [eccAt_of_nil he, eccEv_clean] at hr
      exact absurd hr (by simp)
  · rintro ⟨hi, w, hw, k, hk⟩
    exact mem_reads_of_operand hi hw (fun j hj => absurd (hk.1.symm.trans hj) (by simp)) ((operand_stale_iff he bp n w r).mpr ⟨k, hk⟩)

/-- A fetch with no word in error finds reserved opcodes, and nothing else (R74). -/
theorem fetchEvents_clean (he : s.ecc = []) (p : Nat) (n : Word) : ∀ e ∈ s.fetchEvents g p n, e.code = 0x1007 := by
  intro e h
  unfold State.fetchEvents at h
  rcases List.mem_append.mp h with h | h
  · unfold State.fetchStores at h
    rw [he] at h
    exact absurd h (by simp)
  · obtain ⟨x, -, hx⟩ := List.mem_filterMap.mp h
    unfold State.fetchIllegal at hx
    split at hx
    · exact (Option.some.inj hx) ▸ rfl
    · exact absurd hx (by simp)

/-- Which faults a step raises in which nothing flies and no word is in error. -/
theorem State.Quiet.clean_rises (hq : s.Quiet g) (hf : (s.group g).flights = []) (he : s.ecc = []) {code : Nat} (hc : code ∈ faultCodes)
    (hev : code ≠ 0x1004) (hwin : code ≠ 0x1005) (hill : code ≠ 0x1007) (hedge : code ≠ 0x4002) (hring : code ≠ 0x5002) :
    s.faultCount code < ((stepBody (s.atStep g) g).settle).faultCount code
      ↔ (code = 0x1006 ∧ ∃ c ∈ (s.group g).clusters, s.portMeets (s.group g).step c)
        ∨ (code = 0x1001 ∧ ∃ a b, a < b ∧ a / 4 = b / 4 ∧ bpCluster a ∈ (s.group g).clusters
          ∧ (s.stepIns (s.group g).step a).exactIssue = true ∧ (s.stepIns (s.group g).step b).exactIssue = true)
        ∨ (code = 0x1003 ∧ ∃ bp, bpCluster bp ∈ (s.group g).clusters ∧ (s.stepIns (s.group g).step bp).illegal = none
          ∧ ∃ w ∈ (s.stepIns (s.group g).step bp).reads, ∃ k, selOf w = .slot k false ∧ (s.slotAt (bpCluster bp) k).written = false) := by
  obtain ⟨pre, h⟩ := hq.atRest hf
  have hecc : pre.ecc = [] := h.same.ecc.trans he
  have hE : LowMarks pre.ecc := by rw [hecc]; exact lowMarks_nil
  have ports : Aside pre (stepPorts pre (s.group g).clusters (s.group g).step (s.group g).cycle).1 := stepPorts_aside hE ..
  have hover : ((s.atStep g).stepOver g).ecc = [] := (stepOver_kept ..).ecc.trans (h.stores he hq.bpWf hq.step_lt).1
  obtain ⟨ponly, -, pmeets⟩ := portTurns_codes (p := (s.group g).step) (n := (s.group g).cycle) hecc (s.group g).clusters (acc := (pre, [], [])) (Aside.refl pre)
  have fetch : ¬∃ e ∈ ((s.atStep g).stepOver g).fetchEvents g ((s.atStep g).group g).nextStep ((s.atStep g).group g).cycle, e.code = code := by
    rintro ⟨e, hm, hcode⟩
    exact hill (hcode.symm.trans (fetchEvents_clean hover _ _ e hm))
  rw [hq.rises_iff (by simp [hf]) hc hedge hring, or_iff_left fetch, h.faults_iff code hwin]
  refine or_congr ?_ (or_congr ?_ ?_)
  · constructor
    · rintro ⟨e, hm, hcode⟩
      rcases ponly e hm with hm | hx | hx | ⟨hx, c, hcm, hmeet⟩
      · exact absurd hm (by simp)
      · exact absurd (hcode.symm.trans hx) hev
      · exact absurd (hcode.symm.trans hx) hill
      · exact ⟨hcode.symm.trans hx, c, hcm, (h.same.portMeets _ c).mp hmeet⟩
    · rintro ⟨rfl, c, hcm, hmeet⟩
      exact pmeets ⟨c, hcm, (h.same.portMeets _ c).mpr hmeet⟩
  · constructor
    · rintro ⟨c, hcm, e, hm, hcode⟩
      obtain ⟨honly, hiff⟩ := clusterOuts_codes (c := c) (p := (s.group g).step) (n := (s.group g).cycle) h.good
      obtain ⟨a, b, hab, hg4, hac, qa, qb⟩ := hiff.mp ⟨e, hm⟩
      rw [h.same.stepIns] at qa qb
      exact ⟨hcode.symm.trans (honly e hm), a, b, hab, hg4, hac ▸ hcm, qa, qb⟩
    · rintro ⟨rfl, a, b, hab, hg4, hac, qa, qb⟩
      obtain ⟨honly, hiff⟩ := clusterOuts_codes (c := bpCluster a) (p := (s.group g).step) (n := (s.group g).cycle) h.good
      obtain ⟨e, hm⟩ := hiff.mpr ⟨a, b, hab, hg4, rfl, by rw [h.same.stepIns]; exact qa, by rw [h.same.stepIns]; exact qb⟩
      exact ⟨bpCluster a, hac, e, hm, honly e hm⟩
  · constructor
    · rintro ⟨e, hm, hcode⟩
      rcases bpWrites_codes _ (ports.ecc.trans hecc) e hm with ⟨bp, hbp, hx⟩ | hx | hx
      · obtain ⟨r, hr, hrc⟩ := List.mem_map.mp hx
        rw [h.same.stepOut, stepOut_reads_iff he] at hr
        obtain ⟨hi, w, hw, k, hsel, hwr, rfl⟩ := hr
        exact ⟨hcode.symm.trans hrc.symm, bp, mem_stepBps.mp hbp, hi, w, hw, k, hsel, hwr⟩
      · exact absurd (hcode.symm.trans hx) hill
      · exact absurd (hcode.symm.trans hx) hev
    · rintro ⟨rfl, bp, hbp, hi, w, hw, k, hsel, hwr⟩
      exact bpWrites_raises_reads _ (mem_stepBps.mpr hbp) (r := .stale k)
        (by rw [h.same.stepOut, stepOut_reads_iff he]; exact ⟨hi, w, hw, k, hsel, hwr, rfl⟩)

end

theorem portMeets_iff (s : State) (p c : Nat) : s.portMeets p c ↔ (s.portWord p c).bad = false
    ∧ ∃ w : Nat, slotAddr (s.cluster c).port .a (s.portWord p c).a = some w ∧ slotAddr (s.cluster c).port .b (s.portWord p c).b = some w
      ∧ ((s.portWord p c).aop = 1 ∧ 2 ≤ (s.portWord p c).bop ∨ 2 ≤ (s.portWord p c).aop ∧ (s.portWord p c).bop = 1) := by
  unfold State.portMeets
  rw [collides_iff]

/-- Where a BP of the state `t` holds what the state `u` holds of it. -/
structure SameBp (t u : State) (p bp : Nat) : Prop where
  value : t.valueAt bp p = u.valueAt bp p
  result : t.resultAt bp = u.resultAt bp
  state : ∀ j < 1024, t.curAt bp j = u.curAt bp j ∧ t.stgAt bp j = u.stgAt bp j ∧ t.pendAt bp j = u.pendAt bp j

theorem sameBp_of_view {t u : State} {p bp : Nat} (hp : p < 4096) (ht : t.live (bpParcel bp) = true) (hu : u.live (bpParcel bp) = true)
    (h : t.bpView bp = u.bpView bp) : SameBp t u p bp := by
  refine ⟨?_, ?_, fun j hj => ⟨?_, ?_, ?_⟩⟩
  · rw [valueAt_eq_view ht hp, valueAt_eq_view hu hp, h]
  · rw [resultAt_eq_view ht, resultAt_eq_view hu, h]
  · rw [curAt_eq_view ht hj, curAt_eq_view hu hj, h]
  · rw [stgAt_eq_view ht hj, stgAt_eq_view hu hj, h]
  · rw [pendAt_eq_view hj, pendAt_eq_view hj, h]

section
variable {s : State} {g : Nat} (hq : s.Quiet g) (hf : (s.group g).flights = []) (he : s.ecc = [])
include hq hf he

/-- What a BP of the group holds after the step (R37). -/
theorem State.Quiet.view_after {bp : Nat} (h : bpCluster bp ∈ (s.group g).clusters) :
    ((stepBody (s.atStep g) g).settle).live (bpParcel bp) = true ∧ ((stepBody (s.atStep g) g).settle).bpView bp
      = (s.stepOut (s.group g).step (s.group g).cycle bp).writes (s.group g).step (s.bpView bp) := by
  obtain ⟨pre, hr⟩ := hq.atRest hf
  obtain ⟨hview, -, hlive⟩ := hr.after he hq.bpWf hq.step_lt
  exact ⟨hlive _ (hq.holds h).2.1, (hview bp).trans (if_pos h)⟩

theorem State.Quiet.other_entries {bp : Nat} (h : bpCluster bp ∈ (s.group g).clusters) {e : Nat} (hlt : e < 4096) (hne : e ≠ (s.group g).step) :
    ((stepBody (s.atStep g) g).settle).valueAt bp e = s.valueAt bp e := by
  obtain ⟨hl, hv⟩ := hq.view_after hf he h
  rw [valueAt_eq_view hl hlt, valueAt_eq_view (hq.holds h).2.1 hlt, hv]
  exact BpOut.writes_value_other _ _ hlt hne

/-- A BP leaves what its word alone leaves (R37, R39 to R41). -/
theorem State.Quiet.as_alone {bp : Nat} (h : bpCluster bp ∈ (s.group g).clusters) (hl : ¬s.loses (s.group g).step bp = true) {u : State}
    (hu : exec (.reservedOpcode bp (mget 0 (bp * 4096 + (s.group g).step) s.istore)) s = .next u) :
    SameBp ((stepBody (s.atStep g) g).settle) u (s.group g).step bp := by
  obtain ⟨hbp, hlive, hrun⟩ := hq.holds h
  have hone : u = oneIns s bp (s.stepIns (s.group g).step bp) := by
    have e : exec (.reservedOpcode bp (mget 0 (bp * 4096 + (s.group g).step) s.istore)) s = bpRow s bp (s.stepIns (s.group g).step bp) := rfl
    rw [e, bpRow, if_pos hbp] at hu
    injection hu with hu
    exact hu.symm
  obtain ⟨hview, hkeep⟩ := oneIns_view hrun he hq.bpWf hq.step_lt (s.stepIns (s.group g).step bp)
  obtain ⟨ht, hv⟩ := hq.view_after hf he h
  rw [hone]
  refine sameBp_of_view hq.step_lt ht (hkeep _ hlive) ?_
  rw [hview, hv]
  exact stepOut_writes_of_not_loses hl ..

/-- The result of a BP stands in its value store and in its result register (R37). -/
theorem State.Quiet.result_after {bp : Nat} (h : bpCluster bp ∈ (s.group g).clusters) {v : V4}
    (hv : (s.stepOut (s.group g).step (s.group g).cycle bp).result = some v) :
    ((stepBody (s.atStep g) g).settle).valueAt bp (s.group g).step = v ∧ ((stepBody (s.atStep g) g).settle).resultAt bp = v := by
  obtain ⟨ht, hview⟩ := hq.view_after hf he h
  rw [valueAt_eq_view ht hq.step_lt, resultAt_eq_view ht, hview]
  exact BpOut.writes_result hv _ hq.step_lt

/-- Slot A of a port writes the staging word of before the step (R77). -/
theorem State.Quiet.port_writes {c : Nat} (h : c ∈ (s.group g).clusters) (hw : WritesA (s.portWord (s.group g).step c)) :
    ((stepBody (s.atStep g) g).settle).bankWord c (s.portWord (s.group g).step c).a.addr.toNat = (s.cluster c).port.staging.setWidth 64 := by
  obtain ⟨pre, hr⟩ := hq.atRest hf
  obtain ⟨-, hbank, -⟩ := hr.after he hq.bpWf hq.step_lt
  have key := portTurns_writes (pre := pre) (p := (s.group g).step) (n := (s.group g).cycle) (hr.same.ecc.trans he) (c := c)
    (by rw [hr.same.portWord]; exact hw) (s.group g).clusters (acc := (pre, [], [])) (Aside.refl pre) (by rw [hr.bank]; exact hq.parts.bankWf) (.inr h)
  rw [hr.same.portWord, hr.same.cluster] at key
  rw [← key]
  unfold State.bankWord
  rw [hbank]
  rfl

end

end Sys2Proof.Machine
end

-- ==== A step with one word in error ====
section
/-! PROOFS. The marks stay as they are until the fault of the one word has been raised (R51 to R53). -/
namespace Sys2Proof.Machine

-- one word in error (R51 to R53)

/-- The fault of a word in error. -/
def markCode (m : Nat) : Nat := if m = 1 then 0x2001 else 0x2002

theorem mget_single (k k' m : Nat) : mget 0 k [(k', m)] = if k = k' then m else 0 := by
  simp [mget, eq_comm]

/-- The marks are still as they were, or the fault of the one word in error has been raised; that of an instruction word is not raised. -/
def Met (store w m : Nat) (q : State × List FaultEv) : Prop :=
  q.1.ecc = [(eccKey store w, m)] ∨ store ≠ 0 ∧ ∃ e ∈ q.2, e.code = markCode m

section
variable {store w m : Nat} (hm : m = 1 ∨ m = 2) (hw : w < 2 ^ 44)

theorem Met.mono {q q' : State × List FaultEv} (h : Met store w m q) (he : q.1.ecc = [(eccKey store w, m)] → Met store w m q')
    (hs : ∀ e ∈ q.2, e ∈ q'.2) : Met store w m q' := by
  rcases h with h | ⟨h0, e, hm, hc⟩
  · exact he h
  · exact .inr ⟨h0, e, hs e hm, hc⟩

include hw in
theorem store_ne_of_key {st v : Nat} (hst : st ≠ 0) (h : eccKey st v = eccKey store w) : store ≠ 0 := by
  rintro rfl
  unfold eccKey at h
  omega

include hm hw

/-- A write into the word in error raises it; one into another word leaves it. -/
theorem eccWrite_met {s : State} (he : s.ecc = [(eccKey store w, m)]) {st : Nat} (hst : st ≠ 0) (bp e p : Nat) (n : Word) :
    (eccKey st (bp * (if st = 1 then 512 else 128) + e / 8) ≠ eccKey store w ∧ eccWrite s st bp e p n = (s, []))
      ∨ store ≠ 0 ∧ ∃ f ∈ (eccWrite s st bp e p n).2, f.code = markCode m := by
  by_cases hk : eccKey st (bp * (if st = 1 then 512 else 128) + e / 8) = eccKey store w
  · refine .inr ⟨store_ne_of_key hw hst hk, ?_⟩
    have hat : s.eccAt st (bp * (if st = 1 then 512 else 128) + e / 8) = m := by
      unfold State.eccAt; rw [he, mget_single, if_pos hk]
    unfold eccWrite markCode
    dsimp only
    rw [hat]
    rcases hm with rfl | rfl <;> simp [bpFault]
  · exact .inl ⟨hk, eccWrite_clean (by unfold State.eccAt; rw [he, mget_single, if_neg hk])⟩

end

theorem readFaults_of_no_ce {l : List ReadEv} (h : ∀ st e, ReadEv.ce st e ∉ l) (s : State) (bp p : Nat) (n : Word) :
    (readFaults s bp p n l).1 = s := by
  induction l generalizing s with
  | nil => rfl
  | cons e l ih =>
    have hl : ∀ st e, ReadEv.ce st e ∉ l := fun st e hm => h st e (List.mem_cons_of_mem _ hm)
    cases e with
    | stale r => exact ih hl s
    | ce st e => exact absurd List.mem_cons_self (h st e)
    | ue st e => exact ih hl s

section
variable {store w m : Nat} (hm : m = 1 ∨ m = 2) (hw : w < 2 ^ 44) {bp p : Nat} {n : Word} {o : BpOut}
include hm hw

omit hm hw in
theorem applyReads_met (hce : ∀ st e, ReadEv.ce st e ∈ o.reads → store ≠ 0 ∧ m = 1) {s : State} (he : s.ecc = [(eccKey store w, m)]) :
    Met store w m (applyReads bp p n o s) := by
  by_cases h : ∃ st e, ReadEv.ce st e ∈ o.reads
  · obtain ⟨st, e, hr⟩ := h
    obtain ⟨h0, h1⟩ := hce st e hr
    have hc : ReadEv.code (.ce st e) ∈ (readFaults s bp p n o.reads).2.map (·.code) := readFaults_codes .. ▸ List.mem_map_of_mem hr
    obtain ⟨f, hf, hcode⟩ := List.mem_map.mp hc
    exact .inr ⟨h0, f, List.mem_append_left _ hf, by rw [hcode, h1]; rfl⟩
  · left
    unfold applyReads
    rw [readFaults_of_no_ce (fun st e hr => h ⟨st, e, hr⟩)]
    exact he

theorem applyCur_met {q : State × List FaultEv} (h : Met store w m q) : Met store w m (applyCur bp p n o q) := by
  unfold applyCur
  split
  · next j v _ =>
    refine h.mono (fun he => ?_) fun e hm => List.mem_append_left _ hm
    rcases eccWrite_met hm hw he (st := 2) (by decide) bp j p n with ⟨-, k⟩ | ⟨h0, f, hf, hc⟩
    · rw [k]; exact .inl he
    · exact .inr ⟨h0, f, List.mem_append_right _ hf, hc⟩
  · exact h

theorem applyStage_met {q : State × List FaultEv} (h : Met store w m q) : Met store w m (applyStage bp p n o q) := by
  unfold applyStage
  split
  · next j v _ =>
    refine h.mono (fun he => ?_) fun e hm => List.mem_append_left _ hm
    rcases eccWrite_met hm hw he (st := 8) (by decide) bp j p n with ⟨-, k⟩ | ⟨h0, f, hf, hc⟩
    · rw [k]; exact .inl he
    · exact .inr ⟨h0, f, List.mem_append_right _ hf, hc⟩
  · exact h

theorem applyResult_met {q : State × List FaultEv} (h : Met store w m q) : Met store w m (applyResult bp p n o q)
    ∧ (eccKey 1 (bp * 512 + p / 8) = eccKey store w → o.result ≠ none → ∃ e ∈ (applyResult bp p n o q).2, e.code = markCode m) := by
  unfold applyResult
  cases o.result with
  | none => exact ⟨h, fun _ h => absurd rfl h⟩
  | some v =>
    dsimp only
    rcases h with he | ⟨h0, e, he, hc⟩
    · rcases eccWrite_met hm hw he (st := 1) (by decide) bp p p n with ⟨hk, k⟩ | ⟨h0, f, hf, hc⟩
      · rw [k]
        exact ⟨.inl he, fun h => absurd h hk⟩
      · exact ⟨.inr ⟨h0, f, List.mem_append_right _ hf, hc⟩, fun _ _ => ⟨f, List.mem_append_right _ hf, hc⟩⟩
    · exact ⟨.inr ⟨h0, e, List.mem_append_left _ he, hc⟩, fun _ _ => ⟨e, List.mem_append_left _ he, hc⟩⟩

/-- An instruction leaves the word in error, or raises it; its result raises it where it is in the word of the result. -/
theorem bpApply_met (hce : ∀ st e, ReadEv.ce st e ∈ o.reads → store ≠ 0 ∧ m = 1) {s : State} (he : s.ecc = [(eccKey store w, m)]) (g : Nat) :
    Met store w m (bpApply s g bp p n o)
      ∧ (eccKey 1 (bp * 512 + p / 8) = eccKey store w → o.result ≠ none → ∃ e ∈ (bpApply s g bp p n o).2, e.code = markCode m) := by
  have reads : Met store w m (applyReads bp p n o s) := applyReads_met hce he
  obtain ⟨hmet, hres⟩ := applyResult_met hm hw (bp := bp) (p := p) (n := n) (o := o)
    (applyStage_met hm hw (bp := bp) (p := p) (n := n) (o := o) (applyCur_met hm hw (bp := bp) (p := p) (n := n) (o := o) reads))
  have port (t : State) : (applyPort bp o t).ecc = t.ecc := by unfold applyPort; split <;> split <;> rfl
  have event (q : State × List FaultEv) : (applyEvent bp p n o q).1.ecc = q.1.ecc ∧ ∀ e ∈ q.2, e ∈ (applyEvent bp p n o q).2 := by
    unfold applyEvent postEvent
    split
    · dsimp only
      split <;> exact ⟨rfl, fun e h => List.mem_append_left _ h⟩
    · exact ⟨rfl, fun _ h => h⟩
  have stop (t : State) : (applyStop g bp n o t).ecc = t.ecc := by
    have due (t : State) : (t.stopDue g 1 n).ecc = t.ecc := by
      obtain ⟨_, _, e⟩ := stopDue_frame t g 1 n
      rw [e]
    unfold applyStop
    split_ifs
    · exact due t
    · exact due t
    · rfl
    · rfl
  rw [bpApply_eq]
  dsimp only
  obtain ⟨hecc, hsub⟩ := event (applyPort bp o (applyStores bp p n o s).1, (applyStores bp p n o s).2)
  refine ⟨hmet.mono (fun h => .inl ?_) hsub, fun hk hr => ?_⟩
  · exact (stop _).trans (hecc.trans ((port _).trans h))
  · obtain ⟨e, hm, hc⟩ := hres hk hr
    exact ⟨e, hsub e hm, hc⟩

/-- The instructions of a step leave the word in error, or raise it. -/
theorem bpWrites_met {pre : State} {g : Nat} (hce : ∀ bp st e, ReadEv.ce st e ∈ (pre.stepOut p n bp).reads → store ≠ 0 ∧ m = 1) (l : List Nat)
    {s : State} (he : s.ecc = [(eccKey store w, m)]) : Met store w m (foldFaults (bpWrites pre g p n) l s)
      ∧ ∀ bp ∈ l, eccKey 1 (bp * 512 + p / 8) = eccKey store w → (pre.stepOut p n bp).result ≠ none →
        ∃ e ∈ (foldFaults (bpWrites pre g p n) l s).2, e.code = markCode m := by
  induction l generalizing s with
  | nil => exact ⟨.inl he, fun _ h => absurd h List.not_mem_nil⟩
  | cons b l ih =>
    obtain ⟨hmet, hres⟩ := bpApply_met hm hw (bp := b) (p := p) (n := n) (hce b) he g
    rcases hmet with hmet | ⟨h0, e, hem, hc⟩
    · obtain ⟨hrest, hthere⟩ := ih (s := (bpWrites pre g p n s b).1) hmet
      refine ⟨hrest.mono .inl fun e he => List.mem_append_right _ he, fun bp hbp hk hr => ?_⟩
      rcases List.mem_cons.mp hbp with rfl | hbp
      · obtain ⟨e, he, hc⟩ := hres hk hr
        exact ⟨e, List.mem_append_left _ he, hc⟩
      · obtain ⟨e, he, hc⟩ := hthere bp hbp hk hr
        exact ⟨e, List.mem_append_right _ he, hc⟩
    · have found : ∃ e ∈ (foldFaults (bpWrites pre g p n) (b :: l) s).2, e.code = markCode m := ⟨e, List.mem_append_left _ hem, hc⟩
      exact ⟨.inr ⟨h0, found⟩, fun _ _ _ _ => found⟩

end

-- what instructions meet of it

section
variable {s : State} {store w m : Nat} (he : s.ecc = [(eccKey store w, m)])
include he

theorem eccAt_single (st v : Nat) : s.eccAt st v = if eccKey st v = eccKey store w then m else 0 := by
  unfold State.eccAt; rw [he, mget_single]

/-- A correctable word that an instruction meets is the one in error. -/
theorem ce_of_mem_reads (hw : w < 2 ^ 44) {p bp st e : Nat} {n : Word} (h : ReadEv.ce st e ∈ (s.stepOut p n bp).reads) : store ≠ 0 ∧ m = 1 := by
  have check {st' v e' : Nat} (hst : st' ≠ 0) (hr : ReadEv.ce st e ∈ eccEv (s.eccAt st' v) st' e') : store ≠ 0 ∧ m = 1 := by
    obtain ⟨h1, -, -⟩ := eccEv_mem.1 hr
    rw [eccAt_single he] at h1
    split at h1
    · next hk => exact ⟨store_ne_of_key hw hst hk, h1⟩
    · exact absurd h1 (by decide)
  unfold State.stepOut at h
  rw [BpOut.fetched_reads] at h
  obtain ⟨-, ⟨x, -, hr⟩ | hr | ⟨j, hr⟩⟩ := operand_of_mem_reads h
  · unfold State.operand at hr
    split at hr
    case h_1 => exact check (by decide) hr
    case h_2 => exact check (by decide) hr
    case h_4 =>
      unfold slotRead at hr
      split at hr <;> exact absurd hr (by simp)
    all_goals exact absurd hr (by simp)
  · exact check (by decide) hr
  · exact check (by decide) hr

/-- An operand in the word in error is met (R52, R53). -/
theorem operand_met (hm : m = 1 ∨ m = 2) {bp : Nat} {n : Word} {x : BitVec 13}
    (h : (∃ e, selOf x = .value e ∧ eccKey store w = eccKey 1 (bp * 512 + e / 8))
      ∨ ∃ j, selOf x = .state j ∧ eccKey store w = eccKey 2 (bp * 128 + j / 8)) :
    ∃ r ∈ (s.operand bp n x).2, r.code = markCode m := by
  have event (st e : Nat) : ∃ r ∈ eccEv m st e, r.code = markCode m := by
    rcases hm with rfl | rfl
    · exact ⟨.ce st e, List.mem_singleton_self _, rfl⟩
    · exact ⟨.ue st e, List.mem_singleton_self _, rfl⟩
  unfold State.operand
  rcases h with ⟨e, hsel, hk⟩ | ⟨j, hsel, hk⟩
  · rw [hsel]
    dsimp only
    rw [eccAt_single he, if_pos hk.symm]
    exact event 1 e
  · rw [hsel]
    dsimp only
    rw [eccAt_single he, if_pos hk.symm]
    exact event 2 j

/-- The fetch of an instruction word in error raises it (R51 to R53). -/
theorem fetchEvents_met (h0 : store = 0) {g p bp : Nat} (hp : p < 4096) (hh : (s.group g).holds (bpCluster bp) = true)
    (hb : w = bp * 1024 + p / 4) (hw : w < 2 ^ 44) (n : Word) : ∃ e ∈ s.fetchEvents g p n, e.code = markCode m := by
  subst h0
  have hdiv : eccKey 0 w / 2 ^ 44 = 0 := by unfold eccKey; omega
  have hmod : eccKey 0 w % 2 ^ 44 = w := by unfold eccKey; omega
  have hbp : w / 1024 = bp := by omega
  have hlo : w % 1024 = p / 4 := by omega
  have hit : s.fetchFault g p n (eccKey 0 w, m) = some (bpFault (markCode m) 4 bp p n (storeAddr 0 (bpCluster bp) bp p)) := by
    unfold State.fetchFault
    dsimp only
    rw [hdiv, hmod, hbp]
    exact if_pos ⟨hlo, hh⟩
  refine ⟨bpFault (markCode m) 4 bp p n (storeAddr 0 (bpCluster bp) bp p), List.mem_append_left _ ?_, rfl⟩
  unfold State.fetchStores
  rw [he]
  have hlt : eccKey 0 w < 17592186044416 := by unfold eccKey; omega
  simp [hlt, hit]

end

/-- Any instruction but NOP has a result. -/
theorem bpEval_result {i : InsWord} (h : i.op ≠ 0) (s : State) (bp p : Nat) (n : Word) (ex : Bool) : (bpEval s bp p n ex i).result ≠ none := by
  unfold bpEval
  split
  · exact Option.some_ne_none _
  · dsimp only
    split
    case h_1 e => exact absurd e h
    all_goals exact Option.some_ne_none _

/-- Before the fetch of the step after, the group stands at that step. -/
theorem Stands.stepOver {g o : Nat} {c : List Nat × RunState × Nat × Word} {t : State} (h : Stands g o c t) :
    Stands g o (c.1, c.2.1, (t.group g).step + 1, c.2.2.2) (t.stepOver g) := by
  unfold State.stepOver State.stepDone State.stepWrote
  exact (((h.stepRead.elsewhere (stepPorts_clock ..)).foldFaults fun _ _ k => k.runCluster).stepSends.elsewhere
    (stepWindows_clock ..)).raiseAll.stepPassed

theorem atStep_stands {s : State} {g : Nat} (hp : (s.group g).parcels ≠ []) (hrun : (s.group g).state = .running) :
    Stands g (s.nextOpp g) (s.group g).post (s.atStep g) := (readied_stands hp hrun).stepOpened

theorem Stands.parcels_eq {g o : Nat} {r : RunGroup} {p : Nat} {t : State} (h : Stands g o (r.post.1, r.post.2.1, p, r.post.2.2.2) t) :
    (t.group g).parcels = r.parcels := congrArg (·.1) h.post

section
variable {s : State} {g : Nat} {store w m : Nat} (hq : s.Quiet g) (hf : (s.group g).flights = []) (hm : m = 1 ∨ m = 2) (hw : w < 2 ^ 44)
  (he : s.ecc = [(eccKey store w, m)])
include hq hf hm hw he

omit hq hf hw he in
theorem markCode_cases : markCode m = 0x2001 ∨ markCode m = 0x2002 := by
  rcases hm with rfl | rfl
  · exact .inl rfl
  · exact .inr rfl

omit hw he in
/-- A fault of the word in error, found by an instruction or by the fetch, is raised. -/
theorem State.Quiet.mark_rises {pre : State} (hr : AtRest s g pre)
    (h : (∃ e ∈ (foldFaults (bpWrites pre g (s.group g).step (s.group g).cycle) (stepBps (s.group g).clusters)
          (stepPorts pre (s.group g).clusters (s.group g).step (s.group g).cycle).1).2, e.code = markCode m)
      ∨ ∃ e ∈ ((s.atStep g).stepOver g).fetchEvents g ((s.atStep g).group g).nextStep ((s.atStep g).group g).cycle, e.code = markCode m) :
    s.faultCount (markCode m) < ((stepBody (s.atStep g) g).settle).faultCount (markCode m) := by
  have hcases := markCode_cases hm
  have hc : markCode m ∈ faultCodes := by rcases hcases with h | h <;> rw [h] <;> decide
  have hwin : markCode m ≠ 0x1005 := by rcases hcases with h | h <;> rw [h] <;> decide
  have hedge : markCode m ≠ 0x4002 := by rcases hcases with h | h <;> rw [h] <;> decide
  have hring : markCode m ≠ 0x5002 := by rcases hcases with h | h <;> rw [h] <;> decide
  rw [hq.rises_iff (by simp [hf]) hc hedge hring]
  exact h.imp_left fun k => (hr.faults_iff _ hwin).mpr (.inr (.inr k))

omit hw in
/-- An operand in the word in error raises it. -/
theorem State.Quiet.operand_rises {bp : Nat} (hbp : bpCluster bp ∈ (s.group g).clusters)
    (hi : (s.stepIns (s.group g).step bp).illegal = none) {x : BitVec 13} (hx : x ∈ (s.stepIns (s.group g).step bp).reads)
    (h : (∃ e, selOf x = .value e ∧ eccKey store w = eccKey 1 (bp * 512 + e / 8))
      ∨ ∃ j, selOf x = .state j ∧ s.pendAt bp j = false ∧ eccKey store w = eccKey 2 (bp * 128 + j / 8)) :
    s.faultCount (markCode m) < ((stepBody (s.atStep g) g).settle).faultCount (markCode m) := by
  obtain ⟨pre, hr⟩ := hq.atRest hf
  obtain ⟨r, hread, hcode⟩ := operand_met he hm (bp := bp) (n := (s.group g).cycle)
    (h.imp_right fun ⟨j, hsel, _, hk⟩ => ⟨j, hsel, hk⟩)
  have hpend : ∀ j, selOf x = .state j → s.pendAt bp j = false := by
    intro j hj
    rcases h with ⟨e, hsel, -⟩ | ⟨k, hsel, hp, -⟩
    · exact absurd (hj.symm.trans hsel) (by simp)
    · have : j = k := by simpa using hj.symm.trans hsel
      exact this ▸ hp
  have hout : r ∈ (pre.stepOut (s.group g).step (s.group g).cycle bp).reads := by
    rw [hr.same.stepOut]
    unfold State.stepOut
    rw [BpOut.fetched_reads]
    exact mem_reads_of_operand hi hx hpend hread
  obtain ⟨e, hem, hc⟩ := bpWrites_raises_reads (g := g) (stepPorts pre (s.group g).clusters (s.group g).step (s.group g).cycle).1
    (mem_stepBps.mpr hbp) hout
  exact hq.mark_rises hf hm hr (.inl ⟨e, hem, hc.trans hcode⟩)

/-- A result in the word in error raises it, and so does the fetch of an instruction in it. -/
theorem State.Quiet.result_or_fetch_rises (hstore : store ≤ 4)
    (h : (∃ bp, bpCluster bp ∈ (s.group g).clusters ∧ (s.stepIns (s.group g).step bp).op ≠ 0
        ∧ eccKey 1 (bp * 512 + (s.group g).step / 8) = eccKey store w)
      ∨ store = 0 ∧ ∃ bp, bpCluster bp ∈ (s.group g).clusters ∧ w = bp * 1024 + (s.group g).nextStep / 4) :
    s.faultCount (markCode m) < ((stepBody (s.atStep g) g).settle).faultCount (markCode m) := by
  obtain ⟨pre, hr⟩ := hq.atRest hf
  have hecc : pre.ecc = [(eccKey store w, m)] := hr.same.ecc.trans he
  have ports : Aside pre (stepPorts pre (s.group g).clusters (s.group g).step (s.group g).cycle).1 :=
    stepPorts_aside (by rw [hecc]; exact lowMarks_single hstore hw) ..
  obtain ⟨hmet, hresult⟩ := bpWrites_met hm hw (pre := pre) (g := g) (p := (s.group g).step) (n := (s.group g).cycle)
    (fun bp st e hread => ce_of_mem_reads hecc hw hread) (stepBps (s.group g).clusters) (ports.ecc.trans hecc)
  rcases h with ⟨bp, hbp, hop, hk⟩ | ⟨h0, bp, hbp, hb⟩
  · refine hq.mark_rises hf hm hr (.inl (hresult bp (mem_stepBps.mpr hbp) hk ?_))
    rw [hr.same.stepOut]
    unfold State.stepOut
    rw [BpOut.fetched_result]
    exact bpEval_result hop s bp _ _ _
  · refine hq.mark_rises hf hm hr (.inr ?_)
    have hover : ((s.atStep g).stepOver g).ecc = [(eccKey store w, m)] := by
      rw [(stepOver_kept ..).ecc, hr.wrote_eq]
      exact hmet.resolve_right fun h => h.1 h0
    have hc := hr.course
    simp only [RunGroup.course, Prod.mk.injEq] at hc
    obtain ⟨hps, -, hstep, hcycle, hn, -⟩ := hc
    have hnext : ((s.atStep g).group g).nextStep = (s.group g).nextStep := by unfold RunGroup.nextStep; rw [hstep, hn]
    have hlt : (s.group g).nextStep < 4096 := by
      have hs := hq.parts.inCycle
      have hN := hq.parts.short
      unfold RunGroup.nextStep
      split <;> omega
    have hparcels : (((s.atStep g).stepOver g).group g).parcels = (s.group g).parcels := (atStep_stands hq.parts.nonempty hq.parts.running).stepOver.parcels_eq
    rw [hnext]
    refine fetchEvents_met hover h0 hlt ?_ hb hw _
    unfold RunGroup.holds
    rw [hparcels]
    exact List.contains_iff_mem.mpr (parcel_of_mem_clusters (fun p hp => (hq.parts.parcels p hp).1) hbp).1

end

end Sys2Proof.Machine
end

-- ==== A step with flights: clashes on segments, in slots and of drops ====
section
/-! PROOFS. The segments of two sends; the arrivals of an opportunity, counted as they are delivered (R99, R110). -/
namespace Sys2Proof.Machine

-- sends that meet on a segment (R93, R110)

/-- The flights of a run group, a step on. -/
def RunGroup.aged (r : RunGroup) : List Flight := r.flights.map fun f => { f with age := f.age + 1 }

/-- A flight but for its value. -/
def Flight.blank (f : Flight) : Flight := { f with val := .x }

theorem fencePass_blank (s : State) (f : Flight) (u d leg : Nat) : (s.fencePass f u d leg).1.blank = f.blank := by
  unfold State.fencePass
  dsimp only
  split
  · rfl
  · split <;> rfl

/-- A clash changes the value of a flight. -/
theorem blank_ite {c : Prop} [Decidable c] (f : Flight) : Flight.blank (if c then { f with val := .x } else f) = f.blank := by
  split <;> rfl

/-- A flight that moves changes but in its value. -/
theorem moveFlight_blank (s : State) (clash : List Nat) (f : Flight) : (s.moveFlight clash f).1.blank = f.blank := by
  unfold State.moveFlight
  refine List.foldlRecOn (motive := fun a : Flight × State => a.1.blank = f.blank) _ _ rfl fun a h i _ => ?_
  dsimp only
  rw [blank_ite, fencePass_blank, blank_ite]
  exact h

theorem moveFlights_blank (s : State) (clash : List Nat) (l : List Flight) : (s.moveFlights clash l).1.map Flight.blank = l.map Flight.blank := by
  induction l generalizing s with
  | nil => rfl
  | cons f l ih =>
    unfold State.moveFlights
    dsimp only
    rw [List.map_cons, List.map_cons, moveFlight_blank, ih]

/-- What arrivals look at, but for the flights. -/
def State.airs (s : State) := (s.opp, s.arrOpp, s.parcels)

theorem fencePass_airs (s : State) (f : Flight) (u d leg : Nat) : ((s.fencePass f u d leg).2.airs, (s.fencePass f u d leg).2.groups) = (s.airs, s.groups) := by
  unfold State.fencePass; dsimp only; (repeat' split) <;> rfl

theorem moveFlights_airs (s : State) (clash : List Nat) (l : List Flight) :
    ((s.moveFlights clash l).2.airs, (s.moveFlights clash l).2.groups) = (s.airs, s.groups) := by
  have one (s : State) (f : Flight) : ((s.moveFlight clash f).2.airs, (s.moveFlight clash f).2.groups) = (s.airs, s.groups) :=
    List.foldlRecOn (motive := fun a : Flight × State => (a.2.airs, a.2.groups) = (s.airs, s.groups)) _ _ rfl
      fun a h _ _ => (fencePass_airs a.2 ..).trans h
  induction l generalizing s with
  | nil => rfl
  | cons f l ih => exact (ih _).trans (one s f)

section
variable {s : State} {g : Nat} (hf : (s.group g).flights ≠ []) (halone : ∀ i ∈ s.runGroups, i = g)
include hf halone

/-- The flights of a run group that is the only one: their clashes, and their faults. -/
theorem moveAll_alone : s.moveAll [g]
    = ((s.moveFlights (clashKeys ((s.group g).aged.flatMap s.segKeys)) (s.group g).aged).2.updGroup g fun v =>
        { v with flights := (s.moveFlights (clashKeys ((s.group g).aged.flatMap s.segKeys)) (s.group g).aged).1 },
      ((clashKeys ((s.group g).aged.flatMap s.segKeys)).filter ((s.group g).aged.flatMap s.segKeys).contains).filterMap fun k =>
        (s.group g).aged.findSome? fun f => (f.segs.find? fun i => !f.mesh && decide (segKey f i = k)).map fun i =>
          segFault f i (s.group g).step (s.group g).cycle) := by
  have hgs : [g].filter (fun g => decide ((s.group g).flights ≠ [])) = [g] := by simp [hf]
  have hothers : (s.runGroups.filter fun h => !([g].contains h) && s.hasMoved h) = [] := by
    rw [List.filter_eq_nil_iff]
    intro i hi
    simp [halone i hi]
  unfold State.moveAll
  dsimp only
  rw [hgs, if_neg (by simp), hothers]
  unfold RunGroup.aged
  simp only [List.map_cons, List.map_nil, List.flatMap_cons, List.flatMap_nil, List.append_nil, List.findSome?_cons, List.findSome?_nil,
    List.foldl_cons, List.foldl_nil, forEach]
  congr 1
  refine List.filterMap_congr fun k _ => ?_
  split
  · next h => exact h.symm
  · next h => exact h.symm

/-- Two sends that meet on a segment raise DRIVE_CLASH (R110). -/
theorem moveAll_clash {k : Nat} (hk : 2 ≤ ((s.group g).flights.filter fun f => (s.segKeys { f with age := f.age + 1 }).contains k).length) :
    ∃ e ∈ (s.moveAll [g]).2, e.code = 0x1002 := by
  have hfilter : (((s.group g).flights.filter fun f => (s.segKeys { f with age := f.age + 1 }).contains k).map fun f => { f with age := f.age + 1 })
      = (s.group g).aged.filter fun f => (s.segKeys f).contains k := by
    unfold RunGroup.aged
    rw [List.filter_map]
    rfl
  have htwo : 2 ≤ ((s.group g).aged.filter fun f => (s.segKeys f).contains k).length := by
    rw [← hfilter, List.length_map]; exact hk
  have hcount (l : List Flight) : (l.filter fun f => (s.segKeys f).contains k).length ≤ (l.flatMap s.segKeys).count k := by
    induction l with
    | nil => exact Nat.zero_le _
    | cons f l ih =>
      rw [List.flatMap_cons, List.count_append]
      by_cases hm : (s.segKeys f).contains k = true
      · have : 0 < (s.segKeys f).count k := List.count_pos_iff.mpr (by simpa using hm)
        rw [List.filter_cons_of_pos (p := fun f => (s.segKeys f).contains k) hm, List.length_cons]
        omega
      · rw [List.filter_cons_of_neg (p := fun f => (s.segKeys f).contains k) hm]
        omega
  have hkeys : 2 ≤ ((s.group g).aged.flatMap s.segKeys).count k := htwo.trans (hcount _)
  have hmem : k ∈ (s.group g).aged.flatMap s.segKeys := List.count_pos_iff.mp (by omega)
  have hclash : k ∈ clashKeys ((s.group g).aged.flatMap s.segKeys) := by
    unfold clashKeys
    exact List.mem_filter.mpr ⟨List.mem_eraseDups.mpr hmem, decide_eq_true hkeys⟩
  obtain ⟨f, hfm, hseg⟩ := List.mem_flatMap.mp hmem
  have hfind : ∃ e, ((s.group g).aged.findSome? fun f => (f.segs.find? fun i => !f.mesh && decide (segKey f i = k)).map fun i =>
      segFault f i (s.group g).step (s.group g).cycle) = some e := by
    rw [← Option.isSome_iff_exists, List.findSome?_isSome_iff]
    refine ⟨f, hfm, ?_⟩
    unfold State.segKeys at hseg
    split at hseg
    · exact absurd hseg (by simp)
    · next hmesh =>
      obtain ⟨i, hi, hik⟩ := List.mem_map.mp hseg
      rw [Option.isSome_map, List.find?_isSome]
      exact ⟨i, (List.mem_filter.mp hi).1, by simp [hmesh, hik]⟩
  obtain ⟨e, he⟩ := hfind
  have hcode : e.code = 0x1002 := by
    obtain ⟨f, -, hfe⟩ := List.exists_of_findSome?_eq_some he
    obtain ⟨i, -, rfl⟩ := Option.map_eq_some_iff.mp hfe
    rfl
  refine ⟨e, ?_, hcode⟩
  rw [moveAll_alone hf halone]
  exact List.mem_filterMap.mpr ⟨k, List.mem_filter.mpr ⟨hclash, List.contains_iff_mem.mpr hmem⟩, he⟩

end

-- arrivals that meet (R99, R110)

/-- A flight reaches a live parcel of its owner. -/
def State.takesIn (s : State) (f : Flight) : Bool :=
  decide (s.ownerOf (clParcel (f.at f.dist)) = some f.owner) && s.live (clParcel (f.at f.dist))

/-- How often a slot has been reached in the opportunity, and how many drops have come into a cluster. -/
def State.slotCount (s : State) (k : Nat) : Nat := s.openArrivals.arrSlots.count k
def State.dropCount (s : State) (c : Nat) : Nat := s.openArrivals.arrDrops.count c

theorem openArrivals_opened (s : State) : s.openArrivals.arrOpp = s.openArrivals.opp ∧ s.openArrivals.parcels = s.parcels := by
  unfold State.openArrivals
  split
  · next h => exact ⟨h, rfl⟩
  · exact ⟨rfl, rfl⟩

theorem takesIn_of_parcels {s t : State} (h : t.parcels = s.parcels) (f : Flight) : t.takesIn f = s.takesIn f := by
  unfold State.takesIn State.ownerOf State.live State.parcel; rw [h]

section
variable (s : State) (g p : Nat) (n : Word) (f : Flight)

theorem deliver_elsewhere (h : s.takesIn f = false) : deliver s g p n f = (s, []) := by
  unfold deliver
  dsimp only
  rw [if_pos]
  unfold State.takesIn at h
  simp only [Bool.and_eq_false_iff, decide_eq_false_iff_not] at h
  exact h

/-- An arrival is listed with its slot; the second in a slot raises DRIVE_CLASH. -/
theorem arrive_listed {v : State} (hopen : v.arrOpp = v.opp) (c r : Nat) (val : V4) (tag step : Nat) :
    (arrive v c r val tag step n).1.arrOpp = (arrive v c r val tag step n).1.opp ∧ (arrive v c r val tag step n).1.parcels = v.parcels
      ∧ (arrive v c r val tag step n).1.arrSlots = slotKey c r :: v.arrSlots ∧ (arrive v c r val tag step n).1.arrDrops = v.arrDrops
      ∧ (v.arrSlots.count (slotKey c r) = 1 → ∃ e ∈ (arrive v c r val tag step n).2, e.code = 0x1002) := by
  unfold arrive
  rw [openArrivals_same hopen]
  refine ⟨hopen, rfl, rfl, rfl, fun h => ?_⟩
  unfold slotKey at h
  dsimp only
  rw [if_pos h]
  exact ⟨_, List.mem_singleton_self _, rfl⟩

/-- So is a drop with its cluster; the ninth into a cluster raises DRIVE_CLASH. -/
theorem deliver_listed (h : s.takesIn f = true) :
    (deliver s g p n f).1.arrOpp = (deliver s g p n f).1.opp ∧ (deliver s g p n f).1.parcels = s.parcels
      ∧ (deliver s g p n f).1.arrSlots = slotKey (f.at f.dist) f.slot :: s.openArrivals.arrSlots
      ∧ (deliver s g p n f).1.arrDrops = (if f.mesh then s.openArrivals.arrDrops else f.at f.dist :: s.openArrivals.arrDrops)
      ∧ (s.slotCount (slotKey (f.at f.dist) f.slot) = 1 → ∃ e ∈ (deliver s g p n f).2, e.code = 0x1002)
      ∧ (f.mesh = false → s.dropCount (f.at f.dist) = 8 → ∃ e ∈ (deliver s g p n f).2, e.code = 0x1002) := by
  have hin : ¬(s.ownerOf (clParcel (f.at f.dist)) ≠ some f.owner ∨ s.live (clParcel (f.at f.dist)) = false) := by
    unfold State.takesIn at h
    simp only [Bool.and_eq_true, decide_eq_true_eq] at h
    rintro (k | k)
    · exact k h.1
    · exact absurd (h.2.symm.trans k) (by simp)
  obtain ⟨hopen, hparcels⟩ := openArrivals_opened s
  unfold State.slotCount State.dropCount deliver
  dsimp only
  rw [if_neg hin]
  generalize s.openArrivals = v at hopen hparcels ⊢
  generalize hd : (if f.mesh then v else { v with arrDrops := f.at f.dist :: v.arrDrops }) = w
  have hw : w.arrOpp = w.opp ∧ w.parcels = v.parcels ∧ w.arrSlots = v.arrSlots
      ∧ w.arrDrops = (if f.mesh then v.arrDrops else f.at f.dist :: v.arrDrops) := by
    rw [← hd]
    split
    · exact ⟨hopen, rfl, rfl, rfl⟩
    · exact ⟨hopen, rfl, rfl, rfl⟩
  obtain ⟨wopen, wparcels, wslots, wdrops⟩ := hw
  generalize (if (w.parcel (clParcel (f.at f.dist))).rg = some g then (p, n) else match (w.parcel (clParcel (f.at f.dist))).rg with
    | some h => ((w.group h).step, (w.group h).cycle)
    | none => (p, n)) = rcv
  obtain ⟨aopen, aparcels, aslots, adrops, aclash⟩ := arrive_listed rcv.2 wopen (f.at f.dist) f.slot
    (if (!f.mesh && decide (8 ≤ v.arrDrops.count (f.at f.dist))) = true then .x else f.val) rcv.1 rcv.1
  refine ⟨aopen, aparcels.trans (wparcels.trans hparcels), aslots.trans (by rw [wslots]), adrops.trans wdrops, fun k => ?_, fun hmesh k => ?_⟩
  · obtain ⟨e, he, hc⟩ := aclash (by rw [wslots]; exact k)
    exact ⟨e, List.mem_append_right _ he, hc⟩
  · refine ⟨portFault 0x1002 5 (f.at f.dist) rcv.1 rcv.2 1 f.slot, List.mem_append_left _ ?_, rfl⟩
    simp [hmesh, k]

end

-- counting

/-- What counts the turns of a list that it selects, and raises a fault when it has counted `top`, raises it where more are selected. -/
theorem foldFaults_counted {α : Type} {f : State → α → State × List FaultEv} {sel : α → Bool} {P : State → Prop} {count : State → Nat}
    {top code : Nat} (h : ∀ s a, P s → P (f s a).1 ∧ count (f s a).1 = count s + (if sel a then 1 else 0)
      ∧ (sel a = true → count s = top → ∃ e ∈ (f s a).2, e.code = code)) (l : List α) :
    ∀ s, P s → count s ≤ top → top < count s + l.countP sel → ∃ e ∈ (foldFaults f l s).2, e.code = code := by
  induction l with
  | nil => intro s _ hle hlt; simp at hlt; omega
  | cons a l ih =>
    intro s hP hle hlt
    obtain ⟨hP', hcount, hraise⟩ := h s a hP
    rw [List.countP_cons] at hlt
    by_cases hnow : sel a = true ∧ count s = top
    · obtain ⟨e, he, hc⟩ := hraise hnow.1 hnow.2
      exact ⟨e, List.mem_append_left _ he, hc⟩
    · obtain ⟨e, he, hc⟩ := ih (f s a).1 hP'
        (by rw [hcount]; split
            · next k => exact Nat.lt_of_le_of_ne hle fun e => hnow ⟨k, e⟩
            · exact hle)
        (by rw [hcount]; omega)
      exact ⟨e, List.mem_append_right _ he, hc⟩

section
variable {s : State} {gp : Nat × Flight → Nat × Nat × Word} {l : List (Nat × Flight)}

/-- The arrivals of an opportunity, in their order. -/
def deliverAll (gp : Nat × Flight → Nat × Nat × Word) (s : State) (x : Nat × Flight) : State × List FaultEv :=
  deliver s (gp x).1 (gp x).2.1 (gp x).2.2 x.2

/-- Two arrivals in one slot raise DRIVE_CLASH (R99, R110). -/
theorem deliverAll_slot {k : Nat} (h0 : s.slotCount k = 0)
    (h : 2 ≤ l.countP fun x => s.takesIn x.2 && decide (slotKey (x.2.at x.2.dist) x.2.slot = k)) :
    ∃ e ∈ (foldFaults (deliverAll gp) l s).2, e.code = 0x1002 := by
  refine foldFaults_counted (P := fun t => t.parcels = s.parcels) (count := fun t => t.slotCount k) (top := 1)
    (sel := fun x => s.takesIn x.2 && decide (slotKey (x.2.at x.2.dist) x.2.slot = k))
    (fun t x ht => ?_) l s rfl (by rw [h0]; decide) (by rw [h0]; omega)
  cases hin : t.takesIn x.2 with
  | false =>
    have e : deliverAll gp t x = (t, []) := deliver_elsewhere _ _ _ _ _ hin
    rw [takesIn_of_parcels ht] at hin
    rw [e]
    simp [hin, ht]
  | true =>
    obtain ⟨hopen, hparcels, hslots, -, hclash, -⟩ := deliver_listed t (gp x).1 (gp x).2.1 (gp x).2.2 x.2 hin
    rw [takesIn_of_parcels ht] at hin
    refine ⟨hparcels.trans ht, ?_, fun hsel hcount => hclash ?_⟩
    · show (deliver t (gp x).1 (gp x).2.1 (gp x).2.2 x.2).1.openArrivals.arrSlots.count k = _
      rw [openArrivals_same hopen, hslots, List.count_cons, hin]
      simp [State.slotCount]
    · simp only [Bool.and_eq_true, decide_eq_true_eq] at hsel
      rw [hsel.2]; exact hcount

/-- Nine drops into one cluster raise DRIVE_CLASH (R110). -/
theorem deliverAll_drop {c : Nat} (h0 : s.dropCount c = 0)
    (h : 9 ≤ l.countP fun x => s.takesIn x.2 && !x.2.mesh && decide (x.2.at x.2.dist = c)) :
    ∃ e ∈ (foldFaults (deliverAll gp) l s).2, e.code = 0x1002 := by
  refine foldFaults_counted (P := fun t => t.parcels = s.parcels) (count := fun t => t.dropCount c) (top := 8)
    (sel := fun x => s.takesIn x.2 && !x.2.mesh && decide (x.2.at x.2.dist = c))
    (fun t x ht => ?_) l s rfl (by rw [h0]; decide) (by rw [h0]; omega)
  cases hin : t.takesIn x.2 with
  | false =>
    have e : deliverAll gp t x = (t, []) := deliver_elsewhere _ _ _ _ _ hin
    rw [takesIn_of_parcels ht] at hin
    rw [e]
    simp [hin, ht]
  | true =>
    obtain ⟨hopen, hparcels, -, hdrops, -, hclash⟩ := deliver_listed t (gp x).1 (gp x).2.1 (gp x).2.2 x.2 hin
    rw [takesIn_of_parcels ht] at hin
    refine ⟨hparcels.trans ht, ?_, fun hsel hcount => ?_⟩
    · show (deliver t (gp x).1 (gp x).2.1 (gp x).2.2 x.2).1.openArrivals.arrDrops.count c = _
      rw [openArrivals_same hopen, hdrops, hin]
      cases x.2.mesh
      · simp [State.dropCount, List.count_cons]
      · simp [State.dropCount]
    · simp only [Bool.and_eq_true, decide_eq_true_eq, Bool.not_eq_true'] at hsel
      exact hclash hsel.1.2 (by rw [hsel.2]; exact hcount)

end

-- the arrivals of a step

/-- The state at which the flights of a step arrive. -/
def State.landed (s : State) (g : Nat) : State :=
  forEach (s.group g).clusters (fun c t => landCluster t c (s.group g).step (s.group g).cycle)
    (foldFaults (fun t c => checkBanks t c (s.group g).cycle) (s.group g).clusters (s.stepMoved g).1).1

section
variable (s : State) (g : Nat)

/-- The clashes of a step on segments and at arrivals are among its faults. -/
theorem stepRead_faults : (∀ e ∈ (s.stepMoved g).2, e ∈ (s.stepDone g).2)
    ∧ ∀ e ∈ ((s.landed g).arriveAll (s.joiners g ++ [g])).2, e ∈ (s.stepDone g).2 := by
  have read : ∀ e ∈ (s.stepRead g).2, e ∈ (s.stepDone g).2 := fun e h =>
    List.mem_append_left _ (List.mem_append_left _ (List.mem_append_left _ h))
  refine ⟨fun e h => read e ?_, fun e h => read e ?_⟩
  · exact List.mem_append_left _ (List.mem_append_left _ (List.mem_append_left _ h))
  · exact List.mem_append_left _ (List.mem_append_right _ h)

theorem bankCheck_airs (c : Nat) (n : Word) (k) : (bankCheck c n s k).1.airs = s.airs := by
  unfold bankCheck; dsimp only; split_ifs <;> rfl

theorem checkBanks_airs (c : Nat) (n : Word) : (checkBanks s c n).1.airs = s.airs := by
  unfold checkBanks
  dsimp only
  split
  · rfl
  · exact List.foldlRecOn (motive := fun a : State × List FaultEv => a.1.airs = s.airs) _ _ rfl fun a h _ _ => (bankCheck_airs a.1 ..).trans h

theorem landCluster_airs (c p : Nat) (n : Word) : (landCluster s c p n).airs = s.airs := rfl

theorem landed_airs : (s.landed g).airs = (s.stepMoved g).1.airs := by
  unfold State.landed
  refine forEach_keep (P := fun t : State => t.airs = (s.stepMoved g).1.airs) (fun c t h => (landCluster_airs t ..).trans h) ?_
  exact foldFaults_keep (P := fun t : State => t.airs = (s.stepMoved g).1.airs) (fun t c h => (checkBanks_airs t ..).trans h) rfl

theorem landed_group (h : Nat) : (s.landed g).group h = (s.stepMoved g).1.group h :=
  group_of_clock ((forEach_clock (fun _ t => landCluster_clock t ..) _).trans (foldFaults_clock (fun t _ => checkBanks_clock t ..) _)) h

end

-- a run group that is the only one

section
variable {s : State} {g : Nat} (hf : (s.group g).flights ≠ []) (halone : ∀ i ∈ s.runGroups, i = g) (hm : (s.group g).moved = false)
include hf halone hm

omit hf in
theorem stepMoved_alone : s.stepMoved g = (((s.moveAll [g]).1.updGroup g fun v => { v with moved := false }), (s.moveAll [g]).2) := by
  unfold State.stepMoved
  rw [joiners_alone halone, hm]
  simp [forEach]

omit hf in
theorem stepMoved_alone_faults {e : FaultEv} (h : e ∈ (s.moveAll [g]).2) : e ∈ (s.stepMoved g).2 := by
  rw [stepMoved_alone halone hm]; exact h

/-- What has moved: the flights of the group, but for their values. -/
theorem stepMoved_flights (hp : (s.group g).parcels ≠ []) : (s.stepMoved g).1.airs = s.airs
    ∧ (((s.stepMoved g).1.group g).flights.map Flight.blank) = (s.group g).aged.map Flight.blank := by
  rw [stepMoved_alone halone hm, moveAll_alone hf halone]
  obtain ⟨hairs, hgroups⟩ := Prod.mk.inj (moveFlights_airs s (clashKeys ((s.group g).aged.flatMap s.segKeys)) (s.group g).aged)
  have hblank := moveFlights_blank s (clashKeys ((s.group g).aged.flatMap s.segKeys)) (s.group g).aged
  generalize s.moveFlights (clashKeys ((s.group g).aged.flatMap s.segKeys)) (s.group g).aged = moved at hairs hgroups hblank ⊢
  have hg : moved.2.group g = s.group g := by unfold State.group; rw [hgroups]
  have h1 : (moved.2.updGroup g fun v => { v with flights := moved.1 }).group g = { s.group g with flights := moved.1 } := by
    rw [group_updGroup_same (by rw [hg]; exact hp), hg]
  refine ⟨hairs, ?_⟩
  dsimp only
  rw [group_updGroup_same (by rw [h1]; exact hp), h1]
  exact hblank

end

/-- The arrivals of a run group, in their order. -/
theorem arriveAll_one (u : State) (g : Nat) : ∃ (gp : Nat × Flight → Nat × Nat × Word) (t : State) (l : List (Nat × Flight)),
    u.arriveAll [g] = foldFaults (deliverAll gp) l t ∧ t.airs = u.airs
      ∧ l.Perm (((u.group g).flights.filter fun f => decide (f.age = f.latency)).map fun f => (g, f)) := by
  refine ⟨fun x => (x.1, (u.group x.1).step, (u.group x.1).cycle), _, _, rfl, ?_, ?_⟩
  · refine forEach_keep (P := fun t : State => t.airs = u.airs) (fun h t k => ?_) rfl
    split
    · exact k
    · exact k
  · refine (sortBy_perm _ _).trans ?_
    simp

/-- Of the arrivals of a run group, as many are of a kind as of its flights that are due, where their values do not tell. -/
theorem arrivals_count {u : State} {g : Nat} {r : RunGroup} (h : (u.group g).flights.map Flight.blank = r.aged.map Flight.blank) {sel : Flight → Bool}
    (hsel : ∀ f, sel f.blank = sel f) {l : List (Nat × Flight)}
    (hl : l.Perm (((u.group g).flights.filter fun f => decide (f.age = f.latency)).map fun f => (g, f))) :
    l.countP (fun x => sel x.2) = r.flights.countP fun f => sel { f with age := f.age + 1 } && decide (f.age + 1 = f.latency) := by
  have blanks (m : List Flight) : m.countP (fun f => sel f && decide (f.age = f.latency))
      = (m.map Flight.blank).countP fun f => sel f && decide (f.age = f.latency) := by
    rw [List.countP_map]
    refine List.countP_congr fun f _ => ?_
    rw [Function.comp_apply, hsel]
    rfl
  calc l.countP (fun x => sel x.2)
      = (((u.group g).flights.filter fun f => decide (f.age = f.latency)).map fun f => (g, f)).countP fun x => sel x.2 := hl.countP_eq _
    _ = (u.group g).flights.countP (fun f => sel f && decide (f.age = f.latency)) := by
      rw [List.countP_map, List.countP_filter]; rfl
    _ = r.aged.countP (fun f => sel f && decide (f.age = f.latency)) := by rw [blanks, h, ← blanks]
    _ = _ := by unfold RunGroup.aged; rw [List.countP_map]; rfl

/-- A part of the flights that are all of a kind and due. -/
theorem le_countP_of_sublist {α : Type} {l m : List α} (hs : l.Sublist m) {sel : α → Bool} (h : ∀ a ∈ l, sel a = true) : l.length ≤ m.countP sel := by
  rw [← List.countP_eq_length.mpr h]
  exact hs.countP_le

theorem parcels_of_airs {t : State} {o a : Nat} {ps : SMap Parcel} (h : t.airs = (o, a, ps)) : t.parcels = ps := congrArg (·.2.2) h

section
variable {s : State} {g : Nat} (hq : s.Quiet g) (hd : ∀ f ∈ (s.group g).flights, clParcel (f.at f.dist) ∈ (s.group g).parcels)
include hq hd

/-- A clash of the step is raised. -/
theorem State.Quiet.clash_rises (h : ∃ e ∈ ((s.atStep g).stepDone g).2, e.code = 0x1002) :
    s.faultCount 0x1002 < ((stepBody (s.atStep g) g).settle).faultCount 0x1002 :=
  (hq.rises_iff hd (by decide) (by decide) (by decide)).mpr (.inl h)

/-- What the step starts from: the group is the only one, its flights are those of before, and the parcels are. -/
theorem State.Quiet.starts : (∀ i ∈ (s.atStep g).runGroups, i = g) ∧ ((s.atStep g).group g).flights = (s.group g).flights
    ∧ ((s.atStep g).group g).moved = false ∧ ((s.atStep g).group g).parcels ≠ [] ∧ (s.atStep g).airs = (s.nextOpp g, s.arrOpp, s.parcels) := by
  have hwait := (hq.waits hd).1
  have hc := hq.course hd
  have halone := hwait.alone hq.parts.groupsWf hq.parts.alone
  have hfab := hwait.fabric
  simp only [RunGroup.course, Prod.mk.injEq] at hc
  simp only [State.fabric, Prod.mk.injEq] at hfab
  obtain ⟨hps, -, -, -, -, hm, hfl, -⟩ := hc
  obtain ⟨hopp, harr, -, -, -, -, -, -, -, -, -, -, -, -, hpar, -⟩ := hfab
  exact ⟨halone, hfl, hm.trans hq.parts.unmoved, by rw [hps]; exact hq.parts.nonempty, by unfold State.airs; rw [hopp, harr, hpar]⟩

omit hq hd in
theorem segKeys_of_parcels {t : State} (h : t.parcels = s.parcels) (f : Flight) : t.segKeys f = s.segKeys f := by
  unfold State.segKeys State.ownerOf State.parcel; rw [h]

/-- Two sends that meet on a segment (R110). -/
theorem State.Quiet.segment_clash {k : Nat}
    (hk : 2 ≤ ((s.group g).flights.filter fun f => (s.segKeys { f with age := f.age + 1 }).contains k).length) :
    s.faultCount 0x1002 < ((stepBody (s.atStep g) g).settle).faultCount 0x1002 := by
  obtain ⟨halone, hfl, hm, hp, hairs⟩ := hq.starts hd
  have hpar : (s.atStep g).parcels = s.parcels := parcels_of_airs hairs
  have hf : ((s.atStep g).group g).flights ≠ [] := by
    rw [hfl]; intro e; simp [e] at hk
  obtain ⟨e, he, hc⟩ := moveAll_clash hf halone (k := k) (by
    rw [hfl]
    simp only [segKeys_of_parcels hpar]
    exact hk)
  exact hq.clash_rises hd ⟨e, (stepRead_faults _ g).1 e (stepMoved_alone_faults halone hm he), hc⟩

/-- The arrivals of the step. -/
theorem State.Quiet.arrivals (hf : (s.group g).flights ≠ []) (hopp : s.arrOpp ≠ s.nextOpp g) : ∃ (gp : Nat × Flight → Nat × Nat × Word) (t : State)
      (l : List (Nat × Flight)), (∀ e ∈ (foldFaults (deliverAll gp) l t).2, e ∈ ((s.atStep g).stepDone g).2)
    ∧ t.parcels = s.parcels ∧ (∀ k, t.slotCount k = 0) ∧ (∀ c, t.dropCount c = 0)
    ∧ ∀ sel : Flight → Bool, (∀ f, sel f.blank = sel f) → l.countP (fun x => sel x.2)
      = (s.group g).flights.countP fun f => sel { f with age := f.age + 1 } && decide (f.age + 1 = f.latency) := by
  obtain ⟨halone, hfl, hm, hp, hairs⟩ := hq.starts hd
  have hne : ((s.atStep g).group g).flights ≠ [] := by rw [hfl]; exact hf
  obtain ⟨hmairs, hblank⟩ := stepMoved_flights hne halone hm hp
  obtain ⟨gp, t, l, heq, htairs, hl⟩ := arriveAll_one ((s.atStep g).landed g) g
  have hall : t.airs = (s.nextOpp g, s.arrOpp, s.parcels) := htairs.trans ((landed_airs ..).trans (hmairs.trans hairs))
  simp only [State.airs, Prod.mk.injEq] at hall
  obtain ⟨htopp, htarr, htpar⟩ := hall
  have hopen : t.openArrivals = { t with arrOpp := t.opp, arrSlots := [], arrDrops := [] } := openArrivals_new (by rw [htarr, htopp]; exact hopp)
  refine ⟨gp, t, l, fun e he => (stepRead_faults _ g).2 e ?_, htpar, fun k => ?_, fun c => ?_, fun sel hsel => ?_⟩
  · rw [joiners_alone halone, List.nil_append, heq]
    exact he
  · unfold State.slotCount; rw [hopen]; rfl
  · unfold State.dropCount; rw [hopen]; rfl
  · have haged : ((s.atStep g).group g).aged = (s.group g).aged := by unfold RunGroup.aged; rw [hfl]
    exact arrivals_count (r := s.group g) (by rw [landed_group, hblank, haged]) hsel hl

theorem State.Quiet.live_dest {f : Flight} (h : f ∈ (s.group g).flights) : s.live (clParcel (f.at f.dist)) = true := by
  exact decide_eq_true (hq.parts.parcels _ (hd f h)).2.2

/-- Two arrivals at one slot (R110). -/
theorem State.Quiet.slot_clash (hopp : s.arrOpp ≠ s.nextOpp g) {c k : Nat} {m : List Flight} (hm : m.Sublist (s.group g).flights) (h2 : m.length = 2)
    (h : ∀ f ∈ m, f.age + 1 = f.latency ∧ s.ownerOf (clParcel (f.at f.dist)) = some f.owner ∧ f.at f.dist = c ∧ f.slot = k) :
    s.faultCount 0x1002 < ((stepBody (s.atStep g) g).settle).faultCount 0x1002 := by
  have hf : (s.group g).flights ≠ [] := by
    intro e; rw [e, List.sublist_nil] at hm; rw [hm] at h2; exact absurd h2 (by decide)
  obtain ⟨gp, t, l, hsub, hpar, hslots, -, hcount⟩ := hq.arrivals hd hf hopp
  have hn := hcount (fun f => s.takesIn f && decide (slotKey (f.at f.dist) f.slot = slotKey c k)) fun _ => rfl
  have two : 2 ≤ l.countP fun x => t.takesIn x.2 && decide (slotKey (x.2.at x.2.dist) x.2.slot = slotKey c k) := by
    simp only [takesIn_of_parcels hpar]
    rw [hn, ← h2]
    refine le_countP_of_sublist hm fun f hfm => ?_
    obtain ⟨hland, hown, hc, hk⟩ := h f hfm
    have hlive := hq.live_dest hd (hm.subset hfm)
    have htakes : s.takesIn { f with age := f.age + 1 } = true := by
      unfold State.takesIn
      rw [Bool.and_eq_true]
      exact ⟨decide_eq_true hown, hlive⟩
    rw [Bool.and_eq_true, Bool.and_eq_true]
    exact ⟨⟨htakes, decide_eq_true (congrArg₂ slotKey hc hk)⟩, decide_eq_true hland⟩
  obtain ⟨e, he, hc⟩ := deliverAll_slot (gp := gp) (hslots _) two
  exact hq.clash_rises hd ⟨e, hsub e he, hc⟩

/-- Nine drops into one cluster (R110). -/
theorem State.Quiet.drop_clash (hopp : s.arrOpp ≠ s.nextOpp g) {c : Nat} {m : List Flight} (hm : m.Sublist (s.group g).flights) (h9 : m.length = 9)
    (h : ∀ f ∈ m, f.mesh = false ∧ f.age + 1 = f.latency ∧ s.ownerOf (clParcel (f.at f.dist)) = some f.owner ∧ f.at f.dist = c) :
    s.faultCount 0x1002 < ((stepBody (s.atStep g) g).settle).faultCount 0x1002 := by
  have hf : (s.group g).flights ≠ [] := by
    intro e; rw [e, List.sublist_nil] at hm; rw [hm] at h9; exact absurd h9 (by decide)
  obtain ⟨gp, t, l, hsub, hpar, -, hdrops, hcount⟩ := hq.arrivals hd hf hopp
  have hn := hcount (fun f => s.takesIn f && !f.mesh && decide (f.at f.dist = c)) fun _ => rfl
  have nine : 9 ≤ l.countP fun x => t.takesIn x.2 && !x.2.mesh && decide (x.2.at x.2.dist = c) := by
    simp only [takesIn_of_parcels hpar]
    rw [hn, ← h9]
    refine le_countP_of_sublist hm fun f hfm => ?_
    obtain ⟨hmesh, hland, hown, hc⟩ := h f hfm
    have hlive := hq.live_dest hd (hm.subset hfm)
    have htakes : s.takesIn { f with age := f.age + 1 } = true := by
      unfold State.takesIn
      rw [Bool.and_eq_true]
      exact ⟨decide_eq_true hown, hlive⟩
    have hmesh' : (!f.mesh) = true := by rw [hmesh]; rfl
    rw [Bool.and_eq_true, Bool.and_eq_true, Bool.and_eq_true]
    exact ⟨⟨⟨htakes, hmesh'⟩, decide_eq_true hc⟩, decide_eq_true hland⟩
  obtain ⟨e, he, hc⟩ := deliverAll_drop (gp := gp) (hdrops _) nine
  exact hq.clash_rises hd ⟨e, hsub e he, hc⟩

end

end Sys2Proof.Machine
end

-- ==== STEP_EXECUTE: the statement ====
section
/-! PROOFS. The clean step, the word in error and the clashes together. -/
namespace Sys2Proof.Machine

/-- What an executed step with no word in error and no flight writes (R37, R39 to R41, R48, R77), and the faults that it raises. -/
theorem State.Quiet.clean_step {s : State} {g : Nat} (hq : s.Quiet g) (hf : (s.group g).flights = []) (he : s.ecc = []) :
    let t := (stepBody (s.atStep g) g).settle
    let p := (s.group g).step
    (∀ bp, bpCluster bp ∈ (s.group g).clusters →
      (∀ e < 4096, e ≠ p → t.valueAt bp e = s.valueAt bp e)
      ∧ (∀ u, ¬s.loses p bp = true → exec (.reservedOpcode bp (mget 0 (bp * 4096 + p) s.istore)) s = .next u → SameBp t u p bp)
      ∧ (∀ v, (s.stepOut p (s.group g).cycle bp).result = some v → t.valueAt bp p = v ∧ t.resultAt bp = v))
    ∧ (∀ c ∈ (s.group g).clusters, WritesA (s.portWord p c) →
        t.bankWord c (s.portWord p c).a.addr.toNat = (s.cluster c).port.staging.setWidth 64)
    ∧ ¬s.faultCount 0x2001 < t.faultCount 0x2001 ∧ ¬s.faultCount 0x2002 < t.faultCount 0x2002 ∧ ¬s.faultCount 0x1002 < t.faultCount 0x1002 := by
  have none {code : Nat} (hc : code = 0x2001 ∨ code = 0x2002 ∨ code = 0x1002) :
      ¬s.faultCount code < ((stepBody (s.atStep g) g).settle).faultCount code := by
    have hmem : code ∈ faultCodes := by rcases hc with rfl | rfl | rfl <;> decide
    rw [hq.clean_rises hf he hmem (by omega) (by omega) (by omega) (by omega) (by omega)]
    rintro (⟨h, -⟩ | ⟨h, -⟩ | ⟨h, -⟩) <;> omega
  exact ⟨fun bp h => ⟨fun e => hq.other_entries hf he h, fun u hl hu => hq.as_alone hf he h hl hu, fun v hv => hq.result_after hf he h hv⟩,
    fun c h hw => hq.port_writes hf he h hw, none (.inl rfl), none (.inr (.inl rfl)), none (.inr (.inr rfl))⟩

end Sys2Proof.Machine
end

section
open Sys2Proof.Machine

/-- Settles O16: a gated opportunity moves nothing; else every instruction of the step reads the state before it and leaves what its word
alone leaves, and the faults counted are those of the ports, the clashes, the reads, the marked words and the arrivals. -/
theorem stepOrHold : Obligations.StepOrHold := by
  unfold Obligations.StepOrHold
  refine ⟨fun s g hg hp hrun hstep hheld hhalt => stepExecute_opportunity hg hp hrun hstep hheld hhalt, fun s g hq => ?_⟩
  intro r p holds word ins issues loses port pins raises
  have hexec := hq.exec_eq
  have hloses (bp : Nat) : loses bp ↔ s.loses p bp = true := (loses_iff s p bp).symm
  refine ⟨fun hf he => ⟨_, hexec, ?_⟩, fun store w m hm hw hf he h => ⟨_, hexec, ?_⟩, ?_⟩
  · obtain ⟨hbps, hports, h2001, h2002, h1002⟩ := hq.clean_step hf he
    refine ⟨fun bp hbp => ?_, fun c hc hbad ha hb hi => hports c hc ⟨hbad, ha, hb, hi⟩, ?_, ?_, ?_, h2001, h2002, h1002⟩
    · obtain ⟨hother, halone, hresult⟩ := hbps bp hbp
      refine ⟨hother, fun u hl hu => ?_, fun hl => ?_⟩
      · obtain ⟨hv, hr, hs⟩ := halone u (fun k => hl ((hloses bp).mpr k)) hu
        exact ⟨hv, hr, hs⟩
      · exact hresult _ (stepOut_result_of_loses ((hloses bp).mp hl) r.cycle)
    · refine (hq.clean_rises hf he (by decide) (by decide) (by decide) (by decide) (by decide) (by decide)).trans ?_
      constructor
      · rintro (⟨k, -⟩ | ⟨-, a, b, hab, hg4, hac, qa, qb⟩ | ⟨k, -⟩)
        · exact absurd k (by decide)
        · exact ⟨a, b, hab, hg4, hac, qa, qb⟩
        · exact absurd k (by decide)
      · rintro ⟨a, b, hab, hg4, hac, qa, qb⟩
        exact .inr (.inl ⟨rfl, a, b, hab, hg4, hac, qa, qb⟩)
    · refine (hq.clean_rises hf he (by decide) (by decide) (by decide) (by decide) (by decide) (by decide)).trans ?_
      constructor
      · rintro (⟨-, c, hc, hmeet⟩ | ⟨k, -⟩ | ⟨k, -⟩)
        · exact ⟨c, hc, (portMeets_iff s p c).mp hmeet⟩
        · exact absurd k (by decide)
        · exact absurd k (by decide)
      · rintro ⟨c, hc, hmeet⟩
        exact .inl ⟨rfl, c, hc, (portMeets_iff s p c).mpr hmeet⟩
    · refine (hq.clean_rises hf he (by decide) (by decide) (by decide) (by decide) (by decide) (by decide)).trans ?_
      constructor
      · rintro (⟨k, -⟩ | ⟨k, -⟩ | ⟨-, bp, hbp, hi, x, hx, k, hsel, hwr⟩)
        · exact absurd k (by decide)
        · exact absurd k (by decide)
        · exact ⟨bp, k, hbp, hi, ⟨x, hx, hsel⟩, hwr⟩
      · rintro ⟨bp, k, hbp, hi, ⟨x, hx, hsel⟩, hwr⟩
        exact .inr (.inr ⟨rfl, bp, hbp, hi, x, hx, k, hsel, hwr⟩)
  · rcases h with ⟨rfl, bp, hbp, hi, x, hx, e, hsel, rfl⟩ | ⟨rfl, bp, hbp, hi, x, hx, j, hsel, hpend, rfl⟩ | ⟨rfl, bp, hbp, hop, rfl⟩ | ⟨rfl, bp, hbp, hb⟩
    · exact hq.operand_rises hf hm he hbp hi hx (.inl ⟨e, hsel, rfl⟩)
    · exact hq.operand_rises hf hm he hbp hi hx (.inr ⟨j, hsel, hpend, rfl⟩)
    · exact hq.result_or_fetch_rises hf hm hw he (by decide) (.inl ⟨bp, hbp, hop, rfl⟩)
    · exact hq.result_or_fetch_rises hf hm hw he (by decide) (.inr ⟨rfl, bp, hbp, hb⟩)
  · intro _ hopp lands here hd h
    refine ⟨_, hexec, ?_⟩
    rcases h with ⟨k, hk⟩ | ⟨c, k, l, hl, h2, hall⟩ | ⟨c, l, hl, h9, hall⟩
    · exact hq.segment_clash hd hk
    · exact hq.slot_clash hd hopp hl h2 hall
    · exact hq.drop_clash hd hopp hl h9 hall

end

-- ==== The free slots of a bank: the arbiter, the slots that pass, the accesses that end ====
section
/-! PROOFS. The arbiter decides by the first master of its rotation whose line is up (R174). A slot that passes marks it in the arbiter first, and a
cluster so marked is not the initial one: it reads back from every table, canonical or not. With one command in flight, the access that ends is
that command's. -/
namespace Sys2Proof.Machine

-- the decision for a free slot (R174)

section
variable {owner : Nat} {lines : List Bool}

theorem mem_rotation (ho : owner < 4) {m : Nat} : m ∈ rotation owner ↔ m < 4 := by
  simp only [rotation, List.mem_map, List.mem_range]
  constructor
  · rintro ⟨i, -, rfl⟩; omega
  · exact fun hm => ⟨(m + 7 - owner) % 4, by omega, by omega⟩

theorem nodup_rotation (owner : Nat) : (rotation owner).Nodup :=
  List.Nodup.map_on (fun i hi j hj h => by simp only [List.mem_range] at hi hj; omega) List.nodup_range

/-- The masters that raise their lines, in rotation: the first whose line is up, and after it others. -/
theorem raised_in_rotation {k : Nat} (hk : k < 4) (hup : lines.getD ((owner + 1 + k) % 4) false = true)
    (hdown : ∀ j < k, lines.getD ((owner + 1 + j) % 4) false = false) :
    ∃ rest, ((rotation owner).filter fun m => lines.getD m false) = (owner + 1 + k) % 4 :: rest ∧ (owner + 1 + k) % 4 ∉ rest := by
  have hfind : (rotation owner).find? (fun m => lines.getD m false) = some ((owner + 1 + k) % 4) := by
    rw [rotation, List.find?_map, List.find?_range_eq_some.mpr ⟨hup, List.mem_range.mpr hk, fun j hj => by
      rw [Function.comp_apply, hdown j hj]; rfl⟩]
    rfl
  rw [← List.head?_filter] at hfind
  obtain ⟨rest, hrest⟩ := List.head?_eq_some_iff.mp hfind
  have hnodup := (nodup_rotation owner).filter fun m => lines.getD m false
  rw [hrest] at hnodup
  exact ⟨rest, hrest, (List.nodup_cons.mp hnodup).1⟩

theorem raised_eq_nil_iff (ho : owner < 4) :
    ((rotation owner).filter fun m => lines.getD m false) = [] ↔ ∀ m < 4, lines.getD m false = false := by
  simp only [List.filter_eq_nil_iff, mem_rotation ho, Bool.not_eq_true]

theorem arbitrate_none {fits : Bool} (h : ((rotation owner).filter fun m => lines.getD m false) = []) :
    arbitrate owner lines fits = (none, false) := by
  simp only [arbitrate, h]

theorem arbitrate_first {fits : Bool} {m : Nat} {rest : List Nat} (h : ((rotation owner).filter fun m => lines.getD m false) = m :: rest)
    (hm : m ≠ 3 ∨ fits = true) : arbitrate owner lines fits = (some m, false) := by
  have hnot : ¬(m = 3 ∧ fits = false) := by rcases hm with hm | hm <;> simp [hm]
  simp only [arbitrate, h, if_neg hnot]

/-- An atomic that does not fit is passed over, and the slot goes to the master after it. -/
theorem arbitrate_skips {rest : List Nat} (h : ((rotation owner).filter fun m => lines.getD m false) = 3 :: rest) :
    arbitrate owner lines false = (rest.head?, true) := by
  simp only [arbitrate, h, and_self, if_true]

theorem arbitrate_none_iff (ho : owner < 4) : (arbitrate owner lines true).1 = none ↔ ∀ m < 4, lines.getD m false = false := by
  rw [← raised_eq_nil_iff ho]
  cases h : (rotation owner).filter fun m => lines.getD m false with
  | nil => simp [arbitrate_none h]
  | cons m rest => simp [arbitrate_first h (.inr rfl)]

end

-- a cluster whose arbiter has decided or passed a slot is none that a table leaves out

section
variable {α : Type} [DecidableEq α] {d : α}

/-- A write over an entry that the table lists is the second write alone, canonical or not. -/
theorem mset_mset_of_ne {k : Nat} {v w : α} (hv : v ≠ d) (m : SMap α) : mset d k w (mset d k v m) = mset d k w m := by
  induction m with
  | nil => simp [mset, hv]
  | cons e r ih =>
    obtain ⟨j, x⟩ := e
    by_cases hj : j = k
    · simp [mset, hv, hj]
    · by_cases hkj : k < j
      · simp [mset, hv, hj, hkj]
      · simp [mset, hj, hkj, ih]

end

theorem Cluster.ne_init_of_arb {v : Cluster} (h : v.arb ≠ Arbiter.init) : v ≠ Cluster.init := fun e => h (e ▸ rfl)

theorem Arbiter.pass_ne_init (v : Arbiter) (slot : Slot) : v.pass slot ≠ Arbiter.init := by
  cases slot with
  | a => exact fun h => Bool.noConfusion (congrArg (fun x : Arbiter => x.a.past) h)
  | b => exact fun h => Bool.noConfusion (congrArg (fun x : Arbiter => x.b.past) h)

section
variable {s : State} {c : Nat} {v : Cluster}

theorem cluster_setCluster_of_ne (hv : v ≠ Cluster.init) : (s.setCluster c v).cluster c = v := mget_mset_same_of_ne hv _

theorem setCluster_setCluster_of_ne (hv : v ≠ Cluster.init) (w : Cluster) : (s.setCluster c v).setCluster c w = s.setCluster c w := by
  simp only [State.setCluster, mset_mset_of_ne hv]

theorem updCluster_setCluster_of_ne (hv : v ≠ Cluster.init) (f : Cluster → Cluster) :
    (s.setCluster c v).updCluster c f = s.setCluster c (f v) := by
  rw [State.updCluster, cluster_setCluster_of_ne hv, setCluster_setCluster_of_ne hv]

end

-- what a store into a bank leaves to the answer of its command

section
variable (s : State) (c w : Nat) (d : Word)

theorem bankStore_hub : (s.bankStore c w d).hub = s.hub := by unfold State.bankStore; dsimp only; split <;> rfl

theorem bankStore_boot : (s.bankStore c w d).boot = s.boot := by unfold State.bankStore; dsimp only; split <;> rfl

theorem bankStore_mkReply (p : Packet) (st dt r : Nat) : (s.bankStore c w d).mkReply p st dt r = s.mkReply p st dt r := by
  unfold State.bankStore; dsimp only; split <;> rfl

end

/-- Without mirrored pairing a dynamic write goes to its own bank only. -/
theorem dynStore_unpaired {s : State} (h : s.boot.pairMode ≠ 2) (c w : Nat) (d : Word) : s.dynStore c w d = s.bankStore c w d := by
  unfold State.dynStore
  dsimp only
  rw [bankStore_boot]
  exact if_neg fun k => h k.1

theorem pauseEnds_unpaired {s : State} (h : s.boot.pairMode ≠ 2) (g : Nat) : s.pauseEnds g = s := if_neg fun k => h k.1

theorem pauseAfter_unpaired {s : State} (h : s.boot.pairMode ≠ 2) (c : Nat) : s.pauseAfter c = s := by
  unfold State.pauseAfter
  split
  · exact pauseEnds_unpaired h _
  · rfl

-- the one command in flight, and the end of its access (R180, R181)

section
variable {s : State} {c id : Nat} {e : Entry}

theorem Entry.wait?_parked {w : Wait} (h : e.state = .parked w) : e.wait? = some w := by rw [Entry.wait?, h]

theorem Entry.atBank_parked {wr : Bool} {done total w : Nat} (h : e.state = .parked (.bank c wr done total w id)) : e.atBank c id = true := by
  simp [Entry.atBank, Entry.wait?_parked h]

/-- The one entry of the ready lists, found by the access that its command waits for. -/
theorem updFirst_atBank (f : Entry → Entry) (h : e.atBank c id = true) : updFirst (fun x => x.atBank c id) f [e] = [f e] := if_pos h

theorem finishAtomic_one (he : s.hub.entries = [e]) (hb : e.atBank c id = true) (st dt r : Nat) :
    finishAtomic s c id st dt r = s.setEntries [{ e with state := .done (s.mkReply e.pkt st dt r) }] := by
  rw [finishAtomic, he, updFirst_atBank _ hb]

/-- The last word of a MEM_WRITE ends its command. -/
theorem advanceBank_last_write {w done : Nat} (he : s.hub.entries = [e]) (hp : e.state = .parked (.bank c true done (done + 1) w id)) :
    advanceBank s c id none
      = s.setEntries [{ e with state := .done (s.mkReply e.pkt 0 0 (memResults (done + 1) memComplete)) }] := by
  have hb := Entry.atBank_parked hp
  have hfind : s.hub.entries.find? (fun x => x.atBank c id) = some e := by rw [he]; exact List.find?_cons_of_pos hb
  rw [advanceBank, hfind]
  simp only [Entry.wait?_parked hp, if_true, he, updFirst_atBank _ hb]

/-- The timeout of a MEM_READ or MEM_WRITE that waits for its grant ends the command and withdraws its access. -/
theorem grantTimeout_bank {wr : Bool} {w done total : Nat} (he : s.hub.entries = [e]) (hp : e.state = .parked (.bank c wr done total w id)) :
    grantTimeout s c 0
      = (s.dropAccess c id).setEntries [{ e with state := .done (s.mkReply e.pkt errTimeout 0 (memResults done w)) }] := by
  have hw := Entry.wait?_parked hp
  have hentries : (s.dropAccess c id).hub.entries = [e] := he
  unfold grantTimeout
  extract_lets first
  have hfirst : first = some e := by
    simp only [first, he]
    exact List.find?_cons_of_pos (by simp [hw])
  rw [hfirst]
  simp only [endAccess, hw, hentries, updFirst_atBank _ (Entry.atBank_parked hp)]
  rfl

theorem dropAccess_read {w : Nat} (hh : (s.cluster c).host = [.rd w id]) (ha : (s.cluster c).atomics = []) :
    s.dropAccess c id = s.setCluster c { s.cluster c with host := [] } := by
  have hdrop : dropFirst (fun a : BankAccess => decide (a.id = id)) [.rd w id] = [] := if_pos (decide_eq_true rfl)
  rw [State.dropAccess, State.updCluster_eq, hh, ha, hdrop]
  simp only [dropFirst, List.head?_nil, Option.map_none, reduceCtorEq, if_false]
  rw [← ha]

end

-- a slot that passes (R167, R168, R170, R177)

/-- The master that the arbiter has granted a slot. -/
def Arbiter.grant (v : Arbiter) : Slot → Option Nat
  | .a => v.a.master
  | .b => v.b.master

/-- The bank with a slot marked as passed. -/
def State.passSlot (s : State) (c : Nat) (slot : Slot) : State :=
  s.setCluster c { s.cluster c with arb := (s.cluster c).arb.pass slot }

section
variable {s : State} {c : Nat} {slot : Slot}

theorem passed_ne_init : { s.cluster c with arb := (s.cluster c).arb.pass slot } ≠ Cluster.init :=
  Cluster.ne_init_of_arb (Arbiter.pass_ne_init _ slot)

theorem passSlot_cluster : (s.passSlot c slot).cluster c = { s.cluster c with arb := (s.cluster c).arb.pass slot } :=
  cluster_setCluster_of_ne passed_ne_init

theorem passSlot_setCluster (v : Cluster) : (s.passSlot c slot).setCluster c v = s.setCluster c v :=
  setCluster_setCluster_of_ne passed_ne_init v

/-- The second half of an atomic stores the new value and answers with the old one. -/
theorem freeSlot_second {a : BankAccess} {rest : List BankAccess} {w : Nat} {old : Word} {e : Entry}
    (hsec : (s.cluster c).second = some (w, old)) (hat : (s.cluster c).atomics = a :: rest) (hpair : s.boot.pairMode ≠ 2)
    (he : s.hub.entries = [e]) (hb : e.atBank c a.id = true) :
    freeSlot s c slot = ((s.setCluster c { s.cluster c with arb := (s.cluster c).arb.pass slot, second := none, atomics := rest }).bankStore c w
      (atomicValue a old)).setEntries [{ e with state := .done (s.mkReply e.pkt 0 0 old.toNat) }] := by
  have hfree : freeSlot s c slot = atomicWrite (s.passSlot c slot) c w old := by
    unfold freeSlot
    extract_lets v t
    rw [show v.second = some (w, old) from hsec]
    rfl
  have hstore (v : Cluster) : ((s.setCluster c v).bankStore c w (atomicValue a old)).hub.entries = [e] := by rw [bankStore_hub]; exact he
  rw [hfree, atomicWrite, passSlot_cluster]
  simp only [hat, passSlot_setCluster]
  rw [dynStore_unpaired (s := s.setCluster c _) hpair, finishAtomic_one (hstore _) hb, bankStore_mkReply]
  rfl

/-- A write-back goes ahead of every master. -/
theorem freeSlot_writeBack {w : Nat} (hsec : (s.cluster c).second = none) (hwb : (s.cluster c).wb = some w) :
    freeSlot s c slot
      = (s.eccClean 6 (c * 65536 + w)).setCluster c { s.cluster c with arb := (s.cluster c).arb.pass slot, wb := none } := by
  have hfree : freeSlot s c slot = writeBack (s.passSlot c slot) c := by
    unfold freeSlot
    extract_lets v t
    rw [show v.second = none from hsec, show v.wb = some w from hwb]
    rfl
  rw [hfree, writeBack, passSlot_cluster]
  simp only [hwb]
  exact updCluster_setCluster_of_ne (s := s.eccClean 6 (c * 65536 + w)) passed_ne_init _

/-- Without an atomic between its slots and without a write-back, a slot goes to the granted master, or to none. -/
theorem freeSlot_granted (hsec : (s.cluster c).second = none) (hwb : (s.cluster c).wb = none) :
    freeSlot s c slot = ((s.cluster c).arb.grant slot).elim (s.passSlot c slot) (transfer (s.passSlot c slot) c) := by
  unfold freeSlot
  extract_lets v t
  rw [show v.second = none from hsec, show v.wb = none from hwb]
  have select (o : Option Nat) : (match o with | some m => transfer t c m | none => t) = o.elim t (transfer t c) := by cases o <;> rfl
  cases slot with
  | a => exact select v.arb.a.master
  | b => exact select v.arb.b.master

/-- The last word of a MEM_WRITE is stored, and its command is done. -/
theorem transfer_last_write {e : Entry} {w done id : Nat} {d : Word} (hh : (s.cluster c).host = [.wr w d id]) (hpair : s.boot.pairMode ≠ 2)
    (he : s.hub.entries = [e]) (hp : e.state = .parked (.bank c true done (done + 1) w id)) :
    transfer (s.passSlot c slot) c 0 = ((s.setCluster c { s.cluster c with arb := (s.cluster c).arb.pass slot, host := [] }).bankStore c w
      d).setEntries [{ e with state := .done (s.mkReply e.pkt 0 0 (memResults (done + 1) memComplete)) }] := by
  have hstore (v : Cluster) : ((s.setCluster c v).bankStore c w d).hub.entries = [e] := by rw [bankStore_hub]; exact he
  rw [transfer, passSlot_cluster]
  simp only [hh, doAccess]
  rw [State.passSlot, updCluster_setCluster_of_ne passed_ne_init, dynStore_unpaired (s := s.setCluster c _) hpair,
    advanceBank_last_write (hstore _) hp, bankStore_mkReply]
  rfl

end

-- the opportunity that a row of a slot belongs to (R167, R174)

section
variable {s : State} {c : Nat} {slot : Slot}

theorem syncArb_decided (ho : (s.cluster c).arb.opp = s.opp) : s.syncArb c s.opp = s := if_pos (.inl ho.symm)

theorem runsAt_of_not_free (hf : s.slotFree c slot = false) : (s.runsAt c).isNone = false := by
  cases h : s.runsAt c with
  | none => simp [State.slotFree, h] at hf
  | some g => rfl

/-- The row of a slot that has not passed, or is not free, belongs to the opportunity that the arbiter has decided. -/
theorem slotOpp_decided (ho : (s.cluster c).arb.opp = s.opp) (h : (s.cluster c).arb.past slot = false ∨ s.slotFree c slot = false) :
    s.slotOpp c slot = s.opp := by
  unfold State.slotOpp
  dsimp only
  rcases h with h | h
  · simp [h, ho]
  · simp [runsAt_of_not_free h]

theorem dynamicSlot_passes (ho : (s.cluster c).arb.opp = s.opp) (hp : (s.cluster c).arb.past slot = false) (hf : s.slotFree c slot = true) :
    dynamicSlot s c slot = freeSlot s c slot := by
  simp [dynamicSlot, slotOpp_decided ho (.inl hp), syncArb_decided ho, hp, hf]

theorem dynamicSlot_not_free (ho : (s.cluster c).arb.opp = s.opp) (hf : s.slotFree c slot = false) : dynamicSlot s c slot = s := by
  simp [dynamicSlot, slotOpp_decided ho (.inr hf), syncArb_decided ho, hf]

/-- Where no line is up, a slot is granted to none. -/
theorem slotGrant_down (owner : Nat) (open_ fits : Bool) :
    slotGrant owner [false, false, false, false] open_ fits = (SlotGrant.none, owner) := by
  have hdown (m : Nat) : ¬[false, false, false, false].getD m false = true := by rcases m with _ | _ | _ | _ | m <;> exact Bool.false_ne_true
  have hnone : arbitrate owner [false, false, false, false] fits = (none, false) :=
    arbitrate_none (List.filter_eq_nil_iff.mpr fun m _ => hdown m)
  unfold slotGrant
  split
  · rw [hnone]; rfl
  · rfl

/-- The grants of an opportunity come from the lines at the start of the one before: where none was up, the arbiter grants nothing, whatever
has been raised since. -/
theorem syncArb_unseen (ho : (s.cluster c).arb.opp + 1 = s.opp) (hr : s.runsAt c = none)
    (hseen : (s.cluster c).arb.seen = [false, false, false, false]) :
    s.syncArb c s.opp
      = s.setCluster c { s.cluster c with arb := { opp := s.opp, seen := s.lines c, a := .none, b := .none } } := by
  have hlate : ¬(s.opp = (s.cluster c).arb.opp ∨ (s.opp < (s.cluster c).arb.opp ∧ (s.runsAt c).isNone)) := by omega
  unfold State.syncArb
  extract_lets v lines fa fb held a b s1 s2
  have hlines : lines = [false, false, false, false] := (if_pos ho.symm).trans hseen
  have ha : a = (.none, v.owner) := by simp only [a, hlines, slotGrant_down]
  have hb : b = (.none, v.owner) := by simp only [b, hlines, ha, slotGrant_down]
  have hfree : fb = true := by simp only [fb, State.slotFree, hr]
  have hcount : s2 = s1 := if_neg (by simp [hfree])
  have hskips : ¬(a.1.skips || b.1.skips) = true := by rw [ha, hb]; exact Bool.false_ne_true
  rw [if_neg hlate, if_neg hskips, hcount]
  simp only [s1, ha, hb]
  rfl

/-- An access raised in an opportunity gets no grant in it. -/
theorem dynamicSlot_unseen (ho : (s.cluster c).arb.opp + 1 = s.opp) (hr : s.runsAt c = none) (hsec : (s.cluster c).second = none)
    (hwb : (s.cluster c).wb = none) (hseen : (s.cluster c).arb.seen = [false, false, false, false]) :
    dynamicSlot s c .a = s.setCluster c { s.cluster c with arb :=
      { opp := s.opp, seen := s.lines c, a := { SlotGrant.none with past := true }, b := .none } } := by
  have hopp : s.slotOpp c .a = s.opp := by unfold State.slotOpp; exact if_neg fun h => by omega
  have hne : { s.cluster c with arb := { opp := s.opp, seen := s.lines c, a := .none, b := .none } } ≠ Cluster.init :=
    Cluster.ne_init_of_arb fun h => by have := congrArg Arbiter.opp h; simp only [Arbiter.init] at this; omega
  have hfree : s.slotFree c .a = true := by simp only [State.slotFree, hr]
  have hcl := cluster_setCluster_of_ne (s := s) (c := c) hne
  unfold dynamicSlot
  extract_lets t
  have ht : t = s.setCluster c { s.cluster c with arb := { opp := s.opp, seen := s.lines c, a := .none, b := .none } } := by
    simp only [t, hopp, syncArb_unseen ho hr hseen]
  have htc : t.cluster c = { s.cluster c with arb := { opp := s.opp, seen := s.lines c, a := .none, b := .none } } := by rw [ht, hcl]
  have hpass : (s.slotFree c .a && !(t.cluster c).arb.past .a) = true := by rw [hfree, htc]; rfl
  rw [if_pos hpass, freeSlot_granted (htc ▸ hsec) (htc ▸ hwb), State.passSlot, htc, ht, setCluster_setCluster_of_ne hne]
  rfl

-- ECC_WRITEBACK (R170)

/-- A write-back takes slot A where that is free and has not passed. -/
theorem eccWriteback_slotA {w : Nat} (ho : (s.cluster c).arb.opp = s.opp) (hwb : (s.cluster c).wb = some w) (hsec : (s.cluster c).second = none)
    (hf : s.slotFree c .a = true) (hp : (s.cluster c).arb.past .a = false) :
    eccWriteback s c = (s.eccClean 6 (c * 65536 + w)).setCluster c { s.cluster c with arb := (s.cluster c).arb.pass .a, wb := none } := by
  have hslot : s.backSlot c = some .a := by
    rw [State.backSlot, syncArb_decided ho, List.find?_cons_of_pos (by simp [hf, hp])]
  rw [← freeSlot_writeBack hsec hwb, ← dynamicSlot_passes ho hp hf]
  simp [eccWriteback, hslot, hsec, hwb]

/-- It waits where no slot is free. -/
theorem eccWriteback_waits (hfa : s.slotFree c .a = false) (hfb : s.slotFree c .b = false) : eccWriteback s c = s := by
  have hslot : s.backSlot c = none := by
    simp [State.backSlot, hfa, hfb, runsAt_of_not_free hfa]
  simp only [eccWriteback, hslot]

theorem exec_dynamicSlotGrant (hc : c < 512) : exec (.dynamicSlotGrant c slot) s = .next ((dynamicSlot s c slot).pauseAfter c).settle := if_pos hc

theorem exec_eccWriteback (hc : c < 512) : exec (.eccWriteback c) s = .next (eccWriteback s c).settle := if_pos hc

theorem exec_backdoorGrantTimeout {m : Nat} (hc : c < 512) (hm : m < 4) :
    exec (.backdoorGrantTimeout c m) s = .next ((grantTimeout s c m).pauseAfter c).settle := if_pos ⟨hc, hm⟩

end

/-- Settles O18: a slot that the arbiter has decided passes or is not free, and an undecided one is decided from lines that were down; the
arbiter grants the first of its rotation whose line is up. -/
theorem bankFreeSlots : Obligations.BankFreeSlots := by
  unfold Obligations.BankFreeSlots
  refine ⟨fun s c slot hc => ?_, fun owner lines ho _ => ⟨arbitrate_none_iff ho, fun k hk hup hdown => ?_, fun k hk hup hdown h3 => ?_,
    fun k hk hup hdown h3 => ?_⟩⟩
  · intro v grant passed
    have hgrant : grant = v.arb.grant slot := by cases slot <;> rfl
    refine ⟨fun ho hp hf => ?_, fun ho hf => ?_, fun ho hr hsec hwb hseen => ?_, fun w ho hwb hsec => ⟨fun hf hp => ?_, fun hfa hfb => ?_⟩,
      fun e w done total id he hst hh hat => ?_⟩
    · rw [exec_dynamicSlotGrant hc, dynamicSlot_passes ho hp hf]
      refine ⟨fun a rest w old e hsec hat hpair he hb => ?_, fun w hsec hwb => ?_, fun hsec hwb hg => ?_,
        fun e w done id d hsec hwb hg hh hpair he hst => ?_⟩
      · rw [freeSlot_second hsec hat hpair he hb, pauseAfter_unpaired]
        rwa [State.setEntries_boot, bankStore_boot]
      · rw [freeSlot_writeBack hsec hwb]
      · rw [freeSlot_granted hsec hwb, ← hgrant, hg]; rfl
      · rw [freeSlot_granted hsec hwb, ← hgrant, hg, Option.elim_some, transfer_last_write hh hpair he hst, pauseAfter_unpaired]
        · rfl
        · rwa [State.setEntries_boot, bankStore_boot]
    · rw [exec_dynamicSlotGrant hc, dynamicSlot_not_free ho hf]
    · rw [exec_dynamicSlotGrant hc, dynamicSlot_unseen ho hr hsec hwb hseen]
    · rw [exec_eccWriteback hc, eccWriteback_slotA ho hwb hsec hf hp]
    · rw [exec_eccWriteback hc, eccWriteback_waits hfa hfb]
    · rw [exec_backdoorGrantTimeout hc (by decide), grantTimeout_bank he hst, dropAccess_read hh hat]
      rfl
  · obtain ⟨rest, hrest, -⟩ := raised_in_rotation hk hup hdown
    exact arbitrate_first hrest (.inr rfl)
  · obtain ⟨rest, hrest, -⟩ := raised_in_rotation hk hup hdown
    exact arbitrate_first hrest (.inl h3)
  · obtain ⟨rest, hrest, hnot⟩ := raised_in_rotation hk hup hdown
    rw [h3] at hrest hnot
    rw [arbitrate_skips hrest]
    exact ⟨rfl, fun h => hnot (List.mem_of_head? h)⟩

end Sys2Proof.Machine
end

-- ==== The memory backdoor, and the partition of a stack ====
section
/-! PROOFS. Once its checks pass, an access of a bank raises a line and waits, and one of a stack goes on where the stack takes packets (R179 to
R181, R362). A partition moves a used unit exactly where the two boundaries place it in different regions (R188). -/
namespace Sys2Proof.Machine

section
variable {p : Packet} {s : State}

theorem exec_memRead (h : Accepted 0x0500 p s (memBad p s false) (decide (p.len = 0))) : exec (.memRead p) s
    = .next (conclude 0x0500 p (if par p 20 1 = 0 then memBank p s false else memHbm p s false)) :=
  congrArg Host.Outcome.next (command_accepted h)

theorem exec_memWrite (h : Accepted 0x0501 p s (memBad p s true) (decide (p.len = 0))) : exec (.memWrite p) s
    = .next (conclude 0x0501 p (if par p 20 1 = 0 then memBank p s true else memHbm p s true)) :=
  congrArg Host.Outcome.next (command_accepted h)

theorem exec_memAtomic (h : Accepted 0x0502 p s (parCheck p [(20, 1), (21, 1), (22, 1), (23, 1), (24, 2), (28, 8)]
      (decide (p.buf = 0) && decide (p.len = 0) && decide (par p 20 1 = 0) && decide (par p 21 1 < 32) && decide (par p 22 1 < 16)
        && decide (par p 23 1 < 2) && !(decide (s.boot.pairMode = 2) && decide (16 ≤ par p 21 1)))) false) :
    exec (.memAtomic p) s = .next (conclude 0x0502 p (memAtomicOwn p s)) :=
  congrArg Host.Outcome.next (command_accepted h)

theorem exec_hbmPartition (h : Accepted 0x0510 p s (parCheck p [(20, 1), (24, 2), (26, 2), (28, 2)] (decide (par p 20 1 < 4)
      && decide (par p 24 2 ≤ par p 26 2) && decide (par p 26 2 ≤ par p 28 2) && decide (par p 28 2 ≤ 576))) false) :
    exec (.hbmPartition p) s = .next (conclude 0x0510 p (hbmPartitionOwn p s)) :=
  congrArg Host.Outcome.next (command_accepted h)

end

-- an access of a bank (R179 to R181)

section
variable {p : Packet} {s : State} (hpair : s.boot.pairMode ≠ 2)
include hpair

/-- Without mirrored pairing every run group takes dynamic writes. -/
theorem writable_unpaired (g : Nat) : s.writable g = true := by simp [State.writable, hpair]

variable (hown : s.ownCheck (p.session / 16) [par p 21 1] = none) (hload : (s.parcel (par p 21 1)).load = .loaded)
include hown hload

/-- A MEM_READ or MEM_WRITE of a loaded parcel of the caller raises the line of master 0 and waits. -/
theorem memBank_waits {write : Bool}
    (hlock : (s.lockedBy p.session fun l => l.onBank (clOf (par p 21 1) (par p 22 1)) (par p 24 8) (p.len.toNat / 8)) = false) :
    let c := clOf (par p 21 1) (par p 22 1)
    let id := (s.cluster c).accessNo
    memBank p s write = .park (.bank c write 0 (p.len.toNat / 8) (par p 24 8) id) (s.raiseLine c fun v =>
      { v with accessNo := id + 1, host := v.host ++ [nextAccess s p write 0 (par p 24 8) id] }) := by
  have hw := writable_unpaired hpair
  simp only [memBank, callerFn, hown]
  refine checks_pass ?_
  cases s.rgOf (par p 21 1) with
  | none => simp [hload, hlock]
  | some g => simp [hload, hlock, hw g]

/-- A MEM_ATOMIC joins the queue of master 3 and waits. -/
theorem memAtomicOwn_waits
    (hlock : (s.lockedBy p.session fun l => l.onBank (clOf (par p 21 1) (par p 22 1)) (par p 24 2) 1) = false) :
    let c := clOf (par p 21 1) (par p 22 1)
    let id := (s.cluster c).accessNo
    memAtomicOwn p s = .park (.atomicOp c (par p 24 2) id) (s.raiseLine c fun x => { x with
      accessNo := id + 1
      atomics := x.atomics ++ [if par p 23 1 = 0 then .add (par p 24 2) (BitVec.ofNat 64 (par p 28 8)) id
        else .swap (par p 24 2) (BitVec.ofNat 64 (par p 28 8)) id] }) := by
  have hw := writable_unpaired hpair
  simp only [memAtomicOwn, callerFn, hown]
  refine checks_pass ?_
  cases s.rgOf (par p 21 1) with
  | none => simp [hload, hlock]
  | some g => simp [hload, hlock, hw g]

end

-- a command whose packets go to one domain (R362)

section
variable {s : State} {ok : State → Ans}

theorem awaken_takes {d : Domain} (h : s.Takes d) : awaken s [d] ok = ok s := by
  obtain ⟨hu, hd⟩ := h
  simp [awaken, callDomain_ready hu hd, hu]

theorem unready_stack (s : State) (k : Nat) : s.unready (.stack k)
    = ((s.stack k).asleep || s.net.waking.contains (.stack k) || s.net.isolated.contains (.stack k)) := by
  show (_ || false) = _
  rw [Bool.or_false]
  rfl

theorem finishParked_hbmStacks (s : State) (f : Entry → Wait → Option (Nat × Nat × Nat)) : (s.finishParked f).hbmStacks = s.hbmStacks := rfl

theorem cancelDown_waking (s : State) (d : Domain) : (s.cancelDown d).net.waking = s.net.waking := (rfl)

theorem cancelDown_hbmStacks (s : State) (d : Domain) : (s.cancelDown d).hbmStacks = s.hbmStacks := by
  simp [State.cancelDown, State.tellPower, State.leaveDown, finishParked_hbmStacks]

/-- A stack that takes nothing yet takes nothing right after it has been called. -/
theorem callDomain_stack_unready {k : Nat} (h : s.unready (.stack k) = true) : (s.callDomain (.stack k)).unready (.stack k) = true := by
  unfold State.callDomain
  split
  · split <;> exact h
  · next hi =>
    rw [unready_stack, Bool.eq_false_of_not_eq_true hi, Bool.or_false] at h
    split
    · rw [unready_stack, State.stack, cancelDown_waking, cancelDown_hbmStacks]
      exact Bool.or_eq_true_iff.mpr (.inl h)
    · unfold State.startWake
      dsimp only
      split
      · rw [unready_stack]; simp [State.setNet]
      · rw [unready_stack, h, Bool.true_or]

theorem awaken_stack_waits {k : Nat} (h : s.unready (.stack k) = true) :
    awaken s [.stack k] ok = .park (.domains [.stack k]) (s.callDomain (.stack k)) := by
  simp [awaken, callDomain_stack_unready h]

end

-- an access of a word of a stack (R179, R180, R187)

section
variable {p : Packet} {s : State} (hn : p.len.toNat / 8 = 1)
include hn

theorem memImages_one : memImages s p = [s.imageAt (p.session / 16) (par p 21 1) (par p 24 8 / unitWords)] := by
  have hunits : unitsOf (par p 24 8) 1 = [par p 24 8 / unitWords] := by
    rw [unitsOf, Nat.add_sub_cancel, Nat.add_sub_cancel_left]; rfl
  rw [memImages, hn, hunits]
  rfl

/-- The access of a word of an image of the caller goes on once its stack takes packets. -/
theorem memHbm_awakens {write : Bool} {g : Nat} {i : Image} (hpair : s.boot.pairMode ≠ 2)
    (hi : s.imageAt (p.session / 16) (par p 21 1) (par p 24 8 / unitWords) = some (g, i))
    (htr : s.phase = 1 → (s.stack (par p 21 1)).trained = true) (hnew : s.workOf (if write then 0x0501 else 0x0500) p = none)
    (hlock : s.parcelLocked p.session i.parcels = false) :
    memHbm p s write = awaken s [.stack (par p 21 1)] (memMove p write 0) := by
  have htrained : (decide (s.phase = 1) && !(s.stack (par p 21 1)).trained) = false := by
    by_cases h : s.phase = 1
    · simp [htr h]
    · simp [h]
  have hw := writable_unpaired hpair g
  simp only [memHbm, hnew, memImages_one hn, hi, hpair, decide_false, Bool.and_false, Bool.false_eq_true, if_false]
  exact checks_pass (by simp [htrained, hlock, hw])

theorem memMove_read (he : s.eccAt 9 (par p 21 1 * 2 ^ 33 + par p 24 8) = 0) :
    memMove p false 0 s
      = done (bufPut s p 0 (leBytes 8 (s.hbmWord (par p 21 1) (par p 24 8)).toNat)) (1 + (2 ^ 64 - 1) * 2 ^ 32) := by
  have hread (unit : Nat) (cycle : Word) : s.hbmRead (par p 21 1) (par p 24 8) unit 1 (sessionMaster p.session) cycle
      = (some (s.hbmWord (par p 21 1) (par p 24 8)), s) := if_pos he
  simp only [memMove, hn, hbmReadWords, hread, Nat.add_zero, Bool.false_eq_true, if_false, if_true]
  rfl

theorem memMove_write (hpair : s.boot.pairMode ≠ 2) :
    memMove p true 0 s
      = done (s.hbmStore (par p 21 1) (par p 24 8) (BitVec.ofNat 64 (memNat (bufMem s p) 0 8))) (1 + (2 ^ 64 - 1) * 2 ^ 32) := by
  have htwin (k : Nat) (l : List (Nat × Image)) : memTwin s k l = none := by
    unfold memTwin
    split
    · exact if_neg hpair
    · rfl
  simp only [memMove, hn, htwin, if_true]
  rfl

end

-- the partition (R187, R188)

theorem regionMoves_eq_false {old new : Nat → Nat} {used : List (Nat × Nat)} (h : ∀ x ∈ used, ∀ j < x.2, old (x.1 + j) = new (x.1 + j)) :
    regionMoves old new used = false := by
  simp only [regionMoves, List.any_eq_false, List.any_eq_true, List.mem_range, decide_eq_true_eq]
  rintro x hx ⟨j, hj, hne⟩
  exact hne (h x hx j hj)

/-- A partition by the physical function that leaves every used unit in its region answers OK. -/
theorem hbmPartitionOwn_stays {p : Packet} {s : State} (hpf : p.session < 16)
    (h : ∀ x ∈ s.designUsed (par p 20 1) ++ s.traceUsed (par p 20 1) ++ s.insetUsed (par p 20 1), ∀ j < x.2,
      regionOf (s.stack (par p 20 1)).designEnd (s.stack (par p 20 1)).traceEnd (s.stack (par p 20 1)).insetEnd (x.1 + j)
        = regionOf (par p 24 2) (par p 26 2) (par p 28 2) (x.1 + j)) : hbmPartitionOwn p s = done s := by
  have hcaller : callerPf p = true := decide_eq_true (by unfold callerFn; omega)
  have hstays := regionMoves_eq_false h
  exact checks_pass (by simp only [List.forall_mem_cons, hcaller, hstays, Bool.not_true, List.not_mem_nil, false_imp_iff, implies_true, and_self])

/-- Settles O38: an access of a bank or an atomic waits, one of a stack waits for its domain or moves its word, a partition answers OK. -/
theorem memoryCommands : Obligations.MemoryCommands := by
  unfold Obligations.MemoryCommands
  intro s p fn unit c word n id hpair
  refine ⟨fun h0 hown hload hlock => ⟨fun hacc => ?_, fun hacc => ?_⟩,
    fun g i h1 hn hi htr hnewR hnewW hlock => ⟨fun hacc hu => ?_, fun htakes => ⟨fun hacc he => ?_, fun hacc => ?_⟩⟩,
    fun hacc hown hload hlock => ?_, fun hacc hpf => ?_⟩
  · rw [exec_memRead hacc, if_pos h0, memBank_waits hpair hown hload hlock]; rfl
  · rw [exec_memWrite hacc, if_pos h0, memBank_waits hpair hown hload hlock]; rfl
  · have hne : ¬par p 20 1 = 0 := by omega
    rw [exec_memRead hacc, if_neg hne, memHbm_awakens hn (write := false) hpair hi htr hnewR hlock, awaken_stack_waits hu]
  · have hne : ¬par p 20 1 = 0 := by omega
    rw [exec_memRead hacc, if_neg hne, memHbm_awakens hn (write := false) hpair hi htr hnewR hlock, awaken_takes htakes, memMove_read hn he]
  · have hne : ¬par p 20 1 = 0 := by omega
    rw [exec_memWrite hacc, if_neg hne, memHbm_awakens hn (write := true) hpair hi htr hnewW hlock, awaken_takes htakes, memMove_write hn hpair]
  · rw [exec_memAtomic hacc, memAtomicOwn_waits hpair hown hload hlock]; rfl
  · intro k v hsame
    refine ⟨?_, fun e y hop hpkt hok => ?_⟩
    · rw [exec_hbmPartition hacc, hbmPartitionOwn_stays hpf hsame]
    · subst hpkt
      exact if_pos ⟨hop, hok⟩

end Sys2Proof.Machine
end

-- ==== Stages and keys: IMAGE_STAGE, IMAGE_UNSTAGE, KEY_LOAD, KEY_CLEAR and KEK_AGREE ====
section
/-! PROOFS. Each command that passes its own checks gives its one answer: a stage has its units zeroed first and its bytes written over them
(R206); a key or a KEK is set, and its key event goes to the logbook (R196, R197, R434). -/
namespace Sys2Proof.Machine

section
variable {p : Packet} {s : State}

theorem exec_imageStage (h : Accepted 0x0202 p s (parCheck p [(20, 1)] (decide (par p 20 1 < 4))) (decide (p.len = 0))) :
    exec (.imageStage p) s = .next (conclude 0x0202 p (imageStageOwn p s)) :=
  congrArg Host.Outcome.next (command_accepted h)

theorem exec_imageUnstage (h : Accepted 0x0203 p s (parCheck p [(20, 4)] true) false) :
    exec (.imageUnstage p) s = .next (conclude 0x0203 p (imageUnstageOwn p s)) :=
  congrArg Host.Outcome.next (command_accepted h)

theorem exec_keyLoad (h : Accepted 0x0210 p s (parCheck p [(20, 1), (24, 40)] (decide (par p 20 1 < 64))) false) :
    exec (.keyLoad p) s = .next (conclude 0x0210 p (keyLoadOwn p s)) :=
  congrArg Host.Outcome.next (command_accepted h)

theorem exec_keyClear (h : Accepted 0x0211 p s (parCheck p [(20, 1)] (decide (par p 20 1 < 64))) false) :
    exec (.keyClear p) s = .next (conclude 0x0211 p (keyClearOwn p s)) :=
  congrArg Host.Outcome.next (command_accepted h)

theorem exec_kekAgree (h : Accepted 0x0212 p s (parCheck p [] (decide (p.len.toNat = 97))) false) :
    exec (.kekAgree p) s = .next (conclude 0x0212 p (kekAgreeOwn p s)) :=
  congrArg Host.Outcome.next (command_accepted h)

end

-- stages (R206)

/-- Zeroing units of a stack that takes packets touches the HBM and the marks of its words only. -/
theorem zeroUnits_takes {s : State} {k : Nat} (h : s.Takes (.stack k)) (base units : Nat) :
    ∃ hbm ecc, s.zeroUnits k base units = { s with hbm := hbm, ecc := ecc } := by
  obtain ⟨hunready, hdown⟩ := h
  unfold State.zeroUnits
  split
  · exact ⟨_, _, rfl⟩
  · rw [callDomain_ready hunready hdown]; exact ⟨_, _, rfl⟩

section
variable {p : Packet} {s : State}

/-- A stage that finds room for its `n` units, on a stack that takes packets. -/
theorem imageStageOwn_fits {base n : Nat} (htrained : (s.stack (par p 20 1)).trained = true) (htakes : s.Takes (.stack (par p 20 1)))
    (hn : ceilDiv p.len.toNat unitBytes = n)
    (hfit : firstFit (s.designUsed (par p 20 1)) 0 (s.stack (par p 20 1)).designEnd n = some base) :
    let k := par p 20 1
    let t := s.zeroUnits k base n
    imageStageOwn p s = done
      { t with nextStage := s.nextStage + 1
               stages := s.stages ++ [{ handle := s.nextStage, stack := k, base := base, units := n, owner := p.session / 16, length := p.len.toNat }]
               hbm := memPaste (k * 2 ^ 36 + base * unitBytes) p.len.toNat (bufMem s p) t.hbm } (s.nextStage + n * 2 ^ 32) := by
  obtain ⟨hbm, ecc, hzero⟩ := zeroUnits_takes htakes base n
  have huntrained : ¬ (s.stack (par p 20 1)).trained = false := by rw [htrained]; exact Bool.noConfusion
  intro k t
  unfold imageStageOwn
  rw [if_neg huntrained, hn]
  simp only [hfit, awaken_takes htakes, t, k, hzero]
  rfl

/-- An unstage by the stage's owner, while no load reads the stage. -/
theorem imageUnstageOwn_free {g : Stage} (hg : (s.stages.find? fun x => decide (x.handle = par p 20 4)) = some g) (hown : g.owner = callerFn p)
    (hread : ∀ c ∈ s.claims, c.desc.map (fun d => (d.source, d.image)) ≠ some (1, g.handle)) :
    imageUnstageOwn p s = done { s with stages := s.stages.filter fun x => decide (x.handle ≠ g.handle) } := by
  have hunread : (s.claims.any fun c => decide (c.desc.map (fun d => (d.source, d.image)) = some (1, g.handle))) = false := by
    simpa only [List.any_eq_false, decide_eq_true_eq] using hread
  simp only [imageUnstageOwn, hg, hown, hunread, ne_eq, not_true_eq_false, if_false, Bool.false_eq_true]

-- keys (R196, R197)

/-- A key that unwraps binds an empty slot, or a slot of the caller, with a fresh IV. -/
theorem keyLoadOwn_kek {kek : BitVec 256} (hbound : (s.key (par p 20 1)).bound = none ∨ (s.key (par p 20 1)).bound = some (callerFn p))
    (hlock : s.keyLocked p.session (par p 20 1) = false) (hkek : mget none (callerFn p) s.keks = some kek) :
    keyLoadOwn p s = match Config.keyUnwrap kek (par p 24 40) with
      | none => fail s errAuth 0x0624
      | some v => done ((State.setKey { s with freeCtr := s.freeCtr + 1 } (par p 20 1)
          { bound := some (callerFn p), key := v, ivHi := Config.freeValue s.freeCtr 32, ivCount := 0 }).logHub 0x40 0
            (keyEvent 0x0210 (par p 20 1) (callerFn p))) := by
  have hfree : ¬ ((s.key (par p 20 1)).bound.isSome ∧ (s.key (par p 20 1)).bound ≠ some (callerFn p)) := by
    rintro ⟨hsome, hother⟩
    exact hbound.elim (fun h => by simp [h] at hsome) hother
  simp only [keyLoadOwn, if_neg hfree, hlock, Bool.false_eq_true, if_false, hkek]
  rfl

/-- A slot of the caller that no image and no load uses is emptied. -/
theorem keyClearOwn_unused (hbound : (s.key (par p 20 1)).bound = some (callerFn p)) (hlock : s.keyLocked p.session (par p 20 1) = false)
    (himages : ∀ i ∈ s.images, i.keySlot ≠ some (par p 20 1)) (hclaims : ∀ c ∈ s.claims, c.desc.map (·.slot) ≠ some (par p 20 1)) :
    keyClearOwn p s = done ((s.setKey (par p 20 1) KeySlot.init).logHub 0x40 0 (keyEvent 0x0211 (par p 20 1) (callerFn p))) := by
  have hi : (s.images.any fun i => decide (i.keySlot = some (par p 20 1))) = false := by
    simpa only [List.any_eq_false, decide_eq_true_eq] using himages
  have hc : (s.claims.any fun c => decide (c.desc.map (·.slot) = some (par p 20 1))) = false := by
    simpa only [List.any_eq_false, decide_eq_true_eq] using hclaims
  exact checks_pass (by simp only [hbound, hlock, hi, hc, List.forall_mem_cons, ne_eq, not_true_eq_false, decide_false, Bool.or_self,
    List.not_mem_nil, false_imp_iff, implies_true, and_self])

end

/-- The HKDF info begins with the six letters of "SKVKEK" (R196). -/
theorem kekInfo_eq (s : State) (fn : Nat) :
    kekInfo s fn = leNat (leBytes 6 0x4B454B564B53 ++ leBytes 2 fn ++ leBytes 8 s.legend) := rfl

/-- Settles O34: each command passes its checks and gives the one answer of its lemma. -/
theorem stagesAndKeys : Obligations.StagesAndKeys := by
  unfold Obligations.StagesAndKeys
  intro s p fn k
  refine ⟨?_, ?_, ?_, ?_, ?_⟩
  · intro base hacc htrained htakes n hfit
    rw [exec_imageStage hacc, imageStageOwn_fits htrained htakes rfl hfit]
  · intro hacc g hg hown hread
    rw [exec_imageUnstage hacc, imageUnstageOwn_free hg hown hread]
  · intro kek hacc hbound hlock hkek
    rw [exec_keyLoad hacc, keyLoadOwn_kek hbound hlock hkek]; rfl
  · intro hacc hbound hlock himages hclaims
    rw [exec_keyClear hacc, keyClearOwn_unused hbound hlock himages hclaims]; rfl
  · intro hacc
    rw [exec_kekAgree hacc, kekAgreeOwn, kekInfo_eq]; rfl

end Sys2Proof.Machine
end

-- ==== Images: IMAGE_LOAD, IMAGE_FRAMES and IMAGE_UNLOAD, begun by a worker or not ====
section
/-! PROOFS. A load reads its source twice, each time with its checks, and has one end for its write pass (R202, R208); the row of one that its
worker has begun starts at the reading where the worker stands. A batch and an unload that pass the checks of their fronts have one answer
each (R210, R214). -/
namespace Sys2Proof.Machine

-- a command whose packets go to several domains (R362)

/-- The units that sleep and wake (R361). -/
def State.units (s : State) : SMap Parcel × SMap Stack × SMap Quad × SMap Engine × SMap Bridge :=
  (s.parcels, s.hbmStacks, s.quads, s.engines, s.bridges)

section
variable (s : State) (d : Domain) (f : Entry → Wait → Option (Nat × Nat × Nat))

theorem setNet_units (n : Net) : (s.setNet n).units = s.units := rfl

theorem setEntries_units (l : List Entry) : (s.setEntries l).units = s.units := rfl

theorem finishParked_units : (s.finishParked f).units = s.units := rfl

theorem finishParked_net : (s.finishParked f).net = s.net := rfl

theorem tellPower_units (sleeps completed : Bool) : (s.tellPower d sleeps completed).units = s.units := by
  simp only [State.tellPower, finishParked_units, setEntries_units]

theorem tellPower_net (sleeps completed : Bool) : (s.tellPower d sleeps completed).net = s.net := by
  simp only [State.tellPower, finishParked_net]
  rfl

theorem cancelDown_units : (s.cancelDown d).units = s.units := by
  simp only [State.cancelDown, State.leaveDown, tellPower_units, setNet_units]

theorem cancelDown_isolated : (s.cancelDown d).net.isolated = s.net.isolated.filter fun x => decide (x ≠ d) := by
  rw [State.cancelDown, tellPower_net]
  rfl

end

/-- From `s` to `t` no domain gets ready: the units are the same, what wakes goes on waking, and what is isolated stays so. -/
structure NoneReadier (s t : State) : Prop where
  units : t.units = s.units
  waking : ∀ x ∈ s.net.waking, x ∈ t.net.waking
  isolated : ∀ x ∈ s.net.isolated, x ∈ t.net.isolated

namespace NoneReadier
variable {s t u : State}

theorem refl : NoneReadier s s := ⟨rfl, fun _ h => h, fun _ h => h⟩

theorem trans (h : NoneReadier s t) (k : NoneReadier t u) : NoneReadier s u :=
  ⟨k.units.trans h.units, fun x hx => k.waking x (h.waking x hx), fun x hx => k.isolated x (h.isolated x hx)⟩

theorem unready (h : NoneReadier s t) {d : Domain} (hd : s.unready d = true) : t.unready d = true := by
  obtain ⟨hunits, hwaking, hisolated⟩ := h
  simp only [State.units, Prod.mk.injEq] at hunits
  obtain ⟨hparcels, hstacks, hquads, hengines, hbridges⟩ := hunits
  have hasleep : t.isAsleep d = s.isAsleep d := by
    cases d <;> simp only [State.isAsleep, State.parcel, State.stack, State.quad, State.engine, State.bridge, *]
  simp only [State.unready, State.isWaking, State.parcel, hparcels, hasleep, Bool.or_eq_true, List.contains_iff_mem] at hd ⊢
  exact hd.imp_left (Or.imp (Or.imp_right (hwaking d)) (hisolated d))

theorem cancelDown (d : Domain) (hd : d ∉ s.net.isolated) : NoneReadier s (s.cancelDown d) where
  units := cancelDown_units s d
  waking x hx := by rwa [cancelDown_waking]
  isolated x hx := by
    rw [cancelDown_isolated]
    exact List.mem_filter.mpr ⟨hx, decide_eq_true fun e => hd (e ▸ hx)⟩

theorem startWake (d : Domain) (packet : Bool) : NoneReadier s (s.startWake d packet) := by
  unfold State.startWake
  extract_lets dead t
  have counted : NoneReadier s t := by simp only [t]; split <;> exact ⟨rfl, fun _ h => h, fun _ h => h⟩
  split
  · exact counted.trans ⟨rfl, fun x hx => List.mem_append_left _ hx, fun _ h => h⟩
  · exact refl

/-- A call of a domain (R362, R363). -/
theorem callDomain (d : Domain) (packet : Bool) : NoneReadier s (s.callDomain d packet) := by
  unfold State.callDomain
  split
  · split
    · exact refl
    · exact ⟨rfl, fun _ h => h, fun _ h => h⟩
  · next hd =>
    split
    · exact cancelDown d fun h => hd (List.contains_iff_mem.mpr h)
    · exact startWake d packet

end NoneReadier

section
variable {s : State} {ds : List Domain} {ok : State → Ans}

theorem callDomains_ready (h : ∀ x ∈ ds, s.Takes x) : ds.foldl (fun u d => u.callDomain d) s = s :=
  List.foldlRecOn (motive := fun t : State => t = s) ds _ rfl fun t e d hd => by
    subst e
    obtain ⟨hunready, hdown⟩ := h d hd
    exact callDomain_ready hunready hdown

/-- Where every domain takes packets, the command goes on. -/
theorem awaken_takesAll (h : ∀ x ∈ ds, s.Takes x) : awaken s ds ok = ok s := by
  have hleft : ds.filter s.unready = [] := List.filter_eq_nil_iff.mpr fun x hx => ne_true_of_eq_false (h x hx).1
  simp only [awaken, callDomains_ready h, hleft, if_true]

/-- Where some domain takes nothing yet, the command waits for it. -/
theorem awaken_waits (h : ∃ x ∈ ds, s.unready x = true) :
    ∃ (left : List Domain) (t : State), left ≠ [] ∧ awaken s ds ok = .park (.domains left) t := by
  obtain ⟨x, hx, hunready⟩ := h
  have hcalled : NoneReadier s (ds.foldl (fun u d => u.callDomain d) s) :=
    List.foldlRecOn (motive := NoneReadier s) ds _ .refl fun t ht d _ => ht.trans (.callDomain d true)
  have hleft : ds.filter (ds.foldl (fun u d => u.callDomain d) s).unready ≠ [] :=
    List.ne_nil_of_mem (List.mem_filter.mpr ⟨hx, hcalled.unready hunready⟩)
  exact ⟨_, _, hleft, if_neg hleft⟩

end

-- the rows of the three commands

section
variable {p : Packet} {s : State}

theorem exec_imageLoad_new (hnew : s.workOf 0x0200 p = none)
    (h : Accepted 0x0200 p s (imageLoadBad p s) (decide (memNat (bufMem s p) 16 8 = 0))) :
    exec (.imageLoad p) s = .next (conclude 0x0200 p (imageLoadOwn p s)) := by
  have hrow : exec (.imageLoad p) s
      = .next (command 0x0200 p s (imageLoadBad p s) (decide (memNat (bufMem s p) 16 8 = 0)) (imageLoadOwn p s)) := by
    show execImageLoad p s = _
    rw [execImageLoad, hnew]
  rw [hrow, command_accepted h]

theorem exec_imageLoad_begun {x : Entry × Nat × Claim} (hx : s.workOf 0x0200 p = some x) :
    exec (.imageLoad p) s = .next (if x.2.2.fault = none ∧ s.loadAwake x.2.2 = false then s else conclude 0x0200 p (loadResume p x s)) := by
  show execImageLoad p s = _
  rw [execImageLoad, hx]

theorem exec_imageFrames (h : Accepted 0x0201 p (s.resumed 0x0201 p)
      (parCheck p [(20, 4), (24, 1)] (decide (par p 24 1 < 64) || decide (par p 24 1 = 255)))
      (decide (par p 20 4 = 0) || decide (p.len = 0) || decide (64 ≤ p.len.toNat ∧ memNat (bufMem (s.resumed 0x0201 p) p) 4 4 = 0))) :
    exec (.imageFrames p) s = .next (conclude 0x0201 p (imageFramesOwn p (s.resumed 0x0201 p))) :=
  congrArg Host.Outcome.next (command_accepted h)

theorem exec_imageUnload (h : Accepted 0x0204 p (s.resumed 0x0204 p) (parCheck p [(20, 4)] true) (decide (par p 20 4 = 0))) :
    exec (.imageUnload p) s = .next (conclude 0x0204 p (imageUnloadOwn p (s.resumed 0x0204 p))) :=
  congrArg Host.Outcome.next (command_accepted h)

-- a load from its start (R202)

theorem imageLoadOwn_headFails {e : Refused} (h : loadHead s p (descOf (bufMem s p)) = .error e) :
    imageLoadOwn p s = .reply e.status e.detail e.loc.results (s.noteLoad e.ps e.status e.detail) := by
  simp only [imageLoadOwn, h]

section
variable {b : Memory} {k : Cart} (hhead : loadHead s p (descOf (bufMem s p)) = .ok (b, k))
  (htakes : ∀ x ∈ s.sourceStack (descOf (bufMem s p)), s.Takes x) (hread : s.readStage p (descOf (bufMem s p)) = ([], s))
include hhead htakes hread

theorem imageLoadOwn_checkFails {e : Refused} (h : loadCheck s p (descOf (bufMem s p)) = .error e) :
    imageLoadOwn p s = .reply e.status e.detail e.loc.results (s.noteLoad e.ps e.status e.detail) := by
  simp only [imageLoadOwn, hhead, awaken_takesAll htakes, readSource, hread, if_true, h]

theorem imageLoadOwn_passes {q : Plan} (h : loadCheck s p (descOf (bufMem s p)) = .ok q) :
    imageLoadOwn p s = awaken s (loadDomains q.img.parcels q.img.allots)
      fun t => loadFinish p (descOf (bufMem s p)) q (t.readStage p (descOf (bufMem s p))).2 := by
  simp only [imageLoadOwn, hhead, awaken_takesAll htakes, readSource, hread, if_true, h]

end

-- a load that its worker has begun (R202, R208)

section
variable {e : Entry} {w : Nat} {k : Claim} {d : Desc}

theorem loadResume_fault {f : Nat} (h : k.fault = some f) : loadResume p (e, w, k) s
    = .reply errDevice f Loc.none.results (((s.unclaimed (e, w, k)).endClaim k).noteLoad k.parcels errDevice f) := by
  simp only [loadResume, h, if_true]

variable (hdesc : k.desc = some d) (hfault : k.fault = none)
include hdesc hfault

theorem loadResume_badWord (h : (s.readStage p d).1 ≠ []) : loadResume p (e, w, k) s
    = .reply errDevice 0x2004 Loc.none.results ((((s.readStage p d).2.unclaimed (e, w, k)).endClaim { k with fault := some 0x2004 }).noteLoad
        k.parcels errDevice 0x2004) := by
  simp only [loadResume, hdesc, hfault, if_neg h, Option.getD_none]

variable (hread : s.readStage p d = ([], s))
include hread

section
variable (hphase : k.phase = .check)
include hphase

theorem loadResume_checkFails {r : Refused} (h : loadCheck (s.unclaimed (e, w, k)) p d true false = .error r) :
    loadResume p (e, w, k) s
      = .reply r.status r.detail r.loc.results ((s.unclaimed (e, w, k)).noteLoad k.parcels r.status r.detail) := by
  simp [loadResume, hdesc, hfault, hread, hphase, h]

theorem loadResume_checkPasses {q : Plan} (h : loadCheck (s.unclaimed (e, w, k)) p d true false = .ok q) :
    loadResume p (e, w, k) s = loadFinish p d q (s.unclaimed (e, w, k)) := by
  simp [loadResume, hdesc, hfault, hread, hphase, h]

end

section
variable (hphase : k.phase = .write)
include hphase

/-- In the write pass an image that no longer passes is one that changed. -/
theorem loadResume_writeFails {r : Refused} (h : loadCheck (s.unclaimed (e, w, k)) p d false false = .error r) :
    loadResume p (e, w, k) s = if r.status = errAuth then loadSpoil (s.unclaimed (e, w, k)) k errAuth 0x0621
      else loadSpoil (s.unclaimed (e, w, k)) k errTruncated 0x0613 := by
  simp only [loadResume, hdesc, hfault, hread, hphase, h, if_true, decide_true, Bool.not_true]
  split <;> rfl

theorem loadResume_writePasses {q : Plan} (h : loadCheck (s.unclaimed (e, w, k)) p d false false = .ok q) :
    loadResume p (e, w, k) s = if q.img.hdrCrc = k.hdrCrc then loadFinish p d q (s.unclaimed (e, w, k))
      else loadSpoil (s.unclaimed (e, w, k)) k errTruncated 0x0613 := by
  simp [loadResume, hdesc, hfault, hread, hphase, h]

end

end

-- a batch and an unload (R210, R214)

theorem tableCopyDone_done {g : Nat} (h : s.copying g = false) : tableCopyDone s g = s := if_pos h

section
variable {g : Nat} {i : Image} (himage : s.imageOfMask (maskList 32 (par p 20 4)) = some (g, i))
  (hown : s.ownCheck (p.session / 16) (maskList 32 (par p 20 4)) = none) (hwork : (maskList 32 (par p 20 4)).any s.inWork = false)
  (hlock : s.parcelLocked p.session (maskList 32 (par p 20 4)) = false)
include himage hown hwork hlock

theorem framesFront_image (hkey : 64 ≤ par p 24 1 ∨ s.keyLocked p.session (par p 24 1) = false) (hslot : slotMatches i (par p 24 1) = true) :
    framesFront p s = .ok (g, i) := by
  have hunlocked : ¬ (par p 24 1 < 64 ∧ s.keyLocked p.session (par p 24 1) = true) := by
    rintro ⟨hlt, hlocked⟩
    exact hkey.elim (fun h => by omega) (fun h => by simp [h] at hlocked)
  simp [framesFront, callerFn, himage, hown, hwork, hlock, hunlocked, hslot]

theorem unloadFront_image (harmed : (s.group g).state ≠ .armed) (hrun : (s.group g).state ≠ .running) : unloadFront p s = .ok (g, i) := by
  have hidle : (s.group g).busy = false := by simp [RunGroup.busy, harmed, hrun]
  simp [unloadFront, callerFn, himage, hown, hwork, hlock, hidle]

end

end

/-- Settles O32: each row by what it finds, each answer by its lemma; the end of a write pass is one for all loads. -/
theorem imageCommands : Obligations.ImageCommands := by
  unfold Obligations.ImageCommands
  intro s p ps finish d
  have hfinish (dk : Desc) (q : Plan) (t : State) : loadFinish p dk q t = finish dk q t := by
    simp only [loadFinish, State.fresh, finish]
    split <;> rfl
  refine ⟨?_, ?_, ?_, ?_⟩
  · intro hnew hacc
    rw [exec_imageLoad_new hnew hacc]
    refine ⟨fun e he => ?_, fun b k hhead htakes hread => ⟨fun e he => ?_, fun q hq => ⟨fun hawake => ?_, fun hasleep => ?_⟩⟩⟩
    · rw [imageLoadOwn_headFails he]
    · rw [imageLoadOwn_checkFails hhead htakes hread he]
    · rw [imageLoadOwn_passes hhead htakes hread hq, awaken_takesAll hawake, hread, hfinish]
    · obtain ⟨left, t, hleft, hpark⟩ := awaken_waits hasleep
      exact ⟨left, t, hleft, by rw [imageLoadOwn_passes hhead htakes hread hq, hpark]⟩
  · intro e w k dk hx hdesc t
    rw [exec_imageLoad_begun hx]
    refine ⟨fun f hf => ?_, fun hf hasleep => ?_, fun hf hawake hbad => ?_, fun hf hawake hread hphase => ?_, fun hf hawake hread hphase => ?_⟩
    · rw [if_neg (by simp [hf]), loadResume_fault hf]; rfl
    · rw [if_pos ⟨hf, hasleep⟩]
    · rw [if_neg (by simp [hawake]), loadResume_badWord hdesc hf hbad]; rfl
    · rw [if_neg (by simp [hawake])]
      cases hcheck : loadCheck t p dk true false with
      | error r => rw [loadResume_checkFails hdesc hf hread hphase hcheck]
      | ok q => rw [loadResume_checkPasses hdesc hf hread hphase hcheck, hfinish]
    · intro spoilt
      have hspoil (st dt : Nat) : loadSpoil t k st dt = spoilt st dt := by
        have hk : { k with phase := WorkPhase.write } = k := by rw [← hphase]
        simp only [loadSpoil, hk, spoilt]
        rfl
      rw [if_neg (by simp [hawake])]
      cases hcheck : loadCheck t p dk false false with
      | error r => rw [loadResume_writeFails hdesc hf hread hphase hcheck, hspoil, hspoil]; rfl
      | ok q => rw [loadResume_writePasses hdesc hf hread hphase hcheck, hspoil, hfinish]; rfl
  · intro g i t b himage hown hwork hlock hacc hkey hslot hcopy
    rw [exec_imageFrames hacc, imageFramesOwn, framesFront_image himage hown hwork hlock hkey hslot]
    dsimp only
    rw [tableCopyDone_done hcopy, tableCopyDone_done hcopy]
    cases hcheck : framesCheck t g i b p.len.toNat with
    | error f => rfl
    | ok w =>
      simp only [State.fresh]
      split <;> rfl
  · intro g i t himage hown hwork hlock hacc harmed hrun
    rw [exec_imageUnload hacc, imageUnloadOwn, unloadFront_image himage hown hwork hlock harmed hrun]
    rfl

end Sys2Proof.Machine
end

-- ==== Function resets: the boundary of a run group that does not exist ====
section
/-! REFUTATION. A run group is numbered as its lowest parcel, so its number lies below 32 (R116), and a row CYCLE_BOUNDARY with another one
names no unit of the part (log 76, `Instr.wf`): it answers the fault `noSuchUnit`, and no next state. The clause on the boundary that ends a
surrender speaks of every number `h` and of every state whose one run group has it, one whose group is 32 among them. Such a group is in no
state that a load has led to, but nothing in the statement excludes it: `State.Inv` bounds the keys of no table. -/
namespace Sys2Proof.Machine

/-- The row of the boundary of a run group that the part does not have. -/
theorem exec_cycleBoundary_noSuchUnit {g : Nat} (h : 32 ≤ g) (s : State) : exec (.cycleBoundary g) s = .fault .noSuchUnit := by
  rw [exec_cycleBoundary, groupRow, if_neg (by omega)]

/-- Function 1 owns parcel 0. Its image runs there as run group 32, is being surrendered, and stands at the end of its cycle. -/
def strayGroup : State :=
  { State.reset with
    parcels := [(0, { Parcel.init with owned := true, group := 1 })]
    groups := [(32, { RunGroup.init with parcels := [0], images := [strayImage], state := .running, surrender := true, n := 1, step := 1 })] }

/-- Refutes O27: in the state `strayGroup` the boundary of run group 32 is due, and its row answers a fault. -/
theorem not_functionResets : ¬ Obligations.FunctionResets := by
  unfold Obligations.FunctionResets
  intro h
  have hinv : strayGroup.Inv := by unfold State.Inv; decide +kernel
  obtain ⟨-, hboundary, -⟩ := h strayGroup 1 (by decide) (by decide) rfl hinv rfl (by decide +kernel)
  have howner : ∃ p ∈ (strayGroup.group 32).parcels, strayGroup.ownerOf p = some 1 := ⟨0, by decide +kernel, by decide +kernel⟩
  obtain ⟨t, ht, -⟩ := hboundary 32 (by decide +kernel) howner rfl rfl rfl (by decide) rfl (by decide +kernel) rfl rfl rfl (by decide +kernel)
  rw [exec_cycleBoundary_noSuchUnit le_rfl] at ht
  exact nomatch ht

end Sys2Proof.Machine
end

-- ==== Commits of staged pairs: the cap of a parcel, the datum pair and its FRAME edge ====
section
/-! PROOFS. REG_COMMIT of a parcel's cap and of the datum pair (R228, R285, R410, R465 to R468). Once a commit is admitted it has one answer by its
staged pair; at the FRAME edge the counter, carried below 2^96, leaves the epoch as it is (R276, R283). -/
namespace Sys2Proof.Machine

-- REG_COMMIT: the handle says whose pair it is (R410, R451)

section
variable {p : Packet} {s : State}

theorem exec_regCommit (h : Accepted 0x0112 p s (match parCheck p [(20, 4)] true with
      | some x => some x
      | none => if handleOk (par p 20 4) && decide (hOff (par p 20 4) = 0) && [0x10, 0x20, 0x38, 0x50].contains (hBlock (par p 20 4)) then none
        else some 0x12) false) :
    exec (.regCommit p) s = .next (conclude 0x0112 p (regCommitOwn p s)) :=
  congrArg Host.Outcome.next (command_accepted h)

theorem callerPf_of_lt (h : p.session < 16) : callerPf p = true := decide_eq_true (Nat.div_eq_of_lt h)

theorem hBlock_cap {i : Nat} (hi : i < 32) : hBlock (0x10 * 2 ^ 24 + i * 2 ^ 12) = 0x10 := by
  simp only [hBlock, bitsOf]; omega

theorem hInst_cap {i : Nat} (hi : i < 32) : hInst (0x10 * 2 ^ 24 + i * 2 ^ 12) = i := by
  simp only [hInst, bitsOf]; omega

variable (hpf : p.session < 16)
include hpf

theorem regCommitOwn_boot (h : s.phase = 0) : regCommitOwn p s = fail s errState 0x20 := by
  simp [regCommitOwn, callerPf_of_lt hpf, h]

theorem regCommitOwn_cap {i : Nat} (hphase : s.phase ≠ 0) (hh : par p 20 4 = 0x10 * 2 ^ 24 + i * 2 ^ 12) (hi : i < 32) :
    regCommitOwn p s = commitCap p s i := by
  simp only [regCommitOwn, callerPf_of_lt hpf, hphase, hh, hBlock_cap hi, hInst_cap hi, Bool.true_eq_false, if_false]

theorem regCommitOwn_datum (hphase : s.phase ≠ 0) (hh : par p 20 4 = 0x50 * 2 ^ 24) : regCommitOwn p s = commitDatum s := by
  simp [regCommitOwn, callerPf_of_lt hpf, hphase, hh, hBlock, bitsOf]

end

-- the parcel cap (R228)

/-- A parcel takes its staged cap as it is. -/
def State.takeCap (s : State) (i : Nat) : State :=
  s.updParcel i fun w => { w with capClass := (s.parcel i).stgClass, capW := (s.parcel i).stgW }

section
variable {p : Packet} {s : State} {i : Nat}

/-- Where the parcel is usable, not locked and bears no image, its staged pair alone decides. -/
theorem commitCap_admitted (hfailed : s.failed i = false) (hlock : s.parcelLocked p.session [i] = false) (hpair : s.boot.pairMode < 2)
    (hcls : s.loadedClass i = 0) {changed : Bool}
    (hchanged : (decide ((s.parcel i).stgClass ≠ (s.parcel i).capClass) || decide ((s.parcel i).stgW ≠ (s.parcel i).capW)) = changed) :
    commitCap p s i = if capOk (s.parcel i).stgClass (s.parcel i).stgW = false then committed (s.takeCap i) 0x10 i errMismatch (b2n changed)
      else if changed then committed (s.takeCap i) 0x10 i 0 1 else committed s 0x10 i okAlready 0 := by
  have hunpaired : s.paired = false := decide_eq_false (by omega)
  unfold commitCap
  extract_lets v ps reserved changes t
  have ht : t = s.takeCap i := by simp only [t, ps, hunpaired, Bool.false_eq_true, if_false]; rfl
  rw [checks_pass (by simp [hfailed, hlock, hcls]), ht, show changes = changed from hchanged]

end

-- the datum pair (R285)

section
variable {s : State}

theorem commitDatum_differs (hrole : s.datum.role < 2) (h : s.datum.stgTag ≠ s.datum.offTag) :
    commitDatum s = committed s 0x50 0 errMismatch 0 := by
  have hservo : s.datum.servo = false := decide_eq_false (by omega)
  simp [commitDatum, hservo, h]

theorem commitDatum_waits (hrole : s.datum.role < 2) (htag : s.datum.stgTag = s.datum.offTag) (hok : addendOk s.datum.stgAddend.toNat = true)
    (hnone : s.datum.apply = none) (hne : s.datum.stgAddend ≠ s.datum.addend) :
    commitDatum s = .park .datumEdge ((s.setDatum { s.datum with
      offset := 0, apply := some { addend := s.datum.stgAddend, tag := s.datum.stgTag, changes := [(s.datum.offset.toInt, false)] }
      }).noteCommit 0x50 0 0) := by
  have hservo : s.datum.servo = false := decide_eq_false (by omega)
  have hnext : s.datum.nextAddend = s.datum.addend := by rw [Datum.nextAddend, hnone]
  simp [commitDatum, hservo, htag, hok, hnext, hne, State.askDatum, State.setDatum, hnone]

-- the FRAME edge (R276, R283)

/-- The counter with its epoch, in units of 2^-32 du, below the carry into the epoch: its whole du. -/
theorem epoch_whole (e x : Nat) : ((e * 2 ^ 96 + x : Nat) : Int) / 2 ^ 32 = ((e * 2 ^ 64 + x / 2 ^ 32 : Nat) : Int) := by
  norm_cast
  omega

theorem ofInt_now (e x : Nat) : BitVec.ofInt 64 (((e * 2 ^ 96 + x : Nat) : Int) / 2 ^ 32) = BitVec.ofNat 64 (x / 2 ^ 32) := by
  rw [epoch_whole, BitVec.ofInt_natCast]
  exact BitVec.eq_of_toNat_eq (by simp only [BitVec.toNat_ofNat]; omega)

theorem ofInt_epoch (e : BitVec 32) {x : Nat} (hx : x < 2 ^ 96) :
    BitVec.ofInt 32 (((e.toNat * 2 ^ 96 + x : Nat) : Int) / 2 ^ 32 / 2 ^ 64) = e := by
  rw [epoch_whole, show ((e.toNat * 2 ^ 64 + x / 2 ^ 32 : Nat) : Int) / 2 ^ 64 = (e.toNat : Int) by norm_cast; omega, BitVec.ofInt_natCast,
    BitVec.ofNat_toNat, BitVec.setWidth_eq]

theorem toNat_frac (e x : Nat) : (((e * 2 ^ 96 + x : Nat) : Int) % 2 ^ 32).toNat = x % 2 ^ 32 := by omega

theorem moveOpp_frame (s : State) (o : Nat) : ∃ opp groups, s.moveOpp o = { s with opp := opp, groups := groups } := by
  unfold State.moveOpp
  split
  · exact ⟨_, _, rfl⟩
  · refine forEach_keep (P := fun t : State => ∃ opp groups, t = { s with opp := opp, groups := groups }) ?_ ⟨_, _, rfl⟩
    rintro g t ⟨opp, groups, rfl⟩
    exact ⟨_, _, rfl⟩

/-- A pair that carries no offset: the counter advances by the addend of the frame that ends, and the pair is active. -/
theorem datumEdge_pair {addend : BitVec 60} {tag : Nat} (h : s.datum.apply = some { addend := addend, tag := tag, changes := [(0, false)] })
    (hcarry : s.datum.now.toNat * 2 ^ 32 + s.datum.frac + s.datum.addend.toNat < 2 ^ 96)
    (hwait : (s.anyParked fun w => decide (w = .datumEdge)) = false) :
    datumEdge s = { s.moveOpp ((s.opp / 4 + 1) * 4) with
      thermal := { s.thermal with applied := s.thermal.demand }
      datum := { s.datum with
        now := BitVec.ofNat 64 ((s.datum.now.toNat * 2 ^ 32 + s.datum.frac + s.datum.addend.toNat) / 2 ^ 32)
        frac := (s.datum.now.toNat * 2 ^ 32 + s.datum.frac + s.datum.addend.toNat) % 2 ^ 32
        lastFine := s.datum.now.toNat * 2 ^ 32 + s.datum.frac, lastAddend := s.datum.addend
        addend := addend, tag := tag, apply := none } } := by
  obtain ⟨opp, groups, hmove⟩ := moveOpp_frame s ((s.opp / 4 + 1) * 4)
  have hthermal : (s.moveOpp ((s.opp / 4 + 1) * 4)).thermal = s.thermal := by rw [hmove]
  have hhub : (s.moveOpp ((s.opp / 4 + 1) * 4)).hub = s.hub := by rw [hmove]
  unfold datumEdge
  extract_lets d a v du s1 old s2 s3 new
  have ha : a = { addend := addend, tag := tag, changes := [(0, false)] } := by simp only [a, d, h, Option.getD_some]
  have hv : v = ((s.datum.epoch.toNat * 2 ^ 96 + (s.datum.now.toNat * 2 ^ 32 + s.datum.frac + s.datum.addend.toNat) : Nat) : Int) := by
    simp only [v, ha, List.foldl_cons, List.foldl_nil, Int.add_zero, Int.zero_mul, d, Datum.fine, Nat.add_assoc]
  have h3 : s3 = s2 := by simp [s3, ha, State.datumStepped]
  have hidle : (s3.anyParked fun w => decide (w = .datumEdge)) = false := (anyParked_of_hub (by rw [h3]; exact hhub) _).trans hwait
  rw [if_neg (ne_true_of_eq_false hidle), h3]
  simp only [s2, s1, old, new, hthermal, du, hv, ha, toNat_frac, ofInt_now, ofInt_epoch _ hcarry, d, Datum.fine]

theorem exec_datumPairApply_idle (h : s.clocked = false ∨ s.datum.apply = none) : exec .datumPairApply s = .next s := by
  have : (s.clocked && s.datum.apply.isSome) = false := by rcases h with h | h <;> simp [h]
  exact congrArg Host.Outcome.next (if_neg (ne_true_of_eq_false this))

theorem exec_datumPairApply_due {a : DatumApply} (hclock : s.clocked = true) (h : s.datum.apply = some a) :
    exec .datumPairApply s = .next (datumEdge s).settle := congrArg Host.Outcome.next (if_pos (by simp [hclock, h]))

end

/-- Settles O31: a commit by its handle and its staged pair, the pair at the edge by `datumEdge_pair`. -/
theorem pairCommits : Obligations.PairCommits := by
  unfold Obligations.PairCommits
  intro s p h d
  refine ⟨fun hacc hpf => ?_, fun hnone => exec_datumPairApply_idle (.inr hnone), fun addend tag happly => ⟨fun hstop => ?_,
    fun hclock hcarry hwait => ?_⟩⟩
  · rw [exec_regCommit hacc]
    refine ⟨fun h0 => by rw [regCommitOwn_boot hpf h0]; rfl, fun i hphase hh hi hfailed hlock hpair hcls => ?_, fun hphase hh hrole => ?_⟩
    · rw [regCommitOwn_cap hpf hphase hh hi]
      refine ⟨fun hok hne => ?_, fun hok hclass hw => ?_, fun hok hne => ?_⟩
      · rw [commitCap_admitted hfailed hlock hpair hcls (changed := true) (by simpa using hne), if_neg (by simp [hok])]; rfl
      · rw [commitCap_admitted hfailed hlock hpair hcls (changed := false) (by simp [hclass, hw]), if_neg (by simp [hok])]; rfl
      · rw [commitCap_admitted hfailed hlock hpair hcls (changed := true) (by simpa using hne), if_pos hok]; rfl
    · rw [regCommitOwn_datum hpf hphase hh]
      refine ⟨fun hne => by rw [commitDatum_differs hrole hne]; rfl, fun htag hok hnone hne => ?_⟩
      rw [commitDatum_waits hrole htag hok hnone hne]
  · exact exec_datumPairApply_idle (.inl hstop)
  · rw [exec_datumPairApply_due hclock happly, datumEdge_pair happly hcarry hwait]

end Sys2Proof.Machine
end

-- ==== Surveys: SURVEY and SURVEY_RESTORE ====
section
/-! PROOFS. Once the front of a SURVEY has passed, the length of its buffer and the state of its run group decide (R230, R231); once that of a
SURVEY_RESTORE has, the checks of R238 and then the second reading of the source decide (R237 to R239). -/
namespace Sys2Proof.Machine

section
variable {p : Packet} {s : State}

theorem exec_survey (h : Accepted 0x0400 p s (surveyBad p s)
      (decide (memNat (bufMem s p) 32 8 = 0) || decide (memNat (bufMem s p) 0 4 = 0))) :
    exec (.survey p) s = .next (conclude 0x0400 p (surveyOwn p s)) := congrArg Host.Outcome.next (command_accepted h)

theorem exec_surveyRestore (h : Accepted 0x0401 p (s.resumed 0x0401 p) (surveyRestoreBad p (s.resumed 0x0401 p))
      (surveyRestoreZero p (s.resumed 0x0401 p))) :
    exec (.surveyRestore p) s = .next (conclude 0x0401 p (surveyRestoreOwn p (s.resumed 0x0401 p))) :=
  congrArg Host.Outcome.next (command_accepted h)

end

-- SURVEY (R230, R231)

/-- What the descriptor of a SURVEY asks for, at a cycle. -/
def askedSurvey (p : Packet) (s : State) (at_ : Word) : SurveyReq :=
  { parcels := maskList 32 (memNat (bufMem s p) 0 4), stamp := 0, flags := memNat (bufMem s p) 4 1, atCycle := at_
    atTime := memWord (bufMem s p) 16, dest := memWord (bufMem s p) 24, length := memNat (bufMem s p) 32 8, taking := false }

/-- The length of the survey that the descriptor asks for: its header and its body. -/
def surveyNeed (p : Packet) (s : State) (g : Nat) (i : Image) : Nat := 256 + s.bodyLen g i (memNat (bufMem s p) 4 1)

section
variable {p : Packet} {s : State} {g : Nat} {i : Image}

/-- The answer of a survey without a cycle or a time whose front has passed. -/
theorem surveyOwn_now (himage : s.imageOfMask (maskList 32 (memNat (bufMem s p) 0 4)) = some (g, i))
    (hown : s.ownCheck (p.session / 16) (maskList 32 (memNat (bufMem s p) 0 4)) = none)
    (hlock : s.parcelLocked p.session (maskList 32 (memNat (bufMem s p) 0 4)) = false) (hslot : slotMatches i (memNat (bufMem s p) 5 1) = true)
    (hidle : ∀ q ∈ maskList 32 (memNat (bufMem s p) 0 4), s.inWork q = false ∧ (s.parcel q).svState = .idle)
    (harmed : (s.group g).state ≠ .armed) (hhalt : (s.group g).state ≠ .faultHalted) (hcycle : memNat (bufMem s p) 8 8 = 0)
    (htime : bitOf (memNat (bufMem s p) 4 1) 1 = false) :
    surveyOwn p s = if memNat (bufMem s p) 32 8 < surveyNeed p s g i then .reply errParam 0x0701 (resAt 24 (surveyNeed p s g i)) s
      else if (s.group g).state ≠ .running then
        .park (.survey g (listMask (maskList 32 (memNat (bufMem s p) 0 4)))) (s.beginCapture g (askedSurvey p s 0) s.datum.now)
      else .park (.survey g (listMask (maskList 32 (memNat (bufMem s p) 0 4)))) ((s.setSv i.parcels .pending).updGroup g fun v =>
        { v with surveys := v.surveys ++ [askedSurvey p s (s.group g).earliest] }) := by
  have hbusy : (maskList 32 (memNat (bufMem s p) 0 4)).any (fun q => s.inWork q || decide ((s.parcel q).svState ≠ .idle)) = false :=
    List.any_eq_false.mpr fun q hq => by simp [hidle q hq]
  have hat : memWord (bufMem s p) 8 = 0 := by rw [memWord, hcycle]; rfl
  simp only [surveyOwn, himage, callerFn, hown, hlock, hslot, hbusy, harmed, hhalt, hat, htime, ne_eq, not_true, decide_true, decide_false,
    Bool.false_eq_true, Bool.not_true, Bool.not_false, Bool.false_and, Bool.and_self, Bool.or_self, true_and, if_false, if_true]
  rfl

end

-- SURVEY_RESTORE (R237 to R239)

/-- The end of a restore whose checks pass: its write pass reads the source again, a free value (DESIGN CHOICE 90). -/
def restoreFinish (t : State) (g : Nat) (i : Image) (m : Memory) (items : BodyItems) (cycle : Word) : Ans :=
  match rereadFail (Config.freeValue t.freeCtr 2) i.keySlot.isSome 0x0713 0x0721 with
  | some (st, dt) => .reply st dt 0 (restoreSpoil { t with freeCtr := t.freeCtr + 1 } g i items)
  | none => done (restoreWrite { t with freeCtr := t.freeCtr + 1 } g i m items cycle) cycle.toNat

section
variable {p : Packet} {t : State} {g : Nat} {i : Image}

theorem restoreFront_image (himage : t.imageOfMask (maskList 32 (memNat (bufMem t p) 0 4)) = some (g, i))
    (hown : t.ownCheck (p.session / 16) (maskList 32 (memNat (bufMem t p) 0 4)) = none)
    (hlock : t.parcelLocked p.session (maskList 32 (memNat (bufMem t p) 0 4)) = false)
    (hwork : (maskList 32 (memNat (bufMem t p) 0 4)).any t.inWork = false) : restoreFront p t = .ok (g, i) := by
  simp only [restoreFront, callerFn, hown, hlock, hwork, himage, Bool.false_eq_true, if_false]

variable (hfront : restoreFront p t = .ok (g, i))
include hfront

theorem surveyRestoreOwn_fails {st dt : Nat}
    (h : restoreCheck t g i (memNat (bufMem t p) 4 1) (memNat (bufMem t p) 8 8) (memNat (bufMem t p) 16 8) = .error (st, dt)) :
    surveyRestoreOwn p t = fail t st dt := by
  simp only [surveyRestoreOwn, hfront, h]

/-- A restore with HBM contents writes into stacks that take packets; one without goes on at once (R362). -/
theorem surveyRestoreOwn_passes {m : Memory} {items : BodyItems} {cycle : Word} (htakes : ∀ a ∈ i.allots, t.Takes (.stack a.1))
    (h : restoreCheck t g i (memNat (bufMem t p) 4 1) (memNat (bufMem t p) 8 8) (memNat (bufMem t p) 16 8) = .ok (m, items, cycle)) :
    surveyRestoreOwn p t = restoreFinish t g i m items cycle := by
  have hawake : ∀ x ∈ (if items.hbm = 0 then [] else i.allots.map fun a => Domain.stack a.1), t.Takes x := by
    split
    · exact fun x hx => absurd hx List.not_mem_nil
    · exact List.forall_mem_map.mpr htakes
  simp only [surveyRestoreOwn, hfront, h, awaken_takesAll hawake]
  rfl

end

/-- Settles O37: a survey by its buffer and its run group, a restore by its checks and by what its write pass reads. -/
theorem surveyCommands : Obligations.SurveyCommands := by
  unfold Obligations.SurveyCommands
  intro s p g i d ps r
  refine ⟨fun himage hown hlock hacc hslot hidle harmed hhalt hcycle htime => ?_, ?_⟩
  · intro need q
    rw [exec_survey hacc, surveyOwn_now himage hown hlock hslot hidle harmed hhalt hcycle htime]
    refine ⟨fun (hshort : memNat (bufMem s p) 32 8 < surveyNeed p s g i) => ?_,
      fun (hfits : surveyNeed p s g i ≤ memNat (bufMem s p) 32 8) (hstop : (s.group g).state ≠ .running) => ?_,
      fun (hfits : surveyNeed p s g i ≤ memNat (bufMem s p) 32 8) (hrun : (s.group g).state = .running) hstep => ?_⟩
    · rw [if_pos hshort]; rfl
    · rw [if_neg (Nat.not_lt.mpr hfits), if_pos hstop]; rfl
    · have hnow : (s.group g).earliest = r.cycle := if_neg (Nat.ne_of_lt hstep)
      rw [if_neg (Nat.not_lt.mpr hfits), if_neg (not_not.mpr hrun), hnow]
      rfl
  · intro t d ps himage hown hlock hwork hacc htakes
    have hfront : restoreFront p t = .ok (g, i) := restoreFront_image himage hown hlock hwork
    rw [exec_surveyRestore hacc]
    cases hcheck : restoreCheck t g i (memNat d 4 1) (memNat d 8 8) (memNat d 16 8) with
    | error f => rw [surveyRestoreOwn_fails hfront hcheck]; rfl
    | ok x => rw [surveyRestoreOwn_passes hfront htakes hcheck]; rfl

end Sys2Proof.Machine
end

-- ==== Power domains: calls, the start of wakes and power-downs, and what the settling leaves ====
section
/-! PROOFS. A domain that is called, that starts to wake or to power down changes registers of the network and waits of commands, and no unit
(R361 to R363). A loop over domains is one relation from its first state to its last. Settling puts no unit to sleep and wakes none, whatever a
released HBM_PARTITION moves (R188). -/
namespace Sys2Proof.Machine

-- loops

/-- What the turn of `a` brings about, and every later turn keeps, holds of every `a` of the list after the loop. -/
theorem foldl_reaches {σ α : Type} {P : σ → Prop} {Q : α → σ → Prop} {f : σ → α → σ} (keep : ∀ s a, P s → P (f s a))
    (put : ∀ s a, P s → Q a (f s a)) (stay : ∀ s a b, Q b s → Q b (f s a)) {l : List α} {s : σ} (hs : P s) {a : α} (ha : a ∈ l) :
    Q a (l.foldl f s) := by
  induction l generalizing s with
  | nil => exact absurd ha List.not_mem_nil
  | cons b l ih =>
    rcases List.mem_cons.mp ha with rfl | ha
    · exact List.foldlRecOn (motive := Q a) l f (put s a hs) fun t ht c _ => stay t c a ht
    · exact ih (keep s b hs) ha

theorem bitOf_eq_testBit (m i : Nat) : bitOf m i = m.testBit i := (Nat.testBit_eq_decide_div_mod_eq ..).symm

theorem maskList_ne_nil {w m : Nat} (hm : m ≠ 0) (hlt : m < 2 ^ w) : maskList w m ≠ [] := by
  intro h
  refine hm (Nat.eq_of_testBit_eq fun i => ?_)
  rw [Nat.zero_testBit]
  by_cases hi : i < w
  · have hbit := List.filter_eq_nil_iff.mp h i (List.mem_range.mpr hi)
    rw [← bitOf_eq_testBit]
    exact Bool.eq_false_of_not_eq_true hbit
  · exact Nat.testBit_lt_two_pow (hlt.trans_le (Nat.pow_le_pow_right (by decide) (Nat.le_of_not_lt hi)))

-- settling

section
variable (s : State)

theorem settle_net : s.settle.net = s.net := by obtain ⟨_, _, _, _, _, _, _, _, _, _, e⟩ := settle_replying s; rw [e]
theorem settle_parcels : s.settle.parcels = s.parcels := by obtain ⟨_, _, _, _, _, _, _, _, _, _, e⟩ := settle_replying s; rw [e]
theorem settle_hbm : s.settle.hbm = s.hbm := by obtain ⟨_, _, _, _, _, _, _, _, _, _, e⟩ := settle_replying s; rw [e]
theorem settle_bank : s.settle.bank = s.bank := by obtain ⟨_, _, _, _, _, _, _, _, _, _, e⟩ := settle_replying s; rw [e]

theorem releaseOne_hbmStacks (i : Nat) (r : Reply) (notify : Bool) : (s.releaseOne i r notify).hbmStacks = s.hbmStacks := by
  have raised (u : State) (e : FaultEv) (extra : Option Nat) : (u.raise e extra).hbmStacks = u.hbmStacks := by
    obtain ⟨_, _, _, _, _, _, _, e⟩ := raise_faulting u e extra
    rw [e]
  have signalled (u : State) (j : Nat) : (u.signal j).hbmStacks = u.hbmStacks := by rw [State.signal, irq_frame]; rfl
  unfold State.releaseOne
  extract_lets t v tail u m w x
  split
  · split
    · rw [State.sessionError, signalled, raised]; rfl
    · split
      · rw [signalled]; rfl
      · rfl
  · rfl

end

/-- From `s` to `t` no stack goes to sleep or wakes. -/
def StacksStay (s t : State) : Prop := mwf Stack.init t.hbmStacks = true ∧ ∀ k, (t.stack k).asleep = (s.stack k).asleep

section
variable {s t u : State}

theorem StacksStay.elsewhere (h : StacksStay s t) (e : u.hbmStacks = t.hbmStacks) : StacksStay s u := by
  simpa only [StacksStay, State.stack, e] using h

theorem StacksStay.applyReleased (h : StacksStay s t) (e : Entry) (r : Reply) : StacksStay s (t.applyReleased e r) := by
  obtain ⟨hw, ha⟩ := h
  unfold State.applyReleased
  split
  · refine ⟨mwf_mset hw, fun k => ?_⟩
    rw [State.updStack_eq, State.stack_setStack _ _ _ _ hw, ← ha k]
    split <;> simp [*]
  · exact ⟨hw, ha⟩

theorem StacksStay.release (h : StacksStay s t) : StacksStay s t.release := by
  have pass (l : List Entry) : ∀ kept blocked u, StacksStay s u → StacksStay s (releaseLoop l kept blocked u) := by
    induction l with
    | nil => exact fun _ _ u h => h.elsewhere rfl
    | cons e l ih =>
      intro kept blocked u h
      unfold releaseLoop
      split
      · split_ifs
        · exact ih _ _ _ (h.applyReleased _ _)
        · exact ih _ _ _ ((h.elsewhere (releaseOne_hbmStacks u _ _ _)).applyReleased _ _)
        · exact ih _ _ _ h
      · exact ih _ _ _ h
  exact pass _ _ _ _ h

theorem StacksStay.settle (h : StacksStay s t) : StacksStay s t.settle := by
  unfold State.settle
  extract_lets v waiting w
  have hv : StacksStay s v := h.release
  split
  · exact hv
  · refine StacksStay.release (hv.elsewhere ?_)
    refine (forEach_keep (P := fun x : State => x.hbmStacks = v.hbmStacks) (fun i x hx => ?_) rfl : w.hbmStacks = v.hbmStacks)
    unfold State.settleSession
    split <;> exact hx

theorem settle_isAsleep (h : mwf Stack.init s.hbmStacks = true) (d : Domain) : s.settle.isAsleep d = s.isAsleep d := by
  obtain ⟨_, hstacks⟩ := StacksStay.settle (s := s) (t := s) ⟨h, fun _ => rfl⟩
  obtain ⟨_, _, _, _, _, _, _, _, _, _, e⟩ := settle_replying s
  cases d with
  | stack k => exact hstacks k
  | parcel i | quad i | trace i | bridge i => rw [e]; rfl

/-- The answer of the one command on the ready lists, whatever its status: its reply leaves with the settling (R376, R380). -/
theorem settle_replied {e : Entry} {r : Reply} (h : s.hub.entries = [e]) (hd : e.state = .done r) :
    s.Answered s.settle e.pkt.session r.status r.detail := by
  intro hreset hroom
  have hrel : s.release = ((s.releaseOne e.pkt.session r (isNotify e.pkt)).applyReleased e r).setEntries [] := by
    have hmay : s.mayRelease [] e = true := by
      have : ((s.sess e.pkt.session).ringed && (s.sess e.pkt.session).cqFull) = false := by
        cases hr : (s.sess e.pkt.session).ringed with
        | false => rfl
        | true => exact hroom hr
      simp [State.mayRelease, this]
    rw [State.release, h, releaseLoop, hd]
    dsimp only
    rw [if_neg hreset, if_pos hmay, releaseLoop]
  have happ (t : State) : (t.applyReleased e r).sent = t.sent ∧ (t.applyReleased e r).hostMem = t.hostMem := by
    unfold State.applyReleased
    split <;> exact ⟨rfl, rfl⟩
  have hset : s.settle.sent = s.release.sent ∧ s.settle.hostMem = s.release.hostMem := by
    rcases settle_cases s with he | ⟨u, f, hhub, hsent, hmem, -, he⟩ <;> rw [he]
    · exact ⟨rfl, rfl⟩
    · have hnil : u.hub.entries = [] := by rw [hhub, hrel]; rfl
      rw [finishParked_nil hnil]
      exact ⟨hsent, hmem⟩
  refine ⟨r, ?_, rfl, rfl, fun hen hwb hwf hok => ?_⟩
  · rw [hset.1, hrel]
    exact (congrArg Sent.replies (happ _).1).trans (releaseOne_replies s _ r _)
  · rw [hset.2, hrel]
    simp only [State.memoriesWf, Bool.and_eq_true] at hwf
    exact (congrArg (memBytes · _ 32) (happ _).2).trans (releaseOne_ring r _ (by simp [Session.ringed, hen]) hwb hwf.2 hok)

/-- An answer is one from every state with the same sessions and outputs whose memories are as well-formed. -/
theorem answered_from {i st d : Nat} (h : u.Answered t i st d) (hsess : u.sessions = s.sessions) (hsent : u.sent = s.sent)
    (hbad : u.hostBad = s.hostBad) (hmem : s.memoriesWf = true → u.memoriesWf = true) : s.Answered t i st d := by
  simp only [State.Answered, State.sess, State.hostFails, hsess, hsent, hbad] at h ⊢
  intro hreset hroom
  obtain ⟨r, hreplies, hstatus, hdetail, hring⟩ := h hreset hroom
  exact ⟨r, hreplies, hstatus, hdetail, fun hen hwb hwf => hring hen hwb (hmem hwf)⟩

end

-- calls (R362, R363)

section
variable (s : State) (d : Domain) (packet : Bool)

theorem isAsleep_of_units {t : State} (h : t.units = s.units) : t.isAsleep d = s.isAsleep d := by
  simp only [State.units, Prod.mk.injEq] at h
  obtain ⟨hparcels, hstacks, hquads, hengines, hbridges⟩ := h
  cases d <;> simp only [State.isAsleep, State.parcel, State.stack, State.quad, State.engine, State.bridge, *]

theorem tellPower_frame (sleeps completed : Bool) : ∃ hub, s.tellPower d sleeps completed = { s with hub := hub } := ⟨_, rfl⟩

theorem cancelDown_frame : ∃ hub, s.cancelDown d
    = { s with hub := hub, net := { (s.leaveDown d).net with cancelled := satAdd 16 s.net.cancelled 1 } } := by
  obtain ⟨hub, e⟩ := tellPower_frame ((s.leaveDown d).setNet { (s.leaveDown d).net with cancelled := satAdd 16 s.net.cancelled 1 }) d true false
  exact ⟨hub, e⟩

/-- A sleeping domain that may wake is waking once its wake is asked for (R362). -/
theorem startWake_wakes (ha : s.isAsleep d = true) (hlive : ∀ i, d = .parcel i → s.failed i = false) :
    d ∈ (s.startWake d packet).net.waking := by
  unfold State.startWake
  extract_lets dead t
  have hdead : dead = false := by
    cases d with
    | parcel i => exact hlive i rfl
    | stack k | quad k | trace k | bridge k => rfl
  by_cases hw : s.isWaking d = true
  · rw [if_neg (by simp [hw])]
    exact List.contains_iff_mem.mp hw
  · rw [if_pos (by simp [ha, hdead, hw])]
    exact List.mem_append_right _ (List.mem_singleton_self d)

end

/-- What calls of domains leave: only registers of the network and waits of commands change; no domain gets isolated or starts to power down,
what wakes goes on waking, and what starts to wake was asleep. -/
structure Called (s t : State) : Prop where
  frame : ∃ net hub, t = { s with net := net, hub := hub }
  isolated : ∀ x ∈ t.net.isolated, x ∈ s.net.isolated
  down : ∀ x ∈ t.net.down, x ∈ s.net.down
  waking : ∀ x ∈ s.net.waking, x ∈ t.net.waking
  woken : ∀ x ∈ t.net.waking, x ∈ s.net.waking ∨ s.isAsleep x = true

namespace Called
variable {s t u : State}

theorem refl : Called s s := ⟨⟨_, _, rfl⟩, fun _ h => h, fun _ h => h, fun _ h => h, fun _ h => .inl h⟩

theorem units (h : Called s t) : t.units = s.units := by obtain ⟨net, hub, rfl⟩ := h.frame; rfl

theorem isAsleep (h : Called s t) (d : Domain) : t.isAsleep d = s.isAsleep d := isAsleep_of_units s d h.units

theorem parcels (h : Called s t) : t.parcels = s.parcels := congrArg (·.1) h.units

theorem trans (h : Called s t) (k : Called t u) : Called s u where
  frame := by
    obtain ⟨_, _, rfl⟩ := h.frame
    obtain ⟨_, _, rfl⟩ := k.frame
    exact ⟨_, _, rfl⟩
  isolated x hx := h.isolated x (k.isolated x hx)
  down x hx := h.down x (k.down x hx)
  waking x hx := k.waking x (h.waking x hx)
  woken x hx := (k.woken x hx).elim (h.woken x) fun ha => .inr (h.isAsleep x ▸ ha)

theorem cancelDown (d : Domain) : Called s (s.cancelDown d) := by
  obtain ⟨hub, e⟩ := cancelDown_frame s d
  rw [e]
  exact ⟨⟨_, _, rfl⟩, fun x hx => (List.mem_filter.mp hx).1, fun x hx => (List.mem_filter.mp hx).1, fun _ h => h, fun _ h => .inl h⟩

theorem startWake (d : Domain) (packet : Bool) : Called s (s.startWake d packet) := by
  unfold State.startWake
  extract_lets dead t
  have counted : Called s t := by
    simp only [t]
    split <;> exact ⟨⟨_, _, rfl⟩, fun _ h => h, fun _ h => h, fun _ h => h, fun _ h => .inl h⟩
  split
  · next hstarts =>
    simp only [Bool.and_eq_true] at hstarts
    obtain ⟨⟨ha, -⟩, -⟩ := hstarts
    refine counted.trans ⟨⟨_, _, rfl⟩, fun _ h => h, fun _ h => h, fun x hx => List.mem_append_left _ hx, fun x hx => ?_⟩
    exact (List.mem_append.mp hx).imp_right fun hd => by rw [List.mem_singleton.mp hd, counted.isAsleep]; exact ha
  · exact refl

theorem callDomain (d : Domain) (packet : Bool) : Called s (s.callDomain d packet) := by
  unfold State.callDomain
  split
  · split
    · exact refl
    · exact ⟨⟨_, _, rfl⟩, fun _ h => h, fun _ h => h, fun _ h => h, fun _ h => .inl h⟩
  · split
    · exact cancelDown d
    · exact startWake d packet

theorem callDomains (ds : List Domain) (packet : Bool) : Called s (ds.foldl (fun t d => t.callDomain d packet) s) :=
  List.foldlRecOn (motive := Called s) ds _ refl fun _ ht d _ => ht.trans (callDomain d packet)

/-- A domain that takes something goes on taking it. -/
theorem unready_false (h : Called s t) {d : Domain} (hd : s.unready d = false) : t.unready d = false := by
  simp only [State.unready, State.isWaking, State.parcel, h.isAsleep, h.parcels, Bool.or_eq_false_iff, List.contains_eq_mem,
    decide_eq_false_iff_not] at hd ⊢
  obtain ⟨⟨⟨ha, hw⟩, hi⟩, hc⟩ := hd
  exact ⟨⟨⟨ha, fun hx => (h.woken d hx).elim hw (by simp [ha])⟩, fun hx => hi (h.isolated d hx)⟩, hc⟩

end Called

section
variable {s : State}

/-- A call ends a power-down that has not come to isolation (R363). -/
theorem callDomain_leaves {d : Domain} (packet : Bool) (hd : d ∉ s.net.isolated) : d ∉ (s.callDomain d packet).net.down := by
  unfold State.callDomain
  rw [if_neg (by simpa using hd)]
  split
  · obtain ⟨hub, e⟩ := cancelDown_frame s d
    rw [e]
    exact fun hx => by simpa using (List.mem_filter.mp hx).2
  · next hdown => exact fun hx => hdown (List.contains_iff_mem.mpr ((Called.startWake d packet).down d hx))

/-- A call wakes a sleeping domain (R362). -/
theorem callDomain_wakes {d : Domain} (packet : Bool) (ha : s.isAsleep d = true) (hlive : ∀ i, d = .parcel i → s.failed i = false)
    (hi : d ∉ s.net.isolated) (hd : d ∉ s.net.down) : d ∈ (s.callDomain d packet).net.waking := by
  unfold State.callDomain
  rw [if_neg (by simpa using hi), if_neg (by simpa [State.isDown] using hd)]
  exact startWake_wakes s d packet ha hlive

variable {ds : List Domain} {d : Domain} (packet : Bool)

theorem callDomains_leave (hd : d ∈ ds) (hi : d ∉ s.net.isolated) : d ∉ (ds.foldl (fun t d => t.callDomain d packet) s).net.down :=
  foldl_reaches (P := Called s) (Q := fun d t => d ∉ s.net.isolated → d ∉ t.net.down) (fun _ d h => h.trans (.callDomain d packet))
    (fun _ _ h hi => callDomain_leaves packet fun hx => hi (h.isolated _ hx)) (fun _ a _ h hi hx => h hi ((Called.callDomain a packet).down _ hx))
    .refl hd hi

theorem callDomains_wake (hd : d ∈ ds) (ha : s.isAsleep d = true) (hlive : ∀ i, d = .parcel i → s.failed i = false)
    (hi : d ∉ s.net.isolated) (hdown : d ∉ s.net.down) : d ∈ (ds.foldl (fun t d => t.callDomain d packet) s).net.waking :=
  foldl_reaches (P := Called s)
    (Q := fun d t => s.isAsleep d = true → (∀ i, d = .parcel i → s.failed i = false) → d ∉ s.net.isolated → d ∉ s.net.down →
      d ∈ t.net.waking)
    (fun _ d h => h.trans (.callDomain d packet))
    (fun t d h ha hlive hi hdown => callDomain_wakes packet ((h.isAsleep d).trans ha)
      (fun i e => by obtain ⟨_, _, rfl⟩ := h.frame; exact hlive i e) (fun hx => hi (h.isolated d hx)) fun hx => hdown (h.down d hx))
    (fun _ a _ h ha hlive hi hdown => (Called.callDomain a packet).waking _ (h ha hlive hi hdown)) .refl hd ha hlive hi hdown

end

-- the start of power-downs and wakes (R360 to R362)

section
variable {s : State} {d : Domain}

/-- The registers of the network once a power-down has begun: its routers drain. -/
def Net.starts (n : Net) (d : Domain) : Net :=
  { n with down := n.down ++ [d], draining := n.draining ++ (domainRouters d).map fun r => (d, r) }

theorem startDown_awake (ha : s.isAsleep d = false) (hd : d ∉ s.net.down) : s.startDown d = s.setNet (s.net.starts d) :=
  if_neg (by simp [ha, State.isDown, hd])

theorem startDown_frame (s : State) (d : Domain) : ∃ net, s.startDown d = { s with net := net } := by
  unfold State.startDown
  split <;> exact ⟨_, rfl⟩

theorem startDown_down (ha : s.isAsleep d = false) : d ∈ (s.startDown d).net.down := by
  by_cases hd : d ∈ s.net.down
  · rw [State.startDown, if_pos (by simp [State.isDown, hd])]; exact hd
  · rw [startDown_awake ha hd]; exact List.mem_append_right _ (List.mem_singleton_self d)

theorem startDown_keeps {x : Domain} (h : x ∈ s.net.down) (d : Domain) : x ∈ (s.startDown d).net.down := by
  unfold State.startDown
  split
  · exact h
  · exact List.mem_append_left _ h

theorem startDowns_frame (ds : List Domain) (s : State) : ∃ net, ds.foldl State.startDown s = { s with net := net } := by
  refine List.foldlRecOn (motive := fun t : State => ∃ net, t = { s with net := net }) ds _ ⟨_, rfl⟩ ?_
  rintro _ ⟨net, rfl⟩ d _
  exact startDown_frame _ d

/-- Power-downs of domains that are awake are all under way once they have been started. -/
theorem startDowns_down {ds : List Domain} (hd : d ∈ ds) (ha : s.isAsleep d = false) : d ∈ (ds.foldl State.startDown s).net.down :=
  foldl_reaches (P := fun t : State => ∃ net, t = { s with net := net }) (Q := fun d t => s.isAsleep d = false → d ∈ t.net.down)
    (by rintro _ d ⟨net, rfl⟩; exact startDown_frame _ d) (by rintro _ d ⟨net, rfl⟩ ha; exact startDown_down (s := { s with net := net }) ha)
    (fun _ d _ h ha => startDown_keeps (h ha) d) ⟨_, rfl⟩ hd ha

/-- Sleeping domains that may wake are all waking once their wakes have been started. -/
theorem startWakes_wake {ds : List Domain} (hd : d ∈ ds) (ha : s.isAsleep d = true) (hlive : ∀ i, d = .parcel i → s.failed i = false)
    (packet : Bool) : d ∈ (ds.foldl (fun t d => t.startWake d packet) s).net.waking :=
  foldl_reaches (P := Called s) (Q := fun d t => s.isAsleep d = true → (∀ i, d = .parcel i → s.failed i = false) → d ∈ t.net.waking)
    (fun _ d h => h.trans (.startWake d packet))
    (fun t d h ha hlive => startWake_wakes t d packet ((h.isAsleep d).trans ha) fun i e => by
      obtain ⟨_, _, rfl⟩ := h.frame; exact hlive i e)
    (fun _ a _ h ha hlive => (Called.startWake a packet).waking _ (h ha hlive)) .refl hd ha hlive

end

end Sys2Proof.Machine
end

-- ==== Power domains: POWER_SET, the rows of domains, and the drains of routers ====
section
/-! PROOFS. Each row of a domain or a router has one answer by what it finds: a power-down begins, waits, is cancelled, completes or is abandoned; a
wake ends (R229, R360 to R366). What a supply that is removed or back changes is one equation for each kind of domain. -/
namespace Sys2Proof.Machine

-- POWER_SET (R365)

/-- What a parameter check that passes says of its condition. -/
theorem ok_of_parCheck {p : Packet} {used : List (Nat × Nat)} {ok : Bool} (h : parCheck p used ok = none) : ok = true := by
  unfold parCheck at h
  split at h
  · next hok => exact (Bool.and_eq_true_iff.mp hok).2
  · cases h

theorem powerUnit_live (s : State) (kind u : Nat) : ∀ i, powerUnit kind u = .parcel i → s.failed i = false := by
  unfold powerUnit
  split <;> exact fun i e => nomatch e

/-- The units that a POWER_SET names. -/
def powerUnits (p : Packet) : List Nat := maskList 36 (par p 24 8)

/-- The domains of these units. -/
def powerSetDomains (p : Packet) : List Domain := (powerUnits p).map (powerUnit (par p 20 1))

section
variable {p : Packet} {s : State}

theorem exec_powerSet (h : Accepted 0x0C20 p s (parCheck p [(20, 1), (21, 1), (24, 8)]
      (decide (par p 20 1 < 2) && decide (par p 21 1 < 2) && decide (par p 24 8 < if par p 20 1 = 0 then 16 else 2 ^ 36)))
      (decide (par p 24 8 = 0))) : exec (.powerSet p) s = .next (conclude 0x0C20 p (powerSetOwn p s)) :=
  congrArg Host.Outcome.next (command_accepted h)

theorem powerUnits_ne_nil (h : Accepted 0x0C20 p s (parCheck p [(20, 1), (21, 1), (24, 8)]
      (decide (par p 20 1 < 2) && decide (par p 21 1 < 2) && decide (par p 24 8 < if par p 20 1 = 0 then 16 else 2 ^ 36)))
      (decide (par p 24 8 = 0))) : powerUnits p ≠ [] := by
  obtain ⟨-, -, -, hbad, hzero, -⟩ := h
  have hlt := ok_of_parCheck hbad
  simp only [Bool.and_eq_true, decide_eq_true_eq] at hlt
  refine maskList_ne_nil (of_decide_eq_false hzero) (hlt.2.trans_le ?_)
  split <;> decide

variable (hpf : p.session < 16) (hlocks : par p 20 1 = 1 → ∀ q ∈ powerUnits p, s.quadLocked p.session q = false)
include hpf hlocks

/-- A POWER_SET of a caller that owns what it names has two checks left. -/
theorem powerSetOwn_owned : powerSetOwn p s = (
    let wake := decide (par p 21 1 = 1)
    let change := (powerUnits p).filter fun i => s.isAsleep (powerUnit (par p 20 1) i) = wake
    checks s [(!wake && (powerUnits p).any fun i => if par p 20 1 = 0 then s.keepsStack i else s.keepsQuad i, errState, 0),
        (wake && change.isEmpty, okAlready, 0)]
      (if change = [] then done s 1
       else .park (.power (par p 20 1) (listMask change) wake true)
         (change.foldl (fun u i => if wake then u.startWake (powerUnit (par p 20 1) i) false else u.startDown (powerUnit (par p 20 1) i)) s))) := by
  have hunlocked : (decide (par p 20 1 = 1) && (powerUnits p).any fun q => s.quadLocked p.session q) = false := by
    by_cases hkind : par p 20 1 = 1
    · rw [Bool.and_eq_false_iff]
      exact .inr (List.any_eq_false.mpr fun q hq => ne_true_of_eq_false (hlocks hkind q hq))
    · simp [hkind]
  change checks s [(!callerPf p, _, _), (decide (par p 20 1 = 1) && (powerUnits p).any fun q => s.quadLocked p.session q, _, _), _, _] _ = _
  rw [callerPf_of_lt hpf, hunlocked]
  rfl

section
variable (hsleep : par p 21 1 = 0) (hkeeps : ∀ i ∈ powerUnits p, if par p 20 1 = 0 then s.keepsStack i = false else s.keepsQuad i = false)
include hsleep hkeeps

/-- A sleep that nothing forbids acts on the units that are awake; where none is, it is done. -/
theorem powerSetOwn_sleep : powerSetOwn p s = (
    let change := (powerUnits p).filter fun i => s.isAsleep (powerUnit (par p 20 1) i) = false
    if change = [] then done s 1
    else .park (.power (par p 20 1) (listMask change) false true) (change.foldl (fun u i => u.startDown (powerUnit (par p 20 1) i)) s)) := by
  have hpass : ((powerUnits p).any fun i => if par p 20 1 = 0 then s.keepsStack i else s.keepsQuad i) = false :=
    List.any_eq_false.mpr fun i hi => by have := hkeeps i hi; split at this <;> simp [*]
  have hwake : decide (par p 21 1 = 1) = false := decide_eq_false (by omega)
  rw [powerSetOwn_owned hpf hlocks, hwake, hpass]
  rfl

theorem powerSetOwn_sleep_awake (hne : powerUnits p ≠ []) (hawake : ∀ i ∈ powerUnits p, s.isAsleep (powerUnit (par p 20 1) i) = false) :
    powerSetOwn p s = .park (.power (par p 20 1) (listMask (powerUnits p)) false true) ((powerSetDomains p).foldl State.startDown s) := by
  rw [powerSetOwn_sleep hpf hlocks hsleep hkeeps, List.filter_eq_self.mpr fun i hi => decide_eq_true (hawake i hi), powerSetDomains, List.foldl_map]
  exact if_neg hne

theorem powerSetOwn_sleep_asleep (hasleep : ∀ i ∈ powerUnits p, s.isAsleep (powerUnit (par p 20 1) i) = true) :
    powerSetOwn p s = done s 1 := by
  rw [powerSetOwn_sleep hpf hlocks hsleep hkeeps, List.filter_eq_nil_iff.mpr fun i hi => by simp [hasleep i hi]]
  exact if_pos rfl

end

section
variable (hwake : par p 21 1 = 1)
include hwake

/-- A wake acts on the units that sleep; where none does, they are awake already. -/
theorem powerSetOwn_wake : powerSetOwn p s = (
    let change := (powerUnits p).filter fun i => s.isAsleep (powerUnit (par p 20 1) i) = true
    if change = [] then fail s okAlready
    else .park (.power (par p 20 1) (listMask change) true true)
      (change.foldl (fun u i => u.startWake (powerUnit (par p 20 1) i) false) s)) := by
  rw [powerSetOwn_owned hpf hlocks, decide_eq_true hwake]
  dsimp only
  cases (powerUnits p).filter fun i => s.isAsleep (powerUnit (par p 20 1) i) = true <;> rfl

theorem powerSetOwn_wake_asleep (hne : powerUnits p ≠ []) (hasleep : ∀ i ∈ powerUnits p, s.isAsleep (powerUnit (par p 20 1) i) = true) :
    powerSetOwn p s = .park (.power (par p 20 1) (listMask (powerUnits p)) true true)
      ((powerSetDomains p).foldl (fun t d => t.startWake d false) s) := by
  rw [powerSetOwn_wake hpf hlocks hwake, List.filter_eq_self.mpr fun i hi => decide_eq_true (hasleep i hi), powerSetDomains, List.foldl_map]
  exact if_neg hne

theorem powerSetOwn_wake_awake (hawake : ∀ i ∈ powerUnits p, s.isAsleep (powerUnit (par p 20 1) i) = false) :
    powerSetOwn p s = fail s okAlready := by
  rw [powerSetOwn_wake hpf hlocks hwake, List.filter_eq_nil_iff.mpr fun i hi => by simp [hawake i hi]]
  rfl

end

end

-- the supply of a domain (R229, R361)

/-- The tables of the units that have a supply of their own are as the model keeps them. -/
structure UnitsWf (s : State) : Prop where
  parcels : mwf Parcel.init s.parcels = true
  hbm : mwf Stack.init s.hbmStacks = true
  quads : mwf Quad.init s.quads = true
  engines : mwf Engine.init s.engines = true
  bridges : mwf Bridge.init s.bridges = true

theorem UnitsWf.of_units {s t : State} (h : UnitsWf s) (e : t.units = s.units) : UnitsWf t := by
  simp only [State.units, Prod.mk.injEq] at e
  obtain ⟨hparcels, hstacks, hquads, hengines, hbridges⟩ := e
  exact ⟨hparcels ▸ h.parcels, hstacks ▸ h.hbm, hquads ▸ h.quads, hengines ▸ h.engines, hbridges ▸ h.bridges⟩

section
variable (s : State)

theorem endEpisode_frame (u code : Nat) : ∃ faults, s.endEpisode u code = { s with faults := faults } := by
  unfold State.endEpisode
  split <;> exact ⟨_, rfl⟩

theorem endDown_frame (q : Nat) : ∃ faults, s.endDown q = { s with faults := faults } := by
  unfold State.endDown
  split
  · exact ⟨_, rfl⟩
  · exact endEpisode_frame s _ _

theorem endTrain_frame : ∃ hub, s.endTrain = { s with hub := hub } := ⟨s.endTrain.hub, rfl⟩

theorem updLanes_frame (ls : List Nat) (f : Lane → Lane) : ∃ lanes, forEach ls (fun l t => t.updLane l f) s = { s with lanes := lanes } :=
  forEach_updLane ls id (fun _ => f) s

theorem sendCtrl_frame (l : Nat) (ms : List CtrlMsg) : ∃ lanes sent, s.sendCtrl l ms = { s with lanes := lanes, sent := sent } :=
  ⟨(s.sendCtrl l ms).lanes, (s.sendCtrl l ms).sent, rfl⟩

/-- The lanes that still carry traffic announce that they fall silent (R319). -/
theorem announceSleep_frame (ls : List Nat) : ∃ lanes sent,
    forEach ls (fun l t => if (t.lane l).linked then t.sendCtrl l [.sleep] else t) s = { s with lanes := lanes, sent := sent } := by
  refine forEach_keep (P := fun t => ∃ lanes sent, t = { s with lanes := lanes, sent := sent }) ?_ ⟨s.lanes, s.sent, rfl⟩
  rintro l _ ⟨lanes, sent, rfl⟩
  split
  · exact sendCtrl_frame _ l _
  · exact ⟨_, _, rfl⟩

/-- A quad whose supply is removed loses what its lanes hold, and no more of the units. -/
theorem powerOff_quad (q : Nat) : ∃ lanes hub faults sent, s.powerOff (.quad q)
    = { s.setQuad q { s.quad q with awake := false } with lanes := lanes, hub := hub, faults := faults, sent := sent } := by
  unfold State.powerOff
  dsimp only
  obtain ⟨_, _, hsleep⟩ := announceSleep_frame s (quadLanes q)
  rw [hsleep]
  rw [(updLanes_frame _ (quadLanes q) _).choose_spec]
  obtain ⟨_, hdown⟩ := endDown_frame _ q
  rw [hdown]
  exact ⟨_, _, _, _, rfl⟩

theorem powerOff_keeps (d : Domain) : (s.powerOff d).net = s.net ∧ (s.powerOff d).hbm = s.hbm := by
  cases d with
  | quad q =>
    obtain ⟨_, _, _, _, e⟩ := powerOff_quad s q
    rw [e]
    exact ⟨rfl, rfl⟩
  | parcel i | stack i | trace i | bridge i => exact ⟨rfl, rfl⟩

theorem powerOff_asleep (h : UnitsWf s) (d : Domain) : (s.powerOff d).isAsleep d = true := by
  cases d with
  | parcel i => exact congrArg Parcel.asleep (State.parcel_setParcel_same (s.clearClusters (parcelClusters i)) i _ h.parcels)
  | stack k => exact congrArg Stack.asleep (State.stack_setStack_same s k _ h.hbm)
  | quad q =>
    obtain ⟨_, _, _, _, e⟩ := powerOff_quad s q
    rw [e]
    exact congrArg (fun v : Quad => !v.awake) (State.quad_setQuad_same s q _ h.quads)
  | trace e => exact congrArg (fun v : Engine => !v.awake) (State.engine_setEngine_same s e _ h.engines)
  | bridge b => exact congrArg (fun v : Bridge => !v.awake) (State.bridge_setBridge_same s b _ h.bridges)

theorem powerOff_stacks (h : mwf Stack.init s.hbmStacks = true) (d : Domain) : mwf Stack.init (s.powerOff d).hbmStacks = true := by
  cases d with
  | stack k => exact mwf_mset h
  | quad q =>
    obtain ⟨_, _, _, _, e⟩ := powerOff_quad s q
    rw [e]
    exact h
  | parcel i | trace i | bridge i => exact h

theorem leaveDown_left (d : Domain) : d ∉ (s.leaveDown d).net.down := fun hx => by simpa using (List.mem_filter.mp hx).2

/-- A power-down that no packet waits for ends with the domain asleep, and the stacks keep their data (R363). -/
theorem completeDown_sleeps (h : UnitsWf s) {d : Domain} (hw : s.packetWaits d = false) :
    (s.completeDown d).settle.isAsleep d = true ∧ d ∉ (s.completeDown d).settle.net.down ∧ (s.completeDown d).settle.hbm = s.hbm := by
  obtain ⟨_, htell⟩ := tellPower_frame ((s.leaveDown d).powerOff d) d true true
  obtain ⟨hnet, hhbm⟩ := powerOff_keeps (s.leaveDown d) d
  have hdone : s.completeDown d = _ := (if_neg (ne_true_of_eq_false hw)).trans htell
  rw [settle_net, settle_hbm, settle_isAsleep (by rw [hdone]; exact powerOff_stacks (s.leaveDown d) h.hbm d), hdone]
  exact ⟨(isAsleep_of_units _ d rfl).trans (powerOff_asleep (s.leaveDown d) (h.of_units rfl) d),
    fun hx => leaveDown_left s d (hnet ▸ hx), hhbm⟩

end

-- the rows of power-downs (R360 to R364)

section
variable {s : State} {d : Domain} {k : Nat}

theorem exec_domainPowerDown (hd : domainOk d = true) (early : Bool) :
    exec (.domainPowerDown d early) s = .next (powerDown s d early).settle := if_pos hd

theorem exec_hbmSelfRefreshEntry (hk : k < 4) : exec (.hbmSelfRefreshEntry k) s = .next (enterRefresh s k).settle :=
  if_pos (decide_eq_true hk)

/-- Which domains sleep by their rule is nothing of the network's. -/
theorem autoSleeps_of_setNet (n : Net) : (s.setNet n).autoSleeps d = s.autoSleeps d := by cases d <;> rfl

/-- An abandoned power-down whose rule still applies begins anew (R360). -/
theorem exec_powerDownRetry (hd : domainOk d = true) (hr : d ∈ s.net.retry) (ha : s.isAsleep d = false) (hdown : d ∉ s.net.down)
    (hauto : s.autoSleeps d = true) : exec (.powerDownRetry d) s
      = .next (s.setNet (Net.starts { s.net with retry := s.net.retry.filter fun x => decide (x ≠ d) } d)).settle := by
  refine (if_pos hd).trans (congrArg (fun t : State => Host.Outcome.next t.settle) ?_)
  refine (if_pos (List.contains_iff_mem.mpr hr)).trans ?_
  exact (if_pos ((autoSleeps_of_setNet _).trans hauto)).trans (startDown_awake ((isAsleep_of_units s d rfl).trans ha) hdown)

/-- No packet waits for a domain that none calls and none is held for. -/
theorem packetWaits_false (hc : d ∉ s.net.called) (hh : ∀ k ∈ s.net.held, (nodeOf k.dst).bind Node.domain ≠ some d) :
    s.packetWaits d = false := by
  simpa [State.packetWaits, hc] using hh

/-- A power-down that has been cancelled leaves the domain awake with its content (R363). -/
theorem cancelDown_settled (hw : mwf Stack.init s.hbmStacks = true) (d : Domain) :
    (s.cancelDown d).settle.isAsleep d = s.isAsleep d ∧ d ∉ (s.cancelDown d).settle.net.down
      ∧ (s.cancelDown d).settle.net.cancelled = satAdd 16 s.net.cancelled 1 ∧ (s.cancelDown d).settle.bank = s.bank := by
  obtain ⟨_, e⟩ := cancelDown_frame s d
  rw [settle_net, settle_bank, settle_isAsleep (by rw [e]; exact hw), e]
  exact ⟨isAsleep_of_units s d rfl, leaveDown_left s d, rfl, rfl⟩

variable (ha : s.isAsleep d = false) (hw : d ∉ s.net.waking) (early : Bool)
include ha hw

theorem powerDown_under_way (hd : d ∈ s.net.down) : powerDown s d early
    = if s.staysUp d || (early && !s.net.isolated.contains d) then s.cancelDown d
      else if s.net.isolated.contains d then s.completeDown d else s := by
  simp [powerDown, ha, hw, hd, State.isWaking, State.isDown]

theorem powerDown_begins (hd : d ∉ s.net.down) (hauto : s.autoSleeps d = true) (hfailed : ∀ i, d = .parcel i → s.failed i = true)
    (hstack : ∀ k, d ≠ .stack k) : powerDown s d early = s.setNet (s.net.starts d) := by
  have hrow : powerDown s d early = s.startDown d := by
    simp only [powerDown, ha, hauto, State.isWaking, State.isDown, List.contains_eq_mem, hw, hd]
    cases d with
    | parcel i => simp [hfailed i rfl]
    | stack k => exact absurd rfl (hstack k)
    | quad q | trace e | bridge b => simp
  rw [hrow, startDown_awake ha hd]

end

section
variable {s : State} {k : Nat}

theorem enterRefresh_kept (h : s.keepsStack k = true) : enterRefresh s k = s := by simp [enterRefresh, h]

theorem enterRefresh_untrained (h : (s.stack k).trained = false) (h3 : (s.stack k).s3Trained = false) : enterRefresh s k = s := by
  simp [enterRefresh, h, h3]

theorem enterRefresh_may (hkeep : s.keepsStack k = false) (hw : Domain.stack k ∉ s.net.waking) (ha : (s.stack k).asleep = false)
    (ht : (s.stack k).trained = true) : enterRefresh s k
      = if s.net.isolated.contains (.stack k) then s.completeDown (.stack k) else s.startDown (.stack k) := by
  simp [enterRefresh, hkeep, hw, ha, ht, State.isWaking]

end

-- wakes (R362)

section
variable (s : State)

/-- A bridge that is linked anew changes the state of its link and the frame that arrives, and may end an episode. -/
theorem relink_frame (b : Nat) : ∃ link arriving faults, s.relink b = s
    ∨ s.relink b = { s.setBridge b { s.bridge b with link := link, arriving := arriving } with faults := faults } := by
  have quiet (t : State) : ∃ faults, (if t.isLive (72 + b) 0x7002 then t.endEpisode (72 + b) 0x7002 else t) = { t with faults := faults } := by
    split
    · exact endEpisode_frame t _ _
    · exact ⟨_, rfl⟩
  unfold State.relink
  dsimp only
  split
  · obtain ⟨faults, e⟩ := quiet (s.setBridge b { s.bridge b with link := .unconfigured })
    exact ⟨_, _, faults, .inr e⟩
  · split
    · obtain ⟨faults, e⟩ := quiet (s.setBridge b { s.bridge b with link := .held, arriving := none })
      exact ⟨_, _, faults, .inr e⟩
    · split
      · exact ⟨_, _, s.faults, .inr rfl⟩
      · exact ⟨_, _, s.faults, .inr rfl⟩
      · exact ⟨.held, none, s.faults, .inl rfl⟩

theorem relink_net (b : Nat) : (s.relink b).net = s.net := by
  obtain ⟨_, _, _, e | e⟩ := relink_frame s b <;> exact (congrArg State.net e).trans rfl

theorem relink_hbmStacks (b : Nat) : (s.relink b).hbmStacks = s.hbmStacks := by
  obtain ⟨_, _, _, e | e⟩ := relink_frame s b <;> exact (congrArg State.hbmStacks e).trans rfl

theorem relink_awake (h : mwf Bridge.init s.bridges = true) (b : Nat) : ((s.relink b).bridge b).awake = (s.bridge b).awake := by
  obtain ⟨link, arriving, _, e | e⟩ := relink_frame s b
  · rw [e]
  · rw [e]
    exact (congrArg Bridge.awake (State.bridge_setBridge_same s b { s.bridge b with link := link, arriving := arriving } h)).trans rfl

/-- A quad that wakes is awake; its lanes leave their idle state, and no more of the units changes. -/
theorem wakeQuad_frame (q : Nat) : ∃ lanes, s.wakeQuad q = s ∧ (s.quad q).awake = true
    ∨ s.wakeQuad q = { s.setQuad q { s.quad q with awake := true } with lanes := lanes } := by
  unfold State.wakeQuad
  split
  · next h => exact ⟨s.lanes, .inl ⟨rfl, h⟩⟩
  · suffices ∃ lanes, _ = { s.setQuad q { s.quad q with awake := true } with lanes := lanes } from this.imp fun _ => .inr
    refine forEach_keep (P := fun t => ∃ lanes, t = { s.setQuad q { s.quad q with awake := true } with lanes := lanes }) ?_ ⟨s.lanes, rfl⟩
    rintro l _ ⟨lanes, rfl⟩
    exact ⟨_, rfl⟩

/-- The supply that comes back touches no register of the network. -/
theorem powerOn_net (d : Domain) : (s.powerOn d).net = s.net := by
  cases d with
  | quad q => obtain ⟨_, ⟨e, -⟩ | e⟩ := wakeQuad_frame s q <;> exact (congrArg State.net e).trans rfl
  | bridge b => exact relink_net _ b
  | parcel i | stack k | trace e => rfl

theorem powerOn_stacks (h : mwf Stack.init s.hbmStacks = true) (d : Domain) : mwf Stack.init (s.powerOn d).hbmStacks = true := by
  cases d with
  | quad q => obtain ⟨_, ⟨e, -⟩ | e⟩ := wakeQuad_frame s q <;> exact (congrArg State.hbmStacks e).symm ▸ h
  | bridge b => exact (relink_hbmStacks _ b).symm ▸ h
  | stack k => exact mwf_mset h
  | parcel i | trace e => exact h

theorem powerOn_awake (h : UnitsWf s) (d : Domain) : (s.powerOn d).isAsleep d = false := by
  cases d with
  | parcel i => exact congrArg Parcel.asleep (State.parcel_setParcel_same s i _ h.parcels)
  | stack k => exact congrArg Stack.asleep (State.stack_setStack_same s k _ h.hbm)
  | quad q =>
    obtain ⟨_, ⟨e, ha⟩ | e⟩ := wakeQuad_frame s q
    · exact (congrArg (State.isAsleep · (.quad q)) e).trans (by simp [State.isAsleep, ha])
    · refine (congrArg (State.isAsleep · (.quad q)) e).trans ?_
      exact congrArg (fun v : Quad => !v.awake) (State.quad_setQuad_same s q _ h.quads)
  | trace e => exact congrArg (fun v : Engine => !v.awake) (State.engine_setEngine_same s e _ h.engines)
  | bridge b =>
    have hawake : ((s.updBridge b fun v => { v with awake := true }).bridge b).awake = true :=
      congrArg Bridge.awake (State.bridge_setBridge_same s b { s.bridge b with awake := true } h.bridges)
    exact (congrArg not ((relink_awake _ (mwf_mset h.bridges) b).trans hawake)).trans rfl

theorem powerOn_clearing (h : mwf Parcel.init s.parcels = true) (i : Nat) : ((s.powerOn (.parcel i)).parcel i).clearing = true :=
  congrArg Parcel.clearing (State.parcel_setParcel_same s i _ h)

theorem deliverHeld_none (h : s.net.held = []) (d : Domain) : s.deliverHeld d = s := by
  have hnet : s.setNet { s.net with held := [] } = s := by rw [← h]; rfl
  simp only [State.deliverHeld, h, List.filter_nil, List.foldl_nil, hnet]

/-- The wake of a domain is no longer under way. -/
def State.leaveWaking (d : Domain) : State := s.setNet { s.net with waking := s.net.waking.filter fun x => decide (x ≠ d) }

/-- What a wake that ends does once the supply is back: packets that were held are delivered, and commands that waited go on. -/
def State.wakeEnds (d : Domain) : State :=
  let u := (s.deliverHeld d).tellPower d false true
  let v := if u.unready d then u else u.tellReady d
  if eastReplicas.any v.unready then v else v.endWaits 0 0 fun w => decide (w = .pairWake)

theorem wakeDone_eq {d : Domain} (hw : d ∈ s.net.waking) : wakeDone s d = ((s.leaveWaking d).powerOn d).wakeEnds d :=
  if_neg (by simpa [State.isWaking] using hw)

theorem wakeEnds_frame (hh : s.net.held = []) (d : Domain) : ∃ hub, s.wakeEnds d = { s with hub := hub } := by
  unfold State.wakeEnds
  rw [deliverHeld_none s hh]
  extract_lets u v
  obtain ⟨hub, e⟩ : ∃ hub, v = { s with hub := hub } := by
    simp only [v]
    split <;> exact ⟨_, rfl⟩
  rw [e]
  split <;> exact ⟨_, rfl⟩

/-- A wake that ends with no packet held gives the supply back, and commands that wait go on. -/
theorem wakeDone_frame {s : State} {d : Domain} (hw : d ∈ s.net.waking) (hh : s.net.held = []) :
    ∃ hub, wakeDone s d = { (s.leaveWaking d).powerOn d with hub := hub } := by
  rw [wakeDone_eq s hw]
  exact wakeEnds_frame _ ((congrArg Net.held (powerOn_net (s.leaveWaking d) d)).trans hh) d

/-- A wake that ends leaves the domain awake; a parcel still has to clear (R229, R362). -/
theorem wakeDone_settled {s : State} {d : Domain} (h : UnitsWf s) (hw : d ∈ s.net.waking) (hh : s.net.held = []) :
    (wakeDone s d).settle.isAsleep d = false ∧ d ∉ (wakeDone s d).settle.net.waking
      ∧ ∀ i, d = .parcel i → ((wakeDone s d).settle.parcel i).clearing = true := by
  obtain ⟨_, e⟩ := wakeDone_frame hw hh
  have hwf : UnitsWf (s.leaveWaking d) := h.of_units rfl
  rw [settle_net, settle_isAsleep (by rw [e]; exact powerOn_stacks _ hwf.hbm d), e]
  refine ⟨(isAsleep_of_units _ d rfl).trans (powerOn_awake _ hwf d), fun hx => ?_, ?_⟩
  · have hx : d ∈ (s.leaveWaking d).net.waking := powerOn_net (s.leaveWaking d) d ▸ hx
    simpa using (List.mem_filter.mp hx).2
  · rintro i rfl
    rw [State.parcel, settle_parcels]
    exact powerOn_clearing _ hwf.parcels i

end

theorem exec_domainWakeDone {s : State} {d : Domain} (hd : domainOk d = true) : exec (.domainWakeDone d) s = .next (wakeDone s d).settle := if_pos hd

-- drains of routers (R360, R366)

section
variable {s : State} {e : Entry} {w : Wait} {d : Domain} {router : Nat}

/-- A command that a worker takes up again stays on the ready lists. -/
theorem settle_ready {b : Bool} (h : s.hub.entries = [e]) (hr : e.state = .ready b) : s.settle.hub.entries = [e] := by
  have kept {t : State} (ht : t.hub.entries = [e]) : t.release.hub.entries = [e] := by
    have waits : ∀ x ∈ [e], ∀ r, x.state ≠ .done r := by simp [hr]
    rw [State.release, ht, releaseLoop_waiting waits]; rfl
  have hwait : e.wait? = none := by rw [Entry.wait?, hr]
  rcases settle_cases s with he | ⟨u, f, hhub, -, -, -, he⟩ <;> rw [he]
  · exact kept h
  · have hu : u.hub.entries = [e] := hhub ▸ kept h
    exact kept (by simp only [State.finishParked, State.setEntries, State.setHub, hu, List.map_cons, List.map_nil, hwait])

/-- A command that has failed answers, whatever the registers of the network hold by then. -/
theorem answered_of_net {u : State} {st detail : Nat} {net : Net} (hst : 0x8000 ≤ st) (hu : u = { s with net := net }) (e : Entry) :
    s.Answered (u.setEntries [{ e with state := .done (u.mkReply e.pkt st detail 0) }]).settle e.pkt.session st detail := by
  have h := settle_answered (s := u.setEntries [{ e with state := .done (u.mkReply e.pkt st detail 0) }]) rfl rfl
    (by rw [State.mkReply, okStatus_error u hst]; exact hst)
  rw [State.mkReply, okStatus_error u hst] at h ⊢
  subst hu
  exact h

theorem exec_routerReconfiguration (hr : router < 40) (drain : Nat) :
    exec (.routerReconfiguration router drain) s = .next (reconfigure s router drain).settle := if_pos hr

theorem exec_reconfigurationAbandon (hr : router < 40) :
    exec (.reconfigurationAbandon router) s = .next (abandonDrain s router (drainLimit + 1)).settle := if_pos hr

/-- A router that has drained in time: what drains at no other router is isolated (R360). -/
theorem reconfigure_drained {drain : Nat} (hd : drain ≤ 65536) : reconfigure s router drain
    = (s.tellDrained router).setNet { s.net with
        router := router, lastAband := false, drainMax := max s.net.drainMax drain
        draining := s.net.draining.filter fun x => decide (x.2 ≠ router)
        isolated := s.net.isolated ++ (s.drainsAt router).filter fun d =>
          !(s.net.draining.filter fun x => decide (x.2 ≠ router)).any fun x => decide (x.1 = d) } := by
  have hlate : ¬ drainLimit < drain := by simpa [drainLimit] using hd
  have hnote : s.noteDrain router drain
      = s.setNet { s.net with router := router, lastAband := false, drainMax := max s.net.drainMax drain } := by
    simp [State.noteDrain, hlate, show min drain 0x1FFFF = drain by omega]
  rw [reconfigure, if_neg hlate, hnote]
  rfl

/-- A command that waited for this router alone is taken up again. -/
theorem tellDrained_last (h : s.hub.entries = [e]) (hw : e.wait? = some (.drain [router])) :
    (s.tellDrained router).hub.entries = [{ e with state := .ready true }] := by
  simp [State.tellDrained, h, hw, State.setEntries, State.setHub]

theorem reconfigure_late : reconfigure s router 65537 = abandonDrain s router 65537 := if_pos (by decide)

/-- An abandoned power-down that no command asked for is tried again later. -/
theorem abandonDown_unasked (h : s.anyParked (fun w => w.wantsDown d) = false) :
    s.abandonDown d = s.setNet { (s.leaveDown d).net with retry := s.net.retry ++ [d] } := if_neg (ne_true_of_eq_false h)

/-- The command that asked for an abandoned power-down ends with ERR_BUSY_DRAIN. -/
theorem abandonDown_asked (h : s.hub.entries = [e]) (hw : e.wait? = some w) (hwant : w.wantsDown d = true) :
    s.abandonDown d = (s.leaveDown d).setEntries [{ e with state := .done ((s.leaveDown d).mkReply e.pkt errBusyDrain 0 0) }] := by
  refine (if_pos ((anyParked_one h hw _).trans hwant)).trans ?_
  exact finishParked_one (s := s.leaveDown d) h hw (if_pos hwant)

/-- What an abandoned power-down leaves: registers of the network and waits of commands, none of the units. -/
theorem abandonDown_frame (s : State) (d : Domain) :
    ∃ hub retry, s.abandonDown d = { s with hub := hub, net := { (s.leaveDown d).net with retry := retry } } := by
  unfold State.abandonDown
  dsimp only
  split <;> exact ⟨_, _, rfl⟩

/-- While a command waits for a drain, abandoned power-downs change registers of the network only. -/
theorem abandonDowns_drain {rs : List Nat} (h : s.hub.entries = [e]) (hw : e.wait? = some (.drain rs)) (ds : List Domain) :
    ∃ net, ds.foldl (fun t d => t.abandonDown d) s = { s with net := net } := by
  refine List.foldlRecOn (motive := fun t : State => ∃ net, t = { s with net := net }) ds _ ⟨_, rfl⟩ ?_
  rintro _ ⟨net, rfl⟩ d _
  refine ⟨_, abandonDown_unasked ?_⟩
  exact anyParked_one (s := { s with net := net }) h hw _

/-- A command that has ended ends once. -/
theorem finishParked_ended (s : State) (e : Entry) (r : Reply) (f : Entry → Wait → Option (Nat × Nat × Nat)) :
    (s.setEntries [{ e with state := .done r }]).finishParked f = s.setEntries [{ e with state := .done r }] := rfl

theorem finishParked_frame (s : State) (f : Entry → Wait → Option (Nat × Nat × Nat)) :
    ∃ hub, s.finishParked f = { s with hub := hub } := ⟨_, rfl⟩

/-- Commands that wait for the drain of a router end when it is abandoned (R360). -/
def drainEnds (router : Nat) (_ : Entry) (w : Wait) : Option (Nat × Nat × Nat) :=
  match w with
  | .drain rs => if rs.contains router then some (errBusyDrain, 0, 0) else none
  | _ => none

theorem abandonDrain_eq (s : State) (router drain : Nat) : abandonDrain s router drain
    = ((s.drainsAt router).foldl (fun t d => t.abandonDown d) (s.noteDrain router drain)).finishParked (drainEnds router) := rfl

/-- The command that waits for an abandoned drain answers ERR_BUSY_DRAIN (R360). -/
theorem abandonDrain_answers {rs : List Nat} (h : s.hub.entries = [e]) (hw : e.wait? = some (.drain rs)) (hr : router ∈ rs) (drain : Nat) :
    s.Answered (abandonDrain s router drain).settle e.pkt.session errBusyDrain 0 := by
  obtain ⟨net, hu⟩ := abandonDowns_drain (s := s.noteDrain router drain) h hw (s.drainsAt router)
  rw [abandonDrain_eq, hu, finishParked_one (s := { s.noteDrain router drain with net := net }) h hw (if_pos (List.contains_iff_mem.mpr hr))]
  exact answered_of_net (s := s) (by decide) rfl e

section
variable (hone : s.drainsAt router = [d])
include hone

theorem abandonDrain_one (drain : Nat) :
    abandonDrain s router drain = ((s.noteDrain router drain).abandonDown d).finishParked (drainEnds router) := by
  rw [abandonDrain_eq, hone]; rfl

/-- An abandoned drain of one domain: its power-down is over and is counted, and no unit changes. -/
theorem abandonDrain_settled (hw : mwf Stack.init s.hbmStacks = true) : let t := (abandonDrain s router 65537).settle
    d ∉ t.net.down ∧ t.net.abandoned = satAdd 16 s.net.abandoned 1 ∧ t.net.lastAband = true ∧ ∀ x, t.isAsleep x = s.isAsleep x := by
  dsimp only
  obtain ⟨hub, retry, e⟩ := abandonDown_frame (s.noteDrain router 65537) d
  have hab : ∃ hub, abandonDrain s router 65537 = { s with
      hub := hub, net := { ((s.noteDrain router 65537).leaveDown d).net with retry := retry } } := by
    rw [abandonDrain_one hone, e]; exact finishParked_frame _ _
  obtain ⟨hub, e⟩ := hab
  refine and_assoc.mp <| and_assoc.mp ⟨?_, fun x => (settle_isAsleep (by rw [e]; exact hw) x).trans (by rw [e]; exact isAsleep_of_units s x rfl)⟩
  rw [settle_net, e]
  exact ⟨⟨leaveDown_left _ d, rfl⟩, rfl⟩

theorem abandonDrain_retry (h : ∀ e ∈ s.hub.entries, ∀ w, e.wait? = some w → w.wantsDown d = false) :
    (abandonDrain s router 65537).settle.net.retry = s.net.retry ++ [d] := by
  have hnone : (s.noteDrain router 65537).anyParked (fun w => w.wantsDown d) = false := by
    refine List.any_eq_false.mpr fun e he => ?_
    cases hw : e.wait? with
    | none => simp
    | some w => simpa using h e he w hw
  rw [settle_net, abandonDrain_one hone, abandonDown_unasked hnone]
  rfl

theorem abandonDrain_asked (h : s.hub.entries = [e]) (hw : e.wait? = some w) (hwant : w.wantsDown d = true) :
    s.Answered (abandonDrain s router 65537).settle e.pkt.session errBusyDrain 0 := by
  rw [abandonDrain_one hone, abandonDown_asked (s := s.noteDrain router 65537) h hw hwant, finishParked_ended]
  exact answered_of_net (s := s) (by decide) rfl e

end

end

-- POWER_SET and the events of power domains

/-- Settles O54: POWER_SET, then each row of a domain, of a stack and of a router, clause by clause. -/
theorem powerDomains : Obligations.PowerDomains := by
  intro s hparcels hstacks hquads hengines hbridges
  have hwf : UnitsWf s := ⟨hparcels, hstacks, hquads, hengines, hbridges⟩
  refine ⟨?_, ?_, ?_, fun d hd hw hheld => ⟨_, exec_domainWakeDone hd, wakeDone_settled hwf hw hheld⟩, ?_⟩
  · intro p hsess hacc kind us hlocks
    refine ⟨fun hsleep hkeeps => ⟨fun hawake => ?_, fun hasleep => ?_⟩, fun hwake => ⟨fun hasleep => ?_, fun hawake => ?_⟩⟩ <;>
      rw [exec_powerSet hacc]
    · rw [powerSetOwn_sleep_awake hsess hlocks hsleep hkeeps (powerUnits_ne_nil hacc) hawake]
      exact ⟨_, rfl, fun i hi => startDowns_down (List.mem_map_of_mem hi) (hawake i hi)⟩
    · rw [powerSetOwn_sleep_asleep hsess hlocks hsleep hkeeps hasleep]; rfl
    · rw [powerSetOwn_wake_asleep hsess hlocks hwake (powerUnits_ne_nil hacc) hasleep]
      exact ⟨_, rfl, fun i hi => startWakes_wake (List.mem_map_of_mem hi) (hasleep i hi) (powerUnit_live s kind i) false⟩
    · rw [powerSetOwn_wake_awake hsess hlocks hwake hawake]; rfl
  · intro d hd ha hw starts
    refine ⟨fun hdown => ⟨fun early hi hstays hcalled hheld => ?_, fun hi hstays => ?_, fun early hcancel => ?_⟩,
      fun hdown hauto hfailed hstack => ?_, fun hretry hdown hauto => exec_powerDownRetry hd hretry ha hdown hauto⟩ <;>
      rw [exec_domainPowerDown hd]
    · rw [powerDown_under_way ha hw early hdown, if_neg (by simp [hstays, hi]), if_pos (by simp [hi])]
      exact ⟨_, rfl, completeDown_sleeps s hwf (packetWaits_false hcalled hheld)⟩
    · rw [powerDown_under_way ha hw false hdown, if_neg (by simp [hstays]), if_neg (by simp [hi])]
    · rw [powerDown_under_way ha hw early hdown, if_pos (by rcases hcancel with h | ⟨h, hi⟩ <;> simp [*])]
      obtain ⟨hawake, hleft, hcount, hbank⟩ := cancelDown_settled hstacks d
      exact ⟨_, rfl, hawake.trans ha, hleft, hcount, hbank⟩
    · rw [powerDown_begins ha hw false hdown hauto hfailed hstack]; rfl
  · intro k hk
    rw [exec_hbmSelfRefreshEntry hk]
    refine ⟨fun hkeep => by rw [enterRefresh_kept hkeep], fun ht h3 => by rw [enterRefresh_untrained ht h3],
      fun hkeep hw ha ht => ⟨fun hi hdown => ?_, fun hi hheld hcalled => ?_⟩⟩ <;> rw [enterRefresh_may hkeep hw ha ht]
    · rw [if_neg (by simpa using hi), startDown_awake (d := .stack k) ha hdown]; rfl
    · rw [if_pos (by simpa using hi)]
      exact ⟨_, rfl, completeDown_sleeps s hwf (packetWaits_false hcalled (by simp [hheld]))⟩
  · intro router hr
    refine ⟨fun drain hdrain => ⟨?_, fun e hone hwait => ?_⟩,
      fun e rs hone hwait hmem => ⟨_, exec_reconfigurationAbandon hr, abandonDrain_answers hone hwait hmem _⟩, fun d hone c hc => ?_⟩
    · rw [exec_routerReconfiguration hr, reconfigure_drained hdrain]
    · rw [exec_routerReconfiguration hr, reconfigure_drained hdrain]
      exact ⟨_, rfl, settle_ready (tellDrained_last hone hwait) rfl⟩
    · have hrow : exec c s = .next (abandonDrain s router 65537).settle := by
        rcases hc with rfl | rfl
        · exact exec_reconfigurationAbandon hr
        · rw [exec_routerReconfiguration hr, reconfigure_late]
      obtain ⟨hleft, hcount, hlast, hasleep⟩ := abandonDrain_settled hone hstacks
      exact ⟨_, hrow, hleft, hcount, hlast, hasleep, abandonDrain_retry hone, fun e w => abandonDrain_asked hone⟩

end Sys2Proof.Machine
end

-- ==== Parcels and pairs: owners, caps and sleep of parcels, woken parcels, and PAIR_SET, PAIR_RESPONSE and PAIR_DIVERGE_CLEAR ====
section
/-! PROOFS. A command over parcels is one loop: what its turn writes of a parcel is what the parcel reads as after the loop. Clusters that have
been cleared are clear whatever else changes (R229). The pairing mode reaches lanes, domains and bridges one after another (R242). -/
namespace Sys2Proof.Machine

-- clear clusters (R229)

/-- The stores, tables and slots of the clusters, and their banks. -/
def State.clusterStores (s : State) :=
  ((s.istore, s.values, s.cur, s.stg, s.pend, s.result, s.slots), s.ptable, s.busyMap, s.sendAct, s.sendShd, s.fences, s.bank, s.clusters)

theorem clusterClear_of_cleared {s t : State} {cs : List Nat} (h : t.clusterStores = (s.clearClusters cs).clusterStores) {c : Nat}
    (hc : c ∈ cs) : t.ClusterClear c := by
  simp only [State.clusterStores, Prod.mk.injEq] at h
  obtain ⟨⟨histore, hvalues, hcur, hstg, hpend, hresult, hslots⟩, hptable, hbusy, hact, hshd, hfences, hbank, hclusters⟩ := h
  rw [State.ClusterClear, histore, hvalues, hcur, hstg, hpend, hresult, hslots, hptable, hbusy, hact, hshd, hfences, State.cluster, hclusters]
  have drop {α : Type} {d : α} {per : Nat} (m : SMap α) (k : Nat) (hk : k / per = c) : mget d k (dropClusters cs per m) = d :=
    mget_dropClusters m hc hk
  refine ⟨fun k hk => ⟨drop _ k hk, drop _ k hk⟩, fun k hk => ⟨drop _ k hk, drop _ k hk, drop _ k hk⟩, fun k hk => drop _ k hk,
    fun k hk => drop _ k hk, fun k hk => ⟨drop _ k hk, drop _ k hk, drop _ k hk, drop _ k hk⟩, fun k hk => drop _ k hk,
    fun w hw => bankWord_of_dropped hbank hc hw, drop _ c (Nat.div_one c), fun hlive => ⟨fun bp e hbp => ?_, fun r => if_neg (by simp [hlive])⟩⟩
  have hdead : ¬ t.live (bpParcel bp) = true := by rw [bpParcel, bpCluster, hbp, hlive]; exact Bool.false_ne_true
  exact ⟨if_neg hdead, if_neg hdead, if_neg hdead⟩

-- loops over parcels

/-- A unit's fault record is clear after a loop whose turns clear the record of their own unit. -/
theorem forEach_clearsRec {f : Nat → State → State} (hf : ∀ i t, (f i t).faults.recs = mset none i none t.faults.recs)
    {ps : List Nat} {s : State} (h : mwf none s.faults.recs = true) {i : Nat} (hi : i ∈ ps) : (forEach ps f s).faultRec i = none := by
  have turn (t : State) (j i : Nat) (ht : mwf none t.faults.recs = true) :
      (f j t).faultRec i = if i = j then none else t.faultRec i := by
    rw [State.faultRec, hf, mget_mset ht]; rfl
  refine (foldl_reaches (P := fun t : State => mwf none t.faults.recs = true)
    (Q := fun i (t : State) => mwf none t.faults.recs = true ∧ t.faultRec i = none) ?_ ?_ ?_ h hi).2
  · intro t j ht
    rw [hf]
    exact mwf_mset ht
  · intro t j ht
    exact ⟨by rw [hf]; exact mwf_mset ht, by rw [turn t j j ht, if_pos rfl]⟩
  · rintro t j i ⟨ht, hr⟩
    exact ⟨by rw [hf]; exact mwf_mset ht, by rw [turn t j i ht, hr, ite_self]⟩

/-- After a loop whose turns update their own parcels, a parcel of the list is updated, once where the update is idempotent. -/
theorem forEach_updates {g : Parcel → Parcel} (hg : ∀ v, g (g v) = g v) {f : Nat → State → State}
    (hf : ∀ i t, (f i t).parcels = (t.updParcel i g).parcels) {ps : List Nat} {s : State} (h : mwf Parcel.init s.parcels = true) (i : Nat) :
    (forEach ps f s).parcel i = if i ∈ ps then g (s.parcel i) else s.parcel i := by
  induction ps generalizing s with
  | nil => simp
  | cons j ps ih =>
    have hj : (f j s).parcel i = if i = j then g (s.parcel i) else s.parcel i := by
      rw [State.parcel, hf, State.updParcel_eq]
      refine (State.parcel_setParcel s j i _ h).trans ?_
      split
      · next e => rw [e]
      · rfl
    rw [forEach_cons, ih (by rw [hf]; exact mwf_mset h), hj]
    by_cases hij : i = j
    · subst hij; simp [hg]
    · simp [hij]

-- PARCEL_ASSIGN (R219)

section
variable {p : Packet} {s : State} {ps : List Nat} {i : Nat}

/-- Parcels are called one after another, as PARCEL_ASSIGN does. -/
theorem callParcels (ps : List Nat) (s : State) :
    ps.foldl (fun t i => t.callDomain (.parcel i)) s = (ps.map Domain.parcel).foldl (fun t d => t.callDomain d true) s := by
  rw [List.foldl_map]

theorem exec_parcelAssign (h : Accepted 0x0C00 p s (parCheck p [(20, 4), (24, 1)] (s.maskFits (par p 20 4) && s.fnEnabled (par p 24 1)))
    (decide (par p 20 4 = 0))) : exec (.parcelAssign p) s = .next (conclude 0x0C00 p (parcelAssignOwn p s)) :=
  congrArg Host.Outcome.next (command_accepted h)

theorem parcelAssignOwn_free (hsess : p.session < 16) (hlive : ∀ i ∈ s.maskParcels (par p 20 4), s.failed i = false)
    (hfree : ∀ i ∈ s.maskParcels (par p 20 4), (s.parcel i).load = .unowned ∧ (s.parcel i).owned = false) : parcelAssignOwn p s = (
      let t := ((s.maskParcels (par p 20 4)).map Domain.parcel).foldl (fun t d => t.callDomain d true) s
      if (s.maskParcels (par p 20 4)).all t.ready then done (t.assign (s.maskParcels (par p 20 4)) (par p 24 1))
      else .park (.assign (par p 20 4) (par p 24 1)) t) := by
  have hfit : (s.maskParcels (par p 20 4)).any s.failed = false := List.any_eq_false.mpr fun i hi => ne_true_of_eq_false (hlive i hi)
  rw [parcelAssignOwn, checks_pass (by simpa [callerPf_of_lt hsess, hfit] using hfree), callParcels]

theorem assign_net (s : State) (ps : List Nat) (fn : Nat) : (s.assign ps fn).net = s.net := by
  refine forEach_proj State.net ?_ ps s
  exact fun _ _ => rfl

/-- An assigned parcel has its tag and is BLANK (R219). -/
theorem assign_parcel (h : mwf Parcel.init s.parcels = true) (hi : i ∈ ps) (fn : Nat) : ((s.assign ps fn).parcel i).owned = true
    ∧ ((s.assign ps fn).parcel i).group = fn ∧ ((s.assign ps fn).parcel i).load = .blank :=
  forEach_writesParcel (Q := fun v => v.owned = true ∧ v.group = fn ∧ v.load = .blank) (fun _ _ => ⟨_, ⟨rfl, rfl, rfl⟩, rfl⟩) h (.inl hi)

theorem assign_faultRec (h : mwf none s.faults.recs = true) (hi : i ∈ ps) (fn : Nat) : (s.assign ps fn).faultRec i = none :=
  forEach_clearsRec (fun _ _ => rfl) h hi

/-- Parcels that take packets take them after calls as well. -/
theorem called_ready {t : State} (h : Called s t) (hready : ∀ i ∈ ps, s.unready (.parcel i) = false) : ps.all t.ready = true :=
  List.all_eq_true.mpr fun i hi => by rw [State.ready, h.unready_false (hready i hi)]; rfl

theorem called_unready {t : State} (h : NoneReadier s t) (hi : i ∈ ps) (hunready : s.unready (.parcel i) = true) : ps.all t.ready = false :=
  List.all_eq_false.mpr ⟨i, hi, by simp [State.ready, h.unready hunready]⟩

theorem not_isolated_of_ready (h : s.unready (.parcel i) = false) : Domain.parcel i ∉ s.net.isolated := by
  simp only [State.unready, Bool.or_eq_false_iff] at h
  obtain ⟨⟨-, hi⟩, -⟩ := h
  simpa using hi

section
variable (hsess : p.session < 16) (hlive : ∀ i ∈ s.maskParcels (par p 20 4), s.failed i = false)
  (hfree : ∀ i ∈ s.maskParcels (par p 20 4), (s.parcel i).load = .unowned ∧ (s.parcel i).owned = false)
include hsess hlive hfree

theorem parcelAssignOwn_ready (h : ∀ i ∈ s.maskParcels (par p 20 4), s.unready (.parcel i) = false) : parcelAssignOwn p s
    = done ((((s.maskParcels (par p 20 4)).map Domain.parcel).foldl (fun t d => t.callDomain d true) s).assign
        (s.maskParcels (par p 20 4)) (par p 24 1)) := by
  rw [parcelAssignOwn_free hsess hlive hfree]
  exact if_pos (called_ready (.callDomains _ true) h)

theorem parcelAssignOwn_unready (h : ∃ i ∈ s.maskParcels (par p 20 4), s.unready (.parcel i) = true) : parcelAssignOwn p s
    = .park (.assign (par p 20 4) (par p 24 1)) (((s.maskParcels (par p 20 4)).map Domain.parcel).foldl (fun t d => t.callDomain d true) s) := by
  obtain ⟨i, hi, hunready⟩ := h
  have hcalled : NoneReadier s (((s.maskParcels (par p 20 4)).map Domain.parcel).foldl (fun t d => t.callDomain d true) s) :=
    List.foldlRecOn (motive := NoneReadier s) _ _ .refl fun t ht d _ => ht.trans (.callDomain d true)
  rw [parcelAssignOwn_free hsess hlive hfree]
  exact if_neg (ne_true_of_eq_false (called_unready hcalled hi hunready))

end

/-- Parcels that take packets are assigned, and power-downs of theirs end (R219, R363). -/
theorem assign_called (hw : mwf Parcel.init s.parcels = true) (hrecs : mwf none s.faults.recs = true)
    (hready : ∀ i ∈ ps, s.unready (.parcel i) = false) (fn : Nat) : let t := (ps.map Domain.parcel).foldl (fun t d => t.callDomain d true) s
    ∀ i ∈ ps, ((t.assign ps fn).parcel i).owned = true ∧ ((t.assign ps fn).parcel i).group = fn ∧ ((t.assign ps fn).parcel i).load = .blank
      ∧ (t.assign ps fn).faultRec i = none ∧ Domain.parcel i ∉ (t.assign ps fn).net.down := by
  intro t i hi
  have hcalled : Called s t := .callDomains _ true
  have hwt : mwf Parcel.init t.parcels = true := hcalled.parcels ▸ hw
  have hrt : mwf none t.faults.recs = true := by obtain ⟨_, _, e⟩ := hcalled.frame; rw [e]; exact hrecs
  obtain ⟨howned, hgroup, hload⟩ := assign_parcel hwt hi fn
  rw [assign_net]
  exact ⟨howned, hgroup, hload, assign_faultRec hrt hi fn,
    callDomains_leave true (List.mem_map_of_mem hi) (not_isolated_of_ready (hready i hi))⟩

end

-- PARCEL_CAP (R228)

section
variable {p : Packet} {s : State}

theorem exec_parcelCap (h : Accepted 0x0C02 p s
    (parCheck p [(20, 4), (24, 1), (26, 2)] (s.maskFits (par p 20 4) && capOk (par p 24 1) (par p 26 2))) (decide (par p 20 4 = 0))) :
    exec (.parcelCap p) s = .next (conclude 0x0C02 p (parcelCapOwn p s)) := congrArg Host.Outcome.next (command_accepted h)

/-- Parcels with a cap, each commit noted. -/
def State.capped (s : State) (ps : List Nat) (cls w : Nat) : State :=
  forEach ps (fun i t => State.noteCommit (t.updParcel i fun v => { v with capClass := cls, capW := w, stgClass := cls, stgW := w }) 0x10 i 0) s

theorem parcelCapOwn_fits (hsess : p.session < 16) (hlive : ∀ i ∈ s.maskParcels (par p 20 4), s.failed i = false)
    (hcls : ∀ i ∈ s.maskParcels (par p 20 4), s.loadedClass i ≤ par p 24 1) :
    parcelCapOwn p s = done (s.capped (s.maskParcels (par p 20 4)) (par p 24 1) (par p 26 2)) := by
  have hfit : (s.maskParcels (par p 20 4)).any s.failed = false := List.any_eq_false.mpr fun i hi => ne_true_of_eq_false (hlive i hi)
  have hclass : ((s.maskParcels (par p 20 4)).any fun i => decide (par p 24 1 < s.loadedClass i)) = false :=
    List.any_eq_false.mpr fun i hi => by simpa using hcls i hi
  rw [parcelCapOwn, checks_pass (by simp [callerPf_of_lt hsess, hfit, hclass])]
  rfl

theorem capped_frame (s : State) (ps : List Nat) (cls w : Nat) :
    ∃ parcels boot, s.capped ps cls w = { s with parcels := parcels, boot := boot } := by
  refine forEach_keep (P := fun t => ∃ parcels boot, t = { s with parcels := parcels, boot := boot }) ?_ ⟨s.parcels, s.boot, rfl⟩
  rintro i _ ⟨parcels, boot, rfl⟩
  exact ⟨_, _, rfl⟩

theorem capped_parcel (h : mwf Parcel.init s.parcels = true) (ps : List Nat) (cls w i : Nat) : (s.capped ps cls w).parcel i
    = if i ∈ ps then { s.parcel i with capClass := cls, capW := w, stgClass := cls, stgW := w } else s.parcel i := by
  refine forEach_updates (g := fun v => { v with capClass := cls, capW := w, stgClass := cls, stgW := w }) ?_ ?_ h i
  · exact fun _ => rfl
  · exact fun _ _ => rfl

end

-- PARCEL_RELEASE (R220)

section
variable {p : Packet} {s : State} {ps : List Nat} {i : Nat}

theorem exec_parcelRelease (h : Accepted 0x0C01 p s (parCheck p [(20, 4)] (s.maskFits (par p 20 4))) (decide (par p 20 4 = 0))) :
    exec (.parcelRelease p) s = .next (conclude 0x0C01 p (parcelReleaseOwn p s)) := congrArg Host.Outcome.next (command_accepted h)

/-- The parcels that a command may use are all the caller's, and none is out of use (R218). -/
theorem ownCheck_none {fn : Nat} (h : s.ownCheck fn ps = none) : ∀ i ∈ ps, s.unusable i = false ∧ s.ownerOf i = some fn := by
  intro i hi
  unfold State.ownCheck at h
  split at h
  · cases h
  · next hown =>
    split at h
    · cases h
    · next hfit =>
      have husable : s.unusable i = false := by simpa using List.any_eq_false.mp (Bool.eq_false_of_not_eq_true hfit) i hi
      have howner := List.any_eq_false.mp (Bool.eq_false_of_not_eq_true hown) i hi
      exact ⟨husable, by simpa [husable] using howner⟩

theorem not_blank_none (h : ∀ i ∈ ps, (s.parcel i).load = .blank) : (ps.any fun i => decide ((s.parcel i).load ≠ .blank)) = false :=
  List.any_eq_false.mpr fun i hi => by simp [h i hi]

/-- The last checks of a release and of a sleep. -/
theorem checks_blank {ok : Ans} (hlock : s.parcelLocked p.session ps = false) (h : ∀ i ∈ ps, (s.parcel i).load = .blank) :
    checks s [(s.parcelLocked p.session ps, errLock, 0), (ps.any fun i => decide ((s.parcel i).load ≠ .blank), errState, 0)] ok = ok := by
  rw [hlock, not_blank_none h]; rfl

/-- The owner releases BLANK parcels; the physical function may too. -/
theorem parcelReleaseOwn_blank (hown : s.ownCheck (p.session / 16) (s.maskParcels (par p 20 4)) = none)
    (hlock : s.parcelLocked p.session (s.maskParcels (par p 20 4)) = false)
    (hblank : ∀ i ∈ s.maskParcels (par p 20 4), (s.parcel i).load = .blank) :
    parcelReleaseOwn p s = done (s.disown (s.maskParcels (par p 20 4))) := by
  have howned : ((s.maskParcels (par p 20 4)).any fun i => !s.unusable i && (s.ownerOf i).isNone) = false :=
    List.any_eq_false.mpr fun i hi => by simp [(ownCheck_none hown i hi).2]
  have hfit : (s.maskParcels (par p 20 4)).any s.unusable = false :=
    List.any_eq_false.mpr fun i hi => ne_true_of_eq_false (ownCheck_none hown i hi).1
  unfold parcelReleaseOwn
  extract_lets ps refused
  have hmay : refused = none := by
    simp only [refused, ps, howned, hfit, show s.ownCheck (callerFn p) (s.maskParcels (par p 20 4)) = none from hown, Bool.false_eq_true,
      if_false, ite_self]
  rw [hmay]
  exact checks_blank hlock hblank

/-- What parcels hold: the stores of their clusters, their registers and the fault records. -/
def State.parcelPart (s : State) := (s.clusterStores, s.parcels, s.faults.recs)

/-- A pin binding that ends changes nothing of the parcels. -/
theorem unbindPin_parcelPart (s : State) (out : Bool) (k : Nat) : (s.unbindPin out k).parcelPart = s.parcelPart := by
  unfold State.unbindPin
  split
  · unfold State.setPin
    dsimp only
    split <;> rfl
  · rfl

theorem unbindPins_parcelPart (s : State) (c : Prop) [Decidable c] (out : Bool) (k : Nat) :
    (if c then s.unbindPin out k else s).parcelPart = s.parcelPart := by
  split
  · exact unbindPin_parcelPart s out k
  · rfl

theorem disown_parcelPart (s : State) (ps : List Nat) : (s.disown ps).parcelPart
    = (forEach ps (fun i t => (t.updParcel i fun v => { v with owned := false, group := 0, load := .unowned }).clearRec i)
        (s.clearClusters (clustersOf ps))).parcelPart := by
  unfold State.disown
  extract_lets t u hit
  refine forEach_proj State.parcelPart (fun k v => ?_) _ u
  exact (unbindPins_parcelPart _ _ false k).trans (unbindPins_parcelPart v _ true k)

/-- Parcels that are taken from their owner are UNOWNED and clear (R220, R419). -/
theorem disown_clears (hw : mwf Parcel.init s.parcels = true) (hrecs : mwf none s.faults.recs = true) (hi : i ∈ ps) :
    ((s.disown ps).parcel i).owned = false ∧ ((s.disown ps).parcel i).load = .unowned ∧ (s.disown ps).faultRec i = none
      ∧ ∀ k < 16, (s.disown ps).ClusterClear (clOf i k) := by
  have hpart := disown_parcelPart s ps
  simp only [State.parcelPart, Prod.mk.injEq] at hpart
  obtain ⟨hstores, hparcels, hfaults⟩ := hpart
  obtain ⟨howned, hload⟩ : ((s.disown ps).parcel i).owned = false ∧ ((s.disown ps).parcel i).load = .unowned := by
    rw [State.parcel, hparcels]
    exact forEach_writesParcel (Q := fun v => v.owned = false ∧ v.load = .unowned)
      (s := s.clearClusters (clustersOf ps)) (fun _ _ => ⟨_, ⟨rfl, rfl⟩, rfl⟩) hw (.inl hi)
  have hrec : (s.disown ps).faultRec i = none := by
    rw [State.faultRec, hfaults]
    exact forEach_clearsRec (s := s.clearClusters (clustersOf ps)) (fun _ _ => rfl) hrecs hi
  have hclear : (s.disown ps).clusterStores = (s.clearClusters (clustersOf ps)).clusterStores := by
    rw [hstores]
    refine forEach_proj State.clusterStores ?_ ps _
    exact fun _ _ => rfl
  exact ⟨howned, hload, hrec, fun k hk => clusterClear_of_cleared hclear (clOf_mem_clustersOf hi hk)⟩

-- PARCEL_SLEEP and PARCEL_AUTO_SLEEP (R229, R363)

theorem exec_parcelSleep (h : Accepted 0x0C03 p s (parCheck p [(20, 4)] (s.maskFits (par p 20 4))) (decide (par p 20 4 = 0))) :
    exec (.parcelSleep p) s = .next (conclude 0x0C03 p (parcelSleepOwn p s)) := congrArg Host.Outcome.next (command_accepted h)

/-- A mask that passes the checks selects a parcel. -/
theorem maskParcels_ne_nil {op : Nat} {bad : Option Nat} (h : Accepted op p s bad (decide (par p 20 4 = 0))) :
    s.maskParcels (par p 20 4) ≠ [] := by
  obtain ⟨-, -, -, -, hzero, -⟩ := h
  have hlist : maskList 32 (par p 20 4) ≠ [] := maskList_ne_nil (of_decide_eq_false hzero) (Nat.mod_lt _ (by decide))
  unfold State.maskParcels
  dsimp only
  split
  · exact List.append_ne_nil_of_left_ne_nil hlist _
  · exact hlist

section
variable (hown : s.ownCheck (p.session / 16) (s.maskParcels (par p 20 4)) = none)
  (hlock : s.parcelLocked p.session (s.maskParcels (par p 20 4)) = false)
  (hblank : ∀ i ∈ s.maskParcels (par p 20 4), (s.parcel i).load = .blank)
include hown hlock hblank

/-- A sleep acts on the parcels that are awake; where none is, it is done. -/
theorem parcelSleepOwn_blank : parcelSleepOwn p s = (
    let go := (s.maskParcels (par p 20 4)).filter fun i => !(s.parcel i).asleep
    if go = [] then done s 1 else .park (.sleep (listMask go) true) ((go.map Domain.parcel).foldl State.startDown s)) := by
  unfold parcelSleepOwn
  dsimp only
  rw [show s.ownCheck (callerFn p) (s.maskParcels (par p 20 4)) = none from hown, List.foldl_map]
  exact checks_blank hlock hblank

theorem parcelSleepOwn_awake (hne : s.maskParcels (par p 20 4) ≠ []) (hawake : ∀ i ∈ s.maskParcels (par p 20 4), (s.parcel i).asleep = false) :
    parcelSleepOwn p s = .park (.sleep (listMask (s.maskParcels (par p 20 4))) true)
      (((s.maskParcels (par p 20 4)).map Domain.parcel).foldl State.startDown s) := by
  rw [parcelSleepOwn_blank hown hlock hblank, List.filter_eq_self.mpr fun i hi => by simp [hawake i hi]]
  exact if_neg hne

theorem parcelSleepOwn_asleep (hasleep : ∀ i ∈ s.maskParcels (par p 20 4), (s.parcel i).asleep = true) : parcelSleepOwn p s = done s 1 := by
  rw [parcelSleepOwn_blank hown hlock hblank, List.filter_eq_nil_iff.mpr fun i hi => by simp [hasleep i hi]]
  exact if_pos rfl

end

theorem exec_parcelAutoSleep (hi : i < 32) (howned : (s.parcel i).owned = false) (hload : (s.parcel i).load = .unowned)
    (hclear : (s.parcel i).clearing = false) (hawake : (s.parcel i).asleep = false) (hwait : s.assignWaits i = false)
    (hdown : Domain.parcel i ∉ s.net.down) : exec (.parcelAutoSleep i) s = .next (s.setNet (s.net.starts (.parcel i))).settle := by
  have hauto : s.autoSleeps (.parcel i) = true := by simp [State.autoSleeps, howned, hload, hclear, hwait]
  refine (if_pos (decide_eq_true hi)).trans (congrArg (fun t : State => Host.Outcome.next t.settle) ?_)
  exact (if_pos hauto).trans (startDown_awake (d := .parcel i) hawake hdown)

end

-- PARCEL_CLEAR_DONE (R229)

section
variable {s : State} {i : Nat} {e : Entry} {w : Wait}

theorem exec_parcelClearDone (hi : i < 32) : exec (.parcelClearDone i) s = .next (clearDone s i).settle := if_pos hi

/-- A woken parcel whose stores are clear, and the commands that are told so. -/
def State.woken (s : State) (i : Nat) : State :=
  ((s.clearClusters (parcelClusters i)).updParcel i fun v => { v with clearing := false }).tellReady (.parcel i)

theorem clearDone_clearing (hc : (s.parcel i).clearing = true) : clearDone s i = State.endAssigns (s.woken i).hub.entries (s.woken i) :=
  if_neg (by simp [hc])

theorem clearDone_alone (hc : (s.parcel i).clearing = true) (h : s.hub.entries = []) : clearDone s i = s.woken i := by
  have hnone : (s.woken i).hub.entries = [] := List.map_eq_nil_iff.mpr h
  rw [clearDone_clearing hc, hnone]
  rfl

theorem woken_parcel (hw : mwf Parcel.init s.parcels = true) : (s.woken i).parcel i = { s.parcel i with clearing := false } :=
  State.parcel_setParcel_same (s.clearClusters (parcelClusters i)) i { s.parcel i with clearing := false } hw

/-- Settling leaves the clusters. -/
theorem settle_clusterStores (s : State) : s.settle.clusterStores = s.clusterStores := by
  obtain ⟨_, _, _, _, _, _, _, _, _, _, h⟩ := settle_replying s
  rw [h]; rfl

/-- A woken parcel that no command waits for is clear, and changes in no other way. -/
theorem woken_settled (hw : mwf Parcel.init s.parcels = true) : (s.woken i).settle.parcel i = { s.parcel i with clearing := false }
    ∧ ∀ k < 16, (s.woken i).settle.ClusterClear (clOf i k) := by
  refine ⟨?_, fun k hk => clusterClear_of_cleared (s := s) (cs := parcelClusters i) (t := (s.woken i).settle)
    ((settle_clusterStores (s.woken i)).trans rfl) ?_⟩
  · rw [State.parcel, settle_parcels]
    exact woken_parcel hw
  · exact List.mem_map_of_mem (List.mem_range.mpr hk)

/-- The one command of the ready lists ends. -/
theorem finishEntry_one (h : s.hub.entries = [e]) (st d r : Nat) :
    s.finishEntry e st d r = s.setEntries [{ e with state := .done (s.mkReply e.pkt st d r) }] := by
  rw [State.finishEntry, h]
  simp [updFirst]

section
variable {m fn : Nat} (h : s.hub.entries = [e]) (hw : e.wait? = some (.assign m fn))
include h hw

/-- A PARCEL_ASSIGN waits on while a parcel gets ready. -/
theorem woken_entries : (s.woken i).hub.entries = [e] := by
  have hkept : (s.woken i).hub.entries = s.hub.entries.map fun e => match e.wait? with
      | some (.domains ds) =>
        let left := ds.filter fun x => decide (x ≠ .parcel i)
        { e with state := if left = [] then .ready false else .parked (.domains left) }
      | _ => e := rfl
  rw [hkept, h, List.map_cons, List.map_nil, hw]

variable (hwf : mwf Parcel.init s.parcels = true) (hc : (s.parcel i).clearing = true) (howned : (s.parcel i).owned = false)
  (hawake : (s.parcel i).asleep = false) (hwaking : Domain.parcel i ∉ s.net.waking) (hisolated : Domain.parcel i ∉ s.net.isolated)
  (hone : s.maskParcels m = [i])
include hwf howned hawake hwaking hisolated hone hc

/-- The PARCEL_ASSIGN that waited for the woken parcel takes effect (R219, R229). -/
theorem clearDone_assigns : clearDone s i = ((s.woken i).assign [i] fn).setEntries
    [{ e with state := .done (((s.woken i).assign [i] fn).mkReply e.pkt 0 0 0) }] := by
  have hparcel := woken_parcel (i := i) hwf
  have hready : [i].all (s.woken i).ready = true := by
    have ha : (s.woken i).isAsleep (.parcel i) = false := by rw [State.isAsleep, hparcel]; exact hawake
    have hnet : (s.woken i).net = s.net := rfl
    simp [State.ready, State.unready, State.isWaking, ha, hparcel, hnet, hwaking, hisolated]
  have hfree : ([i].any fun i => ((s.woken i).parcel i).owned) = false := by simp [hparcel, howned]
  have hps : (s.woken i).maskParcels m = [i] := hone
  rw [clearDone_clearing hc, woken_entries h hw, State.endAssigns, hw]
  dsimp only
  rw [hps, if_neg (by simp [hready]), if_neg (by simpa [hparcel] using howned), State.endAssigns]
  exact finishEntry_one (s := (s.woken i).assign [i] fn) (woken_entries h hw) 0 0 0

/-- It has its tag, and the command answers. -/
theorem clearDone_assigned : let t := (clearDone s i).settle
    (t.parcel i).owned = true ∧ (t.parcel i).group = fn ∧ (t.parcel i).load = .blank ∧ s.Answered t e.pkt.session (s.okStatus 0) 0 := by
  intro t
  have hwoken : mwf Parcel.init (s.woken i).parcels = true := mwf_mset hwf
  obtain ⟨ht, hg, hl⟩ := assign_parcel hwoken (List.mem_singleton_self i) fn
  have heq : t = _ := congrArg State.settle (clearDone_assigns h hw hwf hc howned hawake hwaking hisolated hone)
  have hparcel : t.parcel i = ((s.woken i).assign [i] fn).parcel i := by
    rw [heq, State.parcel, settle_parcels]; rfl
  rw [hparcel]
  refine ⟨ht, hg, hl, ?_⟩
  rw [heq]
  have hreply := settle_replied (s := ((s.woken i).assign [i] fn).setEntries
    [{ e with state := .done (((s.woken i).assign [i] fn).mkReply e.pkt 0 0 0) }]) rfl rfl
  refine answered_from hreply rfl rfl rfl fun hmem => ?_
  simp only [State.memoriesWf, Bool.and_eq_true] at hmem ⊢
  obtain ⟨⟨hbank, hhbm⟩, hhost⟩ := hmem
  exact ⟨⟨memWf_filter hbank, hhbm⟩, hhost⟩

end

end

-- PAIR_SET (R242)

section
variable {p : Packet} {s : State}

theorem exec_pairSet (h : Accepted 0x0C10 p s (parCheck p [(20, 1)] (decide (par p 20 1 < 4))) false) :
    exec (.pairSet p) s = .next (conclude 0x0C10 p (pairSetOwn p s)) := congrArg Host.Outcome.next (command_accepted h)

/-- The pairing mode changes and is logged. -/
def State.pairChanged (s : State) (old mode : Nat) : State :=
  (s.setBoot { s.boot with pairMode := mode }).logHub 0x60 0 (configEvent 0 old mode)

theorem pairChanged_frame (s : State) (old mode : Nat) : ∃ log freeCtr, s.pairChanged old mode
    = { s with boot := { s.boot with pairMode := mode }, log := log, freeCtr := freeCtr } := ⟨_, _, logRaw_frame _ _ _ _ _ _⟩

theorem pairChanged_logs (h : s.log.queue.length < 64) (old mode : Nat) :
    ∃ r : LogRec, (s.pairChanged old mode).log.queue = s.log.queue ++ [r] ∧ r.kind = 0x60 := by
  obtain ⟨r, hq, hkind, -⟩ := (logRaw_queue (s.setBoot { s.boot with pairMode := mode }) 0x60 0 s.datum.now s.datum.epoch
    (configEvent 0 old mode)).1 h
  exact ⟨r, hq, hkind⟩

/-- A PAIR_SET whose checks pass waits for the drains it needs, and then the mode changes. -/
theorem pairSetOwn_free (hsess : p.session < 16) (hlock : ∀ q < 36, s.quadLocked p.session q = false)
    (hfree : ∀ i < 32, (s.parcel i).load = .unowned ∧ (s.parcel i).owned = false) (hnew : par p 20 1 ≠ s.boot.pairMode) : pairSetOwn p s
      = let old := s.boot.pairMode
        drained 0x0C10 p s (if s.paired = decide (2 ≤ par p 20 1) then [] else (eastReplicas.flatMap domainRouters).eraseDups) fun s =>
        let t := (s.pairChanged old (par p 20 1)).pairEntered s.paired
        if t.paired && eastReplicas.any t.unready then .park .pairWake t else done t := by
  have hlocks : ((List.range 36).any fun q => s.quadLocked p.session q) = false :=
    List.any_eq_false.mpr fun q hq => ne_true_of_eq_false (hlock q (List.mem_range.mp hq))
  have hparcels : ((List.range 32).any fun i => !s.failed i && (decide ((s.parcel i).load ≠ .unowned) || (s.parcel i).owned)) = false :=
    List.any_eq_false.mpr fun i hi => by simp [hfree i (List.mem_range.mp hi)]
  unfold pairSetOwn
  dsimp only
  rw [callerPf_of_lt hsess, hlocks, hparcels, decide_eq_false hnew]
  exact checks_pass (by simp)

/-- East's bridges are linked anew. -/
theorem relinks_frame (s : State) (bs : List Nat) : ∃ bridges faults,
    forEach bs (fun b t => t.relink b) s = { s with bridges := bridges, faults := faults } := by
  refine forEach_keep (P := fun t => ∃ bridges faults, t = { s with bridges := bridges, faults := faults }) ?_ ⟨s.bridges, s.faults, rfl⟩
  rintro b _ ⟨bridges, faults, rfl⟩
  obtain ⟨_, _, _, e | e⟩ := relink_frame { s with bridges := bridges, faults := faults } b
  · exact ⟨_, _, e⟩
  · exact ⟨_, _, e⟩

end

section
variable {s : State}

/-- While both modes leave East alone, only its bridges are linked anew. -/
theorem pairEntered_apart (h : s.paired = false) : s.pairEntered false = forEach [4, 5, 6, 7] (fun b t => t.relink b) s := by
  unfold State.pairEntered
  dsimp only
  rw [if_pos h, if_neg (ne_true_of_eq_false h)]

/-- East's lanes enter electrical idle, which ends their training and what their quads had to report. -/
def State.eastQuiet (s : State) : State :=
  State.endTrain (forEach ((List.range 18).map (18 + ·)) (fun q t => t.endDown q)
    (forEach State.pairEntered.eastLanes (fun l t => t.updLane l Lane.toIdle) s))

theorem endDowns_frame (s : State) (qs : List Nat) : ∃ faults, forEach qs (fun q t => t.endDown q) s = { s with faults := faults } := by
  refine forEach_keep (P := fun t => ∃ faults, t = { s with faults := faults }) ?_ ⟨s.faults, rfl⟩
  rintro q _ ⟨faults, rfl⟩
  exact endDown_frame { s with faults := faults } q

theorem eastQuiet_frame (s : State) : ∃ lanes hub faults,
    forEach State.pairEntered.eastLanes (fun l t => t.updLane l Lane.toIdle) s = { s with lanes := lanes }
      ∧ s.eastQuiet = { s with lanes := lanes, hub := hub, faults := faults } := by
  obtain ⟨lanes, hlanes⟩ := updLanes_frame s State.pairEntered.eastLanes Lane.toIdle
  obtain ⟨faults, hdown⟩ := endDowns_frame { s with lanes := lanes } ((List.range 18).map (18 + ·))
  obtain ⟨hub, htrain⟩ := endTrain_frame { s with lanes := lanes, faults := faults }
  refine ⟨lanes, hub, faults, hlanes, ?_⟩
  rw [State.eastQuiet, hlanes, hdown]
  exact htrain

theorem lane_updLanes {ls : List Nat} (hls : ls.Nodup) (h : mwf Lane.init s.lanes = true) (f : Lane → Lane) (l : Nat) :
    (forEach ls (fun l t => t.updLane l f) s).lane l = if l ∈ ls then f (s.lane l) else s.lane l :=
  lane_forEach_updLane hls Function.injective_id (fun _ => f) h l

theorem mem_eastLanes {l : Nat} : l ∈ State.pairEntered.eastLanes ↔ 72 ≤ l ∧ l < 144 := by
  rw [State.pairEntered.eastLanes, List.mem_map]
  constructor
  · rintro ⟨k, hk, rfl⟩
    have := List.mem_range.mp hk
    omega
  · exact fun ⟨h, h'⟩ => ⟨l - 72, List.mem_range.mpr (by omega), by omega⟩

theorem eastQuiet_lane (h : mwf Lane.init s.lanes = true) (l : Nat) :
    s.eastQuiet.lane l = if 72 ≤ l ∧ l < 144 then (s.lane l).toIdle else s.lane l := by
  have hnodup : State.pairEntered.eastLanes.Nodup := List.nodup_range.map (add_right_injective 72)
  obtain ⟨lanes, _, _, hlanes, e⟩ := eastQuiet_frame s
  have hlane := lane_updLanes hnodup h Lane.toIdle l
  rw [hlanes] at hlane
  rw [e, ← if_congr mem_eastLanes rfl rfl, ← hlane]
  rfl

/-- A mode that East works for makes its lanes quiet, calls its units and links its bridges anew (R242). -/
theorem pairEntered_joins (h : s.paired = true) : s.pairEntered false
    = forEach [4, 5, 6, 7] (fun b t => t.relink b) (eastReplicas.foldl (fun t d => t.callDomain d false) s.eastQuiet) := by
  have hquiet : s.eastQuiet.paired = true := by
    obtain ⟨_, _, _, -, e⟩ := eastQuiet_frame s
    rw [e]; exact h
  unfold State.pairEntered
  dsimp only
  rw [if_neg (show ¬ s.paired = false by simp [h]), if_pos h]
  change forEach _ _ (if s.eastQuiet.paired = true then _ else _) = _
  rw [if_pos hquiet, State.eastQuiet]

theorem toIdle_up {v : Lane} (hup : v.state = .up) (hfec : v.fec = 0) : v.toIdle = { v with ctrl := v.ctrl ++ [.sleep] } := by
  simp [Lane.toIdle, Lane.goIdle, hup, hfec]

theorem toIdle_quiet {v : Lane} (h : v.state = .training ∨ v.state = .down ∨ v.state = .test) :
    v.toIdle.state = (if v.stored then .idleTrained else .idleUntrained) ∧ v.toIdle.trainDue = false := by
  have hloud : ¬ (v.state = .off ∨ (v.state = .up ∧ v.fec = 0)) := by
    rcases h with h | h | h <;> simp [h]
  rw [Lane.toIdle, if_neg hloud]
  exact ⟨rfl, rfl⟩

/-- On entry to a mode that East works for, the lanes change first, then the domains are called, then the bridges are linked anew. -/
theorem pairEntered_frame (h : s.paired = true) (hlanes : mwf Lane.init s.lanes = true) : ∃ v u : State,
    (∃ lanes hub faults, v = { s with lanes := lanes, hub := hub, faults := faults })
    ∧ (∀ l, v.lane l = if 72 ≤ l ∧ l < 144 then (s.lane l).toIdle else s.lane l)
    ∧ Called v u
    ∧ (∀ q, .quad q ∈ eastReplicas → v.isAsleep (.quad q) = true → .quad q ∉ v.net.isolated → .quad q ∉ v.net.down →
        .quad q ∈ u.net.waking)
    ∧ (∀ q, .quad q ∈ eastReplicas → .quad q ∉ v.net.isolated → .quad q ∉ u.net.down)
    ∧ ∃ bridges faults, s.pairEntered false = { u with bridges := bridges, faults := faults } := by
  obtain ⟨lanes, hub, faults, -, hquiet⟩ := eastQuiet_frame s
  obtain ⟨bridges, faults', e⟩ := relinks_frame (eastReplicas.foldl (fun t d => t.callDomain d false) s.eastQuiet) [4, 5, 6, 7]
  exact ⟨s.eastQuiet, _, ⟨lanes, hub, faults, hquiet⟩, eastQuiet_lane hlanes, .callDomains eastReplicas false,
    fun q hq ha hi hd => callDomains_wake false hq ha (fun i e => nomatch e) hi hd,
    fun q hq hi => callDomains_leave false hq hi, bridges, faults', (pairEntered_joins h).trans e⟩

/-- A mode that East works for wakes its sleeping units, ends their power-downs and makes its lanes quiet (R242). -/
theorem pairEntered_joined (h : s.paired = true) (hlanes : mwf Lane.init s.lanes = true) :
    (s.pairEntered false).boot = s.boot
    ∧ (∀ q, .quad q ∈ eastReplicas → (s.quad q).awake = false → .quad q ∉ s.net.isolated → .quad q ∉ s.net.down →
        .quad q ∈ (s.pairEntered false).net.waking)
    ∧ (∀ q, .quad q ∈ eastReplicas → .quad q ∉ s.net.isolated → .quad q ∉ (s.pairEntered false).net.down)
    ∧ ∀ l, (s.pairEntered false).lane l = if 72 ≤ l ∧ l < 144 then (s.lane l).toIdle else s.lane l := by
  obtain ⟨v, u, ⟨_, _, _, hv⟩, hlane, hcalled, hwake, hleave, _, _, e⟩ := pairEntered_frame h hlanes
  obtain ⟨_, _, hu⟩ := hcalled.frame
  have hasleep (q : Nat) : v.isAsleep (.quad q) = s.isAsleep (.quad q) := by rw [hv]; rfl
  have hnet : v.net = s.net := by rw [hv]
  rw [hnet] at hwake hleave
  rw [e]
  refine ⟨by rw [hu, hv], fun q hq ha => hwake q hq ((hasleep q).trans (congrArg not ha)), hleave, fun l => ?_⟩
  rw [← hlane l, hu]
  rfl

theorem quad_mem_eastReplicas {q : Nat} (h : 18 ≤ q) (h' : q < 36) : Domain.quad q ∈ eastReplicas :=
  List.mem_append_left _ (List.mem_map.mpr ⟨q - 18, List.mem_range.mpr (by omega), by rw [Nat.add_sub_cancel' h]⟩)

end

section
variable {p : Packet} {s : State} {mode : Nat}

/-- A change between two modes that leave East alone is noted and links East's bridges anew. -/
theorem pairChanged_apart_frame (hmode : mode < 2) (old : Nat) : ∃ log bridges faults freeCtr, (s.pairChanged old mode).pairEntered false
      = { s with boot := { s.boot with pairMode := mode }, log := log, bridges := bridges, faults := faults, freeCtr := freeCtr }
    ∧ log = (s.pairChanged old mode).log := by
  obtain ⟨log, freeCtr, e⟩ := pairChanged_frame s old mode
  have hapart : (s.pairChanged old mode).paired = false := by
    rw [e]; exact decide_eq_false (Nat.not_le.mpr hmode)
  obtain ⟨bridges, faults, hlinks⟩ := relinks_frame (s.pairChanged old mode) [4, 5, 6, 7]
  refine ⟨log, bridges, faults, freeCtr, ?_, by rw [e]⟩
  rw [pairEntered_apart hapart, hlinks, e]

/-- A change to a mode that East works for. -/
theorem pairChanged_joined (hmode : 2 ≤ mode) (old : Nat) (hlanes : mwf Lane.init s.lanes = true) :
    let t := (s.pairChanged old mode).pairEntered false
    t.boot = { s.boot with pairMode := mode }
      ∧ (∀ q, .quad q ∈ eastReplicas → (s.quad q).awake = false → .quad q ∉ s.net.isolated → .quad q ∉ s.net.down →
          .quad q ∈ t.net.waking)
      ∧ (∀ q, .quad q ∈ eastReplicas → .quad q ∉ s.net.isolated → .quad q ∉ t.net.down)
      ∧ ∀ l, t.lane l = if 72 ≤ l ∧ l < 144 then (s.lane l).toIdle else s.lane l := by
  obtain ⟨log, freeCtr, e⟩ := pairChanged_frame s old mode
  rw [e]
  exact pairEntered_joined (decide_eq_true hmode) hlanes

section
variable (hsess : p.session < 16) (hlock : ∀ q < 36, s.quadLocked p.session q = false)
  (hfree : ∀ i < 32, (s.parcel i).load = .unowned ∧ (s.parcel i).owned = false) (hold : s.boot.pairMode < 2)
  (hnew : par p 20 1 ≠ s.boot.pairMode)
include hsess hlock hfree hold hnew

theorem pairSetOwn_apart (hmode : par p 20 1 < 2) :
    pairSetOwn p s = done ((s.pairChanged s.boot.pairMode (par p 20 1)).pairEntered false) := by
  have hwas : s.paired = false := decide_eq_false (Nat.not_le.mpr hold)
  obtain ⟨_, _, _, _, e, -⟩ := pairChanged_apart_frame (s := s) hmode s.boot.pairMode
  have hapart : ((s.pairChanged s.boot.pairMode (par p 20 1)).pairEntered false).paired = false := by
    rw [e]; exact decide_eq_false (Nat.not_le.mpr hmode)
  rw [pairSetOwn_free hsess hlock hfree hnew, if_pos (hwas.trans (decide_eq_false (Nat.not_le.mpr hmode)).symm)]
  refine (if_pos (.inl rfl)).trans ?_
  dsimp only
  rw [hwas, hapart]
  rfl

variable (hmode : 2 ≤ par p 20 1)
include hmode

/-- To join the sheets waits for the drain of East's routers (R360). -/
theorem pairSetOwn_waits (h : s.hasDrained 0x0C10 p = false) :
    pairSetOwn p s = .park (.drain ((eastReplicas.flatMap domainRouters).eraseDups)) s := by
  have hwas : s.paired = false := decide_eq_false (Nat.not_le.mpr hold)
  have hsome : (eastReplicas.flatMap domainRouters).eraseDups ≠ [] := by decide
  rw [pairSetOwn_free hsess hlock hfree hnew, if_neg (by simp [hwas, hmode])]
  exact if_neg (by simp [hsome, h])

theorem pairSetOwn_joins (h : s.hasDrained 0x0C10 p = true) (hlanes : mwf Lane.init s.lanes = true) : pairSetOwn p s = (
    let t := (s.pairChanged s.boot.pairMode (par p 20 1)).pairEntered false
    if eastReplicas.any t.unready = true then .park .pairWake t else done t) := by
  have hwas : s.paired = false := decide_eq_false (Nat.not_le.mpr hold)
  obtain ⟨hboot, -⟩ := pairChanged_joined hmode s.boot.pairMode hlanes
  have hjoined : ((s.pairChanged s.boot.pairMode (par p 20 1)).pairEntered false).paired = true := by
    rw [State.paired, hboot]; exact decide_eq_true hmode
  rw [pairSetOwn_free hsess hlock hfree hnew]
  refine (if_pos (.inr h)).trans ?_
  dsimp only
  rw [hwas, hjoined, Bool.true_and]

end

-- PAIR_RESPONSE and PAIR_DIVERGE_CLEAR (R250, R253)

theorem exec_pairResponse (h : Accepted 0x0C12 p s (parCheck p [(20, 4), (24, 1)] (decide (par p 24 1 < 2))) (decide (par p 20 4 = 0))) :
    exec (.pairResponse p) s = .next (conclude 0x0C12 p (pairResponseOwn p s)) := congrArg Host.Outcome.next (command_accepted h)

theorem exec_pairDivergeClear (h : Accepted 0x0C11 p s (parCheck p [(20, 4)] true) (decide (par p 20 4 = 0))) :
    exec (.pairDivergeClear p) s = .next (conclude 0x0C11 p (pairDivergeClearOwn p s)) := congrArg Host.Outcome.next (command_accepted h)

theorem pairResponseOwn_owned {g : Nat} (h : pairGroup p s [2] = .ok g) : pairResponseOwn p s = done (s.setGroup g { s.group g with
    response := par p 24 1, divHeld := (s.group g).divHeld && decide (par p 24 1 = 0) }) := by
  rw [pairResponseOwn, h]; rfl

theorem pairDivergeClearOwn_same {g : Nat} (h : pairGroup p s [2, 3] = .ok g) (hd : (s.group g).diverged = false) :
    pairDivergeClearOwn p s = fail s okAlready := by
  rw [pairDivergeClearOwn, h]; exact if_pos hd

theorem pairDivergeClearOwn_diverged {g : Nat} (h : pairGroup p s [2, 3] = .ok g) (hd : (s.group g).diverged = true) :
    pairDivergeClearOwn p s = done ((s.setGroup g { s.group g with
      diverged := false, divHeld := false, firstCl := 0, firstEnt := 0, divCycle := 0, westSig := 0, eastSig := 0, divN := 0
      sigHold := decide ((s.group g).state = .running), sigDue := false }).endEpisode (clParcel (s.group g).firstCl) 0x1010) := by
  rw [pairDivergeClearOwn, h]; exact if_neg (by simp [hd])

end

-- parcels and pairs

/-- Settles O53: the commands and the events of parcels, then those of sheet pairing, clause by clause. -/
theorem parcelsAndPairs : Obligations.ParcelsAndPairs := by
  intro s hw
  refine ⟨?_, ?_, ?_⟩
  · intro p m ps blank
    refine ⟨fun hsess hlive => ⟨fun hacc hfree => ?_, fun hacc hcls => ?_⟩, fun hown hlock hblank => ⟨fun hacc _ hrecs => ?_,
      fun hacc => ⟨fun hawake => ?_, fun hasleep => ?_⟩⟩⟩
    · rw [exec_parcelAssign hacc]
      refine ⟨fun hready => ?_, fun hunready => ?_⟩
      · rw [parcelAssignOwn_ready hsess hlive hfree hready]
        refine ⟨fun hdown => ?_, fun hrecs => ⟨_, rfl, assign_called hw hrecs hready _⟩⟩
        rw [callDomains_ready (List.forall_mem_map.mpr fun i hi => ⟨hready i hi, by simpa [State.isDown] using hdown i hi⟩)]
        rfl
      · rw [parcelAssignOwn_unready hsess hlive hfree hunready]
        refine ⟨_, rfl, (Called.callDomains _ true).parcels, fun i hi ha hisolated hdown => ?_⟩
        refine callDomains_wake true (List.mem_map_of_mem hi) ha (fun j e => ?_) hisolated hdown
        rw [← Domain.parcel.inj e]
        exact hlive i hi
    · rw [exec_parcelCap hacc, parcelCapOwn_fits hsess hlive hcls]
      obtain ⟨_, _, e⟩ := capped_frame s ps (par p 24 1) (par p 26 2)
      refine ⟨_, rfl, ?_, fun i hi => (capped_parcel hw ps _ _ i).trans (if_pos hi), fun i hi => (capped_parcel hw ps _ _ i).trans (if_neg hi)⟩
      rw [e]
    · rw [exec_parcelRelease hacc, parcelReleaseOwn_blank hown hlock hblank]
      exact ⟨_, rfl, fun i hi => disown_clears hw hrecs hi⟩
    · rw [exec_parcelSleep hacc, parcelSleepOwn_awake hown hlock hblank (maskParcels_ne_nil hacc) hawake]
      refine ⟨_, rfl, ?_, fun i hi => startDowns_down (List.mem_map_of_mem hi) (hawake i hi)⟩
      obtain ⟨_, e⟩ := startDowns_frame (ps.map Domain.parcel) s
      rw [e]
    · rw [exec_parcelSleep hacc, parcelSleepOwn_asleep hown hlock hblank hasleep]; rfl
  · intro i hi
    rw [exec_parcelClearDone hi]
    refine ⟨exec_parcelAutoSleep hi, fun hc _ hnone => ?_, fun e m fn hc howned hawake hwaking hisolated hone hwait hps =>
      ⟨_, rfl, clearDone_assigned hone hwait hw hc howned hawake hwaking hisolated hps⟩⟩
    rw [clearDone_alone hc hnone]
    exact ⟨_, rfl, woken_settled hw⟩
  · intro p
    refine ⟨fun hacc hsess hlock hfree hold hnew => ?_, fun g hacc hg => ?_, fun g hacc hg => ?_⟩
    · rw [exec_pairSet hacc]
      refine ⟨fun hmode => ?_, fun hmode hdrained => ?_, fun hmode hdrained hlanes _ => ?_⟩
      · rw [pairSetOwn_apart hsess hlock hfree hold hnew hmode]
        obtain ⟨log, _, _, _, e, hlog⟩ := pairChanged_apart_frame (s := s) hmode s.boot.pairMode
        refine ⟨_, rfl, by rw [e], fun hroom => ?_⟩
        rw [e, hlog]
        exact pairChanged_logs hroom _ _
      · rw [pairSetOwn_waits hsess hlock hfree hold hnew hmode hdrained]
      · rw [pairSetOwn_joins hsess hlock hfree hold hnew hmode hdrained hlanes]
        obtain ⟨hboot, hwake, hleave, hlane⟩ := pairChanged_joined hmode s.boot.pairMode hlanes
        refine ⟨_, rfl, hboot, fun q h h' => hwake q (quad_mem_eastReplicas h h'), fun q h h' => hleave q (quad_mem_eastReplicas h h'),
          fun l h h' hup hfec => ?_, fun l h h' hstate => ?_, fun l h => ?_⟩
        · rw [hlane, if_pos ⟨h, h'⟩, toIdle_up hup hfec]
        · rw [hlane, if_pos ⟨h, h'⟩]
          exact toIdle_quiet hstate
        · rw [hlane, if_neg (by omega)]
    · rw [exec_pairResponse hacc, pairResponseOwn_owned hg]
    · rw [exec_pairDivergeClear hacc]
      exact ⟨fun hd => by rw [pairDivergeClearOwn_same hg hd]; rfl, fun hd => by rw [pairDivergeClearOwn_diverged hg hd]⟩

end Sys2Proof.Machine
end
